-- ==== Sys2Proof/Word.lean ====
section
/-! DEFINITION. The machine's words and its plain containers: 64-bit words (01 R16), bytes (00 R6), and the sparse table,
a list of (key, value) pairs with strictly rising keys that never lists a key at its default value. -/

namespace Sys2Proof

/-- A scalar register's 64 bits (01 R16). -/
abbrev Word := BitVec 64

/-- A byte of memory (00 R6). -/
abbrev Byte := BitVec 8

/-- A sparse table: key and value pairs in rising key order; a key that is not listed has the table's default value. -/
abbrev Table (β : Type) := List (Nat × β)

/-- Byte memory: a sparse table of bytes whose unlisted addresses read as zero. -/
abbrev Memory := List Host.Cell

end Sys2Proof
end

