-- ==== Sys2Proof/Syntax.lean ====
section
/-! DEFINITION. The instruction set and the device's events as data: one constructor for each row of the opcode
table (02 R35-R45, 95_what_each_step_holds). A word's constructor holds its common header (R35) and the fields its
own format names (R37, R38), each at its encoded width; an event's constructor holds what the event acts on. -/

namespace Sys2Proof

/-- The common header's K fields (02 R35, R36): the token distances of bits [28:27] (push) and [26:25] (pop). -/
structure Hdr where
  push : BitVec 2
  pop : BitVec 2
  deriving DecidableEq, Repr, Inhabited

/-- The engines of a core (02 R35, field E); hint words have no engine. -/
inductive Engine
  | x | l | m | v | q | w | y
  deriving DecidableEq, Repr, Inhabited

/-- What a memory read or scrub meets in a line (10 R224, 18 R349). -/
inductive MemErr
  | none | correctable | uncorrectable
  deriving DecidableEq, Repr, Inhabited

/-- The AtomicOps a host port completes (22 R404). -/
inductive HostOp
  | fetchAdd | swap | cas
  deriving DecidableEq, Repr, Inhabited

/-- What one stream-link beat brings (22 R410): a tree token with the cycle in which its serialisation began (R414), a message flit for a
core with its sender's core, launch and node, the notice that such a flit has been accepted (10 R217, R219), a write, read or atomic of a
peer to a physical address of this package, the response to one of this package's requests, or a weave-port beat. -/
inductive LinkItem
  | token (slot kind began : Nat) (data : List (BitVec 64))
  | message (core : Nat) (payload : BitVec 64) (tag : BitVec 16) (src launch node : Nat) (mcast : Bool)
  | accepted (src launch node : Nat) (mcast : Bool)
  | write (pa : Nat) (data : List (BitVec 8))
  | read (pa n : Nat)
  | atomic (pa size op : Nat) (x cmp : BitVec 64)
  | response (req : Nat) (ok : Bool) (data : List (BitVec 8))
  | credit (n : Nat)
  | stream (rg lane : Nat) (data : BitVec 512) (flag : Bool)
  deriving DecidableEq, Repr, Inhabited

/-- What package reset finds (26 R443, R444): the step that fails for a reason outside the package, if any (0 for none), the rollback
counter of the fuses, the fixed delay each link trains to, the boot image's two copies in flash, and the copies that reach dies 1 to 7. -/
structure Boot where
  failed : Nat
  rollback : BitVec 32
  linkDelay : BitVec 11
  image : List (BitVec 8)
  second : List (BitVec 8)
  copies : List (List (BitVec 8))
  deriving DecidableEq, Repr, Inhabited

/-- The three moments of a stack reset (18 R350). -/
inductive ResetPhase
  | start | restored | lost
  deriving DecidableEq, Repr, Inhabited

/-- One constructor for each row of the opcode table. -/
inductive Instr
  /-- ADDI (R62): Adds a sign-extended 10-bit immediate to sA and writes the sum to sD. -/
  | addi (h : Hdr) (d : BitVec 5) (a : BitVec 5) (i : BitVec 10)
  /-- ANDI (R62): Bitwise AND of sA with a sign-extended immediate, written to sD. -/
  | andi (h : Hdr) (d : BitVec 5) (a : BitVec 5) (i : BitVec 10)
  /-- ORI (R62): Bitwise OR of sA with a sign-extended immediate, written to sD. -/
  | ori (h : Hdr) (d : BitVec 5) (a : BitVec 5) (i : BitVec 10)
  /-- XORI (R62): Bitwise exclusive OR of sA with a sign-extended immediate, written to sD. -/
  | xori (h : Hdr) (d : BitVec 5) (a : BitVec 5) (i : BitVec 10)
  /-- SLLI (R62): Shifts sA left by an immediate of 0-63 with zero fill. -/
  | slli (h : Hdr) (d : BitVec 5) (a : BitVec 5) (i : BitVec 10)
  /-- SRLI (R62): Shifts sA right by an immediate of 0-63 with zero fill. -/
  | srli (h : Hdr) (d : BitVec 5) (a : BitVec 5) (i : BitVec 10)
  /-- SRAI (R62): Shifts sA right by an immediate of 0-63 with sign fill. -/
  | srai (h : Hdr) (d : BitVec 5) (a : BitVec 5) (i : BitVec 10)
  /-- SLTI (R62): Writes 1 if sA is below the immediate as signed values, else 0. -/
  | slti (h : Hdr) (d : BitVec 5) (a : BitVec 5) (i : BitVec 10)
  /-- SLTIU (R62): Writes 1 if sA is below the sign-extended immediate as unsigned values, else 0. -/
  | sltiu (h : Hdr) (d : BitVec 5) (a : BitVec 5) (i : BitVec 10)
  /-- LDX_D (R64): Loads 8 bytes from the core's scratchpad into sD. -/
  | ldxD (h : Hdr) (d : BitVec 5) (a : BitVec 5) (i : BitVec 10)
  /-- LDX_W (R64): Loads 4 bytes from scratch, sign-extended, into sD. -/
  | ldxW (h : Hdr) (d : BitVec 5) (a : BitVec 5) (i : BitVec 10)
  /-- STX_D (R64): Stores the 8 bytes of sD to scratch. -/
  | stxD (h : Hdr) (d : BitVec 5) (a : BitVec 5) (i : BitVec 10)
  /-- STX_W (R64): Stores bits [31:0] of sD to scratch. -/
  | stxW (h : Hdr) (d : BitVec 5) (a : BitVec 5) (i : BitVec 10)
  /-- CSRR (R81): Reads a CSR into sD. -/
  | csrr (h : Hdr) (d : BitVec 5) (i : BitVec 10)
  /-- CSRW (R81): Writes sA to a CSR, with the effect taking place at retirement. -/
  | csrw (h : Hdr) (a : BitVec 5) (i : BitVec 10)
  /-- CSRX (R81): Returns the old CSR value in sD and writes sA to the CSR as one step. -/
  | csrx (h : Hdr) (d : BitVec 5) (a : BitVec 5) (i : BitVec 10)
  /-- LI (R63): Sets sD to a sign-extended 15-bit immediate. -/
  | li (h : Hdr) (d : BitVec 5) (i : BitVec 15)
  /-- LSH (R63): Shifts sD left by 15 bits and ORs in a 15-bit immediate. -/
  | lsh (h : Hdr) (d : BitVec 5) (i : BitVec 15)
  /-- AUIPC (R63): Sets sD to the section-relative PC plus four times the immediate. -/
  | auipc (h : Hdr) (d : BitVec 5) (i : BitVec 15)
  /-- SETLC (R63): Sets the loop count lc to a zero-extended immediate. -/
  | setlc (h : Hdr) (i : BitVec 15)
  /-- BEQZ (R70): Branches by a word offset when sA is zero. -/
  | beqz (h : Hdr) (a : BitVec 5) (f : BitVec 15)
  /-- BNEZ (R70): Branches by a word offset when sA is not zero. -/
  | bnez (h : Hdr) (a : BitVec 5) (f : BitVec 15)
  /-- BCQ (R71): Pops one cq entry and branches if it is 1. -/
  | bcq (h : Hdr) (f : BitVec 15)
  /-- BNCQ (R71): Pops one cq entry and branches if it is 0. -/
  | bncq (h : Hdr) (f : BitVec 15)
  /-- BLC (R71): Decrements a nonzero lc and branches while the new lc is nonzero. -/
  | blc (h : Hdr) (f : BitVec 15)
  /-- JAL (R72): Writes PC + 4 to sD and jumps by a word offset. -/
  | jal (h : Hdr) (d : BitVec 5) (f : BitVec 15)
  /-- ADD (R66): Writes sA + sB to sD. -/
  | add (h : Hdr) (d : BitVec 5) (a : BitVec 5) (b : BitVec 5)
  /-- SUB (R66): Writes sA - sB to sD. -/
  | sub (h : Hdr) (d : BitVec 5) (a : BitVec 5) (b : BitVec 5)
  /-- AND (R66): Writes the bitwise AND of sA and sB to sD. -/
  | and (h : Hdr) (d : BitVec 5) (a : BitVec 5) (b : BitVec 5)
  /-- OR (R66): Writes the bitwise OR of sA and sB to sD. -/
  | or (h : Hdr) (d : BitVec 5) (a : BitVec 5) (b : BitVec 5)
  /-- XOR (R66): Writes the bitwise exclusive OR of sA and sB to sD. -/
  | xor (h : Hdr) (d : BitVec 5) (a : BitVec 5) (b : BitVec 5)
  /-- SLL (R66): Shifts sA left by sB bits [5:0]. -/
  | sll (h : Hdr) (d : BitVec 5) (a : BitVec 5) (b : BitVec 5)
  /-- SRL (R66): Shifts sA right with zero fill by sB bits [5:0]. -/
  | srl (h : Hdr) (d : BitVec 5) (a : BitVec 5) (b : BitVec 5)
  /-- SRA (R66): Shifts sA right with sign fill by sB bits [5:0]. -/
  | sra (h : Hdr) (d : BitVec 5) (a : BitVec 5) (b : BitVec 5)
  /-- SLT (R66): Writes 1 if sA is below sB as signed values, else 0. -/
  | slt (h : Hdr) (d : BitVec 5) (a : BitVec 5) (b : BitVec 5)
  /-- SLTU (R66): Writes 1 if sA is below sB as unsigned values, else 0. -/
  | sltu (h : Hdr) (d : BitVec 5) (a : BitVec 5) (b : BitVec 5)
  /-- MIN (R66): Writes the signed minimum of sA and sB. -/
  | min (h : Hdr) (d : BitVec 5) (a : BitVec 5) (b : BitVec 5)
  /-- MAX (R66): Writes the signed maximum of sA and sB. -/
  | max (h : Hdr) (d : BitVec 5) (a : BitVec 5) (b : BitVec 5)
  /-- MINU (R66): Writes the unsigned minimum of sA and sB. -/
  | minu (h : Hdr) (d : BitVec 5) (a : BitVec 5) (b : BitVec 5)
  /-- MAXU (R66): Writes the unsigned maximum of sA and sB. -/
  | maxu (h : Hdr) (d : BitVec 5) (a : BitVec 5) (b : BitVec 5)
  /-- MUL (R66): Writes the low 64 bits of sA times sB. -/
  | mul (h : Hdr) (d : BitVec 5) (a : BitVec 5) (b : BitVec 5)
  /-- MULH (R66): Writes the high 64 bits of the signed 128-bit product. -/
  | mulh (h : Hdr) (d : BitVec 5) (a : BitVec 5) (b : BitVec 5)
  /-- MULHU (R66): Writes the high 64 bits of the unsigned 128-bit product. -/
  | mulhu (h : Hdr) (d : BitVec 5) (a : BitVec 5) (b : BitVec 5)
  /-- DIV (R67): Writes the signed quotient of sA by sB, rounded toward zero, with the defined divide-by-zero and overflow cases. -/
  | div (h : Hdr) (d : BitVec 5) (a : BitVec 5) (b : BitVec 5)
  /-- DIVU (R67): Writes the unsigned quotient of sA by sB. -/
  | divu (h : Hdr) (d : BitVec 5) (a : BitVec 5) (b : BitVec 5)
  /-- REM (R67): Writes the signed remainder, which takes the sign of the dividend. -/
  | rem (h : Hdr) (d : BitVec 5) (a : BitVec 5) (b : BitVec 5)
  /-- REMU (R67): Writes the unsigned remainder. -/
  | remu (h : Hdr) (d : BitVec 5) (a : BitVec 5) (b : BitVec 5)
  /-- CLZ (R66): Writes the count of leading zeros of sA. -/
  | clz (h : Hdr) (d : BitVec 5) (a : BitVec 5)
  /-- CTZ (R66): Writes the count of trailing zeros of sA. -/
  | ctz (h : Hdr) (d : BitVec 5) (a : BitVec 5)
  /-- POPC (R66): Writes the number of set bits of sA. -/
  | popc (h : Hdr) (d : BitVec 5) (a : BitVec 5)
  /-- SEXT_B (R66): Sign-extends sA bits [7:0]. -/
  | sextB (h : Hdr) (d : BitVec 5) (a : BitVec 5)
  /-- SEXT_H (R66): Sign-extends sA bits [15:0]. -/
  | sextH (h : Hdr) (d : BitVec 5) (a : BitVec 5)
  /-- SEXT_W (R66): Sign-extends sA bits [31:0]. -/
  | sextW (h : Hdr) (d : BitVec 5) (a : BitVec 5)
  /-- ZEXT_W (R66): Zero-extends sA bits [31:0]. -/
  | zextW (h : Hdr) (d : BitVec 5) (a : BitVec 5)
  /-- JALR (R72): Writes PC + 4 to sD and jumps to sA. -/
  | jalr (h : Hdr) (d : BitVec 5) (a : BitVec 5)
  /-- SETLC_S (R75): Sets lc to sA. -/
  | setlcS (h : Hdr) (a : BitVec 5)
  /-- RDLC (R75): Writes lc to sD. -/
  | rdlc (h : Hdr) (d : BitVec 5)
  /-- CMOVZ (R69): Sets sD to sA when sB is zero. -/
  | cmovz (h : Hdr) (d : BitVec 5) (a : BitVec 5) (b : BitVec 5)
  /-- CMOVNZ (R69): Sets sD to sA when sB is nonzero. -/
  | cmovnz (h : Hdr) (d : BitVec 5) (a : BitVec 5) (b : BitVec 5)
  /-- IFQ (R73): Pops cq into the condition latch; the next n words execute only if the latch is 1. -/
  | ifq (h : Hdr) (n : BitVec 5)
  /-- ELSEQ (R73): The next n words execute only if the condition latch is 0. -/
  | elseq (h : Hdr) (n : BitVec 5)
  /-- STG_STAGE (R77): Stage marker that assigns the following loop-body words to stage n. -/
  | stgStage (h : Hdr) (n : BitVec 5)
  /-- LOOPP (R76): Opens a software-pipelined loop of S stages over an L-word body, with trip count lc. -/
  | loopp (h : Hdr) (s : BitVec 5) (l : BitVec 10)
  /-- SETRB (R79): Sets rot.base to sA. -/
  | setrb (h : Hdr) (a : BitVec 5)
  /-- ADD_SH1 (R68): Writes sA + (sB << 1). -/
  | addSh1 (h : Hdr) (d : BitVec 5) (a : BitVec 5) (b : BitVec 5)
  /-- ADD_SH2 (R68): Writes sA + (sB << 2). -/
  | addSh2 (h : Hdr) (d : BitVec 5) (a : BitVec 5) (b : BitVec 5)
  /-- ADD_SH3 (R68): Writes sA + (sB << 3). -/
  | addSh3 (h : Hdr) (d : BitVec 5) (a : BitVec 5) (b : BitVec 5)
  /-- ADD_SH4 (R68): Writes sA + (sB << 4). -/
  | addSh4 (h : Hdr) (d : BitVec 5) (a : BitVec 5) (b : BitVec 5)
  /-- TADDR (R68): Forms the address of a 2 KiB Morton-ordered tile from a base and row and column indices. -/
  | taddr (h : Hdr) (d : BitVec 5) (a : BitVec 5) (b : BitVec 5)
  /-- VADD (R156): Adds vector elements. -/
  | vadd (h : Hdr) (d : BitVec 5) (a : BitVec 5) (b : BitVec 5) (k : BitVec 3)
  /-- VSUB (R156): Subtracts vector elements. -/
  | vsub (h : Hdr) (d : BitVec 5) (a : BitVec 5) (b : BitVec 5) (k : BitVec 3)
  /-- VMUL (R156): Multiplies vector elements. -/
  | vmul (h : Hdr) (d : BitVec 5) (a : BitVec 5) (b : BitVec 5) (k : BitVec 3)
  /-- VFMA (R156): Forms a*b + c with one rounding. -/
  | vfma (h : Hdr) (d : BitVec 5) (a : BitVec 5) (b : BitVec 5) (k : BitVec 3)
  /-- VFMS (R156): Forms a*b - c with one rounding. -/
  | vfms (h : Hdr) (d : BitVec 5) (a : BitVec 5) (b : BitVec 5) (k : BitVec 3)
  /-- VMIN (R156): Takes the element-wise minimum. -/
  | vmin (h : Hdr) (d : BitVec 5) (a : BitVec 5) (b : BitVec 5) (k : BitVec 3)
  /-- VMAX (R156): Takes the element-wise maximum. -/
  | vmax (h : Hdr) (d : BitVec 5) (a : BitVec 5) (b : BitVec 5) (k : BitVec 3)
  /-- VABS (R156): Takes the element-wise absolute value. -/
  | vabs (h : Hdr) (d : BitVec 5) (a : BitVec 5) (k : BitVec 3)
  /-- VNEG (R156): Negates elements. -/
  | vneg (h : Hdr) (d : BitVec 5) (a : BitVec 5) (k : BitVec 3)
  /-- VRCP (R157): Computes the correctly rounded reciprocal. -/
  | vrcp (h : Hdr) (d : BitVec 5) (a : BitVec 5) (k : BitVec 3)
  /-- VRSQ (R157): Computes the correctly rounded reciprocal square root. -/
  | vrsq (h : Hdr) (d : BitVec 5) (a : BitVec 5) (k : BitVec 3)
  /-- VEXP2 (R157): Computes 2 to the power x. -/
  | vexp2 (h : Hdr) (d : BitVec 5) (a : BitVec 5) (k : BitVec 3)
  /-- VLOG2 (R157): Computes log2 x. -/
  | vlog2 (h : Hdr) (d : BitVec 5) (a : BitVec 5) (k : BitVec 3)
  /-- VAND (R158): Takes the bitwise AND of element patterns. -/
  | vand (h : Hdr) (d : BitVec 5) (a : BitVec 5) (b : BitVec 5) (k : BitVec 3)
  /-- VOR (R158): Takes the bitwise OR of element patterns. -/
  | vor (h : Hdr) (d : BitVec 5) (a : BitVec 5) (b : BitVec 5) (k : BitVec 3)
  /-- VXOR (R158): Takes the bitwise exclusive OR of element patterns. -/
  | vxor (h : Hdr) (d : BitVec 5) (a : BitVec 5) (b : BitVec 5) (k : BitVec 3)
  /-- VNOT (R158): Inverts element patterns. -/
  | vnot (h : Hdr) (d : BitVec 5) (a : BitVec 5) (k : BitVec 3)
  /-- VSHL (R158): Shifts elements left by vB mod w. -/
  | vshl (h : Hdr) (d : BitVec 5) (a : BitVec 5) (b : BitVec 5) (k : BitVec 3)
  /-- VSHR (R158): Shifts elements right with zero fill. -/
  | vshr (h : Hdr) (d : BitVec 5) (a : BitVec 5) (b : BitVec 5) (k : BitVec 3)
  /-- VSRA (R158): Shifts elements right with sign fill. -/
  | vsra (h : Hdr) (d : BitVec 5) (a : BitVec 5) (b : BitVec 5) (k : BitVec 3)
  /-- VSHLI (R158): Shifts elements left by an immediate. -/
  | vshli (h : Hdr) (d : BitVec 5) (a : BitVec 5) (i : BitVec 5) (k : BitVec 3)
  /-- VSHRI (R158): Shifts elements right by an immediate, with fill by signedness. -/
  | vshri (h : Hdr) (d : BitVec 5) (a : BitVec 5) (i : BitVec 5) (k : BitVec 3)
  /-- VCMP_EQ (R159): Writes mask bits for equal elements. -/
  | vcmpEq (h : Hdr) (d : BitVec 5) (a : BitVec 5) (b : BitVec 5) (k : BitVec 3)
  /-- VCMP_NE (R159): Writes mask bits for unequal elements. -/
  | vcmpNe (h : Hdr) (d : BitVec 5) (a : BitVec 5) (b : BitVec 5) (k : BitVec 3)
  /-- VCMP_LT (R159): Writes mask bits for less-than. -/
  | vcmpLt (h : Hdr) (d : BitVec 5) (a : BitVec 5) (b : BitVec 5) (k : BitVec 3)
  /-- VCMP_LE (R159): Writes mask bits for less-or-equal. -/
  | vcmpLe (h : Hdr) (d : BitVec 5) (a : BitVec 5) (b : BitVec 5) (k : BitVec 3)
  /-- VCMP_UN (R159): Writes mask bits for unordered comparisons. -/
  | vcmpUn (h : Hdr) (d : BitVec 5) (a : BitVec 5) (b : BitVec 5) (k : BitVec 3)
  /-- VCQ_ANY (R160): Pushes 1 onto cq if any active mask bit is set. -/
  | vcqAny (h : Hdr) (a : BitVec 5) (k : BitVec 3)
  /-- VCQ_ALL (R160): Pushes 1 onto cq if every active mask bit is set. -/
  | vcqAll (h : Hdr) (a : BitVec 5) (k : BitVec 3)
  /-- VSEL (R161): Selects elements of vA or vB by the mask kS. -/
  | vsel (h : Hdr) (d : BitVec 5) (a : BitVec 5) (b : BitVec 5) (k : BitVec 3)
  /-- VMOV (R161): Copies the active elements of vA. -/
  | vmov (h : Hdr) (d : BitVec 5) (a : BitVec 5) (k : BitVec 3)
  /-- VBCAST (R161): Broadcasts a scalar to the active elements. -/
  | vbcast (h : Hdr) (d : BitVec 5) (a : BitVec 5) (k : BitVec 3)
  /-- VEXT (R161): Extracts one element into a scalar register. -/
  | vext (h : Hdr) (d : BitVec 5) (a : BitVec 5) (b : BitVec 5)
  /-- VINS (R161): Inserts a scalar into one element. -/
  | vins (h : Hdr) (d : BitVec 5) (a : BitVec 5) (b : BitVec 5)
  /-- VIOTA (R161): Writes prefix counts of the set bits of a mask. -/
  | viota (h : Hdr) (d : BitVec 5) (k : BitVec 3)
  /-- VCVT (R162): Converts one part between stype and type with the round CSR. -/
  | vcvt (h : Hdr) (d : BitVec 5) (a : BitVec 5) (i : BitVec 5) (k : BitVec 3)
  /-- VPACK (R163): Moves natural-order sub-byte elements into the pre-shuffled layout. -/
  | vpack (h : Hdr) (d : BitVec 5) (a : BitVec 5) (i : BitVec 5)
  /-- VUNPACK (R163): Restores natural order from the pre-shuffled layout. -/
  | vunpack (h : Hdr) (d : BitVec 5) (a : BitVec 5) (i : BitVec 5)
  /-- VPERM (R164): Permutes elements by indices held in vB. -/
  | vperm (h : Hdr) (d : BitVec 5) (a : BitVec 5) (b : BitVec 5) (k : BitVec 3)
  /-- VSHUF (R164): Applies a fixed zip, unzip or reverse pattern. -/
  | vshuf (h : Hdr) (d : BitVec 5) (a : BitVec 5) (i : BitVec 5) (k : BitVec 3)
  /-- VSLIDE (R164): Slides elements by a signed scalar offset. -/
  | vslide (h : Hdr) (d : BitVec 5) (a : BitVec 5) (b : BitVec 5) (k : BitVec 3)
  /-- VRED_SUM (R165): Sum-reduces the active elements over a fixed pairwise tree. -/
  | vredSum (h : Hdr) (d : BitVec 5) (a : BitVec 5) (k : BitVec 3)
  /-- VRED_MIN (R165): Min-reduces the active elements over a fixed pairwise tree. -/
  | vredMin (h : Hdr) (d : BitVec 5) (a : BitVec 5) (k : BitVec 3)
  /-- VRED_MAX (R165): Max-reduces the active elements over a fixed pairwise tree. -/
  | vredMax (h : Hdr) (d : BitVec 5) (a : BitVec 5) (k : BitVec 3)
  /-- VSCAN (R166): Forms inclusive prefix sums in ascending order. -/
  | vscan (h : Hdr) (d : BitVec 5) (a : BitVec 5) (k : BitVec 3)
  /-- VCOMPRESS (R167): Packs the active elements to the front and zeroes the rest. -/
  | vcompress (h : Hdr) (d : BitVec 5) (a : BitVec 5) (k : BitVec 3)
  /-- VEXPAND (R167): Spreads consecutive source elements to the active positions. -/
  | vexpand (h : Hdr) (d : BitVec 5) (a : BitVec 5) (k : BitVec 3)
  /-- VPRUNE (R168): Marks the largest-magnitude elements to keep within each group. -/
  | vprune (h : Hdr) (d : BitVec 5) (a : BitVec 5) (i : BitVec 5) (k : BitVec 3)
  /-- VQUANT (R169): Scales by an FP32 scalar, rounds and saturates into the target type. -/
  | vquant (h : Hdr) (d : BitVec 5) (a : BitVec 5) (b : BitVec 5) (k : BitVec 3)
  /-- VSCALE (R169): Multiplies by 2 to the power of vB's elements and rounds. -/
  | vscale (h : Hdr) (d : BitVec 5) (a : BitVec 5) (b : BitVec 5) (k : BitVec 3)
  /-- VDEFER (R173): Appends the active lanes as records to a deferral path in scratch. -/
  | vdefer (h : Hdr) (a : BitVec 5) (n : BitVec 2) (h : BitVec 2) (k : BitVec 3)
  /-- VDRAIN (R174): Pops up to N records of a deferral path into registers and a batch mask. -/
  | vdrain (h : Hdr) (d : BitVec 5) (n : BitVec 2) (h : BitVec 2) (k : BitVec 3)
  /-- VTYPE (R155): Sets vtype type, stype and isat at issue. -/
  | vtype (h : Hdr) (d : BitVec 5) (a : BitVec 5) (s : BitVec 1)
  /-- KAND (R176): Takes the AND of two masks. -/
  | kand (h : Hdr) (d : BitVec 5) (a : BitVec 5) (b : BitVec 5)
  /-- KOR (R176): Takes the OR of two masks. -/
  | kor (h : Hdr) (d : BitVec 5) (a : BitVec 5) (b : BitVec 5)
  /-- KXOR (R176): Takes the exclusive OR of two masks. -/
  | kxor (h : Hdr) (d : BitVec 5) (a : BitVec 5) (b : BitVec 5)
  /-- KNOT (R176): Inverts a mask. -/
  | knot (h : Hdr) (d : BitVec 5) (a : BitVec 5)
  /-- KPOPC (R176): Writes the number of set mask bits to a scalar register. -/
  | kpopc (h : Hdr) (d : BitVec 5) (a : BitVec 5)
  /-- KFIRST (R176): Writes the index of the lowest set mask bit, or 256 if none is set. -/
  | kfirst (h : Hdr) (d : BitVec 5) (a : BitVec 5)
  /-- KMOV (R176): Copies a mask. -/
  | kmov (h : Hdr) (d : BitVec 5) (a : BitVec 5)
  /-- VCLAMP (R156): Clamps the old vD between vA and vB. -/
  | vclamp (h : Hdr) (d : BitVec 5) (a : BitVec 5) (b : BitVec 5) (k : BitVec 3)
  /-- VDOT (R170): Accumulates short dot products into wider elements. -/
  | vdot (h : Hdr) (d : BitVec 5) (a : BitVec 5) (b : BitVec 5) (k : BitVec 3)
  /-- MMA (R132): Multiplies an A tile by a B tile into an accumulator under the configured mode. -/
  | mma (h : Hdr) (c : BitVec 2) (a : BitVec 3) (b : BitVec 3) (z : BitVec 1) (m : BitVec 2) (t : BitVec 1) (x : BitVec 1) (y : BitVec 1) (r : BitVec 2)
  /-- MRUN (R133): Runs n consecutive products into one accumulator and writes a run record. -/
  | mrun (h : Hdr) (c : BitVec 2) (a : BitVec 3) (b : BitVec 3) (z : BitVec 1) (m : BitVec 2) (t : BitVec 1) (n : BitVec 3) (r : BitVec 2)
  /-- MZERO (R139): Zeroes an accumulator and clears its poison bits and mismatch latch. -/
  | mzero (h : Hdr) (c : BitVec 2)
  /-- MDRAIN (R136): Converts an accumulator into an operand tile. -/
  | mdrain (h : Hdr) (c : BitVec 2) (y : BitVec 3) (d : BitVec 3) (z : BitVec 1)
  /-- MDRAIN_V (R136): Converts an accumulator into a group of vector registers. -/
  | mdrainV (h : Hdr) (c : BitVec 2) (y : BitVec 3) (v : BitVec 5) (z : BitVec 1)
  /-- MLOADA (R137): Loads an accumulator from a vector group. -/
  | mloada (h : Hdr) (c : BitVec 2) (y : BitVec 3) (v : BitVec 5)
  /-- MSCALE (R139): Loads a tile's scale set from two vector registers. -/
  | mscale (h : Hdr) (d : BitVec 3) (v : BitVec 5)
  /-- MCFG (R140): Drains the engine and reconfigures the accumulator mode and operand formats. -/
  | mcfg (h : Hdr) (m : BitVec 2) (a : BitVec 2) (b : BitVec 2) (r : BitVec 1)
  /-- MLEND (R145): Lends a vector bank to the matrix engine. -/
  | mlend (h : Hdr) (b : BitVec 2)
  /-- MRET (R145): Returns a lent vector bank. -/
  | mret (h : Hdr) (b : BitVec 2)
  /-- MTRANS (R138): Transposes a tile between the tb = 0 and tb = 1 layouts. -/
  | mtrans (h : Hdr) (s : BitVec 3) (d : BitVec 3) (w : BitVec 2)
  /-- MCHK (R143): Pushes onto cq whether an accumulator is clean. -/
  | mchk (h : Hdr) (c : BitVec 2)
  /-- MPROBE (R144): Pops a run record (sel 0) or reads the sequence and run-queue status (sel 1) into sD. -/
  | mprobe (h : Hdr) (s : BitVec 1) (d : BitVec 5)
  /-- MPROBE_ACC (R144): Reads an accumulator's mismatch latch and row poison bits into sD. -/
  | mprobeAcc (h : Hdr) (c : BitVec 2) (d : BitVec 5)
  /-- VLD (R183): Loads 32 to 256 bytes of scratch into a vector register. -/
  | vld (h : Hdr) (d : BitVec 5) (a : BitVec 5) (b : BitVec 5) (c : BitVec 2) (z : BitVec 2)
  /-- VLD_S (R184): Loads a vector register as strided chunks. -/
  | vldS (h : Hdr) (d : BitVec 5) (a : BitVec 5) (b : BitVec 5) (c : BitVec 2) (h : BitVec 2)
  /-- VST (R183): Stores 32 to 256 bytes of a vector register to scratch. -/
  | vst (h : Hdr) (d : BitVec 5) (a : BitVec 5) (b : BitVec 5) (c : BitVec 2) (z : BitVec 2)
  /-- VST_S (R184): Stores a vector register as strided chunks. -/
  | vstS (h : Hdr) (d : BitVec 5) (a : BitVec 5) (b : BitVec 5) (c : BitVec 2) (h : BitVec 2)
  /-- MLD (R185): Loads a 2,048-byte operand tile from scratch. -/
  | mld (h : Hdr) (d : BitVec 5) (a : BitVec 5) (b : BitVec 5) (c : BitVec 2)
  /-- MLD_T (R185): Loads an operand tile with transposition. -/
  | mldT (h : Hdr) (d : BitVec 5) (a : BitVec 5) (b : BitVec 5) (c : BitVec 2) (w : BitVec 2)
  /-- MLD_U (R187): Loads 32 unfolded convolution rows from the window unit. -/
  | mldU (h : Hdr) (d : BitVec 5) (c : BitVec 2)
  /-- MST (R185): Stores an operand tile to scratch. -/
  | mst (h : Hdr) (d : BitVec 5) (a : BitVec 5) (b : BitVec 5) (c : BitVec 2)
  /-- VLD_BM (R190): Loads and checks a bitmask-plus-values block into n registers. -/
  | vldBm (h : Hdr) (d : BitVec 5) (a : BitVec 5) (b : BitVec 5) (c : BitVec 2) (n : BitVec 2)
  /-- VST_BM (R189): Stores n registers as a bitmask-plus-values block. -/
  | vstBm (h : Hdr) (d : BitVec 5) (a : BitVec 5) (b : BitVec 5) (c : BitVec 2) (n : BitVec 2)
  /-- CPY_IN (R191): Accepts an asynchronous copy from global memory to scratch into a hoop slot. -/
  | cpyIn (h : Hdr) (d : BitVec 5) (a : BitVec 5) (b : BitVec 5) (c : BitVec 2) (h : BitVec 2)
  /-- CPY_OUT (R191): Accepts an asynchronous copy from scratch to global memory. -/
  | cpyOut (h : Hdr) (d : BitVec 5) (a : BitVec 5) (b : BitVec 5) (c : BitVec 2) (h : BitVec 2)
  /-- CPY_LOC (R191): Accepts an asynchronous copy from scratch to scratch. -/
  | cpyLoc (h : Hdr) (d : BitVec 5) (a : BitVec 5) (b : BitVec 5) (c : BitVec 2) (h : BitVec 2)
  /-- AWF (R194): Waits until K hoop slots are filled and acquires their data. -/
  | awf (h : Hdr) (a : BitVec 5) (h : BitVec 2)
  /-- RLS (R195): Advances a hoop's read pointer by K. -/
  | rls (h : Hdr) (a : BitVec 5) (h : BitVec 2)
  /-- AG_CFG (R196): Queues a dimension or chunk reconfiguration token to an address generator. -/
  | agCfg (h : Hdr) (a : BitVec 5) (j : BitVec 5) (g : BitVec 2)
  /-- WIN_CFG (R186): Configures the window unit and resets its position. -/
  | winCfg (h : Hdr) (a : BitVec 5) (b : BitVec 5)
  /-- FOPEN (R200): Opens a sparse walk over a bitmask block or a coordinate tile. -/
  | fopen (h : Hdr) (d : BitVec 5) (a : BitVec 5) (n : BitVec 2) (c : BitVec 2) (k : BitVec 2)
  /-- FADV (R201): Delivers the next values and positions of a fibre walk. -/
  | fadv (h : Hdr) (d : BitVec 5) (a : BitVec 5) (b : BitVec 5) (c : BitVec 2)
  /-- FEND (R202): Pushes onto cq whether a fibre walk is finished. -/
  | fend (h : Hdr) (a : BitVec 5)
  /-- FCLOSE (R202): Closes a fibre walk. -/
  | fclose (h : Hdr) (a : BitVec 5)
  /-- LDG (R227): Loads 8 bytes of global memory, relaxed or acquire within the Q queue. -/
  | ldg (h : Hdr) (d : BitVec 5) (a : BitVec 5) (b : BitVec 5) (e : BitVec 2) (o : BitVec 2)
  /-- STG (R227): Stores 8 bytes to global memory, relaxed or release within the Q queue. -/
  | stg (h : Hdr) (d : BitVec 5) (a : BitVec 5) (b : BitVec 5) (e : BitVec 2) (o : BitVec 2)
  /-- LDA (R227): Global load that is an acquire over every engine queue. -/
  | lda (h : Hdr) (d : BitVec 5) (a : BitVec 5) (b : BitVec 5) (e : BitVec 2)
  /-- STRL (R227): Global store that is a release over every engine queue and earlier transfers. -/
  | strl (h : Hdr) (d : BitVec 5) (a : BitVec 5) (b : BitVec 5) (e : BitVec 2)
  /-- FENCE (R228): Memory fence with acquire, release or acquire-release at a scope. -/
  | fence (h : Hdr) (e : BitVec 2) (o : BitVec 2)
  /-- AMO_ADD (R229): Atomic fetch-add at the home slice. -/
  | amoAdd (h : Hdr) (d : BitVec 5) (a : BitVec 5) (b : BitVec 5) (e : BitVec 2) (o : BitVec 2)
  /-- AMO_AND (R229): Atomic fetch-AND. -/
  | amoAnd (h : Hdr) (d : BitVec 5) (a : BitVec 5) (b : BitVec 5) (e : BitVec 2) (o : BitVec 2)
  /-- AMO_OR (R229): Atomic fetch-OR. -/
  | amoOr (h : Hdr) (d : BitVec 5) (a : BitVec 5) (b : BitVec 5) (e : BitVec 2) (o : BitVec 2)
  /-- AMO_XOR (R229): Atomic fetch-XOR. -/
  | amoXor (h : Hdr) (d : BitVec 5) (a : BitVec 5) (b : BitVec 5) (e : BitVec 2) (o : BitVec 2)
  /-- AMO_MIN (R229): Atomic signed minimum. -/
  | amoMin (h : Hdr) (d : BitVec 5) (a : BitVec 5) (b : BitVec 5) (e : BitVec 2) (o : BitVec 2)
  /-- AMO_MAX (R229): Atomic signed maximum. -/
  | amoMax (h : Hdr) (d : BitVec 5) (a : BitVec 5) (b : BitVec 5) (e : BitVec 2) (o : BitVec 2)
  /-- AMO_MINU (R229): Atomic unsigned minimum. -/
  | amoMinu (h : Hdr) (d : BitVec 5) (a : BitVec 5) (b : BitVec 5) (e : BitVec 2) (o : BitVec 2)
  /-- AMO_MAXU (R229): Atomic unsigned maximum. -/
  | amoMaxu (h : Hdr) (d : BitVec 5) (a : BitVec 5) (b : BitVec 5) (e : BitVec 2) (o : BitVec 2)
  /-- AMO_SWAP (R229): Atomic swap. -/
  | amoSwap (h : Hdr) (d : BitVec 5) (a : BitVec 5) (b : BitVec 5) (e : BitVec 2) (o : BitVec 2)
  /-- AMO_CAS (R229): Atomic compare-and-swap against sD. -/
  | amoCas (h : Hdr) (d : BitVec 5) (a : BitVec 5) (b : BitVec 5) (e : BitVec 2) (o : BitVec 2)
  /-- AMO_FADD (R229): Atomic 4-byte FP32 add. -/
  | amoFadd (h : Hdr) (d : BitVec 5) (a : BitVec 5) (b : BitVec 5) (e : BitVec 2) (o : BitVec 2)
  /-- VERST (R356): Creates the next version of a versioned cell, stalling while four versions are live. -/
  | verst (h : Hdr) (d : BitVec 5) (a : BitVec 5) (b : BitVec 5) (e : BitVec 2)
  /-- VERLD (R356): Reads version N of a cell, waiting until it exists. -/
  | verld (h : Hdr) (d : BitVec 5) (a : BitVec 5) (b : BitVec 5) (e : BitVec 2)
  /-- VERRCL (R356): Retires the versions up to N of a cell, keeping the newest. -/
  | verrcl (h : Hdr) (d : BitVec 5) (a : BitVec 5) (b : BitVec 5) (e : BitVec 2)
  /-- BAR_W (R248): Arrives at a domain barrier and waits for its release. -/
  | barW (h : Hdr) (l : BitVec 2)
  /-- BAR_A (R248): Sends a barrier arrival without waiting. -/
  | barA (h : Hdr) (l : BitVec 2)
  /-- BAR_T (R248): Reads the pending-arrival bit and epoch of a domain. -/
  | barT (h : Hdr) (d : BitVec 5) (l : BitVec 2)
  /-- BCAST (R250): Broadcasts a scalar to every member of a domain. -/
  | bcast (h : Hdr) (a : BitVec 5) (l : BitVec 2)
  /-- BRECV (R250): Pops the oldest broadcast latch entry, waiting while the latch is empty. -/
  | brecv (h : Hdr) (d : BitVec 5) (l : BitVec 2)
  /-- RED (R251): Contributes to a domain reduction and waits for the result. -/
  | red (h : Hdr) (d : BitVec 5) (a : BitVec 5) (b : BitVec 5) (l : BitVec 2)
  /-- EVT (R253): Sets the event latch of every other domain member. -/
  | evt (h : Hdr) (l : BitVec 2)
  /-- SUBMIT (R302): Claims a queue slot, writes a packet from scratch and publishes it. -/
  | submit (h : Hdr) (d : BitVec 5) (a : BitVec 5) (b : BitVec 5)
  /-- MCAST (R219): Sends one payload to a set of cores of one cluster. -/
  | mcast (h : Hdr) (d : BitVec 5) (a : BitVec 5) (b : BitVec 5)
  /-- WBR (R230): Starts writing back the dirty lines of a global range. -/
  | wbr (h : Hdr) (a : BitVec 5) (b : BitVec 5)
  /-- INVR (R230): Starts writing back and invalidating the lines of a global range. -/
  | invr (h : Hdr) (a : BitVec 5) (b : BitVec 5)
  /-- WBWAIT (R230): Waits for the core's WBR and INVR operations and reports their outcome. -/
  | wbwait (h : Hdr) (d : BitVec 5)
  /-- LAT (R369): Atomically appends a layer to a layered handle. -/
  | lat (h : Hdr) (d : BitVec 5) (a : BitVec 5) (b : BitVec 5)
  /-- LDT (R369): Atomically removes layer i from a handle. -/
  | ldt (h : Hdr) (d : BitVec 5) (a : BitVec 5) (b : BitVec 5)
  /-- LFOLD (R370): Records a fold of the first k layers of a handle. -/
  | lfold (h : Hdr) (d : BitVec 5) (a : BitVec 5) (b : BitVec 5)
  /-- LFWAIT (R370): Waits for a handle's fold to finish and returns its generation and code. -/
  | lfwait (h : Hdr) (d : BitVec 5) (a : BitVec 5)
  /-- LGEN (R371): Reads a handle's generation with acquire. -/
  | lgen (h : Hdr) (d : BitVec 5) (a : BitVec 5)
  /-- TKPUSH (R112): Adds c tokens to the channel to another strand after earlier words complete. -/
  | tkpush (h : Hdr) (a : BitVec 5) (b : BitVec 5)
  /-- TKPOP (R112): Removes c tokens from the channel from another strand at issue. -/
  | tkpop (h : Hdr) (a : BitVec 5) (b : BitVec 5)
  /-- TKCNT (R112): Reads the inbound token count of a channel. -/
  | tkcnt (h : Hdr) (d : BitVec 5) (b : BitVec 5)
  /-- TRAP (R328): Stops the core with user trap code 0x00 after earlier words complete. -/
  | trap (h : Hdr) (c : BitVec 8)
  /-- TRET_RESUME (R326): Restores X from the trap shadow and resumes every strand at its resume point. -/
  | tretResume (h : Hdr)
  /-- TRET_ABORT (R326): Leaves the handler and aborts the node. -/
  | tretAbort (h : Hdr)
  /-- HALT (R329): Retires after the strand's earlier words complete and puts the strand in state 3. -/
  | halt (h : Hdr)
  /-- YIELD (R330): Asks the crown to pre-empt this node for an equal or higher pool node. -/
  | yield (h : Hdr) (d : BitVec 5)
  /-- WFE (R253): Waits for the event latch and clears it. -/
  | wfe (h : Hdr)
  /-- WUT (R418): Holds X until package time reaches T. -/
  | wut (h : Hdr) (a : BitVec 5)
  /-- RDTIME (R419): Samples package time into sD after earlier words complete. -/
  | rdtime (h : Hdr) (d : BitVec 5) (s : BitVec 1)
  /-- MPERM (R147): Requests or releases a power permit from the die governor. -/
  | mperm (h : Hdr) (d : BitVec 5) (a : BitVec 5)
  /-- RDST (R335): Reads one 8-byte word of another core's state image. -/
  | rdst (h : Hdr) (d : BitVec 5) (a : BitVec 5) (c : BitVec 8)
  /-- WRST (R335): Writes one 8-byte word of a stopped core's state image. -/
  | wrst (h : Hdr) (d : BitVec 5) (a : BitVec 5) (c : BitVec 8)
  /-- CTX_SAVE (R335): Writes a target core's context image to memory. -/
  | ctxSave (h : Hdr) (d : BitVec 5) (a : BitVec 5) (c : BitVec 8)
  /-- CTX_LOAD (R335): Reads a context image from memory and installs it in a target core. -/
  | ctxLoad (h : Hdr) (d : BitVec 5) (a : BitVec 5) (c : BitVec 8)
  /-- DOMSET_INSTALL (R246): Installs a sync domain from a descriptor. -/
  | domsetInstall (h : Hdr) (d : BitVec 5) (a : BitVec 5)
  /-- DOMSET_REMOVE (R246): Removes a sync domain from its slot. -/
  | domsetRemove (h : Hdr) (d : BitVec 5) (a : BitVec 5)
  /-- HMSET_QUIESCE (R232): Quiesces an interleave domain and waits for its started requests to complete. -/
  | hmsetQuiesce (h : Hdr) (d : BitVec 5) (a : BitVec 5) (m : BitVec 4)
  /-- HMSET_SWITCH (R232): Installs a new descriptor for a quiesced interleave domain and moves the affected lines. -/
  | hmsetSwitch (h : Hdr) (d : BitVec 5) (a : BitVec 5) (m : BitVec 4)
  /-- HMSET_RESUME (R232): Resumes request service for an interleave domain. -/
  | hmsetResume (h : Hdr) (d : BitVec 5) (a : BitVec 5) (m : BitVec 4)
  /-- RGLOAD (R284): Authenticates and checks a configuration image into the standby plane. -/
  | rgload (h : Hdr) (d : BitVec 5) (a : BitVec 5) (g : BitVec 6)
  /-- RGSWAP_HOT (R285): Arms a hot swap of the staged configuration at a stream boundary. -/
  | rgswapHot (h : Hdr) (d : BitVec 5) (g : BitVec 6)
  /-- RGSWAP_NOW (R285): Exchanges the planes of a blank or frozen region at once. -/
  | rgswapNow (h : Hdr) (d : BitVec 5) (g : BitVec 6)
  /-- RGFREEZE_FREEZE (R286): Freezes a running region at its next edge. -/
  | rgfreezeFreeze (h : Hdr) (d : BitVec 5) (g : BitVec 6)
  /-- RGFREEZE_THAW (R286): Thaws a frozen region. -/
  | rgfreezeThaw (h : Hdr) (d : BitVec 5) (g : BitVec 6)
  /-- RGREAD_SAVE (R287): Streams a frozen region's readout chain out and writes it to memory. -/
  | rgreadSave (h : Hdr) (d : BitVec 5) (a : BitVec 5) (g : BitVec 6)
  /-- RGREAD_FETCH (R287): Reads saved chain state from memory into the in buffer. -/
  | rgreadFetch (h : Hdr) (d : BitVec 5) (a : BitVec 5) (x : BitVec 1) (g : BitVec 6)
  /-- RGREAD_RESTORE (R287): Optionally exchanges the planes, then streams the in buffer into the live chain. -/
  | rgreadRestore (h : Hdr) (d : BitVec 5) (x : BitVec 1) (g : BitVec 6)
  /-- RGREAD_STATUS (R287): Returns the region status word. -/
  | rgreadStatus (h : Hdr) (d : BitVec 5) (g : BitVec 6)
  /-- RGCLK (R288): Sets the clock code of a blank or frozen region. -/
  | rgclk (h : Hdr) (d : BitVec 5) (c : BitVec 3) (g : BitVec 6)
  /-- WOUT (R270): Enters nb beats of a vector register into a tile out-port. -/
  | wout (h : Hdr) (t : BitVec 2) (v : BitVec 5) (e : BitVec 1) (n : BitVec 2)
  /-- WIN (R270): Pops up to nb beats from a tile in-port into a vector register. -/
  | win (h : Hdr) (t : BitVec 2) (v : BitVec 5) (c : BitVec 1) (n : BitVec 2)
  /-- WEOS (R270): Enters an empty beat that carries the end-of-stream flag. -/
  | weos (h : Hdr) (t : BitVec 2)
  /-- WTEST (R271): Pushes onto cq whether a port FIFO holds n beats or n free entries. -/
  | wtest (h : Hdr) (t : BitVec 2) (r : BitVec 1) (n : BitVec 5)
  /-- WSTAT (R271): Reads a port status word and optionally clears the latched cause. -/
  | wstat (h : Hdr) (t : BitVec 2) (d : BitVec 5) (r : BitVec 1) (c : BitVec 1)
  /-- WDRAIN_IN (R271): Discards in-port beats up to the next end of stream and clears the cause. -/
  | wdrainIn (h : Hdr) (t : BitVec 2)
  /-- WDRAIN_OUT (R271): Waits until the out-port FIFO is empty and clears the cause. -/
  | wdrainOut (h : Hdr) (t : BitVec 2)
  /-- PREF_G (R49): Hints the home slice to bring in a global line. -/
  | prefG (h : Hdr) (d : BitVec 5) (a : BitVec 5) (i : BitVec 9)
  /-- PREF_S (R49): Hints the copy engine to refill a scratch page. -/
  | prefS (h : Hdr) (d : BitVec 5) (a : BitVec 5) (i : BitVec 9)
  /-- PRIO (R49): Sets the strand's arbitration weight. -/
  | prio (h : Hdr) (d : BitVec 5) (a : BitVec 5) (i : BitVec 9)
  /-- PAUSE (R49): Suspends the strand's issue for a number of cycles. -/
  | pause (h : Hdr) (d : BitVec 5) (a : BitVec 5) (i : BitVec 9)
  /-- ENGINE_WORD_START (R27): A queued engine word starts once its predecessor's occupancy has ended and its dependencies allow. -/
  | engineWordStart (c k : Nat) (e : Engine)
  /-- WORD_RETIRE (R27): A word completes in queue order, writing its destination, filling reserved queue entries and pushing its token. -/
  | wordRetire (c k : Nat) (e : Engine)
  /-- DEADLOCK_DETECT (R123): After 2^16 cycles of internal stuckness, the lowest blocked strand traps 0x18. -/
  | deadlockDetect (c : Nat)
  /-- CORRECTABLE_ERROR (R120): A correctable error in core storage is detected and corrected, and schedules a freeze. -/
  | correctableError (c : Nat)
  /-- FREEZE_BEGIN (R120): A core or domain freeze of 32 cycles begins and stops all issue and engines. -/
  | freezeBegin (c : Nat)
  /-- FREEZE_END (R119): The 32-cycle freeze ends and the strands return to their prior states, with latched sync signals acting. -/
  | freezeEnd (c : Nat)
  /-- PAGE_REFILL_COMPLETE (R116): An absent scratch page finishes refilling from its backing area and unblocks its accessor. -/
  | pageRefillComplete (c page : Nat) (mapped : Bool) (bad : BitVec 64)
  /-- PAUSE_END (R49): A PAUSE count expires and the strand resumes issue. -/
  | pauseEnd (c k : Nat)
  /-- ACCUMULATOR_WRITEBACK (R130): An MMA or MRUN writes its accumulator 8 cycles after its occupancy ends. -/
  | accumulatorWriteback (c : Nat)
  /-- PERMIT_DECISION (R147): 26 cycles after MPERM, the governor grants, denies or releases the permit. -/
  | permitDecision (c : Nat)
  /-- TRANSFER_START (R191): An accepted copy transfer starts once its strand's earlier accesses and overlapping transfers are performed. -/
  | transferStart (c hoop slot : Nat)
  /-- TRANSFER_CHUNK (R192): A transfer chunk is translated, checked, read and sent, or fails the transfer. -/
  | transferChunk (c hoop slot : Nat)
  /-- SLOT_FILL (R193): A transfer's hoop slot fills when all its accesses are performed or it fails, advancing wr in order. -/
  | slotFill (c hoop slot : Nat)
  /-- FLIT_INJECT (R210): A ring station, bridge or port injects items into a claimed or open slot that arrives empty. -/
  | flitInject (ring station : Nat)
  /-- FLIT_OFFER (R214): A slot's items are offered to the receiving station, which accepts them or refuses them for retry. -/
  | flitOffer (ring station : Nat)
  /-- SLICE_ACCESS (R223): A home slice starts a load, store, atomic or cell operation in its accepted order. -/
  | sliceAccess (die slice : Nat)
  /-- REHOME_RESEND (R233): The copy engine recomputes the home and sends a bounced request again. -/
  | rehomeResend (c req : Nat)
  /-- SLICE_MISS_FILL (R222): A slice miss returns its line from HBM4, corrected or marked poisoned. -/
  | sliceMissFill (line : Nat) (victim : Option Nat) (err : MemErr)
  /-- TRANSLATION_WALK_DONE (R344): A page-table walk ends and fills the translation caches or fails. -/
  | translationWalkDone (c : Nat) (va : BitVec 64)
  /-- WBR_INVR_FINISH (R230): A WBR or INVR operation finishes walking its range. -/
  | wbrInvrFinish (c : Nat)
  /-- VERST_STALL_TIMEOUT (R357): A VERST stalled for 2^20 cycles traps 0x10. -/
  | verstStallTimeout (req : Nat)
  /-- FOLD_TILE (R373): The fold engine sums one tile over the folded layers and writes it to the fold target. -/
  | foldTile (handle : Nat)
  /-- FOLD_SWAP (R373): After every tile is written, the handle is atomically swapped to the folded base. -/
  | foldSwap (handle : Nat)
  /-- INVALIDATION_REQUEST (R346): Writing go in the translation-invalidation block starts dropping cached translations of a range. -/
  | invalidationRequest (die : Nat)
  /-- INVALIDATION_DONE (R346): The invalidation request ends and go returns to 0. -/
  | invalidationDone (die : Nat)
  /-- CARVE_WRITE (R352): A write to a slice's carve register resizes its carve-out or is refused. -/
  | carveWrite (die slice : Nat) (data : BitVec 64)
  /-- LOAD_GO (R427): Writing go in the load block starts loading a code object. -/
  | loadGo (die : Nat)
  /-- LOAD_COMPLETE (R428): A code-object load ends, with its reason code and the stamp set or left at 0. -/
  | loadComplete (die : Nat)
  /-- QUEUE_TABLE_WRITE (R297): A write to a crown queue-table entry activates or deactivates a queue. -/
  | queueTableWrite (die entry : Nat) (data : BitVec 64)
  /-- DEV_ID_WRITE (R443): The physical function writes the package identifier, unless it is locked. -/
  | devIdWrite (data : BitVec 64)
  /-- REGISTER_WRITE (R405): A write to a control-window or crown-page register that has no behaviour of its own. -/
  | registerWrite (die off : Nat) (data : BitVec 64)
  /-- PACKET_ACCEPT (R300): The crown accepts the next published packet of a queue, journals it and advances stamp. -/
  | packetAccept (die entry : Nat)
  /-- COPY_PACKET_ROW (R304): The central copy engine moves one row of a copy, gather or scatter packet. -/
  | copyPacketRow (die k : Nat)
  /-- COMPLETION_RECORD_WRITE (R301): A packet's completion record is written in acceptance order as a system-scope release. -/
  | completionRecordWrite (die entry : Nat)
  /-- OPERAND_WORD_POLL (R311): The crown re-reads leaf operand words every 4,096 cycles or after a completion write. -/
  | operandWordPoll (die : Nat)
  /-- PRIORITY_AGING (R313): A node in the ready pool for 2^20 cycles raises its priority by one. -/
  | priorityAging (die launch node : Nat)
  /-- TEXT_REWRITE (R429): The rewriter streams a node's text, with distances and registers remapped, into code memory. -/
  | textRewrite (die launch node : Nat)
  /-- NODE_PLACE (R314): The crown places the first pool node whose placement is idle and whose table fits. -/
  | nodePlace (die : Nat)
  /-- DISPATCH (R30): Every placed core's strands receive their dispatch state in one cycle. -/
  | dispatch (die launch node : Nat)
  /-- PREEMPT_DECISION (R315): The crown decides that a higher-priority node pre-empts the occupants of its placement. -/
  | preemptDecision (die launch node : Nat)
  /-- PREEMPT_SIGNAL (R332): The pre-emption signal reaches the victim's cores, stops issue and drains the engines. -/
  | preemptSignal (die launch node : Nat)
  /-- CONTEXT_SAVED (R332): The victim's context image write is performed and the context is saved. -/
  | contextSaved (die launch node : Nat)
  /-- NODE_RESUME (R334): A pre-empted node reloads its image on its original placement and resumes. -/
  | nodeResume (die launch node : Nat)
  /-- HALT_TREE_FIRE (R316): 26 cycles after the last halt line rises, shadow pages are committed and the done address is written. -/
  | haltTreeFire (die launch node : Nat)
  /-- SYNC_ARRIVAL (R248): An arrival or contribution reaches the domain root and is counted. -/
  | syncArrival (root slot : Nat)
  /-- BARRIER_RELEASE (R248): The release reaches every member, clears pending arrivals and advances the epoch. -/
  | barrierRelease (root slot : Nat)
  /-- REDUCTION_RESULT (R251): The reduction result is written at every member in one cycle. -/
  | reductionResult (root slot : Nat)
  /-- BROADCAST_DELIVERY (R250): A broadcast enters every member's latch once credit is held. -/
  | broadcastDelivery (root slot : Nat)
  /-- BROADCAST_CREDIT_RETURN (R250): A member's credit returns to the root after a BRECV pop. -/
  | broadcastCreditReturn (root slot : Nat)
  /-- EVENT_DELIVERY (R253): An EVT sets the event latches of the other members. -/
  | eventDelivery (root slot : Nat)
  /-- SYNC_FAULT_SIGNAL (R254): A core's fault signal reaches a domain root, which breaks its barrier, reduction and domain. -/
  | syncFaultSignal (root slot : Nat)
  /-- BROKEN_VERDICT (R254): The root's verdict reaches the waiting members, which trap. -/
  | brokenVerdict (root slot : Nat)
  /-- BEAT_TRANSFER (R264): A beat transfers at a region edge where valid and ready are both high. -/
  | beatTransfer (rg lane : Nat) (egress : Bool)
  /-- FIFO_CROSSING (R267): A tile port FIFO change becomes visible on the other clock side two cycles later. -/
  | fifoCrossing (c port : Nat)
  /-- WITHY_TRANSFER (R265): A withy appends and removes words at a region edge. -/
  | withyTransfer (rg withy : Nat)
  /-- REGION_RAM_ERROR (R262): An uncorrectable region RAM error freezes the region and latches cause 5. -/
  | regionRamError (rg : Nat) (fatal : Bool)
  /-- SWAP_BOUNDARY (R285): A pending hot swap reaches its stream boundary and the ports hold for 64 cycles. -/
  | swapBoundary (rg : Nat)
  /-- PLANE_EXCHANGE (R285): After the hold, the planes exchange and the new configuration runs. -/
  | planeExchange (rg : Nat)
  /-- SAVE_WRITEBACK_DONE (R287): A region save's background write-back is performed and wbp clears. -/
  | saveWritebackDone (die : Nat)
  /-- WUT_CROSSING (R418): Package time crosses a waiting WUT's T, and the next word issues two cycles later. -/
  | wutCrossing (c : Nat)
  /-- HOST_WRITE (R406): A host memory write to the device-memory window is performed at its home slice as a release. -/
  | hostWrite (port fn : Nat) (addr : Nat) (data : List (BitVec 8)) (poisoned : Bool)
  /-- HOST_READ (R406): A host memory read completes after the function's earlier writes, as an acquire. -/
  | hostRead (port fn : Nat) (addr n : Nat)
  /-- HOST_ATOMICOP (R406): A host AtomicOp is performed at the home slice as one atomic access. -/
  | hostAtomicop (port fn : Nat) (addr size : Nat) (op : HostOp) (x cmp : BitVec 64)
  /-- LINK_BEAT_ARRIVAL (R411): A stream-link beat arrives at the far endpoint, late ones counted. -/
  | linkBeatArrival (link : Nat) (ch : Nat) (late : Bool) (item : LinkItem)
  /-- TREE_TOKEN_FORWARD (R414): A fabric-tree token is passed on once its fixed hold F expires. -/
  | treeTokenForward (link : Nat) (late : Nat)
  /-- PTP_MESSAGE (R416): An IEEE 1588 event or general message is received and timestamped. -/
  | ptpMessage (link : Nat) (parent : Bool) (offset : BitVec 32)
  /-- SYNC_INTERVAL (R417): At each 62.5 ms sync interval the servo measures offset, updates lock and steps or trims time. -/
  | syncInterval (offset : BitVec 32) (step : BitVec 96) (rate : BitVec 32)
  /-- GOVERNOR_CAP_UPDATE (R447): The heartwood sets each cluster's permit cap every 2^21 cycles. -/
  | governorCapUpdate (die cluster : Nat) (cap : BitVec 5)
  /-- THERMAL_HOLD (R449): A die sensor reaching 115 C sets every cap of the die to 0. -/
  | thermalHold (die : Nat)
  /-- THERMAL_SHUTDOWN (R449): A reading of 125 C removes package power. -/
  | thermalShutdown
  /-- PATROL_SCRUB (R349): The scrubber reads and corrects or poisons HBM4 lines in idle cycles. -/
  | patrolScrub (line : Nat) (err : MemErr)
  /-- PACKAGE_RESET (R443): Package reset runs the boot sequence, with authentication, training and key derivation. -/
  | packageReset (boot : Boot)
  /-- DIE_RESET (R452): A die reset stops the die's cores, breaks its domains and resumes its queues from the journal. -/
  | dieReset (die : Nat)
  /-- STACK_RESET (R350): An HBM4 stack is retrained in self-refresh, keeping its contents. -/
  | stackReset (die : Nat) (phase : ResetPhase)
  /-- LINK_RESET (R411): A link that cannot recover within 1 ms is reset. -/
  | linkReset (link : Nat) (f : BitVec 11)
  /-- REPORT_REQUEST (R446): The host writes go to request a signed attestation report. -/
  | reportRequest (nonce : BitVec 256)
  /-- REPORT_READY (R446): The signed report stands at 0x5000 and go returns to 0. -/
  | reportReady
  /-- REGION_CLOCK_EDGE (R263): At each edge of a region's clock, its configured flops update and its RAM blocks read and write. -/
  | regionClockEdge (rg : Nat)
  /-- HOST_COMPLETION (R407): A PCI Express completion from the host for a device load, atomic, copy read or release read arrives at the endpoint. -/
  | hostCompletion (req : Nat) (ok : Bool) (data : List (BitVec 8))
  /-- HOST_COMPLETION_TIMEOUT (R407): A device request to a host window that has had no completion for 50 ms fails with 0x08. -/
  | hostCompletionTimeout (req : Nat)
  /-- MSIX_VECTOR_UNMASK (R408): The host unmasks an MSI-X vector, and the messages held pending for it are sent. -/
  | msixVectorUnmask (fn vec : Nat)
  /-- TIME_ST_READ (R416): A read of time.st returns its fields and clears the step bit. -/
  | timeStRead
  /-- PTP_PARENT_LOSS (R417): The package loses its IEEE 1588 parent, and lock is cleared. -/
  | ptpParentLoss
  deriving DecidableEq, Repr, Inhabited

end Sys2Proof
end

