-- ==== Sys2Proof/Decode.lean ====
section
/-! DEFINITION. The decoder and the encoder of instruction words (02 R35-R45). The decoder is total: every 32-bit word
is an instruction, an unassigned hint (R48), or is rejected by name (R46 rows 2, 3 and the code 0x02 that an
instruction's own rule gives for an operand code outside its table). -/

namespace Sys2Proof

/-- Why a word is not an instruction: an unassigned opcode (02 R46 row 2, code 0x01); a set reserved bit (R39, row 3, code 0x01), with the
instruction that the word would be without it; an operand code that the word's own rule traps with 0x02, with the instruction that the word
would be without it (rows 4 and 5 are checked first); an unassigned hint opcode, which executes as NOP (R48). -/
inductive Reject
  | unassigned
  | reserved (near : Instr)
  | operand (near : Instr)
  | hint
  deriving DecidableEq, Repr

/-- Bits [lo + n - 1 : lo] of a word (00 R6). -/
def fld (w : BitVec 32) (lo n : Nat) : BitVec n := w.extractLsb' lo n

/-- The common header of a word (02 R35). -/
def hdrOf (w : BitVec 32) : Hdr := ⟨fld w 27 2, fld w 25 2⟩

/-- The instruction, unless a reserved bit is set (02 R39): `m` has a 1 at every reserved bit. -/
def rsv (w m : BitVec 32) (i : Instr) : Except Reject Instr :=
  if w &&& m = 0#32 then .ok i else .error (.reserved i)

/-- The instruction, unless a reserved bit is set (code 0x01) or a bit of `m2` is set, which the word's own rule traps 0x02. -/
def rsv2 (w m m2 : BitVec 32) (i : Instr) : Except Reject Instr :=
  if w &&& m = 0#32 then (if w &&& m2 = 0#32 then .ok i else .error (.operand i)) else .error (.reserved i)

/-- The minors of group 0x18 (02 R43). -/
def decodeAlu (w : BitVec 32) : Except Reject Instr :=
  match (fld w 0 5).toNat with
  | 0 => .ok (.add (hdrOf w) (fld w 15 5) (fld w 10 5) (fld w 5 5))
  | 1 => .ok (.sub (hdrOf w) (fld w 15 5) (fld w 10 5) (fld w 5 5))
  | 2 => .ok (.and (hdrOf w) (fld w 15 5) (fld w 10 5) (fld w 5 5))
  | 3 => .ok (.or (hdrOf w) (fld w 15 5) (fld w 10 5) (fld w 5 5))
  | 4 => .ok (.xor (hdrOf w) (fld w 15 5) (fld w 10 5) (fld w 5 5))
  | 5 => .ok (.sll (hdrOf w) (fld w 15 5) (fld w 10 5) (fld w 5 5))
  | 6 => .ok (.srl (hdrOf w) (fld w 15 5) (fld w 10 5) (fld w 5 5))
  | 7 => .ok (.sra (hdrOf w) (fld w 15 5) (fld w 10 5) (fld w 5 5))
  | 8 => .ok (.slt (hdrOf w) (fld w 15 5) (fld w 10 5) (fld w 5 5))
  | 9 => .ok (.sltu (hdrOf w) (fld w 15 5) (fld w 10 5) (fld w 5 5))
  | 10 => .ok (.min (hdrOf w) (fld w 15 5) (fld w 10 5) (fld w 5 5))
  | 11 => .ok (.max (hdrOf w) (fld w 15 5) (fld w 10 5) (fld w 5 5))
  | 12 => .ok (.minu (hdrOf w) (fld w 15 5) (fld w 10 5) (fld w 5 5))
  | 13 => .ok (.maxu (hdrOf w) (fld w 15 5) (fld w 10 5) (fld w 5 5))
  | 14 => .ok (.mul (hdrOf w) (fld w 15 5) (fld w 10 5) (fld w 5 5))
  | 15 => .ok (.mulh (hdrOf w) (fld w 15 5) (fld w 10 5) (fld w 5 5))
  | 16 => .ok (.mulhu (hdrOf w) (fld w 15 5) (fld w 10 5) (fld w 5 5))
  | 17 => .ok (.div (hdrOf w) (fld w 15 5) (fld w 10 5) (fld w 5 5))
  | 18 => .ok (.divu (hdrOf w) (fld w 15 5) (fld w 10 5) (fld w 5 5))
  | 19 => .ok (.rem (hdrOf w) (fld w 15 5) (fld w 10 5) (fld w 5 5))
  | 20 => .ok (.remu (hdrOf w) (fld w 15 5) (fld w 10 5) (fld w 5 5))
  | 21 => rsv w 0x000003E0#32 (.clz (hdrOf w) (fld w 15 5) (fld w 10 5))
  | 22 => rsv w 0x000003E0#32 (.ctz (hdrOf w) (fld w 15 5) (fld w 10 5))
  | 23 => rsv w 0x000003E0#32 (.popc (hdrOf w) (fld w 15 5) (fld w 10 5))
  | 24 => rsv w 0x000003E0#32 (.sextB (hdrOf w) (fld w 15 5) (fld w 10 5))
  | 25 => rsv w 0x000003E0#32 (.sextH (hdrOf w) (fld w 15 5) (fld w 10 5))
  | 26 => rsv w 0x000003E0#32 (.sextW (hdrOf w) (fld w 15 5) (fld w 10 5))
  | 27 => rsv w 0x000003E0#32 (.zextW (hdrOf w) (fld w 15 5) (fld w 10 5))
  | _ => .error .unassigned

/-- The minors of group 0x19 (02 R43). -/
def decodeControl (w : BitVec 32) : Except Reject Instr :=
  match (fld w 0 5).toNat with
  | 0 => rsv w 0x000003E0#32 (.jalr (hdrOf w) (fld w 15 5) (fld w 10 5))
  | 1 => rsv w 0x000F83E0#32 (.setlcS (hdrOf w) (fld w 10 5))
  | 2 => rsv w 0x00007FE0#32 (.rdlc (hdrOf w) (fld w 15 5))
  | 3 => .ok (.cmovz (hdrOf w) (fld w 15 5) (fld w 10 5) (fld w 5 5))
  | 4 => .ok (.cmovnz (hdrOf w) (fld w 15 5) (fld w 10 5) (fld w 5 5))
  | 5 => rsv w 0x00007FE0#32 (.ifq (hdrOf w) (fld w 15 5))
  | 6 => rsv w 0x00007FE0#32 (.elseq (hdrOf w) (fld w 15 5))
  | 7 => rsv w 0x00007FE0#32 (.stgStage (hdrOf w) (fld w 15 5))
  | 8 => .ok (.loopp (hdrOf w) (fld w 15 5) (fld w 5 10))
  | 9 => rsv w 0x000F83E0#32 (.setrb (hdrOf w) (fld w 10 5))
  | _ => .error .unassigned

/-- The minors of group 0x1A (02 R43). -/
def decodeAddress (w : BitVec 32) : Except Reject Instr :=
  match (fld w 0 5).toNat with
  | 0 => .ok (.addSh1 (hdrOf w) (fld w 15 5) (fld w 10 5) (fld w 5 5))
  | 1 => .ok (.addSh2 (hdrOf w) (fld w 15 5) (fld w 10 5) (fld w 5 5))
  | 2 => .ok (.addSh3 (hdrOf w) (fld w 15 5) (fld w 10 5) (fld w 5 5))
  | 3 => .ok (.addSh4 (hdrOf w) (fld w 15 5) (fld w 10 5) (fld w 5 5))
  | 4 => .ok (.taddr (hdrOf w) (fld w 15 5) (fld w 10 5) (fld w 5 5))
  | _ => .error .unassigned

/-- The subcodes of BQ (02 R42). -/
def decodeBq (w : BitVec 32) : Except Reject Instr :=
  match (fld w 15 5).toNat with
  | 0 => .ok (.bcq (hdrOf w) (fld w 0 15))
  | 1 => .ok (.bncq (hdrOf w) (fld w 0 15))
  | 2 => .ok (.blc (hdrOf w) (fld w 0 15))
  | _ => .error .unassigned

/-- The X majors (02 R41). -/
def decodeX (w : BitVec 32) : Except Reject Instr :=
  match (fld w 20 5).toNat with
  | 0 => .ok (.addi (hdrOf w) (fld w 15 5) (fld w 10 5) (fld w 0 10))
  | 1 => .ok (.andi (hdrOf w) (fld w 15 5) (fld w 10 5) (fld w 0 10))
  | 2 => .ok (.ori (hdrOf w) (fld w 15 5) (fld w 10 5) (fld w 0 10))
  | 3 => .ok (.xori (hdrOf w) (fld w 15 5) (fld w 10 5) (fld w 0 10))
  | 4 => .ok (.slli (hdrOf w) (fld w 15 5) (fld w 10 5) (fld w 0 10))
  | 5 => .ok (.srli (hdrOf w) (fld w 15 5) (fld w 10 5) (fld w 0 10))
  | 6 => .ok (.srai (hdrOf w) (fld w 15 5) (fld w 10 5) (fld w 0 10))
  | 7 => .ok (.slti (hdrOf w) (fld w 15 5) (fld w 10 5) (fld w 0 10))
  | 8 => .ok (.sltiu (hdrOf w) (fld w 15 5) (fld w 10 5) (fld w 0 10))
  | 9 => .ok (.ldxD (hdrOf w) (fld w 15 5) (fld w 10 5) (fld w 0 10))
  | 10 => .ok (.ldxW (hdrOf w) (fld w 15 5) (fld w 10 5) (fld w 0 10))
  | 11 => .ok (.stxD (hdrOf w) (fld w 15 5) (fld w 10 5) (fld w 0 10))
  | 12 => .ok (.stxW (hdrOf w) (fld w 15 5) (fld w 10 5) (fld w 0 10))
  | 13 => rsv w 0x00007C00#32 (.csrr (hdrOf w) (fld w 15 5) (fld w 0 10))
  | 14 => rsv w 0x000F8000#32 (.csrw (hdrOf w) (fld w 10 5) (fld w 0 10))
  | 15 => .ok (.csrx (hdrOf w) (fld w 15 5) (fld w 10 5) (fld w 0 10))
  | 16 => .ok (.li (hdrOf w) (fld w 15 5) (fld w 0 15))
  | 17 => .ok (.lsh (hdrOf w) (fld w 15 5) (fld w 0 15))
  | 18 => .ok (.auipc (hdrOf w) (fld w 15 5) (fld w 0 15))
  | 19 => rsv w 0x000F8000#32 (.setlc (hdrOf w) (fld w 0 15))
  | 20 => .ok (.beqz (hdrOf w) (fld w 15 5) (fld w 0 15))
  | 21 => .ok (.bnez (hdrOf w) (fld w 15 5) (fld w 0 15))
  | 23 => .ok (.jal (hdrOf w) (fld w 15 5) (fld w 0 15))
  | 22 => decodeBq w
  | 24 => decodeAlu w
  | 25 => decodeControl w
  | 26 => decodeAddress w
  | _ => .error .unassigned

/-- The V opcodes (02 R44, 07 R154). -/
def decodeV (w : BitVec 32) : Except Reject Instr :=
  match (fld w 18 7).toNat with
  | 0 => .ok (.vadd (hdrOf w) (fld w 13 5) (fld w 8 5) (fld w 3 5) (fld w 0 3))
  | 1 => .ok (.vsub (hdrOf w) (fld w 13 5) (fld w 8 5) (fld w 3 5) (fld w 0 3))
  | 2 => .ok (.vmul (hdrOf w) (fld w 13 5) (fld w 8 5) (fld w 3 5) (fld w 0 3))
  | 3 => .ok (.vfma (hdrOf w) (fld w 13 5) (fld w 8 5) (fld w 3 5) (fld w 0 3))
  | 4 => .ok (.vfms (hdrOf w) (fld w 13 5) (fld w 8 5) (fld w 3 5) (fld w 0 3))
  | 5 => .ok (.vmin (hdrOf w) (fld w 13 5) (fld w 8 5) (fld w 3 5) (fld w 0 3))
  | 6 => .ok (.vmax (hdrOf w) (fld w 13 5) (fld w 8 5) (fld w 3 5) (fld w 0 3))
  | 7 => rsv w 0x000000F8#32 (.vabs (hdrOf w) (fld w 13 5) (fld w 8 5) (fld w 0 3))
  | 8 => rsv w 0x000000F8#32 (.vneg (hdrOf w) (fld w 13 5) (fld w 8 5) (fld w 0 3))
  | 9 => rsv w 0x000000F8#32 (.vrcp (hdrOf w) (fld w 13 5) (fld w 8 5) (fld w 0 3))
  | 10 => rsv w 0x000000F8#32 (.vrsq (hdrOf w) (fld w 13 5) (fld w 8 5) (fld w 0 3))
  | 11 => rsv w 0x000000F8#32 (.vexp2 (hdrOf w) (fld w 13 5) (fld w 8 5) (fld w 0 3))
  | 12 => rsv w 0x000000F8#32 (.vlog2 (hdrOf w) (fld w 13 5) (fld w 8 5) (fld w 0 3))
  | 13 => .ok (.vand (hdrOf w) (fld w 13 5) (fld w 8 5) (fld w 3 5) (fld w 0 3))
  | 14 => .ok (.vor (hdrOf w) (fld w 13 5) (fld w 8 5) (fld w 3 5) (fld w 0 3))
  | 15 => .ok (.vxor (hdrOf w) (fld w 13 5) (fld w 8 5) (fld w 3 5) (fld w 0 3))
  | 16 => rsv w 0x000000F8#32 (.vnot (hdrOf w) (fld w 13 5) (fld w 8 5) (fld w 0 3))
  | 17 => .ok (.vshl (hdrOf w) (fld w 13 5) (fld w 8 5) (fld w 3 5) (fld w 0 3))
  | 18 => .ok (.vshr (hdrOf w) (fld w 13 5) (fld w 8 5) (fld w 3 5) (fld w 0 3))
  | 19 => .ok (.vsra (hdrOf w) (fld w 13 5) (fld w 8 5) (fld w 3 5) (fld w 0 3))
  | 20 => .ok (.vshli (hdrOf w) (fld w 13 5) (fld w 8 5) (fld w 3 5) (fld w 0 3))
  | 21 => .ok (.vshri (hdrOf w) (fld w 13 5) (fld w 8 5) (fld w 3 5) (fld w 0 3))
  | 22 => .ok (.vcmpEq (hdrOf w) (fld w 13 5) (fld w 8 5) (fld w 3 5) (fld w 0 3))
  | 23 => .ok (.vcmpNe (hdrOf w) (fld w 13 5) (fld w 8 5) (fld w 3 5) (fld w 0 3))
  | 24 => .ok (.vcmpLt (hdrOf w) (fld w 13 5) (fld w 8 5) (fld w 3 5) (fld w 0 3))
  | 25 => .ok (.vcmpLe (hdrOf w) (fld w 13 5) (fld w 8 5) (fld w 3 5) (fld w 0 3))
  | 26 => .ok (.vcmpUn (hdrOf w) (fld w 13 5) (fld w 8 5) (fld w 3 5) (fld w 0 3))
  | 27 => rsv w 0x0003E0F8#32 (.vcqAny (hdrOf w) (fld w 8 5) (fld w 0 3))
  | 28 => rsv w 0x0003E0F8#32 (.vcqAll (hdrOf w) (fld w 8 5) (fld w 0 3))
  | 29 => .ok (.vsel (hdrOf w) (fld w 13 5) (fld w 8 5) (fld w 3 5) (fld w 0 3))
  | 30 => rsv w 0x000000F8#32 (.vmov (hdrOf w) (fld w 13 5) (fld w 8 5) (fld w 0 3))
  | 31 => rsv w 0x000000F8#32 (.vbcast (hdrOf w) (fld w 13 5) (fld w 8 5) (fld w 0 3))
  | 32 => rsv w 0x00000007#32 (.vext (hdrOf w) (fld w 13 5) (fld w 8 5) (fld w 3 5))
  | 33 => rsv w 0x00000007#32 (.vins (hdrOf w) (fld w 13 5) (fld w 8 5) (fld w 3 5))
  | 34 => rsv w 0x00001FF8#32 (.viota (hdrOf w) (fld w 13 5) (fld w 0 3))
  | 35 => .ok (.vcvt (hdrOf w) (fld w 13 5) (fld w 8 5) (fld w 3 5) (fld w 0 3))
  | 36 => rsv w 0x00000007#32 (.vpack (hdrOf w) (fld w 13 5) (fld w 8 5) (fld w 3 5))
  | 37 => rsv w 0x00000007#32 (.vunpack (hdrOf w) (fld w 13 5) (fld w 8 5) (fld w 3 5))
  | 38 => .ok (.vperm (hdrOf w) (fld w 13 5) (fld w 8 5) (fld w 3 5) (fld w 0 3))
  | 39 => .ok (.vshuf (hdrOf w) (fld w 13 5) (fld w 8 5) (fld w 3 5) (fld w 0 3))
  | 40 => .ok (.vslide (hdrOf w) (fld w 13 5) (fld w 8 5) (fld w 3 5) (fld w 0 3))
  | 41 => rsv w 0x000000F8#32 (.vredSum (hdrOf w) (fld w 13 5) (fld w 8 5) (fld w 0 3))
  | 42 => rsv w 0x000000F8#32 (.vredMin (hdrOf w) (fld w 13 5) (fld w 8 5) (fld w 0 3))
  | 43 => rsv w 0x000000F8#32 (.vredMax (hdrOf w) (fld w 13 5) (fld w 8 5) (fld w 0 3))
  | 44 => rsv w 0x000000F8#32 (.vscan (hdrOf w) (fld w 13 5) (fld w 8 5) (fld w 0 3))
  | 45 => rsv w 0x000000F8#32 (.vcompress (hdrOf w) (fld w 13 5) (fld w 8 5) (fld w 0 3))
  | 46 => rsv w 0x000000F8#32 (.vexpand (hdrOf w) (fld w 13 5) (fld w 8 5) (fld w 0 3))
  | 47 => .ok (.vprune (hdrOf w) (fld w 13 5) (fld w 8 5) (fld w 3 5) (fld w 0 3))
  | 48 => .ok (.vquant (hdrOf w) (fld w 13 5) (fld w 8 5) (fld w 3 5) (fld w 0 3))
  | 49 => .ok (.vscale (hdrOf w) (fld w 13 5) (fld w 8 5) (fld w 3 5) (fld w 0 3))
  | 50 => rsv2 w 0x0003E000#32 0x00000020#32 (.vdefer (hdrOf w) (fld w 8 5) (fld w 6 2) (fld w 3 2) (fld w 0 3))
  | 51 => rsv2 w 0x00001F00#32 0x00000020#32 (.vdrain (hdrOf w) (fld w 13 5) (fld w 6 2) (fld w 3 2) (fld w 0 3))
  | 52 => rsv2 w 0x00000007#32 0x000000F0#32 (.vtype (hdrOf w) (fld w 13 5) (fld w 8 5) (fld w 3 1))
  | 53 => rsv w 0x00000007#32 (.kand (hdrOf w) (fld w 13 5) (fld w 8 5) (fld w 3 5))
  | 54 => rsv w 0x00000007#32 (.kor (hdrOf w) (fld w 13 5) (fld w 8 5) (fld w 3 5))
  | 55 => rsv w 0x00000007#32 (.kxor (hdrOf w) (fld w 13 5) (fld w 8 5) (fld w 3 5))
  | 56 => rsv w 0x000000FF#32 (.knot (hdrOf w) (fld w 13 5) (fld w 8 5))
  | 57 => rsv w 0x000000FF#32 (.kpopc (hdrOf w) (fld w 13 5) (fld w 8 5))
  | 58 => rsv w 0x000000FF#32 (.kfirst (hdrOf w) (fld w 13 5) (fld w 8 5))
  | 59 => rsv w 0x000000FF#32 (.kmov (hdrOf w) (fld w 13 5) (fld w 8 5))
  | 60 => .ok (.vclamp (hdrOf w) (fld w 13 5) (fld w 8 5) (fld w 3 5) (fld w 0 3))
  | 61 => .ok (.vdot (hdrOf w) (fld w 13 5) (fld w 8 5) (fld w 3 5) (fld w 0 3))
  | _ => .error .unassigned

/-- The M opcodes (02 R45, 06). -/
def decodeM (w : BitVec 32) : Except Reject Instr :=
  match (fld w 19 6).toNat with
  | 0 => rsv w 0x00000070#32 (.mma (hdrOf w) (fld w 17 2) (fld w 14 3) (fld w 11 3) (fld w 10 1) (fld w 8 2) (fld w 7 1) (fld w 3 1) (fld w 2 1) (fld w 0 2))
  | 1 => rsv w 0x0000000C#32 (.mrun (hdrOf w) (fld w 17 2) (fld w 14 3) (fld w 11 3) (fld w 10 1) (fld w 8 2) (fld w 7 1) (fld w 4 3) (fld w 0 2))
  | 2 => rsv w 0x0001FFFF#32 (.mzero (hdrOf w) (fld w 17 2))
  | 3 => rsv w 0x000007FE#32 (.mdrain (hdrOf w) (fld w 17 2) (fld w 14 3) (fld w 11 3) (fld w 0 1))
  | 4 => rsv w 0x00003F82#32 (.mdrainV (hdrOf w) (fld w 17 2) (fld w 14 3) (fld w 2 5) (fld w 0 1))
  | 5 => rsv w 0x00003F83#32 (.mloada (hdrOf w) (fld w 17 2) (fld w 14 3) (fld w 2 5))
  | 6 => rsv w 0x00063F83#32 (.mscale (hdrOf w) (fld w 14 3) (fld w 2 5))
  | 7 => rsv w 0x0007FF80#32 (.mcfg (hdrOf w) (fld w 5 2) (fld w 3 2) (fld w 1 2) (fld w 0 1))
  | 8 => rsv w 0x0007FFFC#32 (.mlend (hdrOf w) (fld w 0 2))
  | 9 => rsv w 0x0007FFFC#32 (.mret (hdrOf w) (fld w 0 2))
  | 10 => rsv w 0x000607FC#32 (.mtrans (hdrOf w) (fld w 14 3) (fld w 11 3) (fld w 0 2))
  | 11 => rsv w 0x0001FFFF#32 (.mchk (hdrOf w) (fld w 17 2))
  | 12 => match (fld w 5 2).toNat with
    | 2 => rsv w 0x0001FF80#32 (.mprobeAcc (hdrOf w) (fld w 17 2) (fld w 0 5))
    | 3 => if w &&& 0x0007FF80#32 = 0#32 then .error (.operand (.mprobe (hdrOf w) (fld w 5 1) (fld w 0 5)))
      else .error (.reserved (.mprobe (hdrOf w) (fld w 5 1) (fld w 0 5)))
    | _ => rsv w 0x0007FF80#32 (.mprobe (hdrOf w) (fld w 5 1) (fld w 0 5))
  | _ => .error .unassigned

/-- The L opcodes (02 R45, 08). -/
def decodeL (w : BitVec 32) : Except Reject Instr :=
  match (fld w 19 6).toNat with
  | 0 => .ok (.vld (hdrOf w) (fld w 14 5) (fld w 9 5) (fld w 4 5) (fld w 2 2) (fld w 0 2))
  | 1 => .ok (.vldS (hdrOf w) (fld w 14 5) (fld w 9 5) (fld w 4 5) (fld w 2 2) (fld w 0 2))
  | 2 => .ok (.vst (hdrOf w) (fld w 14 5) (fld w 9 5) (fld w 4 5) (fld w 2 2) (fld w 0 2))
  | 3 => .ok (.vstS (hdrOf w) (fld w 14 5) (fld w 9 5) (fld w 4 5) (fld w 2 2) (fld w 0 2))
  | 4 => rsv w 0x00000003#32 (.mld (hdrOf w) (fld w 14 5) (fld w 9 5) (fld w 4 5) (fld w 2 2))
  | 5 => .ok (.mldT (hdrOf w) (fld w 14 5) (fld w 9 5) (fld w 4 5) (fld w 2 2) (fld w 0 2))
  | 6 => rsv w 0x00003FF3#32 (.mldU (hdrOf w) (fld w 14 5) (fld w 2 2))
  | 7 => rsv w 0x00000003#32 (.mst (hdrOf w) (fld w 14 5) (fld w 9 5) (fld w 4 5) (fld w 2 2))
  | 8 => .ok (.vldBm (hdrOf w) (fld w 14 5) (fld w 9 5) (fld w 4 5) (fld w 2 2) (fld w 0 2))
  | 9 => .ok (.vstBm (hdrOf w) (fld w 14 5) (fld w 9 5) (fld w 4 5) (fld w 2 2) (fld w 0 2))
  | 10 => .ok (.cpyIn (hdrOf w) (fld w 14 5) (fld w 9 5) (fld w 4 5) (fld w 2 2) (fld w 0 2))
  | 11 => .ok (.cpyOut (hdrOf w) (fld w 14 5) (fld w 9 5) (fld w 4 5) (fld w 2 2) (fld w 0 2))
  | 12 => .ok (.cpyLoc (hdrOf w) (fld w 14 5) (fld w 9 5) (fld w 4 5) (fld w 2 2) (fld w 0 2))
  | 13 => rsv w 0x0007C1FC#32 (.awf (hdrOf w) (fld w 9 5) (fld w 0 2))
  | 14 => rsv w 0x0007C1FC#32 (.rls (hdrOf w) (fld w 9 5) (fld w 0 2))
  | 15 => rsv w 0x0007C00C#32 (.agCfg (hdrOf w) (fld w 9 5) (fld w 4 5) (fld w 0 2))
  | 16 => rsv w 0x0007C00F#32 (.winCfg (hdrOf w) (fld w 9 5) (fld w 4 5))
  | 17 => match (fld w 0 2).toNat with
    | 0 => rsv w 0x000001C0#32 (.fopen (hdrOf w) (fld w 14 5) (fld w 9 5) (fld w 4 2) (fld w 2 2) (fld w 0 2))
    | 1 => rsv w 0x000001F0#32 (.fopen (hdrOf w) (fld w 14 5) (fld w 9 5) (fld w 4 2) (fld w 2 2) (fld w 0 2))
    | _ => if w &&& 0x000001C0#32 = 0#32 then .error (.operand (.fopen (hdrOf w) (fld w 14 5) (fld w 9 5) (fld w 4 2) (fld w 2 2) (fld w 0 2)))
      else .error (.reserved (.fopen (hdrOf w) (fld w 14 5) (fld w 9 5) (fld w 4 2) (fld w 2 2) (fld w 0 2)))
  | 18 => rsv w 0x00000003#32 (.fadv (hdrOf w) (fld w 14 5) (fld w 9 5) (fld w 4 5) (fld w 2 2))
  | 19 => rsv w 0x0007C1FF#32 (.fend (hdrOf w) (fld w 9 5))
  | 20 => rsv w 0x0007C1FF#32 (.fclose (hdrOf w) (fld w 9 5))
  | _ => .error .unassigned

/-- The Q opcodes (02 R45, 10, 12, 16, 18, 19). -/
def decodeQ (w : BitVec 32) : Except Reject Instr :=
  match (fld w 19 6).toNat with
  | 0 => .ok (.ldg (hdrOf w) (fld w 14 5) (fld w 9 5) (fld w 4 5) (fld w 2 2) (fld w 0 2))
  | 1 => .ok (.stg (hdrOf w) (fld w 14 5) (fld w 9 5) (fld w 4 5) (fld w 2 2) (fld w 0 2))
  | 2 => rsv w 0x00000003#32 (.lda (hdrOf w) (fld w 14 5) (fld w 9 5) (fld w 4 5) (fld w 2 2))
  | 3 => rsv w 0x00000003#32 (.strl (hdrOf w) (fld w 14 5) (fld w 9 5) (fld w 4 5) (fld w 2 2))
  | 4 => rsv w 0x0007FFF0#32 (.fence (hdrOf w) (fld w 2 2) (fld w 0 2))
  | 5 => .ok (.amoAdd (hdrOf w) (fld w 14 5) (fld w 9 5) (fld w 4 5) (fld w 2 2) (fld w 0 2))
  | 6 => .ok (.amoAnd (hdrOf w) (fld w 14 5) (fld w 9 5) (fld w 4 5) (fld w 2 2) (fld w 0 2))
  | 7 => .ok (.amoOr (hdrOf w) (fld w 14 5) (fld w 9 5) (fld w 4 5) (fld w 2 2) (fld w 0 2))
  | 8 => .ok (.amoXor (hdrOf w) (fld w 14 5) (fld w 9 5) (fld w 4 5) (fld w 2 2) (fld w 0 2))
  | 9 => .ok (.amoMin (hdrOf w) (fld w 14 5) (fld w 9 5) (fld w 4 5) (fld w 2 2) (fld w 0 2))
  | 10 => .ok (.amoMax (hdrOf w) (fld w 14 5) (fld w 9 5) (fld w 4 5) (fld w 2 2) (fld w 0 2))
  | 11 => .ok (.amoMinu (hdrOf w) (fld w 14 5) (fld w 9 5) (fld w 4 5) (fld w 2 2) (fld w 0 2))
  | 12 => .ok (.amoMaxu (hdrOf w) (fld w 14 5) (fld w 9 5) (fld w 4 5) (fld w 2 2) (fld w 0 2))
  | 13 => .ok (.amoSwap (hdrOf w) (fld w 14 5) (fld w 9 5) (fld w 4 5) (fld w 2 2) (fld w 0 2))
  | 14 => .ok (.amoCas (hdrOf w) (fld w 14 5) (fld w 9 5) (fld w 4 5) (fld w 2 2) (fld w 0 2))
  | 15 => .ok (.amoFadd (hdrOf w) (fld w 14 5) (fld w 9 5) (fld w 4 5) (fld w 2 2) (fld w 0 2))
  | 16 => rsv w 0x00000003#32 (.verst (hdrOf w) (fld w 14 5) (fld w 9 5) (fld w 4 5) (fld w 2 2))
  | 17 => rsv w 0x00000003#32 (.verld (hdrOf w) (fld w 14 5) (fld w 9 5) (fld w 4 5) (fld w 2 2))
  | 18 => rsv w 0x00000003#32 (.verrcl (hdrOf w) (fld w 14 5) (fld w 9 5) (fld w 4 5) (fld w 2 2))
  | 19 => rsv w 0x0007FFF3#32 (.barW (hdrOf w) (fld w 2 2))
  | 20 => rsv w 0x0007FFF3#32 (.barA (hdrOf w) (fld w 2 2))
  | 21 => rsv w 0x00003FF3#32 (.barT (hdrOf w) (fld w 14 5) (fld w 2 2))
  | 22 => rsv w 0x0007C1F3#32 (.bcast (hdrOf w) (fld w 9 5) (fld w 2 2))
  | 23 => rsv w 0x00003FF3#32 (.brecv (hdrOf w) (fld w 14 5) (fld w 2 2))
  | 24 => rsv w 0x00000003#32 (.red (hdrOf w) (fld w 14 5) (fld w 9 5) (fld w 4 5) (fld w 2 2))
  | 25 => rsv w 0x0007FFF3#32 (.evt (hdrOf w) (fld w 2 2))
  | 26 => rsv w 0x0000000F#32 (.submit (hdrOf w) (fld w 14 5) (fld w 9 5) (fld w 4 5))
  | 27 => rsv w 0x0000000F#32 (.mcast (hdrOf w) (fld w 14 5) (fld w 9 5) (fld w 4 5))
  | 28 => rsv w 0x0007C00F#32 (.wbr (hdrOf w) (fld w 9 5) (fld w 4 5))
  | 29 => rsv w 0x0007C00F#32 (.invr (hdrOf w) (fld w 9 5) (fld w 4 5))
  | 30 => rsv w 0x00003FFF#32 (.wbwait (hdrOf w) (fld w 14 5))
  | 31 => rsv w 0x0000000F#32 (.lat (hdrOf w) (fld w 14 5) (fld w 9 5) (fld w 4 5))
  | 32 => rsv w 0x0000000F#32 (.ldt (hdrOf w) (fld w 14 5) (fld w 9 5) (fld w 4 5))
  | 33 => rsv w 0x0000000F#32 (.lfold (hdrOf w) (fld w 14 5) (fld w 9 5) (fld w 4 5))
  | 34 => rsv w 0x000001FF#32 (.lfwait (hdrOf w) (fld w 14 5) (fld w 9 5))
  | 35 => rsv w 0x000001FF#32 (.lgen (hdrOf w) (fld w 14 5) (fld w 9 5))
  | 36 => rsv w 0x0007C00F#32 (.tkpush (hdrOf w) (fld w 9 5) (fld w 4 5))
  | 37 => rsv w 0x0007C00F#32 (.tkpop (hdrOf w) (fld w 9 5) (fld w 4 5))
  | 38 => rsv w 0x00003E0F#32 (.tkcnt (hdrOf w) (fld w 14 5) (fld w 4 5))
  | _ => .error .unassigned

/-- The Y opcodes (02 R45). -/
def decodeY (w : BitVec 32) : Except Reject Instr :=
  match (fld w 19 6).toNat with
  | 0 => rsv w 0x0007FF00#32 (.trap (hdrOf w) (fld w 0 8))
  | 1 => if fld w 0 1 = 0#1 then rsv w 0x0007FFFE#32 (.tretResume (hdrOf w)) else rsv w 0x0007FFFE#32 (.tretAbort (hdrOf w))
  | 2 => rsv w 0x0007FFFF#32 (.halt (hdrOf w))
  | 3 => rsv w 0x00003FFF#32 (.yield (hdrOf w) (fld w 14 5))
  | 4 => rsv w 0x0007FFFF#32 (.wfe (hdrOf w))
  | 5 => rsv w 0x0007C1FF#32 (.wut (hdrOf w) (fld w 9 5))
  | 6 => rsv w 0x00003FFE#32 (.rdtime (hdrOf w) (fld w 14 5) (fld w 0 1))
  | 7 => rsv w 0x000001FF#32 (.mperm (hdrOf w) (fld w 14 5) (fld w 9 5))
  | 8 => rsv w 0x00000100#32 (.rdst (hdrOf w) (fld w 14 5) (fld w 9 5) (fld w 0 8))
  | 9 => rsv w 0x00000100#32 (.wrst (hdrOf w) (fld w 14 5) (fld w 9 5) (fld w 0 8))
  | 10 => rsv w 0x00000100#32 (.ctxSave (hdrOf w) (fld w 14 5) (fld w 9 5) (fld w 0 8))
  | 11 => rsv w 0x00000100#32 (.ctxLoad (hdrOf w) (fld w 14 5) (fld w 9 5) (fld w 0 8))
  | 12 => if fld w 0 1 = 0#1 then rsv2 w 0#32 0x000001FE#32 (.domsetInstall (hdrOf w) (fld w 14 5) (fld w 9 5)) else rsv2 w 0#32 0x000001FE#32 (.domsetRemove (hdrOf w) (fld w 14 5) (fld w 9 5))
  | 13 => match (fld w 4 2).toNat with
    | 0 => rsv2 w 0#32 0x000001C0#32 (.hmsetQuiesce (hdrOf w) (fld w 14 5) (fld w 9 5) (fld w 0 4))
    | 1 => rsv2 w 0#32 0x000001C0#32 (.hmsetSwitch (hdrOf w) (fld w 14 5) (fld w 9 5) (fld w 0 4))
    | 2 => rsv2 w 0#32 0x000001C0#32 (.hmsetResume (hdrOf w) (fld w 14 5) (fld w 9 5) (fld w 0 4))
    | _ => .error (.operand (.hmsetQuiesce (hdrOf w) (fld w 14 5) (fld w 9 5) (fld w 0 4)))
  | 14 => rsv w 0x000001C0#32 (.rgload (hdrOf w) (fld w 14 5) (fld w 9 5) (fld w 0 6))
  | 15 => if fld w 6 1 = 0#1 then rsv w 0x00003F80#32 (.rgswapHot (hdrOf w) (fld w 14 5) (fld w 0 6)) else rsv w 0x00003F80#32 (.rgswapNow (hdrOf w) (fld w 14 5) (fld w 0 6))
  | 16 => if fld w 6 1 = 0#1 then rsv w 0x00003F80#32 (.rgfreezeFreeze (hdrOf w) (fld w 14 5) (fld w 0 6)) else rsv w 0x00003F80#32 (.rgfreezeThaw (hdrOf w) (fld w 14 5) (fld w 0 6))
  | 17 => match (fld w 6 2).toNat with
    | 0 => rsv2 w 0#32 0x00000100#32 (.rgreadSave (hdrOf w) (fld w 14 5) (fld w 9 5) (fld w 0 6))
    | 1 => .ok (.rgreadFetch (hdrOf w) (fld w 14 5) (fld w 9 5) (fld w 8 1) (fld w 0 6))
    | 2 => rsv w 0x00003E00#32 (.rgreadRestore (hdrOf w) (fld w 14 5) (fld w 8 1) (fld w 0 6))
    | _ => rsv2 w 0x00003E00#32 0x00000100#32 (.rgreadStatus (hdrOf w) (fld w 14 5) (fld w 0 6))
  | 18 => rsv w 0x00003E00#32 (.rgclk (hdrOf w) (fld w 14 5) (fld w 6 3) (fld w 0 6))
  | _ => .error .unassigned

/-- The W opcodes (02 R45, 13 R269). -/
def decodeW (w : BitVec 32) : Except Reject Instr :=
  match (fld w 21 4).toNat with
  | 0 => rsv w 0x00003FF8#32 (.wout (hdrOf w) (fld w 19 2) (fld w 14 5) (fld w 2 1) (fld w 0 2))
  | 1 => rsv w 0x00003FF4#32 (.win (hdrOf w) (fld w 19 2) (fld w 14 5) (fld w 3 1) (fld w 0 2))
  | 2 => rsv w 0x0007FFFF#32 (.weos (hdrOf w) (fld w 19 2))
  | 3 => rsv w 0x0007DFE0#32 (.wtest (hdrOf w) (fld w 19 2) (fld w 13 1) (fld w 0 5))
  | 4 => rsv w 0x00001FFE#32 (.wstat (hdrOf w) (fld w 19 2) (fld w 14 5) (fld w 13 1) (fld w 0 1))
  | 5 => if fld w 13 1 = 0#1 then rsv w 0x0007DFFF#32 (.wdrainIn (hdrOf w) (fld w 19 2)) else rsv w 0x0007DFFF#32 (.wdrainOut (hdrOf w) (fld w 19 2))
  | _ => .error .unassigned

/-- The H opcodes (02 R48, R49): every bit of a hint may be set. -/
def decodeH (w : BitVec 32) : Except Reject Instr :=
  match (fld w 19 6).toNat with
  | 0 => .ok (.prefG (hdrOf w) (fld w 14 5) (fld w 9 5) (fld w 0 9))
  | 1 => .ok (.prefS (hdrOf w) (fld w 14 5) (fld w 9 5) (fld w 0 9))
  | 2 => .ok (.prio (hdrOf w) (fld w 14 5) (fld w 9 5) (fld w 0 9))
  | 3 => .ok (.pause (hdrOf w) (fld w 14 5) (fld w 9 5) (fld w 0 9))
  | _ => .error .hint

/-- The decoder (02 R35-R45): total on every word. -/
def decode (w : BitVec 32) : Except Reject Instr :=
  match (fld w 29 3).toNat with
  | 0 => decodeX w
  | 1 => decodeL w
  | 2 => decodeM w
  | 3 => decodeV w
  | 4 => decodeQ w
  | 5 => decodeW w
  | 6 => decodeY w
  | _ => decodeH w

/-- The word that four bytes of code memory hold, the first at the lowest address (00 R6, 02 R35). -/
def wordOfBytes (b0 b1 b2 b3 : BitVec 8) : BitVec 32 := b3 ++ b2 ++ b1 ++ b0

/-- The four bytes of a word in ascending address order (00 R6, 02 R35). -/
def bytesOfWord (w : BitVec 32) : List (BitVec 8) :=
  [w.extractLsb' 0 8, w.extractLsb' 8 8, w.extractLsb' 16 8, w.extractLsb' 24 8]

/-- The instruction the decoder reads from a table row's word (every bit above `nbits` is 0). -/
def decodeTableWord (nbits w : Nat) : Option Instr :=
  match bytesOfWord (BitVec.ofNat 32 (w % 2 ^ nbits)) with
  | [b0, b1, b2, b3] => (decode (wordOfBytes b0 b1 b2 b3)).toOption
  | _ => none

/-- A field put at bit `lo` of a word. -/
def put {n : Nat} (lo : Nat) (x : BitVec n) : BitVec 32 := x.setWidth 32 <<< lo

/-- The header's bits (02 R35). -/
def putHdr (h : Hdr) : BitVec 32 := put 27 h.push ||| put 25 h.pop

/-- Is it an instruction word (and not an event, which has no encoding)? -/
def Instr.isWord : Instr → Bool
  | .addi _ _ _ _ => true
  | .andi _ _ _ _ => true
  | .ori _ _ _ _ => true
  | .xori _ _ _ _ => true
  | .slli _ _ _ _ => true
  | .srli _ _ _ _ => true
  | .srai _ _ _ _ => true
  | .slti _ _ _ _ => true
  | .sltiu _ _ _ _ => true
  | .ldxD _ _ _ _ => true
  | .ldxW _ _ _ _ => true
  | .stxD _ _ _ _ => true
  | .stxW _ _ _ _ => true
  | .csrr _ _ _ => true
  | .csrw _ _ _ => true
  | .csrx _ _ _ _ => true
  | .li _ _ _ => true
  | .lsh _ _ _ => true
  | .auipc _ _ _ => true
  | .setlc _ _ => true
  | .beqz _ _ _ => true
  | .bnez _ _ _ => true
  | .bcq _ _ => true
  | .bncq _ _ => true
  | .blc _ _ => true
  | .jal _ _ _ => true
  | .add _ _ _ _ => true
  | .sub _ _ _ _ => true
  | .and _ _ _ _ => true
  | .or _ _ _ _ => true
  | .xor _ _ _ _ => true
  | .sll _ _ _ _ => true
  | .srl _ _ _ _ => true
  | .sra _ _ _ _ => true
  | .slt _ _ _ _ => true
  | .sltu _ _ _ _ => true
  | .min _ _ _ _ => true
  | .max _ _ _ _ => true
  | .minu _ _ _ _ => true
  | .maxu _ _ _ _ => true
  | .mul _ _ _ _ => true
  | .mulh _ _ _ _ => true
  | .mulhu _ _ _ _ => true
  | .div _ _ _ _ => true
  | .divu _ _ _ _ => true
  | .rem _ _ _ _ => true
  | .remu _ _ _ _ => true
  | .clz _ _ _ => true
  | .ctz _ _ _ => true
  | .popc _ _ _ => true
  | .sextB _ _ _ => true
  | .sextH _ _ _ => true
  | .sextW _ _ _ => true
  | .zextW _ _ _ => true
  | .jalr _ _ _ => true
  | .setlcS _ _ => true
  | .rdlc _ _ => true
  | .cmovz _ _ _ _ => true
  | .cmovnz _ _ _ _ => true
  | .ifq _ _ => true
  | .elseq _ _ => true
  | .stgStage _ _ => true
  | .loopp _ _ _ => true
  | .setrb _ _ => true
  | .addSh1 _ _ _ _ => true
  | .addSh2 _ _ _ _ => true
  | .addSh3 _ _ _ _ => true
  | .addSh4 _ _ _ _ => true
  | .taddr _ _ _ _ => true
  | .vadd _ _ _ _ _ => true
  | .vsub _ _ _ _ _ => true
  | .vmul _ _ _ _ _ => true
  | .vfma _ _ _ _ _ => true
  | .vfms _ _ _ _ _ => true
  | .vmin _ _ _ _ _ => true
  | .vmax _ _ _ _ _ => true
  | .vabs _ _ _ _ => true
  | .vneg _ _ _ _ => true
  | .vrcp _ _ _ _ => true
  | .vrsq _ _ _ _ => true
  | .vexp2 _ _ _ _ => true
  | .vlog2 _ _ _ _ => true
  | .vand _ _ _ _ _ => true
  | .vor _ _ _ _ _ => true
  | .vxor _ _ _ _ _ => true
  | .vnot _ _ _ _ => true
  | .vshl _ _ _ _ _ => true
  | .vshr _ _ _ _ _ => true
  | .vsra _ _ _ _ _ => true
  | .vshli _ _ _ _ _ => true
  | .vshri _ _ _ _ _ => true
  | .vcmpEq _ _ _ _ _ => true
  | .vcmpNe _ _ _ _ _ => true
  | .vcmpLt _ _ _ _ _ => true
  | .vcmpLe _ _ _ _ _ => true
  | .vcmpUn _ _ _ _ _ => true
  | .vcqAny _ _ _ => true
  | .vcqAll _ _ _ => true
  | .vsel _ _ _ _ _ => true
  | .vmov _ _ _ _ => true
  | .vbcast _ _ _ _ => true
  | .vext _ _ _ _ => true
  | .vins _ _ _ _ => true
  | .viota _ _ _ => true
  | .vcvt _ _ _ _ _ => true
  | .vpack _ _ _ _ => true
  | .vunpack _ _ _ _ => true
  | .vperm _ _ _ _ _ => true
  | .vshuf _ _ _ _ _ => true
  | .vslide _ _ _ _ _ => true
  | .vredSum _ _ _ _ => true
  | .vredMin _ _ _ _ => true
  | .vredMax _ _ _ _ => true
  | .vscan _ _ _ _ => true
  | .vcompress _ _ _ _ => true
  | .vexpand _ _ _ _ => true
  | .vprune _ _ _ _ _ => true
  | .vquant _ _ _ _ _ => true
  | .vscale _ _ _ _ _ => true
  | .vdefer _ _ _ _ _ => true
  | .vdrain _ _ _ _ _ => true
  | .vtype _ _ _ _ => true
  | .kand _ _ _ _ => true
  | .kor _ _ _ _ => true
  | .kxor _ _ _ _ => true
  | .knot _ _ _ => true
  | .kpopc _ _ _ => true
  | .kfirst _ _ _ => true
  | .kmov _ _ _ => true
  | .vclamp _ _ _ _ _ => true
  | .vdot _ _ _ _ _ => true
  | .mma _ _ _ _ _ _ _ _ _ _ => true
  | .mrun _ _ _ _ _ _ _ _ _ => true
  | .mzero _ _ => true
  | .mdrain _ _ _ _ _ => true
  | .mdrainV _ _ _ _ _ => true
  | .mloada _ _ _ _ => true
  | .mscale _ _ _ => true
  | .mcfg _ _ _ _ _ => true
  | .mlend _ _ => true
  | .mret _ _ => true
  | .mtrans _ _ _ _ => true
  | .mchk _ _ => true
  | .mprobe _ _ _ => true
  | .mprobeAcc _ _ _ => true
  | .vld _ _ _ _ _ _ => true
  | .vldS _ _ _ _ _ _ => true
  | .vst _ _ _ _ _ _ => true
  | .vstS _ _ _ _ _ _ => true
  | .mld _ _ _ _ _ => true
  | .mldT _ _ _ _ _ _ => true
  | .mldU _ _ _ => true
  | .mst _ _ _ _ _ => true
  | .vldBm _ _ _ _ _ _ => true
  | .vstBm _ _ _ _ _ _ => true
  | .cpyIn _ _ _ _ _ _ => true
  | .cpyOut _ _ _ _ _ _ => true
  | .cpyLoc _ _ _ _ _ _ => true
  | .awf _ _ _ => true
  | .rls _ _ _ => true
  | .agCfg _ _ _ _ => true
  | .winCfg _ _ _ => true
  | .fopen _ _ _ _ _ _ => true
  | .fadv _ _ _ _ _ => true
  | .fend _ _ => true
  | .fclose _ _ => true
  | .ldg _ _ _ _ _ _ => true
  | .stg _ _ _ _ _ _ => true
  | .lda _ _ _ _ _ => true
  | .strl _ _ _ _ _ => true
  | .fence _ _ _ => true
  | .amoAdd _ _ _ _ _ _ => true
  | .amoAnd _ _ _ _ _ _ => true
  | .amoOr _ _ _ _ _ _ => true
  | .amoXor _ _ _ _ _ _ => true
  | .amoMin _ _ _ _ _ _ => true
  | .amoMax _ _ _ _ _ _ => true
  | .amoMinu _ _ _ _ _ _ => true
  | .amoMaxu _ _ _ _ _ _ => true
  | .amoSwap _ _ _ _ _ _ => true
  | .amoCas _ _ _ _ _ _ => true
  | .amoFadd _ _ _ _ _ _ => true
  | .verst _ _ _ _ _ => true
  | .verld _ _ _ _ _ => true
  | .verrcl _ _ _ _ _ => true
  | .barW _ _ => true
  | .barA _ _ => true
  | .barT _ _ _ => true
  | .bcast _ _ _ => true
  | .brecv _ _ _ => true
  | .red _ _ _ _ _ => true
  | .evt _ _ => true
  | .submit _ _ _ _ => true
  | .mcast _ _ _ _ => true
  | .wbr _ _ _ => true
  | .invr _ _ _ => true
  | .wbwait _ _ => true
  | .lat _ _ _ _ => true
  | .ldt _ _ _ _ => true
  | .lfold _ _ _ _ => true
  | .lfwait _ _ _ => true
  | .lgen _ _ _ => true
  | .tkpush _ _ _ => true
  | .tkpop _ _ _ => true
  | .tkcnt _ _ _ => true
  | .trap _ _ => true
  | .tretResume _ => true
  | .tretAbort _ => true
  | .halt _ => true
  | .yield _ _ => true
  | .wfe _ => true
  | .wut _ _ => true
  | .rdtime _ _ _ => true
  | .mperm _ _ _ => true
  | .rdst _ _ _ _ => true
  | .wrst _ _ _ _ => true
  | .ctxSave _ _ _ _ => true
  | .ctxLoad _ _ _ _ => true
  | .domsetInstall _ _ _ => true
  | .domsetRemove _ _ _ => true
  | .hmsetQuiesce _ _ _ _ => true
  | .hmsetSwitch _ _ _ _ => true
  | .hmsetResume _ _ _ _ => true
  | .rgload _ _ _ _ => true
  | .rgswapHot _ _ _ => true
  | .rgswapNow _ _ _ => true
  | .rgfreezeFreeze _ _ _ => true
  | .rgfreezeThaw _ _ _ => true
  | .rgreadSave _ _ _ _ => true
  | .rgreadFetch _ _ _ _ _ => true
  | .rgreadRestore _ _ _ _ => true
  | .rgreadStatus _ _ _ => true
  | .rgclk _ _ _ _ => true
  | .wout _ _ _ _ _ => true
  | .win _ _ _ _ _ => true
  | .weos _ _ => true
  | .wtest _ _ _ _ => true
  | .wstat _ _ _ _ _ => true
  | .wdrainIn _ _ => true
  | .wdrainOut _ _ => true
  | .prefG _ _ _ _ => true
  | .prefS _ _ _ _ => true
  | .prio _ _ _ _ => true
  | .pause _ _ _ _ => true
  | .engineWordStart _ _ _ => false
  | .wordRetire _ _ _ => false
  | .deadlockDetect _ => false
  | .correctableError _ => false
  | .freezeBegin _ => false
  | .freezeEnd _ => false
  | .pageRefillComplete _ _ _ _ => false
  | .pauseEnd _ _ => false
  | .accumulatorWriteback _ => false
  | .permitDecision _ => false
  | .transferStart _ _ _ => false
  | .transferChunk _ _ _ => false
  | .slotFill _ _ _ => false
  | .flitInject _ _ => false
  | .flitOffer _ _ => false
  | .sliceAccess _ _ => false
  | .rehomeResend _ _ => false
  | .sliceMissFill _ _ _ => false
  | .translationWalkDone _ _ => false
  | .wbrInvrFinish _ => false
  | .verstStallTimeout _ => false
  | .foldTile _ => false
  | .foldSwap _ => false
  | .invalidationRequest _ => false
  | .invalidationDone _ => false
  | .carveWrite _ _ _ => false
  | .loadGo _ => false
  | .loadComplete _ => false
  | .queueTableWrite _ _ _ => false
  | .devIdWrite _ => false
  | .registerWrite _ _ _ => false
  | .packetAccept _ _ => false
  | .copyPacketRow _ _ => false
  | .completionRecordWrite _ _ => false
  | .operandWordPoll _ => false
  | .priorityAging _ _ _ => false
  | .textRewrite _ _ _ => false
  | .nodePlace _ => false
  | .dispatch _ _ _ => false
  | .preemptDecision _ _ _ => false
  | .preemptSignal _ _ _ => false
  | .contextSaved _ _ _ => false
  | .nodeResume _ _ _ => false
  | .haltTreeFire _ _ _ => false
  | .syncArrival _ _ => false
  | .barrierRelease _ _ => false
  | .reductionResult _ _ => false
  | .broadcastDelivery _ _ => false
  | .broadcastCreditReturn _ _ => false
  | .eventDelivery _ _ => false
  | .syncFaultSignal _ _ => false
  | .brokenVerdict _ _ => false
  | .beatTransfer _ _ _ => false
  | .fifoCrossing _ _ => false
  | .withyTransfer _ _ => false
  | .regionRamError _ _ => false
  | .swapBoundary _ => false
  | .planeExchange _ => false
  | .saveWritebackDone _ => false
  | .wutCrossing _ => false
  | .hostWrite _ _ _ _ _ => false
  | .hostRead _ _ _ _ => false
  | .hostAtomicop _ _ _ _ _ _ _ => false
  | .linkBeatArrival _ _ _ _ => false
  | .treeTokenForward _ _ => false
  | .ptpMessage _ _ _ => false
  | .syncInterval _ _ _ => false
  | .governorCapUpdate _ _ _ => false
  | .thermalHold _ => false
  | .thermalShutdown => false
  | .patrolScrub _ _ => false
  | .packageReset _ => false
  | .dieReset _ => false
  | .stackReset _ _ => false
  | .linkReset _ _ => false
  | .reportRequest _ => false
  | .reportReady => false
  | .regionClockEdge _ => false
  | .hostCompletion _ _ _ => false
  | .hostCompletionTimeout _ => false
  | .msixVectorUnmask _ _ => false
  | .timeStRead => false
  | .ptpParentLoss => false

/-- The encoder: the word of an instruction, from the same encoding tables (02 R37, R38, R41-R45). An event has no word. -/
def encode : Instr → BitVec 32
  | .addi h d a i => 0x00000000#32 ||| putHdr h ||| put 15 d ||| put 10 a ||| put 0 i
  | .andi h d a i => 0x00100000#32 ||| putHdr h ||| put 15 d ||| put 10 a ||| put 0 i
  | .ori h d a i => 0x00200000#32 ||| putHdr h ||| put 15 d ||| put 10 a ||| put 0 i
  | .xori h d a i => 0x00300000#32 ||| putHdr h ||| put 15 d ||| put 10 a ||| put 0 i
  | .slli h d a i => 0x00400000#32 ||| putHdr h ||| put 15 d ||| put 10 a ||| put 0 i
  | .srli h d a i => 0x00500000#32 ||| putHdr h ||| put 15 d ||| put 10 a ||| put 0 i
  | .srai h d a i => 0x00600000#32 ||| putHdr h ||| put 15 d ||| put 10 a ||| put 0 i
  | .slti h d a i => 0x00700000#32 ||| putHdr h ||| put 15 d ||| put 10 a ||| put 0 i
  | .sltiu h d a i => 0x00800000#32 ||| putHdr h ||| put 15 d ||| put 10 a ||| put 0 i
  | .ldxD h d a i => 0x00900000#32 ||| putHdr h ||| put 15 d ||| put 10 a ||| put 0 i
  | .ldxW h d a i => 0x00A00000#32 ||| putHdr h ||| put 15 d ||| put 10 a ||| put 0 i
  | .stxD h d a i => 0x00B00000#32 ||| putHdr h ||| put 15 d ||| put 10 a ||| put 0 i
  | .stxW h d a i => 0x00C00000#32 ||| putHdr h ||| put 15 d ||| put 10 a ||| put 0 i
  | .csrr h d i => 0x00D00000#32 ||| putHdr h ||| put 15 d ||| put 0 i
  | .csrw h a i => 0x00E00000#32 ||| putHdr h ||| put 10 a ||| put 0 i
  | .csrx h d a i => 0x00F00000#32 ||| putHdr h ||| put 15 d ||| put 10 a ||| put 0 i
  | .li h d i => 0x01000000#32 ||| putHdr h ||| put 15 d ||| put 0 i
  | .lsh h d i => 0x01100000#32 ||| putHdr h ||| put 15 d ||| put 0 i
  | .auipc h d i => 0x01200000#32 ||| putHdr h ||| put 15 d ||| put 0 i
  | .setlc h i => 0x01300000#32 ||| putHdr h ||| put 0 i
  | .beqz h a f => 0x01400000#32 ||| putHdr h ||| put 15 a ||| put 0 f
  | .bnez h a f => 0x01500000#32 ||| putHdr h ||| put 15 a ||| put 0 f
  | .bcq h f => 0x01600000#32 ||| putHdr h ||| put 0 f
  | .bncq h f => 0x01608000#32 ||| putHdr h ||| put 0 f
  | .blc h f => 0x01610000#32 ||| putHdr h ||| put 0 f
  | .jal h d f => 0x01700000#32 ||| putHdr h ||| put 15 d ||| put 0 f
  | .add h d a b => 0x01800000#32 ||| putHdr h ||| put 15 d ||| put 10 a ||| put 5 b
  | .sub h d a b => 0x01800001#32 ||| putHdr h ||| put 15 d ||| put 10 a ||| put 5 b
  | .and h d a b => 0x01800002#32 ||| putHdr h ||| put 15 d ||| put 10 a ||| put 5 b
  | .or h d a b => 0x01800003#32 ||| putHdr h ||| put 15 d ||| put 10 a ||| put 5 b
  | .xor h d a b => 0x01800004#32 ||| putHdr h ||| put 15 d ||| put 10 a ||| put 5 b
  | .sll h d a b => 0x01800005#32 ||| putHdr h ||| put 15 d ||| put 10 a ||| put 5 b
  | .srl h d a b => 0x01800006#32 ||| putHdr h ||| put 15 d ||| put 10 a ||| put 5 b
  | .sra h d a b => 0x01800007#32 ||| putHdr h ||| put 15 d ||| put 10 a ||| put 5 b
  | .slt h d a b => 0x01800008#32 ||| putHdr h ||| put 15 d ||| put 10 a ||| put 5 b
  | .sltu h d a b => 0x01800009#32 ||| putHdr h ||| put 15 d ||| put 10 a ||| put 5 b
  | .min h d a b => 0x0180000A#32 ||| putHdr h ||| put 15 d ||| put 10 a ||| put 5 b
  | .max h d a b => 0x0180000B#32 ||| putHdr h ||| put 15 d ||| put 10 a ||| put 5 b
  | .minu h d a b => 0x0180000C#32 ||| putHdr h ||| put 15 d ||| put 10 a ||| put 5 b
  | .maxu h d a b => 0x0180000D#32 ||| putHdr h ||| put 15 d ||| put 10 a ||| put 5 b
  | .mul h d a b => 0x0180000E#32 ||| putHdr h ||| put 15 d ||| put 10 a ||| put 5 b
  | .mulh h d a b => 0x0180000F#32 ||| putHdr h ||| put 15 d ||| put 10 a ||| put 5 b
  | .mulhu h d a b => 0x01800010#32 ||| putHdr h ||| put 15 d ||| put 10 a ||| put 5 b
  | .div h d a b => 0x01800011#32 ||| putHdr h ||| put 15 d ||| put 10 a ||| put 5 b
  | .divu h d a b => 0x01800012#32 ||| putHdr h ||| put 15 d ||| put 10 a ||| put 5 b
  | .rem h d a b => 0x01800013#32 ||| putHdr h ||| put 15 d ||| put 10 a ||| put 5 b
  | .remu h d a b => 0x01800014#32 ||| putHdr h ||| put 15 d ||| put 10 a ||| put 5 b
  | .clz h d a => 0x01800015#32 ||| putHdr h ||| put 15 d ||| put 10 a
  | .ctz h d a => 0x01800016#32 ||| putHdr h ||| put 15 d ||| put 10 a
  | .popc h d a => 0x01800017#32 ||| putHdr h ||| put 15 d ||| put 10 a
  | .sextB h d a => 0x01800018#32 ||| putHdr h ||| put 15 d ||| put 10 a
  | .sextH h d a => 0x01800019#32 ||| putHdr h ||| put 15 d ||| put 10 a
  | .sextW h d a => 0x0180001A#32 ||| putHdr h ||| put 15 d ||| put 10 a
  | .zextW h d a => 0x0180001B#32 ||| putHdr h ||| put 15 d ||| put 10 a
  | .jalr h d a => 0x01900000#32 ||| putHdr h ||| put 15 d ||| put 10 a
  | .setlcS h a => 0x01900001#32 ||| putHdr h ||| put 10 a
  | .rdlc h d => 0x01900002#32 ||| putHdr h ||| put 15 d
  | .cmovz h d a b => 0x01900003#32 ||| putHdr h ||| put 15 d ||| put 10 a ||| put 5 b
  | .cmovnz h d a b => 0x01900004#32 ||| putHdr h ||| put 15 d ||| put 10 a ||| put 5 b
  | .ifq h n => 0x01900005#32 ||| putHdr h ||| put 15 n
  | .elseq h n => 0x01900006#32 ||| putHdr h ||| put 15 n
  | .stgStage h n => 0x01900007#32 ||| putHdr h ||| put 15 n
  | .loopp h s l => 0x01900008#32 ||| putHdr h ||| put 15 s ||| put 5 l
  | .setrb h a => 0x01900009#32 ||| putHdr h ||| put 10 a
  | .addSh1 h d a b => 0x01A00000#32 ||| putHdr h ||| put 15 d ||| put 10 a ||| put 5 b
  | .addSh2 h d a b => 0x01A00001#32 ||| putHdr h ||| put 15 d ||| put 10 a ||| put 5 b
  | .addSh3 h d a b => 0x01A00002#32 ||| putHdr h ||| put 15 d ||| put 10 a ||| put 5 b
  | .addSh4 h d a b => 0x01A00003#32 ||| putHdr h ||| put 15 d ||| put 10 a ||| put 5 b
  | .taddr h d a b => 0x01A00004#32 ||| putHdr h ||| put 15 d ||| put 10 a ||| put 5 b
  | .vadd h d a b k => 0x60000000#32 ||| putHdr h ||| put 13 d ||| put 8 a ||| put 3 b ||| put 0 k
  | .vsub h d a b k => 0x60040000#32 ||| putHdr h ||| put 13 d ||| put 8 a ||| put 3 b ||| put 0 k
  | .vmul h d a b k => 0x60080000#32 ||| putHdr h ||| put 13 d ||| put 8 a ||| put 3 b ||| put 0 k
  | .vfma h d a b k => 0x600C0000#32 ||| putHdr h ||| put 13 d ||| put 8 a ||| put 3 b ||| put 0 k
  | .vfms h d a b k => 0x60100000#32 ||| putHdr h ||| put 13 d ||| put 8 a ||| put 3 b ||| put 0 k
  | .vmin h d a b k => 0x60140000#32 ||| putHdr h ||| put 13 d ||| put 8 a ||| put 3 b ||| put 0 k
  | .vmax h d a b k => 0x60180000#32 ||| putHdr h ||| put 13 d ||| put 8 a ||| put 3 b ||| put 0 k
  | .vabs h d a k => 0x601C0000#32 ||| putHdr h ||| put 13 d ||| put 8 a ||| put 0 k
  | .vneg h d a k => 0x60200000#32 ||| putHdr h ||| put 13 d ||| put 8 a ||| put 0 k
  | .vrcp h d a k => 0x60240000#32 ||| putHdr h ||| put 13 d ||| put 8 a ||| put 0 k
  | .vrsq h d a k => 0x60280000#32 ||| putHdr h ||| put 13 d ||| put 8 a ||| put 0 k
  | .vexp2 h d a k => 0x602C0000#32 ||| putHdr h ||| put 13 d ||| put 8 a ||| put 0 k
  | .vlog2 h d a k => 0x60300000#32 ||| putHdr h ||| put 13 d ||| put 8 a ||| put 0 k
  | .vand h d a b k => 0x60340000#32 ||| putHdr h ||| put 13 d ||| put 8 a ||| put 3 b ||| put 0 k
  | .vor h d a b k => 0x60380000#32 ||| putHdr h ||| put 13 d ||| put 8 a ||| put 3 b ||| put 0 k
  | .vxor h d a b k => 0x603C0000#32 ||| putHdr h ||| put 13 d ||| put 8 a ||| put 3 b ||| put 0 k
  | .vnot h d a k => 0x60400000#32 ||| putHdr h ||| put 13 d ||| put 8 a ||| put 0 k
  | .vshl h d a b k => 0x60440000#32 ||| putHdr h ||| put 13 d ||| put 8 a ||| put 3 b ||| put 0 k
  | .vshr h d a b k => 0x60480000#32 ||| putHdr h ||| put 13 d ||| put 8 a ||| put 3 b ||| put 0 k
  | .vsra h d a b k => 0x604C0000#32 ||| putHdr h ||| put 13 d ||| put 8 a ||| put 3 b ||| put 0 k
  | .vshli h d a i k => 0x60500000#32 ||| putHdr h ||| put 13 d ||| put 8 a ||| put 3 i ||| put 0 k
  | .vshri h d a i k => 0x60540000#32 ||| putHdr h ||| put 13 d ||| put 8 a ||| put 3 i ||| put 0 k
  | .vcmpEq h d a b k => 0x60580000#32 ||| putHdr h ||| put 13 d ||| put 8 a ||| put 3 b ||| put 0 k
  | .vcmpNe h d a b k => 0x605C0000#32 ||| putHdr h ||| put 13 d ||| put 8 a ||| put 3 b ||| put 0 k
  | .vcmpLt h d a b k => 0x60600000#32 ||| putHdr h ||| put 13 d ||| put 8 a ||| put 3 b ||| put 0 k
  | .vcmpLe h d a b k => 0x60640000#32 ||| putHdr h ||| put 13 d ||| put 8 a ||| put 3 b ||| put 0 k
  | .vcmpUn h d a b k => 0x60680000#32 ||| putHdr h ||| put 13 d ||| put 8 a ||| put 3 b ||| put 0 k
  | .vcqAny h a k => 0x606C0000#32 ||| putHdr h ||| put 8 a ||| put 0 k
  | .vcqAll h a k => 0x60700000#32 ||| putHdr h ||| put 8 a ||| put 0 k
  | .vsel h d a b k => 0x60740000#32 ||| putHdr h ||| put 13 d ||| put 8 a ||| put 3 b ||| put 0 k
  | .vmov h d a k => 0x60780000#32 ||| putHdr h ||| put 13 d ||| put 8 a ||| put 0 k
  | .vbcast h d a k => 0x607C0000#32 ||| putHdr h ||| put 13 d ||| put 8 a ||| put 0 k
  | .vext h d a b => 0x60800000#32 ||| putHdr h ||| put 13 d ||| put 8 a ||| put 3 b
  | .vins h d a b => 0x60840000#32 ||| putHdr h ||| put 13 d ||| put 8 a ||| put 3 b
  | .viota h d k => 0x60880000#32 ||| putHdr h ||| put 13 d ||| put 0 k
  | .vcvt h d a i k => 0x608C0000#32 ||| putHdr h ||| put 13 d ||| put 8 a ||| put 3 i ||| put 0 k
  | .vpack h d a i => 0x60900000#32 ||| putHdr h ||| put 13 d ||| put 8 a ||| put 3 i
  | .vunpack h d a i => 0x60940000#32 ||| putHdr h ||| put 13 d ||| put 8 a ||| put 3 i
  | .vperm h d a b k => 0x60980000#32 ||| putHdr h ||| put 13 d ||| put 8 a ||| put 3 b ||| put 0 k
  | .vshuf h d a i k => 0x609C0000#32 ||| putHdr h ||| put 13 d ||| put 8 a ||| put 3 i ||| put 0 k
  | .vslide h d a b k => 0x60A00000#32 ||| putHdr h ||| put 13 d ||| put 8 a ||| put 3 b ||| put 0 k
  | .vredSum h d a k => 0x60A40000#32 ||| putHdr h ||| put 13 d ||| put 8 a ||| put 0 k
  | .vredMin h d a k => 0x60A80000#32 ||| putHdr h ||| put 13 d ||| put 8 a ||| put 0 k
  | .vredMax h d a k => 0x60AC0000#32 ||| putHdr h ||| put 13 d ||| put 8 a ||| put 0 k
  | .vscan h d a k => 0x60B00000#32 ||| putHdr h ||| put 13 d ||| put 8 a ||| put 0 k
  | .vcompress h d a k => 0x60B40000#32 ||| putHdr h ||| put 13 d ||| put 8 a ||| put 0 k
  | .vexpand h d a k => 0x60B80000#32 ||| putHdr h ||| put 13 d ||| put 8 a ||| put 0 k
  | .vprune h d a i k => 0x60BC0000#32 ||| putHdr h ||| put 13 d ||| put 8 a ||| put 3 i ||| put 0 k
  | .vquant h d a b k => 0x60C00000#32 ||| putHdr h ||| put 13 d ||| put 8 a ||| put 3 b ||| put 0 k
  | .vscale h d a b k => 0x60C40000#32 ||| putHdr h ||| put 13 d ||| put 8 a ||| put 3 b ||| put 0 k
  | .vdefer h a n x k => 0x60C80000#32 ||| putHdr h ||| put 8 a ||| put 6 n ||| put 3 x ||| put 0 k
  | .vdrain h d n x k => 0x60CC0000#32 ||| putHdr h ||| put 13 d ||| put 6 n ||| put 3 x ||| put 0 k
  | .vtype h d a s => 0x60D00000#32 ||| putHdr h ||| put 13 d ||| put 8 a ||| put 3 s
  | .kand h d a b => 0x60D40000#32 ||| putHdr h ||| put 13 d ||| put 8 a ||| put 3 b
  | .kor h d a b => 0x60D80000#32 ||| putHdr h ||| put 13 d ||| put 8 a ||| put 3 b
  | .kxor h d a b => 0x60DC0000#32 ||| putHdr h ||| put 13 d ||| put 8 a ||| put 3 b
  | .knot h d a => 0x60E00000#32 ||| putHdr h ||| put 13 d ||| put 8 a
  | .kpopc h d a => 0x60E40000#32 ||| putHdr h ||| put 13 d ||| put 8 a
  | .kfirst h d a => 0x60E80000#32 ||| putHdr h ||| put 13 d ||| put 8 a
  | .kmov h d a => 0x60EC0000#32 ||| putHdr h ||| put 13 d ||| put 8 a
  | .vclamp h d a b k => 0x60F00000#32 ||| putHdr h ||| put 13 d ||| put 8 a ||| put 3 b ||| put 0 k
  | .vdot h d a b k => 0x60F40000#32 ||| putHdr h ||| put 13 d ||| put 8 a ||| put 3 b ||| put 0 k
  | .mma h c a b z m t x y r => 0x40000000#32 ||| putHdr h ||| put 17 c ||| put 14 a ||| put 11 b ||| put 10 z ||| put 8 m ||| put 7 t ||| put 3 x ||| put 2 y ||| put 0 r
  | .mrun h c a b z m t n r => 0x40080000#32 ||| putHdr h ||| put 17 c ||| put 14 a ||| put 11 b ||| put 10 z ||| put 8 m ||| put 7 t ||| put 4 n ||| put 0 r
  | .mzero h c => 0x40100000#32 ||| putHdr h ||| put 17 c
  | .mdrain h c y d z => 0x40180000#32 ||| putHdr h ||| put 17 c ||| put 14 y ||| put 11 d ||| put 0 z
  | .mdrainV h c y v z => 0x40200000#32 ||| putHdr h ||| put 17 c ||| put 14 y ||| put 2 v ||| put 0 z
  | .mloada h c y v => 0x40280000#32 ||| putHdr h ||| put 17 c ||| put 14 y ||| put 2 v
  | .mscale h d v => 0x40300000#32 ||| putHdr h ||| put 14 d ||| put 2 v
  | .mcfg h m a b r => 0x40380000#32 ||| putHdr h ||| put 5 m ||| put 3 a ||| put 1 b ||| put 0 r
  | .mlend h b => 0x40400000#32 ||| putHdr h ||| put 0 b
  | .mret h b => 0x40480000#32 ||| putHdr h ||| put 0 b
  | .mtrans h s d w => 0x40500000#32 ||| putHdr h ||| put 14 s ||| put 11 d ||| put 0 w
  | .mchk h c => 0x40580000#32 ||| putHdr h ||| put 17 c
  | .mprobe h s d => 0x40600000#32 ||| putHdr h ||| put 5 s ||| put 0 d
  | .mprobeAcc h c d => 0x40600040#32 ||| putHdr h ||| put 17 c ||| put 0 d
  | .vld h d a b c z => 0x20000000#32 ||| putHdr h ||| put 14 d ||| put 9 a ||| put 4 b ||| put 2 c ||| put 0 z
  | .vldS h d a b c x => 0x20080000#32 ||| putHdr h ||| put 14 d ||| put 9 a ||| put 4 b ||| put 2 c ||| put 0 x
  | .vst h d a b c z => 0x20100000#32 ||| putHdr h ||| put 14 d ||| put 9 a ||| put 4 b ||| put 2 c ||| put 0 z
  | .vstS h d a b c x => 0x20180000#32 ||| putHdr h ||| put 14 d ||| put 9 a ||| put 4 b ||| put 2 c ||| put 0 x
  | .mld h d a b c => 0x20200000#32 ||| putHdr h ||| put 14 d ||| put 9 a ||| put 4 b ||| put 2 c
  | .mldT h d a b c w => 0x20280000#32 ||| putHdr h ||| put 14 d ||| put 9 a ||| put 4 b ||| put 2 c ||| put 0 w
  | .mldU h d c => 0x20300000#32 ||| putHdr h ||| put 14 d ||| put 2 c
  | .mst h d a b c => 0x20380000#32 ||| putHdr h ||| put 14 d ||| put 9 a ||| put 4 b ||| put 2 c
  | .vldBm h d a b c n => 0x20400000#32 ||| putHdr h ||| put 14 d ||| put 9 a ||| put 4 b ||| put 2 c ||| put 0 n
  | .vstBm h d a b c n => 0x20480000#32 ||| putHdr h ||| put 14 d ||| put 9 a ||| put 4 b ||| put 2 c ||| put 0 n
  | .cpyIn h d a b c x => 0x20500000#32 ||| putHdr h ||| put 14 d ||| put 9 a ||| put 4 b ||| put 2 c ||| put 0 x
  | .cpyOut h d a b c x => 0x20580000#32 ||| putHdr h ||| put 14 d ||| put 9 a ||| put 4 b ||| put 2 c ||| put 0 x
  | .cpyLoc h d a b c x => 0x20600000#32 ||| putHdr h ||| put 14 d ||| put 9 a ||| put 4 b ||| put 2 c ||| put 0 x
  | .awf h a x => 0x20680000#32 ||| putHdr h ||| put 9 a ||| put 0 x
  | .rls h a x => 0x20700000#32 ||| putHdr h ||| put 9 a ||| put 0 x
  | .agCfg h a j g => 0x20780000#32 ||| putHdr h ||| put 9 a ||| put 4 j ||| put 0 g
  | .winCfg h a b => 0x20800000#32 ||| putHdr h ||| put 9 a ||| put 4 b
  | .fopen h d a n c k => 0x20880000#32 ||| putHdr h ||| put 14 d ||| put 9 a ||| put 4 n ||| put 2 c ||| put 0 k
  | .fadv h d a b c => 0x20900000#32 ||| putHdr h ||| put 14 d ||| put 9 a ||| put 4 b ||| put 2 c
  | .fend h a => 0x20980000#32 ||| putHdr h ||| put 9 a
  | .fclose h a => 0x20A00000#32 ||| putHdr h ||| put 9 a
  | .ldg h d a b e o => 0x80000000#32 ||| putHdr h ||| put 14 d ||| put 9 a ||| put 4 b ||| put 2 e ||| put 0 o
  | .stg h d a b e o => 0x80080000#32 ||| putHdr h ||| put 14 d ||| put 9 a ||| put 4 b ||| put 2 e ||| put 0 o
  | .lda h d a b e => 0x80100000#32 ||| putHdr h ||| put 14 d ||| put 9 a ||| put 4 b ||| put 2 e
  | .strl h d a b e => 0x80180000#32 ||| putHdr h ||| put 14 d ||| put 9 a ||| put 4 b ||| put 2 e
  | .fence h e o => 0x80200000#32 ||| putHdr h ||| put 2 e ||| put 0 o
  | .amoAdd h d a b e o => 0x80280000#32 ||| putHdr h ||| put 14 d ||| put 9 a ||| put 4 b ||| put 2 e ||| put 0 o
  | .amoAnd h d a b e o => 0x80300000#32 ||| putHdr h ||| put 14 d ||| put 9 a ||| put 4 b ||| put 2 e ||| put 0 o
  | .amoOr h d a b e o => 0x80380000#32 ||| putHdr h ||| put 14 d ||| put 9 a ||| put 4 b ||| put 2 e ||| put 0 o
  | .amoXor h d a b e o => 0x80400000#32 ||| putHdr h ||| put 14 d ||| put 9 a ||| put 4 b ||| put 2 e ||| put 0 o
  | .amoMin h d a b e o => 0x80480000#32 ||| putHdr h ||| put 14 d ||| put 9 a ||| put 4 b ||| put 2 e ||| put 0 o
  | .amoMax h d a b e o => 0x80500000#32 ||| putHdr h ||| put 14 d ||| put 9 a ||| put 4 b ||| put 2 e ||| put 0 o
  | .amoMinu h d a b e o => 0x80580000#32 ||| putHdr h ||| put 14 d ||| put 9 a ||| put 4 b ||| put 2 e ||| put 0 o
  | .amoMaxu h d a b e o => 0x80600000#32 ||| putHdr h ||| put 14 d ||| put 9 a ||| put 4 b ||| put 2 e ||| put 0 o
  | .amoSwap h d a b e o => 0x80680000#32 ||| putHdr h ||| put 14 d ||| put 9 a ||| put 4 b ||| put 2 e ||| put 0 o
  | .amoCas h d a b e o => 0x80700000#32 ||| putHdr h ||| put 14 d ||| put 9 a ||| put 4 b ||| put 2 e ||| put 0 o
  | .amoFadd h d a b e o => 0x80780000#32 ||| putHdr h ||| put 14 d ||| put 9 a ||| put 4 b ||| put 2 e ||| put 0 o
  | .verst h d a b e => 0x80800000#32 ||| putHdr h ||| put 14 d ||| put 9 a ||| put 4 b ||| put 2 e
  | .verld h d a b e => 0x80880000#32 ||| putHdr h ||| put 14 d ||| put 9 a ||| put 4 b ||| put 2 e
  | .verrcl h d a b e => 0x80900000#32 ||| putHdr h ||| put 14 d ||| put 9 a ||| put 4 b ||| put 2 e
  | .barW h l => 0x80980000#32 ||| putHdr h ||| put 2 l
  | .barA h l => 0x80A00000#32 ||| putHdr h ||| put 2 l
  | .barT h d l => 0x80A80000#32 ||| putHdr h ||| put 14 d ||| put 2 l
  | .bcast h a l => 0x80B00000#32 ||| putHdr h ||| put 9 a ||| put 2 l
  | .brecv h d l => 0x80B80000#32 ||| putHdr h ||| put 14 d ||| put 2 l
  | .red h d a b l => 0x80C00000#32 ||| putHdr h ||| put 14 d ||| put 9 a ||| put 4 b ||| put 2 l
  | .evt h l => 0x80C80000#32 ||| putHdr h ||| put 2 l
  | .submit h d a b => 0x80D00000#32 ||| putHdr h ||| put 14 d ||| put 9 a ||| put 4 b
  | .mcast h d a b => 0x80D80000#32 ||| putHdr h ||| put 14 d ||| put 9 a ||| put 4 b
  | .wbr h a b => 0x80E00000#32 ||| putHdr h ||| put 9 a ||| put 4 b
  | .invr h a b => 0x80E80000#32 ||| putHdr h ||| put 9 a ||| put 4 b
  | .wbwait h d => 0x80F00000#32 ||| putHdr h ||| put 14 d
  | .lat h d a b => 0x80F80000#32 ||| putHdr h ||| put 14 d ||| put 9 a ||| put 4 b
  | .ldt h d a b => 0x81000000#32 ||| putHdr h ||| put 14 d ||| put 9 a ||| put 4 b
  | .lfold h d a b => 0x81080000#32 ||| putHdr h ||| put 14 d ||| put 9 a ||| put 4 b
  | .lfwait h d a => 0x81100000#32 ||| putHdr h ||| put 14 d ||| put 9 a
  | .lgen h d a => 0x81180000#32 ||| putHdr h ||| put 14 d ||| put 9 a
  | .tkpush h a b => 0x81200000#32 ||| putHdr h ||| put 9 a ||| put 4 b
  | .tkpop h a b => 0x81280000#32 ||| putHdr h ||| put 9 a ||| put 4 b
  | .tkcnt h d b => 0x81300000#32 ||| putHdr h ||| put 14 d ||| put 4 b
  | .trap h c => 0xC0000000#32 ||| putHdr h ||| put 0 c
  | .tretResume h => 0xC0080000#32 ||| putHdr h
  | .tretAbort h => 0xC0080001#32 ||| putHdr h
  | .halt h => 0xC0100000#32 ||| putHdr h
  | .yield h d => 0xC0180000#32 ||| putHdr h ||| put 14 d
  | .wfe h => 0xC0200000#32 ||| putHdr h
  | .wut h a => 0xC0280000#32 ||| putHdr h ||| put 9 a
  | .rdtime h d s => 0xC0300000#32 ||| putHdr h ||| put 14 d ||| put 0 s
  | .mperm h d a => 0xC0380000#32 ||| putHdr h ||| put 14 d ||| put 9 a
  | .rdst h d a c => 0xC0400000#32 ||| putHdr h ||| put 14 d ||| put 9 a ||| put 0 c
  | .wrst h d a c => 0xC0480000#32 ||| putHdr h ||| put 14 d ||| put 9 a ||| put 0 c
  | .ctxSave h d a c => 0xC0500000#32 ||| putHdr h ||| put 14 d ||| put 9 a ||| put 0 c
  | .ctxLoad h d a c => 0xC0580000#32 ||| putHdr h ||| put 14 d ||| put 9 a ||| put 0 c
  | .domsetInstall h d a => 0xC0600000#32 ||| putHdr h ||| put 14 d ||| put 9 a
  | .domsetRemove h d a => 0xC0600001#32 ||| putHdr h ||| put 14 d ||| put 9 a
  | .hmsetQuiesce h d a m => 0xC0680000#32 ||| putHdr h ||| put 14 d ||| put 9 a ||| put 0 m
  | .hmsetSwitch h d a m => 0xC0680010#32 ||| putHdr h ||| put 14 d ||| put 9 a ||| put 0 m
  | .hmsetResume h d a m => 0xC0680020#32 ||| putHdr h ||| put 14 d ||| put 9 a ||| put 0 m
  | .rgload h d a g => 0xC0700000#32 ||| putHdr h ||| put 14 d ||| put 9 a ||| put 0 g
  | .rgswapHot h d g => 0xC0780000#32 ||| putHdr h ||| put 14 d ||| put 0 g
  | .rgswapNow h d g => 0xC0780040#32 ||| putHdr h ||| put 14 d ||| put 0 g
  | .rgfreezeFreeze h d g => 0xC0800000#32 ||| putHdr h ||| put 14 d ||| put 0 g
  | .rgfreezeThaw h d g => 0xC0800040#32 ||| putHdr h ||| put 14 d ||| put 0 g
  | .rgreadSave h d a g => 0xC0880000#32 ||| putHdr h ||| put 14 d ||| put 9 a ||| put 0 g
  | .rgreadFetch h d a x g => 0xC0880040#32 ||| putHdr h ||| put 14 d ||| put 9 a ||| put 8 x ||| put 0 g
  | .rgreadRestore h d x g => 0xC0880080#32 ||| putHdr h ||| put 14 d ||| put 8 x ||| put 0 g
  | .rgreadStatus h d g => 0xC08800C0#32 ||| putHdr h ||| put 14 d ||| put 0 g
  | .rgclk h d c g => 0xC0900000#32 ||| putHdr h ||| put 14 d ||| put 6 c ||| put 0 g
  | .wout h t v e n => 0xA0000000#32 ||| putHdr h ||| put 19 t ||| put 14 v ||| put 2 e ||| put 0 n
  | .win h t v c n => 0xA0200000#32 ||| putHdr h ||| put 19 t ||| put 14 v ||| put 3 c ||| put 0 n
  | .weos h t => 0xA0400000#32 ||| putHdr h ||| put 19 t
  | .wtest h t r n => 0xA0600000#32 ||| putHdr h ||| put 19 t ||| put 13 r ||| put 0 n
  | .wstat h t d r c => 0xA0800000#32 ||| putHdr h ||| put 19 t ||| put 14 d ||| put 13 r ||| put 0 c
  | .wdrainIn h t => 0xA0A00000#32 ||| putHdr h ||| put 19 t
  | .wdrainOut h t => 0xA0A02000#32 ||| putHdr h ||| put 19 t
  | .prefG h d a i => 0xE0000000#32 ||| putHdr h ||| put 14 d ||| put 9 a ||| put 0 i
  | .prefS h d a i => 0xE0080000#32 ||| putHdr h ||| put 14 d ||| put 9 a ||| put 0 i
  | .prio h d a i => 0xE0100000#32 ||| putHdr h ||| put 14 d ||| put 9 a ||| put 0 i
  | .pause h d a i => 0xE0180000#32 ||| putHdr h ||| put 14 d ||| put 9 a ||| put 0 i
  | .engineWordStart _ _ _ => 0#32
  | .wordRetire _ _ _ => 0#32
  | .deadlockDetect _ => 0#32
  | .correctableError _ => 0#32
  | .freezeBegin _ => 0#32
  | .freezeEnd _ => 0#32
  | .pageRefillComplete _ _ _ _ => 0#32
  | .pauseEnd _ _ => 0#32
  | .accumulatorWriteback _ => 0#32
  | .permitDecision _ => 0#32
  | .transferStart _ _ _ => 0#32
  | .transferChunk _ _ _ => 0#32
  | .slotFill _ _ _ => 0#32
  | .flitInject _ _ => 0#32
  | .flitOffer _ _ => 0#32
  | .sliceAccess _ _ => 0#32
  | .rehomeResend _ _ => 0#32
  | .sliceMissFill _ _ _ => 0#32
  | .translationWalkDone _ _ => 0#32
  | .wbrInvrFinish _ => 0#32
  | .verstStallTimeout _ => 0#32
  | .foldTile _ => 0#32
  | .foldSwap _ => 0#32
  | .invalidationRequest _ => 0#32
  | .invalidationDone _ => 0#32
  | .carveWrite _ _ _ => 0#32
  | .loadGo _ => 0#32
  | .loadComplete _ => 0#32
  | .queueTableWrite _ _ _ => 0#32
  | .devIdWrite _ => 0#32
  | .registerWrite _ _ _ => 0#32
  | .packetAccept _ _ => 0#32
  | .copyPacketRow _ _ => 0#32
  | .completionRecordWrite _ _ => 0#32
  | .operandWordPoll _ => 0#32
  | .priorityAging _ _ _ => 0#32
  | .textRewrite _ _ _ => 0#32
  | .nodePlace _ => 0#32
  | .dispatch _ _ _ => 0#32
  | .preemptDecision _ _ _ => 0#32
  | .preemptSignal _ _ _ => 0#32
  | .contextSaved _ _ _ => 0#32
  | .nodeResume _ _ _ => 0#32
  | .haltTreeFire _ _ _ => 0#32
  | .syncArrival _ _ => 0#32
  | .barrierRelease _ _ => 0#32
  | .reductionResult _ _ => 0#32
  | .broadcastDelivery _ _ => 0#32
  | .broadcastCreditReturn _ _ => 0#32
  | .eventDelivery _ _ => 0#32
  | .syncFaultSignal _ _ => 0#32
  | .brokenVerdict _ _ => 0#32
  | .beatTransfer _ _ _ => 0#32
  | .fifoCrossing _ _ => 0#32
  | .withyTransfer _ _ => 0#32
  | .regionRamError _ _ => 0#32
  | .swapBoundary _ => 0#32
  | .planeExchange _ => 0#32
  | .saveWritebackDone _ => 0#32
  | .wutCrossing _ => 0#32
  | .hostWrite _ _ _ _ _ => 0#32
  | .hostRead _ _ _ _ => 0#32
  | .hostAtomicop _ _ _ _ _ _ _ => 0#32
  | .linkBeatArrival _ _ _ _ => 0#32
  | .treeTokenForward _ _ => 0#32
  | .ptpMessage _ _ _ => 0#32
  | .syncInterval _ _ _ => 0#32
  | .governorCapUpdate _ _ _ => 0#32
  | .thermalHold _ => 0#32
  | .thermalShutdown => 0#32
  | .patrolScrub _ _ => 0#32
  | .packageReset _ => 0#32
  | .dieReset _ => 0#32
  | .stackReset _ _ => 0#32
  | .linkReset _ _ => 0#32
  | .reportRequest _ => 0#32
  | .reportReady => 0#32
  | .regionClockEdge _ => 0#32
  | .hostCompletion _ _ _ => 0#32
  | .hostCompletionTimeout _ => 0#32
  | .msixVectorUnmask _ _ => 0#32
  | .timeStRead => 0#32
  | .ptpParentLoss => 0#32

end Sys2Proof
end

