-- ==== Sys2Proof/Config.lean ====
section
/-! DEFINITION. What the spec leaves to the surroundings or leaves open, as constants without a body: nothing can be
proved of their values, so a claim holds whatever they are. -/

namespace Sys2Proof

/-- An error that comes from outside every program: an uncorrectable error in a word of code memory, a scalar register, a register of a
shared file (0 v, 1 k, 2 m, 3 a, 4 f) or a scratch line of a core (01 R15, 05 R117, R124), an error in a line of a slice (10 R224; `fixed`:
it is corrected), a UCIe port that cannot train again (22 R409), a matrix row whose next residue check fails, and an array half whose next
product errs by `bits` in element `elem` of a copy (06 R132, R141, R142). -/
inductive Strike
  | code (core word : Nat)
  | scalar (core strand reg : Nat)
  | shared (core file reg : Nat)
  | scratch (core line : Nat)
  | slice (die slice line : Nat) (fixed : Bool)
  | residue (core after row : Nat)
  | half (core after : Nat) (copy : Bool) (elem : Nat) (bits : BitVec 128)
  | port (die port : Nat)
  deriving DecidableEq, Repr, Inhabited

/-- Who moves next. A strand issues (`now`: its word also runs and retires in the same step where its rules let it), an
event of the table happens, an error strikes, the host reads the readback window (26 R451) a function reads or writes its control
window (22 R405), the host masks an interrupt vector (22 R408; `fn`: port × 32 + function), or one core cycle passes. -/
inductive Turn
  | strand (core strand : Nat) (now : Bool)
  | event (i : Instr)
  | strike (e : Strike)
  | readback (addr : Nat)
  | control (fn addr : Nat) (data : Option Word)
  | mask (fn vec : Nat)
  | tick
  deriving DecidableEq, Repr, Inhabited

/-- The move that follows when State.agenda names none: the order in which the device's agents move is decided by their
timing alone (00 R10, 05 R110, 20 R387). A free value for every count. -/
opaque Config.nextTurn : Nat → Turn

/-- A 64-bit value that the spec does not state; a fresh one for every count of State.free. -/
opaque Config.freeWord : Nat → Word

/-- Whether a Falcon-1024 signature verifies (14 R281, 26 R444): key, digest of the message, signature bytes. The Falcon
specification, which is outside the spec, defines it. -/
opaque Config.falconVerify : BitVec 14344 → BitVec 512 → List Byte → Bool

/-- The attestation signature block of a report (26 R446), which the identity key of a seed makes: a function of the report's bytes. -/
opaque Config.reportSignature : List Byte → List Byte → List Byte

/-- The fused root digest of boot images (26 R444), and die 0's fused unique secret (26 R445). -/
opaque Config.rootDigest : List Byte
opaque Config.uniqueSecret : List Byte

/-- The fields of a boot image's header (26 R444 names them and not their places): magic, version, svn, body length, and whether every other
byte is zero. -/
opaque Config.bootHeader : List Byte → Nat × Nat × Nat × Nat × Bool

/-- Does a skipped k-group occur in a product that asks for zero skipping and may skip (06 R134: 'may be skipped')? -/
opaque Config.skips : Nat → Bool

/-- Does a line sit in the ways that a growing carve-out takes (18 R352)? Replacement, which timing decides, places it. -/
opaque Config.inTakenWays : Nat → Nat → Bool

/-- Which of the lines of a full set leaves when a line comes in (10 R222: replacement affects timing only): by the line and the
cycle. -/
opaque Config.victimWay : Nat → Nat → Nat

/-- How many beats of a channel a stream link may have on their way without credit for them (22 R410: each channel has its own credits). -/
opaque Config.linkCredits : Nat → Nat

/-- Does a peer-table entry route over one link with no switch hop (25 R438)? The entry names the first link only (22 R412). -/
opaque Config.noSwitch : Nat → Bool

/-- The host port, 0 or 1, by which a die's crown sends its interrupts: that of the record's write (22 R408). -/
opaque Config.hostPort : Nat → Nat

/-- Does a flit between two dies that are four stops apart leave by port 13 (22 R409: one direction, fixed for each pair of dies)? -/
opaque Config.ucieTie : Nat → Nat → Bool

/-- Which item of a core block each of its 512 words holds: R331 (17) names the items and not their places. -/
opaque Config.coreBlockItem : Nat → Nat

/-- Which item of the side state each of the 1,024 words at 0x8000 of a context image holds, which byte of the held rows stands at each word
at 0x10000, and which scalar value of which queued word each word at 0xA000 holds (17 R331). -/
opaque Config.sideItem : Nat → Nat
opaque Config.heldItem : Nat → Nat
opaque Config.queueItem : Nat → Nat

/-- A word of a unit's part of the readback window, of an offset and the unit's contents: R450 (26) names the contents and not their
places. Units: 0 a slice, 1 interleave, 2 a sync domain, 3 the crown, 4 the last part, 5 an offset that the table does not list. -/
opaque Config.scanWord : Nat → Nat → List Nat → Word

/-- The bytes of the public identity key that a seed gives, and of its certificate, from control-window offset 0x4000 (26 R445). -/
opaque Config.identityByte : List Byte → Nat → Byte

end Sys2Proof
end

