-- ==== Sys2Proof/Machine/Numbers.lean ====
section
/-! DEFINITION. Numbers (04): exact values, the ten vector element types and the narrow formats, fmt.decode, fmt.round, the
stochastic generator, and the correctly rounded functions of 07 R157. Everything is exact integer arithmetic. -/

namespace Sys2Proof.Machine

/-- An exact value: NaN, an infinity, or (−1)^neg × m × 2^e, with a signed zero (04 R89, R90). -/
inductive Val
  | nan
  | inf (neg : Bool)
  | fin (neg : Bool) (m : Nat) (e : Int)
  deriving DecidableEq, Repr, Inhabited

/-- A target or source format: an integer of `w` bits, or a floating layout with E exponent and M mantissa bits; `finite` is
the narrow special mode sp = 1 (04 R89, R91). -/
inductive Fmt
  | int (signed : Bool) (w : Nat)
  | flt (signed : Bool) (ebits mbits bias : Nat) (finite : Bool)
  deriving DecidableEq, Repr, Inhabited

/-- Bits of the flags CSR (03 R87). -/
abbrev Flags := BitVec 9
def Flags.dz : Flags := 0x001#9
def Flags.fxsat : Flags := 0x002#9
def Flags.f32ovf : Flags := 0x004#9
def Flags.i32sat : Flags := 0x008#9
def Flags.nv : Flags := 0x010#9
def Flags.ovf : Flags := 0x020#9
def Flags.uf : Flags := 0x040#9
def Flags.nx : Flags := 0x080#9
def Flags.sat : Flags := 0x100#9

/-- 2^n as a Nat. -/
def pow2 (n : Nat) : Nat := 1 <<< n

/-- The number of bits of `m`: 0 for 0. -/
def bitLen (m : Nat) : Nat := if m = 0 then 0 else Nat.log2 m + 1

namespace Val

def zero : Val := .fin false 0 0
def ofInt (z : Int) : Val := .fin (z < 0) z.natAbs 0
def one : Val := .fin false 1 0

def isNan : Val → Bool
  | .nan => true
  | _ => false

/-- Infinite or NaN. -/
def special : Val → Bool
  | .fin _ _ _ => false
  | _ => true

def isZero : Val → Bool
  | .fin _ m _ => m == 0
  | _ => false

def neg : Val → Val
  | .nan => .nan
  | .inf n => .inf (!n)
  | .fin n m e => .fin (!n) m e

def isNeg : Val → Bool
  | .nan => false
  | .inf n => n
  | .fin n _ _ => n

/-- m × 2^e as an integer at the step 2^q, q ≤ e. -/
def scaled (n : Bool) (m : Nat) (e q : Int) : Int :=
  let x : Int := ((m <<< (e - q).toNat : Nat) : Int)
  if n then -x else x

/-- Exact product; the flag says that the operation is invalid (0 × ∞, 07 R152). -/
def mul : Val → Val → Val × Bool
  | .nan, _ => (.nan, false)
  | _, .nan => (.nan, false)
  | .inf a, .inf b => (.inf (a != b), false)
  | .inf a, .fin b m _ => if m = 0 then (.nan, true) else (.inf (a != b), false)
  | .fin a m _, .inf b => if m = 0 then (.nan, true) else (.inf (a != b), false)
  | .fin a m e, .fin b m' e' => (.fin (a != b) (m * m') (e + e'), false)

/-- Exact sum of two; x + (−x) is +0 and (−0) + (−0) is −0 (04 R103); ∞ − ∞ is invalid. -/
def add : Val → Val → Val × Bool
  | .nan, _ => (.nan, false)
  | _, .nan => (.nan, false)
  | .inf a, .inf b => if a = b then (.inf a, false) else (.nan, true)
  | .inf a, .fin _ _ _ => (.inf a, false)
  | .fin _ _ _, .inf b => (.inf b, false)
  | .fin a m e, .fin b m' e' =>
    let q := min e e'
    let z := scaled a m e q + scaled b m' e' q
    if z = 0 then (.fin (a && b && m == 0 && m' == 0) 0 0, false) else (.fin (z < 0) z.natAbs q, false)

def sub (x y : Val) : Val × Bool := add x (neg y)

/-- Exact sum of a list, left to right, with whether any addition was invalid. -/
def sum (xs : List Val) : Val × Bool :=
  match xs with
  | [] => (zero, false)
  | x :: r => r.foldl (fun (s : Val × Bool) y => let t := add s.1 y; (t.1, s.2 || t.2)) (x, false)

/-- x × 2^k. -/
def scale (x : Val) (k : Int) : Val :=
  match x with
  | .fin n m e => .fin n m (e + k)
  | y => y

/-- The order of two values that are not NaN, −0 = +0: negative, zero or positive. -/
def cmp (x y : Val) : Int :=
  match x, y with
  | .inf a, .inf b => if a = b then 0 else if a then -1 else 1
  | .inf a, _ => if a then -1 else 1
  | _, .inf b => if b then 1 else -1
  | .fin a m e, .fin b m' e' => let q := min e e'; scaled a m e q - scaled b m' e' q
  | _, _ => 0

end Val

namespace Fmt

/-- The width of a format in bits. -/
def width : Fmt → Nat
  | .int _ w => w
  | .flt s e m _ _ => (if s then 1 else 0) + e + m

/-- Is the class floating (04 R97)? -/
def floating : Fmt → Bool
  | .int _ _ => false
  | .flt _ _ _ _ _ => true

def int8 : Fmt := .int true 8
def int32 : Fmt := .int true 32
def int64 : Fmt := .int true 64
def bf16 : Fmt := .flt true 8 7 127 false
def fp16 : Fmt := .flt true 5 10 15 false
def fp32 : Fmt := .flt true 8 23 127 false

/-- The format that a narrow descriptor names (04 R91). -/
def ofDesc (d : BitVec 16) : Fmt :=
  let n := d.toNat
  let s := n >>> 15 % 2 = 1
  let e := n >>> 12 % 8
  let m := n >>> 9 % 8
  if e = 0 then .int s ((if s then 1 else 0) + m) else .flt s e m (n % 256) (n >>> 8 % 2 = 1)

/-- An allowed descriptor (04 R92), the all-zero one not among them. -/
def allowed (d : BitVec 16) : Bool :=
  let n := d.toNat
  let s := n >>> 15 % 2
  let e := n >>> 12 % 8
  let m := n >>> 9 % 8
  let sp := n >>> 8 % 2
  let w := s + e + m
  1 ≤ w && w ≤ 8 && (e ≠ 0 || (sp = 0 && n % 256 = 0)) && (e = 0 || sp = 1 || (2 ≤ e && 1 ≤ m))

/-- The container width of a narrow format (04 R94). -/
def container (f : Fmt) : Nat := if f.width ≤ 2 then 2 else if f.width ≤ 4 then 4 else 8

/-- fmt.decode (04 R89, R93): bits above the width are ignored. -/
def decode (f : Fmt) (code : Nat) : Val :=
  match f with
  | .int s w =>
    let c := code % pow2 w
    if s && pow2 (w - 1) ≤ c && w ≠ 0 then .fin true (pow2 w - c) 0 else .fin false c 0
  | .flt s eb mb bias fin =>
    let c := code % pow2 f.width
    let n := s && c >>> (eb + mb) % 2 = 1
    let e := c >>> mb % pow2 eb
    let m := c % pow2 mb
    if fin && c = pow2 f.width - 1 then .nan
    else if !fin && e = pow2 eb - 1 then (if m = 0 then .inf n else .nan)
    else if e = 0 then .fin n m (1 - (bias : Int) - mb)
    else .fin n (pow2 mb + m) ((e : Int) - bias - mb)

/-- The NaN code of a floating format (04 R90, R97, 07 R162). -/
def nanCode : Fmt → Nat
  | .int _ _ => 0
  | .flt s e m b fin => if fin then pow2 (Fmt.flt s e m b fin).width - 1 else (pow2 e - 1) <<< m + pow2 (m - 1)

/-- The greatest magnitude code of a sign: the grid's last ordinal before overflow (04 R89, R93). -/
def maxMag (f : Fmt) (neg : Bool) : Nat :=
  match f with
  | .int s w => if s then (if neg then pow2 (w - 1) else pow2 (w - 1) - 1) else pow2 w - 1
  | .flt s e m _ fin =>
    if fin then (if s && !neg then pow2 (e + m) - 1 else pow2 (e + m) - 2) else (pow2 e - 1) <<< m - 1

/-- Does the format hold negative values (04 R97)? -/
def signed : Fmt → Bool
  | .int s _ => s
  | .flt s _ _ _ _ => s

/-- The code with magnitude ordinal `c` and sign `neg`. -/
def put (f : Fmt) (neg : Bool) (c : Nat) : Nat :=
  match f with
  | .int _ w => if neg then (pow2 w - c) % pow2 w else c
  | .flt s e m _ _ => if neg && s then pow2 (e + m) + c else c

/-- Infinity's code of an IEEE-class format. -/
def infCode (f : Fmt) (neg : Bool) : Nat :=
  match f with
  | .int _ _ => f.put neg (f.maxMag neg)
  | .flt _ e m _ _ => f.put neg ((pow2 e - 1) <<< m)

/-- Is the format of the IEEE class (04 R97)? -/
def ieee : Fmt → Bool
  | .flt _ _ _ _ fin => !fin
  | .int _ _ => false

/-- The smallest step of the grid, as a power of two. -/
def qmin : Fmt → Int
  | .int _ _ => 0
  | .flt _ _ m b _ => 1 - (b : Int) - m

/-- The step of the grid at a value whose leading bit has weight 2^top. -/
def step (f : Fmt) (top : Int) : Int :=
  match f with
  | .int _ _ => 0
  | .flt _ _ m _ _ => max f.qmin (top - m)

/-- The grid's ordinal of y × 2^q: consecutive codes have consecutive ordinals. -/
def ordinal (f : Fmt) (q : Int) (y : Nat) : Nat :=
  match f with
  | .int _ _ => y
  | .flt _ _ m _ _ => (q - f.qmin).toNat <<< m + y

/-- fmt.round (04 R97) of an exact value: the code and the flags it sets. `mode` is the round CSR's code (R88) and `u` the
draw of R99 that a stochastic conversion uses. Whether a NaN comes from an invalid operation is the caller's to flag. -/
def round (f : Fmt) (mode u : Nat) (x : Val) : Nat × Flags :=
  match x with
  | .nan => if f.floating then (f.nanCode, 0) else (0, Flags.nv)
  | .inf n =>
    if n && !f.signed then (0, Flags.sat)
    else if f.ieee then (f.infCode n, 0)
    else (f.put n (f.maxMag n), Flags.sat)
  | .fin n m e =>
    if m = 0 then (if f.floating && n && f.signed then (f.put true 0, 0) else (0, 0))
    else
      let top : Int := e + bitLen m - 1
      let q := f.step top
      let sh := (q - e).toNat
      let lo := if q ≤ e then m <<< (e - q).toNat else m >>> sh
      let rem := if q ≤ e then 0 else m % pow2 sh
      let exact := rem = 0
      let den := pow2 sh
      let up :=                                          -- does the magnitude move up to lo + 1?
        match mode with
        | 0 => 2 * rem > den || (2 * rem = den && f.ordinal q lo % 2 = 1)
        | 1 => false
        | 2 => !n
        | 3 => n
        | _ =>
          if n then !(u < ((den - rem) * 65536) / den) else u < (rem * 65536) / den
      let y := if exact then lo else if up then lo + 1 else lo
      let c := f.ordinal q y
      let nx := if exact then 0 else Flags.nx
      let small := f.floating && top < f.qmin + (match f with | .flt _ _ mb _ _ => (mb : Int) | _ => 0)
      let uf := if small && !exact then Flags.uf else 0
      if n && !f.signed then
        if c = 0 then (0, nx ||| uf) else (0, Flags.sat ||| Flags.nx)
      else if c > f.maxMag n then
        if f.ieee then
          let toInf := match mode with
            | 1 => false
            | 2 => !n
            | 3 => n
            | _ => true
          (if toInf then f.infCode n else f.put n (f.maxMag n), nx ||| Flags.ovf ||| Flags.nx)
        else (f.put n (f.maxMag n), nx ||| Flags.sat ||| (if small then Flags.uf else 0))
      else if c = 0 && !f.floating then (0, nx)
      else (f.put n c, nx ||| uf)

end Fmt

/-- One shift of the stochastic generator (04 R99). -/
def srBit (g : BitVec 16) : BitVec 16 :=
  let b := (g >>> 15) ^^^ (g >>> 13) ^^^ (g >>> 12) ^^^ (g >>> 10)
  (g <<< 1) ||| (b &&& 1#16)

/-- `n` shifts. -/
def srBits : Nat → BitVec 16 → BitVec 16
  | 0, g => g
  | n + 1, g => srBits n (srBit g)

/-- sr.draw (04 R99). -/
def srDraw (g : BitVec 16) : BitVec 16 := srBits 16 g

/-- What a write to sr.seed loads into the generator (04 R99). -/
def srLoad (seed : BitVec 16) : BitVec 16 := if seed = 0 then 0xACE1#16 else seed

/-- Round a list in ascending order, one draw for each element in stochastic mode (04 R97, R99): codes, flags, generator. -/
def roundAll (f : Fmt) (mode : Nat) : List Val → BitVec 16 → List Nat × Flags × BitVec 16
  | [], g => ([], 0, g)
  | x :: xs, g =>
    let g' := if mode = 4 then srDraw g else g
    let r := f.round mode g'.toNat x
    let t := roundAll f mode xs g'
    (r.1 :: t.1, r.2 ||| t.2.1, t.2.2)

/-- floor of the square root, bit by bit from weight 2^n. -/
def isqrtGo : Nat → Nat → Nat → Nat
  | 0, _, r => r
  | n + 1, x, r =>
    let c := r + pow2 n
    isqrtGo n x (if c * c ≤ x then c else r)

def isqrt (x : Nat) : Nat := isqrtGo (bitLen x / 2 + 1) x 0

/-- 1/x with a sticky last bit: enough bits that one rounding of it is one rounding of 1/x. -/
def recipVal (n : Bool) (m : Nat) (e : Int) : Val :=
  let k := bitLen m + 80
  .fin n ((pow2 k / m) * 2 + (if pow2 k % m = 0 then 0 else 1)) (-(k : Int) - e - 1)

/-- 1/√x for a positive x, with a sticky last bit. -/
def rsqrtVal (m : Nat) (e : Int) : Val :=
  let m' := if e % 2 = 0 then m else 2 * m
  let e' := if e % 2 = 0 then e else e - 1
  let k := bitLen m' + 160
  let k2 := if k % 2 = 0 then k else k + 1
  let t := pow2 k2 / m'
  let r := isqrt t
  let ex := r * r * m' = pow2 k2
  .fin false (r * 2 + (if ex then 0 else 1)) (-((k2 / 2 : Nat) : Int) - e' / 2 - 1)

/-- The fixed point of the exponential and logarithm: 200 fraction bits. -/
def fixBits : Nat := 200

/-- 2^(2^-i) for i = 1 .. n from the square root of the one before, at `fixBits` fraction bits. -/
def rootTable : Nat → Nat → List Nat
  | 0, _ => []
  | n + 1, prev => let r := isqrt (prev <<< fixBits); r :: rootTable n r

/-- The product of the roots whose bit is set in the fraction `f` of `n` bits, most significant first. -/
def exp2Go : List Nat → Nat → Nat → Nat → Nat
  | [], _, _, acc => acc
  | r :: rs, n, f, acc =>
    exp2Go rs (n - 1) f (if f >>> (n - 1) % 2 = 1 then (acc * r) >>> fixBits else acc)

/-- 2^x of a finite nonzero x (07 R157), with a sticky last bit; a magnitude beyond every format's range is cut first, which
rounds to the same infinity or zero. -/
def exp2Val (n : Bool) (m : Nat) (e : Int) : Val :=
  if e + bitLen m - 1 ≥ 12 then .fin false 1 (if n then -5000 else 5000)
  else if e + bitLen m - 1 < -64 then                       -- |x| < 2^-64: 2^x is 1 plus or minus a sticky bit
    .fin false (if n then pow2 64 - 1 else pow2 64 + 1) (-64)
  else
    let fb : Nat := 190
    let z : Int := if 0 ≤ e + fb then ((m <<< (e + fb).toNat : Nat) : Int) else ((m >>> (-(e + fb)).toNat : Nat) : Int)
    let z := if n then -z else z
    let ip := z / (pow2 fb : Int)
    let fp := (z % (pow2 fb : Int)).toNat
    if fp = 0 then .fin false 1 ip
    else .fin false (exp2Go (rootTable fb (2 <<< fixBits)) fb fp (1 <<< fixBits) * 2 + 1) (ip - fixBits - 1)

/-- The fraction bits of log2 y, y in [1, 2) at `fixBits` fraction bits, by repeated squaring. -/
def log2Go : Nat → Nat → Nat → Nat
  | 0, _, acc => acc
  | n + 1, y, acc =>
    let y2 := (y * y) >>> fixBits
    if 2 <<< fixBits ≤ y2 then log2Go n (y2 >>> 1) (2 * acc + 1) else log2Go n y2 (2 * acc)

/-- log2 of a positive x (07 R157), with a sticky last bit. Near 1 the logarithm is formed from more bits: 120 of them. -/
def log2Val (m : Nat) (e : Int) : Val :=
  let l := bitLen m
  let ip : Int := e + l - 1
  let fb : Nat := 120
  let y := (m <<< fixBits) >>> (l - 1)
  if m = pow2 (l - 1) then Val.ofInt ip
  else
    let f := log2Go fb y 0
    let z : Int := ip * (pow2 fb : Int) + f
    .fin (z < 0) ((2 * z + 1).natAbs) (-(fb : Int) - 1)

end Sys2Proof.Machine
end

