-- ==== Sys2Proof/Machine/State.lean ====
section
/-! DEFINITION. The machine's state as plain data (every piece of INVENTORY.md's State list), the reasons a step can stop, and
the state after package reset (26 R443). Tables are sparse: a key that is not listed has the type's default. -/

namespace Sys2Proof.Machine

/-- The one state in which the machine itself has stopped. -/
inductive Fault
  /-- Raised by step for every move but PACKAGE_RESET once THERMAL_SHUTDOWN has removed package power (26 R449). Safe: nothing is
  claimed of a package without power. -/
  | powerOff
  deriving DecidableEq, Repr, Inhabited

/-- The reasons a step gives no meaning. -/
inductive Refusal
  /-- An arm of Dispatch.lean without a meaning, by its mnemonic. Safe. -/
  | notModelled (mnemonic : String)
  deriving DecidableEq, Repr, Inhabited

/-- Strand states and their codes 0 to 6 (01 R32). -/
inductive StrandState
  | idle | running | blocked | halted | frozen | faulted | preempted
  deriving DecidableEq, Repr, Inhabited

/-- What a blocked strand waits for (01 R29): the first three are internal to the core (05 R122). -/
inductive Block
  | dq | cq | tok | engine | pending | page | hold | pause | net | inj | copy
  deriving DecidableEq, Repr, Inhabited

/-- A stop of a strand: fault code, class (17 R323: 1 issue, 2 execution, 3 waiting, 4 deferred, 5 user trap), the address it
names and the two extra words of the record (17 R322). -/
structure Trap where
  code : BitVec 8
  cls : Nat
  addr : Word := 0
  x0 : Word := 0
  x1 : Word := 0
  deriving DecidableEq, Repr, Inhabited

/-- An active pipelined loop (03 R76): stages, body length in words, word index of the body's first word, trips, pass. -/
structure LoopState where
  stages : Nat
  len : Nat
  start : Nat
  trips : Nat
  pass : Nat
  deriving DecidableEq, Repr, Inhabited

/-- Where a word's scalar result goes (01 R19, R21, R23). -/
inductive Dst
  | none
  | reg (phys : Nat)
  | dq (dst : Nat)
  | net
  deriving DecidableEq, Repr, Inhabited

/-- How far a queued word has come (01 R27): waiting in its queue, begun, or finished and waiting to retire. -/
inductive Phase
  | queued | started | done
  deriving DecidableEq, Repr, Inhabited

/-- A word in an engine queue, with what it read at issue (01 R33, 17 R331). `at_`: the cycle of its issue, or the one from which a result
kept over a pre-emption completes (12 R252); `wants`: the absent scratch pages that it waits for (05 R116); `stopped`: a stop of the core
has ended its wait for them until the resume (07 R177, 08 R203); `race`: the scratch bytes in which it races an earlier store of its queue,
with the values that its load may return, or its store leave, instead (05 R114). -/
structure QWord where
  seq : Nat
  i : Instr
  pc : BitVec 32
  va : Word
  vb : Word
  vd : Word
  dst : Dst
  vtype : BitVec 9
  fmtA : BitVec 16
  fmtB : BitVec 16
  fmtC : BitVec 16
  round : BitVec 3
  trapen : BitVec 9
  sendto : Word
  phase : Phase := .queued
  res : Word := 0
  bit : Bool := false
  idx : Nat := 0
  due : Nat := 0
  req : Nat := 0
  paging : Bool := false
  wants : List Nat := []
  stopped : Bool := false
  at_ : Nat := 0
  race : List (Nat × Byte) := []
  buf : List Byte := []
  deriving DecidableEq, Repr, Inhabited

/-- A strand (01 R16, 03 R73-R84, 17 R331). `bad`: its scalar registers with an uncorrectable error (05 R124). `loopMem` are the image's
loop fields while no loop is active (17 R331); `under` is the state under a fault that a pre-emption has met (01 R32); `issueAt`: the cycle
in which the word after a WUT issues (22 R418). Reserved CSR bits are not stored: they read as zero. -/
structure Strand where
  st : StrandState := .idle
  prior : StrandState := .idle
  under : StrandState := .idle
  unused : Bool := false
  pc : BitVec 32 := 0
  regs : Table Word := []
  lc : Word := 0
  rotBase : BitVec 4 := 0
  stagep : BitVec 8 := 0
  latch : Bool := false
  cover : Nat := 0
  coverNull : Bool := false
  loop : Option LoopState := none
  loopMem : LoopState := ⟨0, 0, 0, 0, 0⟩
  stage : Nat := 0
  vtype : BitVec 9 := 0
  fmtA : BitVec 16 := 0
  fmtB : BitVec 16 := 0
  fmtC : BitVec 16 := 0
  flags : BitVec 9 := 0
  trapen : BitVec 9 := 0
  round : BitVec 3 := 0
  srSeed : BitVec 16 := 0
  g : BitVec 16 := 0
  timeLatch : Option (BitVec 16) := none
  pauseEnd : Nat := 0
  issueAt : Option Nat := none
  prio : BitVec 2 := 0
  reason : Option Block := none
  stopSeq : Option Nat := none
  stop : Option Trap := none
  queues : Table (List QWord) := []
  bad : List Nat := []
  deriving DecidableEq, Repr, Inhabited

/-- An entry of a data queue: reserved by the word `seq`, or filled (01 R19). -/
structure DqEntry where
  seq : Nat
  val : Option Word
  deriving DecidableEq, Repr, Inhabited

/-- An operand tile with its side state (06 R126). -/
structure Tile where
  data : BitVec 16384 := 0
  nonfinite : Bool := false
  scale : BitVec 2304 := 0
  poison : BitVec 32 := 0
  deriving DecidableEq, Repr, Inhabited

/-- An accumulator element (04 R100). -/
structure AccElem where
  bits : BitVec 128 := 0
  tag : BitVec 2 := 0
  deriving DecidableEq, Repr, Inhabited

/-- An accumulator: two copies (06 R141), row poison, the mismatch latch, the last product's sequence number. -/
structure Acc where
  e0 : Table AccElem := []
  e1 : Table AccElem := []
  poison : BitVec 32 := 0
  mismatch : Option (BitVec 32) := none
  last : BitVec 32 := 0
  deriving DecidableEq, Repr, Inhabited

/-- A fibre register (08 R198), with the positions and mask that FOPEN read (08 R200). -/
structure Fibre where
  open_ : Bool := false
  kind : Nat := 0
  fmt : BitVec 8 := 0
  mpos : BitVec 16 := 0
  next : BitVec 16 := 0
  count : BitVec 16 := 0
  vbase : BitVec 32 := 0
  width : Nat := 0
  places : List Nat := []
  deriving DecidableEq, Repr, Inhabited

/-- A completion-ring slot (08 R193). -/
structure Slot where
  filled : Bool := false
  code : BitVec 8 := 0
  addr : Word := 0
  deriving DecidableEq, Repr, Inhabited

/-- A completion ring (08 R193). -/
structure Hoop where
  alloc : BitVec 8 := 0
  wr : BitVec 8 := 0
  rd : BitVec 8 := 0
  slots : Table Slot := []
  deriving DecidableEq, Repr, Inhabited

/-- An address generator's dimensions (08 R196). -/
structure GenCfg where
  count : Table Nat := []
  stride : Table Int := []
  chunk : Nat := 0
  deriving DecidableEq, Repr, Inhabited

/-- A generator: the configuration that the next accepted stream sees, and the orders of the tokens still queued (08 R197). -/
structure Gen where
  cfg : GenCfg := {}
  tokens : List Nat := []
  deriving DecidableEq, Repr, Inhabited

/-- The three copy commands (08 R191). -/
inductive CopyKind
  | inn | out | loc
  deriving DecidableEq, Repr, Inhabited

/-- An accepted copy transfer (08 R191, R192, R203); `stopped`: it had not started when the core stopped (R203); `pages`: the translations
that its present chunk has made, by virtual page (18 R347); `bound`: of a bounded peer write, the cycle by which it has left (25 R438). -/
structure Xfer where
  strand : Nat
  seq : Nat
  order : Nat
  hoop : Nat
  slot : Nat
  kind : CopyKind
  dst : Word
  src : Word
  len : Nat
  gen : Nat
  cfg : GenCfg
  cls : BitVec 2
  started : Bool := false
  pos : Nat := 0
  fail : BitVec 8 := 0
  failAddr : Word := 0
  req : Nat := 0
  acks : List Nat := []
  buf : List Byte := []
  pages : List (Nat × Nat) := []
  stopped : Bool := false
  bound : Option Nat := none
  deriving DecidableEq, Repr, Inhabited

/-- The window unit (08 R186, R187): operands, position, the image rows held and their bytes, byte i of row r at r * 65536 + i. -/
structure Window where
  cfg : Bool := false
  a : Word := 0
  b : Word := 0
  pos : Nat := 0
  fin : Bool := false
  rows : List Nat := []
  held : Memory := []
  deriving DecidableEq, Repr, Inhabited

/-- A scratch page's state (05 R115). -/
inductive PageState
  | pinned | resident | absent
  deriving DecidableEq, Repr, Inhabited

/-- A beat of a weave port (13 R264). -/
structure Beat where
  data : BitVec 512
  flag : Bool
  deriving DecidableEq, Repr, Inhabited

/-- A tile port FIFO (13 R267, R272): its beats, the cycles of the entries that the reader does not yet see and of the frees that
the writer does not yet see, its counters and its latched cause. -/
structure Port where
  fifo : List Beat := []
  enter : List Nat := []
  freed : List Nat := []
  beats : BitVec 16 := 0
  eosn : BitVec 8 := 0
  cause : BitVec 4 := 0
  bound : Bool := false
  deriving DecidableEq, Repr, Inhabited

/-- A WBR or INVR in progress (10 R230). -/
structure WbOp where
  order : Nat
  inval : Bool
  base : Word
  len : Nat
  fin : Bool := false
  code : BitVec 8 := 0
  addr : Word := 0
  deriving DecidableEq, Repr, Inhabited

/-- A translation-cache entry (18 R344): context, page number of its size, size in bits, and the leaf. -/
structure TlbEntry where
  ctx : BitVec 16
  page : Nat
  bits : Nat
  leaf : Word
  deriving DecidableEq, Repr, Inhabited

/-- A flit (10 R209): a message or multicast copy, or a request by its number; with its final destination. -/
inductive FlitBody
  | msg (payload : Word) (tag : BitVec 16)
  | mcast (payload : Word) (tag : BitVec 16)
  | req (id : Nat)
  deriving DecidableEq, Repr, Inhabited

/-- An item of the rings: source and destination as station addresses (10 R209). `launch` and `node` are the sender's, `at_` the cycle in
which it entered the queue where it stands. Station 31: no domain covers its address yet (11 R236). -/
structure Item where
  src : Nat
  pkg : BitVec 20
  die : Nat
  cluster : Nat
  station : Nat
  body : FlitBody
  launch : Nat
  node : Nat := 0
  at_ : Nat := 0
  deriving DecidableEq, Repr, Inhabited

/-- A delivery of the sync network to a core (12 R248-R253): kept while it is frozen or pre-empted (05 R119, 12 R257). -/
inductive Delivery
  | release (level epoch : Nat) (bad : Bool)
  | result (level : Nat) (v : Word)
  | bcast (level : Nat) (v : Word)
  | event
  | broken (level : Nat)
  | incomplete (level : Nat) (core : Nat)
  deriving DecidableEq, Repr, Inhabited

/-- dom.lN of a core (12 R244). -/
structure DomCsr where
  epoch : BitVec 16 := 0
  member : Bool := false
  slot : BitVec 6 := 0
  deriving DecidableEq, Repr, Inhabited

/-- The node that a core runs: the accepting die, launch number, node index (16 R310, R453). -/
structure NodeRef where
  die : Nat
  launch : Nat
  node : Nat
  deriving DecidableEq, Repr, Inhabited

/-- The CSRs of core scope (03 R84, 17 R321). -/
structure CoreCsr where
  ntiles : Word := 0
  args : Word := 0
  accMode : BitVec 48 := 0
  cqOwner : BitVec 2 := 3
  sendto : Word := 0x0300000000000000#64
  mcastBase : Word := 0
  partition : BitVec 16 := 0
  dom : Table DomCsr := []
  dqBase : BitVec 13 := 0
  dqCap : BitVec 12 := 0
  frzCount : BitVec 16 := 0
  frzScope : Bool := false
  nodeId : Word := 0
  prio : BitVec 2 := 0
  faultPtr : Word := 0
  sup : Bool := false
  hnd : Bool := false
  tvec : BitVec 14 := 0
  permHeld : Bool := false
  permDenied : Bool := false
  permRetry : BitVec 16 := 0
  permLeft : BitVec 32 := 0
  deriving DecidableEq, Repr, Inhabited

/-- What has happened in a core in the cycle `at_` (01 R25, R26, R33, 03 R83, 05 R110, R111): the strands below `issued` have had
their turn to issue; `closed`: a word has retired or a flit was accepted, after which no strand issues any more; `last`: the place of
the last retirement in the cycle's order; `wrote`: the CSRs of core scope that a retirement has written, with the values before the
first write; `fault`: the strand whose fault was recorded; `yDone`, `qDone`: a Y or Q word of X has completed; `wfe`: a WFE has taken the
cycle's events (12 R253); `drained`: the in-ports from which a WDRAIN has taken a beat in the cycle of its start (13 R271). -/
structure CycleMark where
  at_ : Nat := 0
  issued : Nat := 0
  closed : Bool := false
  last : Nat := 0
  wrote : List (Nat × Word) := []
  fault : Option Nat := none
  yDone : Bool := false
  qDone : Bool := false
  wfe : Bool := false
  drained : List Nat := []
  deriving DecidableEq, Repr, Inhabited

/-- The register files, scratchpad and engines' own state of a core; `regBad`: the registers (file, number) with an uncorrectable error
(05 R124); `residue`: rows whose residue check fails, and `half`: errors of a product's halves, each with how many
products come before that one (06 R141, R142). -/
structure CoreData where
  v : Table (BitVec 2048) := []
  k : Table (BitVec 256) := []
  m : Table Tile := []
  a : Table Acc := []
  f : Table Fibre := []
  scratch : Memory := []
  scrBad : List Nat := []
  pages : Table PageState := []
  refills : List Nat := []
  lend : BitVec 4 := 0
  runq : List Word := []
  mseq : BitVec 32 := 0
  hoops : Table Hoop := []
  xfers : List Xfer := []
  gens : Table Gen := []
  win : Window := {}
  lLast : Nat := 0
  ports : Table Port := []
  wbOps : List WbOp := []
  wbCount : Word := 0
  regBad : List (Nat × Nat) := []
  residue : List (Nat × Nat) := []
  half : List (Nat × Bool × Nat × BitVec 128) := []
  deriving DecidableEq, Repr, Inhabited

/-- A core (05 R107). `record`: the fault record that a stop has still to write, and `entering`: whether the handler runs then (17 R322,
R325); `failHeld`: failures of its words that reached it in a freeze, by strand and word (05 R119); `raw`: words of its image that WRST has
written where R331 places no contents (17 R335). -/
structure Core where
  strands : Table Strand := []
  code : Memory := []
  codeBad : List Nat := []
  textTag : Option Word := none
  profile : BitVec 3 := 0
  csr : CoreCsr := {}
  d : CoreData := {}
  dq : Table (List DqEntry) := []
  cq : List Bool := []
  cqRes : Nat := 0
  recv : List Word := []
  inj : List Item := []
  injRes : Nat := 0
  injRide : Nat := 0
  mcOut : Nat := 0
  tok : Table Nat := []
  tlb : List TlbEntry := []
  pend : BitVec 4 := 0
  latches : Table (List Word) := []
  evt : Bool := false
  held : List Delivery := []
  seq : Nat := 0
  frzUntil : Option Nat := none
  frzPend : List Nat := []
  stuck : Option Nat := none
  ending : Option (BitVec 8) := none
  preempt : Bool := false
  records : BitVec 32 := 0
  lastCode : BitVec 8 := 0
  shadow : Strand := {}
  hndSeq : Nat := 0
  record : Option (List Byte) := none
  entering : Bool := false
  failHeld : List (Nat × Nat × Trap) := []
  raw : Table Word := []
  node : Option NodeRef := none
  mark : CycleMark := {}
  deriving DecidableEq, Repr, Inhabited

/-- A line's metadata in its home slice (10 R222). -/
structure Line where
  held : Bool := false
  dirty : Bool := false
  deriving DecidableEq, Repr, Inhabited

/-- A cache slice (10 R222, R224, 18 R351); `walks`: its walk cache, level-3, level-2 and level-1 entries by the virtual addresses that
they serve (18 R344). -/
structure Slice where
  lines : Table Line := []
  errs : Nat := 0
  carve : BitVec 3 := 0
  carveErr : Bool := false
  queue : List Item := []
  walks : List TlbEntry := []
  deriving DecidableEq, Repr, Inhabited

/-- A ring slot: the cycle of its injection, what it still carries (10 R208), and the cycle after the one that emptied it. -/
structure RingSlot where
  at_ : Nat := 0
  items : List Item := []
  left : Nat := 0
  deriving DecidableEq, Repr, Inhabited

/-- A ring (10 R207, R221): its slots, and the input queues of the bridges at its stations (10 R454). -/
structure Ring where
  slots : Table RingSlot := []
  bridge : Table (List Item) := []
  deriving DecidableEq, Repr, Inhabited

/-- What a request asks of a home slice, window or register page (10 R226-R229, 18 R356, 19 R369). -/
inductive ReqKind
  | load | store
  | amo (op : Nat)
  | verst | verld | verrcl
  | lay
  | walk
  deriving DecidableEq, Repr, Inhabited

/-- A request in flight for a word of a core (10 R226); `home`: the home slice chosen for it (11 R236); `code`: 0x19 once it has been
bounced (10 R233). -/
structure Req where
  id : Nat
  core : Nat
  strand : Nat
  seq : Nat
  kind : ReqKind
  pa : Nat
  size : Nat
  x : Word
  cmp : Word
  since : Option Nat := none
  bounced : Bool := false
  home : Option (Nat × Nat) := none
  code : BitVec 8 := 0
  deriving DecidableEq, Repr, Inhabited

/-- A signal on its way to a sync root (12 R241, R248-R254), with the cycle in which it arrives. -/
inductive SyncUp
  | arrive (core : Nat)
  | contrib (core op : Nat) (v : Word)
  | bcast (core : Nat) (v : Word)
  | event (core : Nat)
  | fault (core : Nat)
  | credit (core : Nat)
  deriving DecidableEq, Repr, Inhabited

/-- A signal on its way from a sync root to the members. -/
inductive SyncDown
  | release (epoch : Nat) (bad : Bool)
  | result (v : Word)
  | bcast (v : Word)
  | event (src : Nat)
  | broken
  | incomplete (core : Nat)
  deriving DecidableEq, Repr, Inhabited

/-- A domain slot of a root (12 R245): signals under way carry the package cycle in which they take effect. -/
structure SyncSlot where
  installed : Bool := false
  level : Nat := 0
  dies : BitVec 8 := 0
  members : List Nat := []
  tree : BitVec 6 := 0
  launch : Option NodeRef := none
  arrived : List Nat := []
  redOp : Option Nat := none
  contribs : List (Nat × Word) := []
  used : Table Nat := []
  waiting : List (Nat × Word) := []
  epoch : BitVec 16 := 0
  broken : Bool := false
  incomplete : List Nat := []
  up : List (Nat × SyncUp) := []
  down : List (Nat × SyncDown) := []
  deriving DecidableEq, Repr, Inhabited

/-- An interleave domain (10 R225, R231, R232). -/
structure IlDomain where
  active : Bool := false
  quiesced : Bool := false
  base : Nat := 0
  limit : Nat := 0
  members : List Nat := []
  masks : List Word := []
  deriving DecidableEq, Repr, Inhabited

/-- Kinds of a graph's nodes (16 R310). -/
inductive NodeKind
  | seq | pipe | stream | tile | weave
  deriving DecidableEq, Repr, Inhabited

/-- Where a node stands (16 R311-R318): reserved while its text is written (23 R429), placed until its dispatch, saving from the
decision to pre-empt it, and resuming until its permit is granted (17 R334). -/
inductive NodeState
  | waiting | ready | reserved | placed | running | saving | saved | resuming | done | aborted
  deriving DecidableEq, Repr, Inhabited

/-- A configuration image: header bytes and frames (14 R276); frames not listed are zero. -/
structure Image where
  header : List Byte := []
  frames : Table (BitVec 512) := []
  digest : BitVec 512 := 0
  deriving DecidableEq, Repr, Inhabited

/-- A saved weave region (16 R315): its image, clock, and the saved chain bits. -/
structure SavedRegion where
  rg : Nat
  img : Image
  clk : Nat
  chain : List Bool
  deriving DecidableEq, Repr, Inhabited

/-- A node of an accepted launch (16 R310), with what the crown keeps of it; `victims`: the nodes that it has pre-empted (R315). -/
structure Node where
  kind : NodeKind := .tile
  replay : Bool := false
  own : Nat := 0
  parent : Nat := 0xFFFF
  first : Nat := 0
  count : Nat := 0
  done : Word := 0
  arg : Word := 0
  entries : Word := 0
  tiles : BitVec 32 := 0
  die : Nat := 0
  regions : BitVec 4 := 0
  clusters : BitVec 12 := 0
  cores : BitVec 16 := 0
  opAddr : Word := 0
  opTarget : Word := 0
  st : NodeState := .waiting
  readyAt : Nat := 0
  ageFrom : Nat := 0
  fireAt : Option Nat := none
  code : BitVec 8 := 0
  frames : List (Nat × Nat) := []
  saved : Table Core := []
  ctxDue : Nat := 0
  savedRegions : List SavedRegion := []
  victims : List NodeRef := []
  deriving DecidableEq, Repr, Inhabited

/-- An accepted launch (16 R310, R317); `abortBy`: the cycle of its first abort and the index of the node that aborted; `swept`: the nodes
that the abort found not completed. -/
structure Launch where
  entry : Nat := 0
  stamp : Word := 0
  seqno : BitVec 48 := 0
  ctx : BitVec 16 := 0
  sup : Bool := false
  graph : Word := 0
  object : Word := 0
  faultArea : Word := 0
  poolBase : Word := 0
  poolLen : Nat := 0
  prio : Nat := 0
  nodes : List Node := []
  abort : Option (BitVec 8) := none
  abortBy : Option (Nat × Nat) := none
  swept : List Nat := []
  deriving DecidableEq, Repr, Inhabited

/-- An accepted packet until its completion record is written (16 R300, R301): `id` is its own number on its die, and `tab` the queue-table
entry as it stood at the acceptance; `wrote` and `barred` are the table rows that a SCATTER has written, and those that it may not write any
more (R308). -/
structure Packet where
  id : Nat := 0
  tab : Word := 0
  entry : Nat
  n : Word
  header : Word
  body : List Byte
  accepted : Nat
  result : Option (BitVec 8 × Bool) := none
  launch : Option Nat := none
  row : Nat := 0
  oob : Bool := false
  issuer : BitVec 16 := 0
  ctx : BitVec 16 := 0
  begun : Bool := false
  wrote : List Nat := []
  barred : List Nat := []
  deriving DecidableEq, Repr, Inhabited

/-- A private SCATTER.ADD copy of an issuer (16 R309), by table row address. -/
structure ScatterCopy where
  issuer : Nat
  level : Nat
  type : Nat
  ctx : BitVec 16
  rows : List (Nat × List Byte)
  deriving DecidableEq, Repr, Inhabited

/-- The translation-invalidation and load blocks of a crown page (18 R346, 23 R427). -/
structure CrownRegs where
  tibCtx : BitVec 16 := 0
  tibVa : Word := 0
  tibLen : Word := 0
  tibGo : Bool := false
  tibRun : Bool := false
  ldObj : Word := 0
  ldGo : Bool := false
  ldRun : Bool := false
  ldReason : BitVec 8 := 0
  ldNote : Bool := false
  ldOff : BitVec 32 := 0
  deriving DecidableEq, Repr, Inhabited

/-- A die's stack (18 R350). -/
inductive StackState
  | ok | resetting | lost
  deriving DecidableEq, Repr, Inhabited

/-- A governed cluster (26 R447). -/
structure Gov where
  cap : Nat := 16
  held : Nat := 0
  deriving DecidableEq, Repr, Inhabited

/-- A die: its crown, interleave, governor, region manager buffers, stack (16, 10, 26, 14, 18). -/
structure Die where
  qtab : Table Word := []
  qcode : Table (BitVec 8) := []
  packets : List Packet := []
  launches : List Launch := []
  acceptNext : Nat := 0
  packetNext : Nat := 0
  scanAt : Nat := 0
  scatter : List ScatterCopy := []
  crown : CrownRegs := {}
  il : Table IlDomain := []
  rehome : Nat := 0
  gov : Table Gov := []
  outBuf : List Bool := []
  inBuf : List Word := []
  wbPages : Option (BitVec 16 × List (Nat × Nat)) := none
  stack : StackState := .ok
  stackErrs : Nat := 0
  scrubAt : Nat := 0
  resets : Nat := 0
  tables : List (Nat × Nat × Table (BitVec 96)) := []
  deriving DecidableEq, Repr, Inhabited

/-- Live and standby plane states (14 R282). -/
inductive Live
  | blank | running | frozen | pending
  deriving DecidableEq, Repr, Inhabited

inductive Standby
  | empty | loading | staged
  deriving DecidableEq, Repr, Inhabited

/-- A lane of a region (13 R264, 14 R285): the ingress offer held over an edge, the changed offer that is discarded and
never delivered while it stands, and the last flag transferred since the live configuration became live. -/
structure Lane where
  offer : Option Beat := none
  dead : Option Beat := none
  lastIn : Option Bool := none
  lastOut : Option Bool := none
  deriving DecidableEq, Repr, Inhabited

/-- A withy's entries, oldest first (13 R265). -/
structure Withy where
  entries : List (Word × Bool) := []
  deriving DecidableEq, Repr, Inhabited

/-- What one region edge does to a withy and to a lane, sampled before the edge (13 R264, R265). -/
structure WithyOp where
  w : Nat
  take : Bool
  put : Option (Word × Bool)
  deriving DecidableEq, Repr, Inhabited

structure LaneOp where
  k : Nat
  egress : Bool
  beat : Beat
  deriving DecidableEq, Repr, Inhabited

/-- The updates of the edge of one cycle that are still to be made. -/
structure Edge where
  at_ : Nat
  clock : Bool := true
  flops : Table Bool := []
  ram : Table Word := []
  ramOut : Table Word := []
  withies : List WithyOp := []
  lanes : List LaneOp := []
  deriving DecidableEq, Repr, Inhabited

/-- A weave region (13 R260, 14 R282). -/
structure Region where
  live : Live := .blank
  standby : Standby := .empty
  img : Image := {}
  stby : Image := {}
  clk : BitVec 3 := 5
  err : Bool := false
  ecount : Nat := 0
  flops : Table Bool := []
  ram : Table Word := []
  ramOut : Table Word := []
  withies : Table Withy := []
  lanes : Table Lane := []
  edge : Option Edge := none
  lastEdge : Option Nat := none
  swapAt : Option Nat := none
  swapper : Option (Nat × Nat) := none
  line : List (Nat × Nat) := []
  deriving DecidableEq, Repr, Inhabited

/-- A fold in progress or the last fold of a handle (19 R370, R373). -/
structure Fold where
  active : Bool := false
  k : Nat := 0
  snap : List Byte := []
  tile : Nat := 0
  code : BitVec 8 := 0
  ctx : BitVec 16 := 0
  sup : Bool := false
  die : Nat := 0
  deriving DecidableEq, Repr, Inhabited

/-- A request of this package to the host (22 R407), with the cycle in which it was sent. -/
structure HostReq where
  id : Nat
  fn : Nat
  addr : Nat
  size : Nat
  write : Bool
  op : Option Nat
  x : Word
  cmp : Word
  data : List Byte
  core : Option Nat := none
  own : List Nat := []
  at_ : Nat := 0
  deriving DecidableEq, Repr, Inhabited

/-- An access of a crown, a central copy engine or a loader to the memory of the host or of a peer (22 R407, R412): who makes it, its
physical address and length, its request number, whether it writes, and what it has brought. -/
structure Ask where
  own : List Nat
  pa : Nat
  n : Nat
  id : Nat
  write : Bool := false
  ans : Option (Bool × List Byte) := none
  deriving DecidableEq, Repr, Inhabited

/-- A stream link (22 R410-R414); `credits`: the beats of each channel whose credit has not come back; `out`: beats that the far end has not
received, and `wait`: beats that wait for credit; `serial`: the cycle from which its boundary element can serialise the next tree token;
`hold`: tokens with the cycles in which their holds end, and port-stream beats. -/
structure Link where
  f : BitVec 11 := 64
  late : Nat := 0
  credits : Table Nat := []
  wait : List (Nat × LinkItem) := []
  resets : Nat := 0
  out : List (Nat × LinkItem) := []
  hold : List (Nat × LinkItem) := []
  serial : Nat := 0
  deriving DecidableEq, Repr, Inhabited

/-- The tree tokens of a level-3 slot that stand at the package root (22 R413, R414): from child links and from the parent. -/
structure TreeState where
  up : List (Nat × Nat × List Word) := []
  down : List (Nat × List Word) := []
  sent : List Nat := []
  deriving DecidableEq, Repr, Inhabited

/-- Package time (22 R415-R417); `good`, `bad`: the sync intervals within and outside 10 ns in a row; `sync`: the cycle of the last
interval. -/
structure TimeState where
  count : BitVec 96 := 0
  rate : BitVec 32 := 0x8E38E38E#32
  offset : BitVec 32 := 0
  dom : BitVec 8 := 0
  role : BitVec 2 := 0
  en : Bool := false
  step : Bool := false
  lock : Bool := false
  good : Nat := 0
  bad : Nat := 0
  sync : Option Nat := none
  deriving DecidableEq, Repr, Inhabited

/-- Package registers and the units outside the dies (22, 26). -/
structure Pkg where
  devId : BitVec 20 := 0
  devLock : Bool := false
  ctxBase : Word := 0
  partBase : Word := 0
  tree : Table Word := []
  peer : Table Word := []
  trees : Table TreeState := []
  keys : Table (BitVec 14344) := []
  bootCode : Nat := 0
  svn : BitVec 32 := 0
  rollback : BitVec 32 := 0
  digest : BitVec 512 := 0
  nonce : List Byte := []
  repGo : Bool := false
  report : List Byte := []
  msixOpen : List Nat := []
  msixPend : List Nat := []
  msixSent : List Nat := []
  hostReqs : List HostReq := []
  arrived : List (Nat × Bool × List Byte) := []
  hostErrs : Table Nat := []
  answer : List Byte := []
  answerEp : Bool := false
  powered : Bool := true
  deriving DecidableEq, Repr, Inhabited

/-- The whole machine. `badCopy`: lines whose copy in the stack holds the scrubber's poison code while a slice holds them clean (18 R349).
`ucie`: the items that cross the package rings, with the port of which they left (2 × die, + 1 for station 14) and the die they go to.
`agenda`, `cur`, `now` and `free` are the model's own: who moves next, the strand that issues, whether its word also runs at once, and how
many free values have been taken; `images` notes, for each image that CTX.SAVE has written, the first of the free values in it and the core
it holds (17 R331: the places of most of an image are not given). -/
structure State where
  agenda : List Turn := []
  cur : Nat × Nat := (0, 0)
  now : Bool := false
  free : Nat := 0
  cycle : Nat := 0
  time : TimeState := {}
  mem : Memory := []
  poison : List Nat := []
  badCopy : List Nat := []
  cores : Table Core := []
  slices : Table Slice := []
  dies : Table Die := []
  regions : Table Region := []
  rings : Table Ring := []
  ucie : List (Nat × Nat × Item) := []
  reqs : List Req := []
  reqNext : Nat := 1
  asks : List Ask := []
  sync : Table SyncSlot := []
  folds : Table Fold := []
  links : Table Link := []
  launchNext : Nat := 0
  pkg : Pkg := {}
  images : List (Nat × Core) := []
  deriving DecidableEq, Repr, Inhabited

/-- The default interleave domains (10 R225). -/
def defaultMasks : List Word :=
  [0x0000111111111100#64, 0x0000222222222200#64, 0x0000444444444400#64, 0x0000888888888800#64]

def defaultDomains : Table IlDomain :=
  [(0, { active := true, base := 0, limit := 22, members := List.range 16, masks := defaultMasks }),
   (1, { active := true, base := 22, limit := 43, members := (List.range 16).map (· + 16), masks := defaultMasks }),
   (2, { active := true, base := 43, limit := 64, members := (List.range 16).map (· + 32), masks := defaultMasks })]

/-- The machine right after package reset (26 R443): SRAM and register files zero, the CSRs' reset values (03 R84), default
interleave domains (10 R225), empty queue tables, blank regions at clock code 5 (14 R282), caps of 16 (26 R447). -/
def State.reset : State :=
  { dies := (List.range 8).map (fun n => (n, { il := defaultDomains })) }

end Sys2Proof.Machine
end

