-- ==== Sys2Proof/Machine/Store.lean ====
section
/-! DEFINITION. Tables, byte memory and byte strings: the containers' operations, and the accessors of State's parts. -/

namespace Sys2Proof.Machine

/-- A table's value at a key; `d` where the key is not listed. -/
def tget {β : Type} (d : β) : Table β → Nat → β
  | [], _ => d
  | (k, v) :: r, n => if n < k then d else if n = k then v else tget d r n

/-- A table with one key set, keys kept rising. -/
def tput {β : Type} : Table β → Nat → β → Table β
  | [], n, x => [(n, x)]
  | (k, v) :: r, n, x => if n < k then (n, x) :: (k, v) :: r else if n = k then (n, x) :: r else (k, v) :: tput r n x

/-- What a byte of memory that nothing has written reads as: 26 R443 clears SRAM and the canopy; HBM4 by log entry 2. -/
def memDefault : Byte := 0

/-- One byte of memory. -/
def memRead : Memory → Nat → Byte
  | [], _ => memDefault
  | (k, b) :: r, a => if k = a then b else memRead r a

/-- Insert a cell, addresses kept rising. -/
def memInsert : Memory → Nat → Byte → Memory
  | [], a, b => [(a, b)]
  | (k, c) :: r, a, b => if a < k then (a, b) :: (k, c) :: r else if a = k then (a, b) :: r else (k, c) :: memInsert r a b

/-- Write one byte; a byte at the default leaves no cell. -/
def memWrite (m : Memory) (a : Nat) (b : Byte) : Memory :=
  if b = memDefault then m.filter (fun c => c.1 != a) else memInsert m a b

/-- The canonical form: addresses strictly rising, no cell at the default. -/
def Memory.wf : Memory → Bool
  | [] => true
  | [(_, b)] => b != memDefault
  | (a, b) :: (a', b') :: r => b != memDefault && decide (a < a') && Memory.wf ((a', b') :: r)

/-- `n` bytes from address `a`, in ascending address order. -/
def memReadN (m : Memory) (a n : Nat) : List Byte := (List.range n).map (fun i => memRead m (a + i))

/-- Write a byte string at address `a`. -/
def memWriteN (m : Memory) (a : Nat) : List Byte → Memory
  | [] => m
  | b :: bs => memWriteN (memWrite m a b) (a + 1) bs

/-- Little-endian value of a byte string (00 R6). -/
def leNat : List Byte → Nat
  | [] => 0
  | b :: bs => b.toNat + 256 * leNat bs

/-- The `n` little-endian bytes of a value. -/
def leBytes : Nat → Nat → List Byte
  | 0, _ => []
  | n + 1, x => BitVec.ofNat 8 x :: leBytes n (x / 256)

/-- Bits [hi:lo] of a number. -/
def bits (x hi lo : Nat) : Nat := x / 2 ^ lo % 2 ^ (hi + 1 - lo)

/-- Bits [hi:lo] of a word. -/
def wbits (x : Word) (hi lo : Nat) : Nat := bits x.toNat hi lo

/-- A word from a number. -/
def word (n : Nat) : Word := BitVec.ofNat 64 n

/-- Sign extension of a field to 64 bits (03 R60). -/
def sext {n : Nat} (x : BitVec n) : Word := x.signExtend 64

/-- Zero extension of a field to 64 bits (03 R60). -/
def zext {n : Nat} (x : BitVec n) : Word := x.setWidth 64

/-- A Bool as a word. -/
def wbool (b : Bool) : Word := if b then 1 else 0

/-- Update one key of a table. -/
def tmod {β : Type} (d : β) (t : Table β) (n : Nat) (f : β → β) : Table β := tput t n (f (tget d t n))

namespace Core
def strand (x : Core) (k : Nat) : Strand := tget {} x.strands k
def setStrand (x : Core) (k : Nat) (t : Strand) : Core := { x with strands := tput x.strands k t }
def modStrand (x : Core) (k : Nat) (f : Strand → Strand) : Core := x.setStrand k (f (x.strand k))
end Core

namespace State
def core (s : State) (c : Nat) : Core := tget {} s.cores c
def setCore (s : State) (c : Nat) (x : Core) : State := { s with cores := tput s.cores c x }
def modCore (s : State) (c : Nat) (f : Core → Core) : State := s.setCore c (f (s.core c))
def strand (s : State) (c k : Nat) : Strand := (s.core c).strand k
def modStrand (s : State) (c k : Nat) (f : Strand → Strand) : State := s.modCore c (fun x => x.modStrand k f)
def die (s : State) (d : Nat) : Die := tget {} s.dies d
def modDie (s : State) (d : Nat) (f : Die → Die) : State := { s with dies := tmod {} s.dies d f }
def slice (s : State) (d n : Nat) : Slice := tget {} s.slices (d * 48 + n)
def modSlice (s : State) (d n : Nat) (f : Slice → Slice) : State := { s with slices := tmod {} s.slices (d * 48 + n) f }
def region (s : State) (g : Nat) : Region := tget {} s.regions g
def modRegion (s : State) (g : Nat) (f : Region → Region) : State := { s with regions := tmod {} s.regions g f }
def ring (s : State) (r : Nat) : Ring := tget {} s.rings r
def modRing (s : State) (r : Nat) (f : Ring → Ring) : State := { s with rings := tmod {} s.rings r f }
def slot (s : State) (r n : Nat) : SyncSlot := tget {} s.sync (r * 64 + n)
def modSlot (s : State) (r n : Nat) (f : SyncSlot → SyncSlot) : State := { s with sync := tmod {} s.sync (r * 64 + n) f }
def link (s : State) (l : Nat) : Link := tget {} s.links l
def modLink (s : State) (l : Nat) (f : Link → Link) : State := { s with links := tmod {} s.links l f }
def modCsr (s : State) (c : Nat) (f : CoreCsr → CoreCsr) : State := s.modCore c (fun x => { x with csr := f x.csr })
def modData (s : State) (c : Nat) (f : CoreData → CoreData) : State := s.modCore c (fun x => { x with d := f x.d })
/-- The next free value (an open value of the spec), and the state that has taken it. -/
def freeVal (s : State) : Word := Config.freeWord s.free
def takeFree (s : State) : State := { s with free := s.free + 1 }
end State

/-- The fields of a core's number (03 R85): die × 256 + cluster × 16 + core. -/
def coreDie (c : Nat) : Nat := c / 256
def coreCluster (c : Nat) : Nat := c / 16 % 16
def coreIdx (c : Nat) : Nat := c % 16

/-- Every core number of a die, in ascending order. -/
def dieCores (d : Nat) : List Nat :=
  (List.range 12).flatMap (fun cl => (List.range 16).map (fun k => d * 256 + cl * 16 + k))

/-- Every core number of the package. -/
def allCores : List Nat := (List.range 8).flatMap dieCores

/-- Update a core's register files or engines. -/
def CoreData.setV (x : CoreData) (n : Nat) (b : BitVec 2048) : CoreData := { x with v := tput x.v n b }
def CoreData.getV (x : CoreData) (n : Nat) : BitVec 2048 := tget 0 x.v n
/-- k0 reads as all ones and discards writes (05 R107). -/
def CoreData.getK (x : CoreData) (n : Nat) : BitVec 256 := if n = 0 then BitVec.allOnes 256 else tget 0 x.k n
def CoreData.setK (x : CoreData) (n : Nat) (b : BitVec 256) : CoreData := if n = 0 then x else { x with k := tput x.k n b }
def CoreData.getM (x : CoreData) (n : Nat) : Tile := tget {} x.m n
def CoreData.setM (x : CoreData) (n : Nat) (t : Tile) : CoreData := { x with m := tput x.m n t }
def CoreData.getA (x : CoreData) (n : Nat) : Acc := tget {} x.a n
def CoreData.setA (x : CoreData) (n : Nat) (t : Acc) : CoreData := { x with a := tput x.a n t }
def CoreData.getF (x : CoreData) (n : Nat) : Fibre := tget {} x.f n
def CoreData.setF (x : CoreData) (n : Nat) (t : Fibre) : CoreData := { x with f := tput x.f n t }
def CoreData.hoop (x : CoreData) (n : Nat) : Hoop := tget {} x.hoops n
def CoreData.setHoop (x : CoreData) (n : Nat) (t : Hoop) : CoreData := { x with hoops := tput x.hoops n t }
def CoreData.gen (x : CoreData) (n : Nat) : Gen := tget {} x.gens n
def CoreData.setGen (x : CoreData) (n : Nat) (t : Gen) : CoreData := { x with gens := tput x.gens n t }
def CoreData.port (x : CoreData) (n : Nat) : Port := tget {} x.ports n
def CoreData.setPort (x : CoreData) (n : Nat) (t : Port) : CoreData := { x with ports := tput x.ports n t }

end Sys2Proof.Machine
end

