-- ==== Sys2Proof/Machine/Ops.lean ====
section
/-! DEFINITION. The named operations that every word uses: what a word's meaning consists of (WordSpec), register and queue
operations, the scratchpad, tokens, flags, taking a fault (01 R33, 17 R322-R325) and returning from one (17 R326). -/

namespace Sys2Proof.Machine

/-- A register of the dependency table (05 R109): scalars are handled by their physical number. -/
inductive Reg
  | v (n : Nat) | k (n : Nat) | m (n : Nat) | a (n : Nat) | f (n : Nat)
  deriving DecidableEq, Repr

/-- How a queued word holds later words of its strand (01 R29): not at all; later issue until it has begun (its checks have passed); later
issue until it has finished; later issue until it has retired; the later words of its own queue until it has retired; or both of the second
and the fifth. -/
inductive Hold
  | no | begun | fin | all | qOnly | both
  deriving DecidableEq, Repr

/-- What running a word answers: finished with its result and condition bit; it must wait, with the progress it keeps; it has
begun and another event completes it; or it stops with a fault, keeping its progress. -/
inductive Run
  | done (s : State) (res : Word) (bit : Bool)
  | wait (w : QWord) (s : State)
  | begun (w : QWord) (s : State)
  | trap (t : Trap) (w : QWord) (s : State)

/-- The meaning of an instruction word: who may issue it, what it reads and writes, its checks and conditions at issue, its effects at
issue, and what it does when its engine runs it. `rdw` and `wrw` are the registers that it reads and writes by what it read at issue,
besides `rd` and `wr`. `uses` are CSRs it reads at issue or may set (03 R82), `csr` the one a CSR word names; `scr`: the scratch ranges that
the word, queued on a strand of a core, accesses; `late`: it acts at its retirement (03 R83); `covers`: words that IFQ and ELSEQ cover;
`hint`: an H word (02 R48); `bankWait`: the bank whose users (M words only, where the flag is set) the word waits for (06 R145); `marker`:
the stage marker (03 R77); `pre`: a value sampled in the issue cycle. -/
structure WordSpec where
  engine : Engine
  hdr : Hdr := ⟨0, 0⟩
  strands : List Nat := [0, 1, 2, 3]
  sup : Bool := false
  a : Option (BitVec 5) := none
  b : Option (BitVec 5) := none
  d : Option (BitVec 5) := none
  dst : Option (BitVec 5) := none
  cqPush : Bool := false
  cqPop : Bool := false
  rd : List Reg := []
  wr : List Reg := []
  rdw : QWord → List Reg := fun _ => []
  wrw : QWord → List Reg := fun _ => []
  uses : List Nat := []
  csr : Option Nat := none
  csrW : Bool := false
  scr : Nat → QWord → Core → List (Nat × Nat) := fun _ _ _ => []
  late : Bool := false
  hint : Bool := false
  marker : Bool := false
  pre : Nat → Nat → State → Word := fun _ _ _ => 0
  noCover : Bool := false
  noLoop : Bool := false
  hold : Hold := .no
  covers : Nat := 0
  bankWait : Option (Nat × Bool) := none
  tokens : QWord → Nat × Nat := fun _ => (0, 0)
  ready : Nat → Nat → QWord → State → Option Block := fun _ _ _ _ => none
  check : Nat → Nat → QWord → State → Option Trap := fun _ _ _ _ => none
  jump : QWord → Strand → Option Word := fun _ _ => none
  take : Nat → Nat → QWord → State → State := fun _ _ _ s => s
  body : Nat → Nat → QWord → State → Run

/-- The E field's number of an engine (02 R35), the key of its queue. -/
def engNum : Engine → Nat
  | .x => 0 | .l => 1 | .m => 2 | .v => 3 | .q => 4 | .w => 5 | .y => 6

/-- A stop at issue (17 R323). -/
def issueTrap (code : BitVec 8) : Trap := { code := code, cls := 1 }
/-- A stop after issue. -/
def runTrap (code : BitVec 8) : Trap := { code := code, cls := 2 }
/-- A stop of a word that waits. -/
def waitTrap (code : BitVec 8) : Trap := { code := code, cls := 3 }
/-- A deferred 0x08 (10 R226). -/
def deferredTrap (addr : Word) : Trap := { code := 0x08, cls := 4, addr := addr, x0 := 1 }

/-- The rotation mapping of scalar names 16 to 27 (03 R78). -/
def physReg (rot : BitVec 4) (n : Nat) : Nat :=
  if 16 ≤ n && n < 28 then 16 + (n - 16 + rot.toNat) % 12 else n

/-- Read a physical scalar register: s0 reads as zero (01 R16). -/
def Strand.reg (t : Strand) (p : Nat) : Word := if p = 0 then 0 else tget 0 t.regs p

/-- Write a physical scalar register: a write to s0 is discarded (01 R16). -/
def Strand.setReg (t : Strand) (p : Nat) (x : Word) : Strand :=
  if p = 0 then t else { t with regs := tput t.regs p x, bad := t.bad.filter (· ≠ p) }

/-- The queue of an engine (01 R27). -/
def Strand.queue (t : Strand) (e : Engine) : List QWord := tget [] t.queues (engNum e)
def Strand.setQueue (t : Strand) (e : Engine) (q : List QWord) : Strand := { t with queues := tput t.queues (engNum e) q }

/-- Every word in a strand's queues. -/
def Strand.words (t : Strand) : List QWord := t.queues.flatMap (fun q => q.2)

/-- Has every earlier word of the strand completed? -/
def Strand.drained (t : Strand) : Bool := t.words.isEmpty

/-- The key of the data queue, or token channel, from strand `j` to strand `i` (01 R18, 05 R111). -/
def chan (j i : Nat) : Nat := j * 4 + i

/-- The strand at distance `n` (01 R18, 02 R36). -/
def dist (i n : Nat) : Nat := (i + n) % 4

def Core.tokens (x : Core) (j i : Nat) : Nat := tget 0 x.tok (chan j i)
def Core.setTokens (x : Core) (j i n : Nat) : Core := { x with tok := tput x.tok (chan j i) n }
def Core.dqueue (x : Core) (j i : Nat) : List DqEntry := tget [] x.dq (chan j i)
def Core.setDqueue (x : Core) (j i : Nat) (q : List DqEntry) : Core := { x with dq := tput x.dq (chan j i) q }

/-- The filled entries at the head of a data queue (01 R19). -/
def dqReady (q : List DqEntry) : List Word :=
  match q with
  | [] => []
  | e :: r => match e.val with
    | some v => v :: dqReady r
    | none => []

/-- Fill the entry that word `seq` reserved (01 R19). -/
def dqFill (seq : Nat) (v : Word) : List DqEntry → List DqEntry
  | [] => []
  | e :: r => if e.seq = seq && e.val.isNone then { e with val := some v } :: r else e :: dqFill seq v r

/-- Update the word `seq` in a strand's queue of an engine. -/
def Strand.modWord (t : Strand) (e : Engine) (seq : Nat) (f : QWord → QWord) : Strand :=
  t.setQueue e ((t.queue e).map (fun w => if w.seq = seq then f w else w))

/-- Drop the word `seq` from a strand's queue of an engine. -/
def Strand.dropWord (t : Strand) (e : Engine) (seq : Nat) : Strand :=
  t.setQueue e ((t.queue e).filter (fun w => w.seq != seq))

/-- A core's cycle, as far as it has come (01 R25, R26, 05 R110). -/
def Core.markAt (x : Core) (cyc : Nat) : CycleMark := if x.mark.at_ = cyc then x.mark else { at_ := cyc }
def Core.setMark (x : Core) (cyc : Nat) (f : CycleMark → CycleMark) : Core := { x with mark := f (x.markAt cyc) }

/-- May strand `k` issue in this cycle: one word a strand, in ascending strand number, ahead of the cycle's retirements (01 R26, 05
R110, R111)? -/
def Core.mayIssue (x : Core) (cyc k : Nat) : Bool := !(x.markAt cyc).closed && decide ((x.markAt cyc).issued ≤ k)

/-- Has a strand above `k` faulted in this cycle (01 R33: the lower-numbered strand's fault is the one recorded)? -/
def Core.faultAbove (x : Core) (cyc k : Nat) : Bool := match (x.markAt cyc).fault with
  | some f => decide (k < f)
  | none => false

/-- Is the core stopped by a freeze, or does one begin in this cycle (05 R119-R121)? -/
def Core.frozen (x : Core) (cyc : Nat) : Bool := x.frzUntil.isSome || x.frzPend.any (fun t => decide (t ≤ cyc))

/-- Is the strand able to issue: running, or blocked and trying again (01 R32)? -/
def Strand.active (t : Strand) : Bool := t.st = .running || t.st = .blocked

/-! ### Flags (03 R87, 04 R98) -/

/-- Set flag bits of a strand. -/
def State.raise (s : State) (c k : Nat) (f : Flags) : State := s.modStrand c k (fun t => { t with flags := t.flags ||| f })

/-- Does an event meet its trap enable (03 R87)? -/
def trapped (trapen f : Flags) : Bool := trapen &&& f != 0

/-! ### The scratchpad (05 R115-R117, 08 R180) -/

/-- scr.check (08 R180): 64-bit compare, no wrap. -/
def scrCheck (cls : Nat) (addr : Word) (n align : Nat) : Option Trap :=
  if addr.toNat % align ≠ 0 then some { code := 0x03, cls := cls, addr := addr }
  else if addr.toNat + n > 0x80000 then some { code := 0x05, cls := cls, addr := addr }
  else none

/-- The pages of a scratch range that are absent (05 R116). -/
def CoreData.absent (x : CoreData) (a n : Nat) : List Nat :=
  if x.pages.isEmpty then []
  else ((List.range (if n = 0 then 0 else (a + n - 1) / 4096 - a / 4096 + 1)).map (· + a / 4096)).filter
    (fun p => tget .pinned x.pages p = .absent)

/-- Start the refill of pages (05 R116). -/
def CoreData.refill (x : CoreData) (ps : List Nat) : CoreData :=
  { x with refills := x.refills ++ ps.filter (fun p => !x.refills.contains p) }

/-- Does a scratch range touch a poisoned line (05 R117)? -/
def CoreData.scrPoisoned (x : CoreData) (a n : Nat) : Bool :=
  x.scrBad.any (fun l => decide (l * 64 < a + n ∧ a < l * 64 + 64 ∧ n ≠ 0))

/-- Write scratch bytes; a write that covers a whole poisoned line clears its mark (05 R117). -/
def CoreData.scrWrite (x : CoreData) (a : Nat) (bs : List Byte) : CoreData :=
  { x with scratch := memWriteN x.scratch a bs
           scrBad := x.scrBad.filter (fun l => !decide (a ≤ l * 64 ∧ l * 64 + 64 ≤ a + bs.length)) }

/-- Lines that several writes of one word or transfer cover together lose their marks (05 R117, log entry 22). -/
def CoreData.scrCover (x : CoreData) (rs : List (Nat × Nat)) : CoreData :=
  { x with scrBad := x.scrBad.filter (fun l =>
      !((List.range 64).all (fun i => rs.any (fun r => decide (r.1 ≤ l * 64 + i ∧ l * 64 + i < r.1 + r.2))))) }

def CoreData.scrRead (x : CoreData) (a n : Nat) : List Byte := memReadN x.scratch a n

/-- Hold a word until the absent pages of a scratch range are refilled, else go on (05 R116). -/
def withPages (c a n : Nat) (w : QWord) (s : State) (go : State → Run) : Run :=
  let ps := (s.core c).d.absent a n
  if ps.isEmpty then go s else .wait { w with paging := true, wants := ps } (s.modData c (·.refill ps))

/-- Hold a word until the absent pages of several scratch ranges are refilled, else go on (05 R116). -/
def withRanges (c : Nat) (rs : List (Nat × Nat)) (w : QWord) (s : State) (go : State → Run) : Run :=
  let ps := (rs.flatMap (fun r => (s.core c).d.absent r.1 r.2)).eraseDups
  if ps.isEmpty then go s else .wait { w with paging := true, wants := ps } (s.modData c (·.refill ps))

/-! ### Physical memory -/

/-- `n` bytes of physical memory, little-endian. -/
def State.memNat (s : State) (pa n : Nat) : Nat := leNat (memReadN s.mem pa n)

/-- The 256-byte lines of a range. -/
def linesOf (pa n : Nat) : List Nat := if n = 0 then [] else (List.range ((pa + n - 1) / 256 - pa / 256 + 1)).map (· + pa / 256)

/-- Does a slice hold a line no more whose copy in the stack is a poison code (18 R349)? -/
def State.badNow (s : State) (line : Nat) : Bool :=
  s.badCopy.contains line && !s.slices.any (fun x => (tget {} x.2.lines line).held)

/-- Is a poisoned line in the range (10 R224, 18 R349)? -/
def State.poisoned (s : State) (pa n : Nat) : Bool :=
  (!s.poison.isEmpty || !s.badCopy.isEmpty) && (linesOf pa n).any (fun l => s.poison.contains l || s.badNow l)

/-- Store bytes: a store that covers a poisoned line whole clears the poison (10 R224, R226). -/
def State.memStore (s : State) (pa : Nat) (bs : List Byte) : State :=
  { s with mem := memWriteN s.mem pa bs
           poison := s.poison.filter (fun l => !decide (pa ≤ l * 256 ∧ l * 256 + 256 ≤ pa + bs.length))
           badCopy := s.badCopy.filter (fun l => !decide (pa ≤ l * 256 ∧ l * 256 + 256 ≤ pa + bs.length)) }

/-! ### Home slices (10 R222, R225, R233; 18 R337, R350-R352) -/

/-- What a physical address names (18 R337, R340). -/
inductive Target
  | hbm (die gib : Nat)
  | carve (die slice off : Nat)
  | crown (die off : Nat)
  | host (off : Nat)
  | peer (idx off : Nat)
  deriving DecidableEq, Repr

def target (pa : Nat) : Target :=
  match bits pa 47 46 with
  | 0 => .hbm (bits pa 38 36) (bits pa 35 30)
  | 1 => if bits pa 35 29 = 0x7F then .crown (bits pa 38 36) (bits pa 20 0) else .carve (bits pa 38 36) (bits pa 28 23) (bits pa 22 0)
  | 2 => .host (bits pa 45 0)
  | _ => .peer (bits pa 45 38) (bits pa 37 0)

/-- The parity of a number's bits. -/
def parity (n : Nat) : Nat := popParity 64 n
where
  popParity : Nat → Nat → Nat
    | 0, _ => 0
    | k + 1, x => (x % 2 + popParity k (x / 2)) % 2

/-- The active domain of a die that covers a GiB index (10 R225). -/
def domainOf (x : Die) (gib : Nat) : Option IlDomain :=
  (x.il.find? (fun d => d.2.active && decide (d.2.base ≤ gib) && decide (gib < d.2.limit))).map (·.2)

/-- The member index of a line in its domain (10 R225). -/
def memberIdx (masks : List Word) (local_ : Nat) : Nat :=
  match masks with
  | [] => 0
  | m :: r => parity (local_ &&& m.toNat) + 2 * memberIdx r local_

/-- The masks in use: nbits of them (10 R225, R231). -/
def IlDomain.bitsMasks (d : IlDomain) : List Word := d.masks.take (Nat.log2 d.members.length)

/-- The home slice of an address: die and die slice; none for an address that no active domain covers or that has no slice. -/
def homeOf (s : State) (pa : Nat) : Option (Nat × Nat) :=
  match target pa with
  | .hbm d g => (domainOf (s.die d) g).map (fun x => (d, x.members.getD (memberIdx x.bitsMasks (bits pa 35 0)) 0))
  | .carve d n _ => some (d, n)
  | _ => none

/-- The key of a line in its slice's table: its line number in the package. -/
def lineOf (pa : Nat) : Nat := pa / 256

/-- Can the address be served now (10 R225, R232, 18 R350)? none: it waits; some false: its stack is lost, so it fails. -/
def homeReady (s : State) (pa : Nat) : Option Bool :=
  match target pa with
  | .hbm d g =>
    match domainOf (s.die d) g, homeOf s pa with
    | some x, some (hd, hn) =>
      if x.quiesced then none
      else if (s.die d).stack = .lost then some false
      else if (s.die d).stack = .resetting && !(tget {} (s.slice hd hn).lines (lineOf pa)).held then none
      else some true
    | _, _ => none
  | _ => some true

/-- Is the stack of a line of a range lost, so that every access to it fails with 0x08 (18 R350)? -/
def rangeLost (s : State) (pa n : Nat) : Bool := (linesOf pa n).any (fun l => homeReady s (l * 256) = some false)

/-- Can every line of a range be served now? -/
def rangeReady (s : State) (pa n : Nat) : Bool := (linesOf pa n).all (fun l => homeReady s (l * 256) ≠ none)

/-- The set of a line in its slice: 2,048 sets (10 R222); which lines share one is log entry 63. -/
def setOf (line : Nat) : Nat := line / 16 % 2048

/-- The ways of a slice's sets: 16 of 8 MiB in all, less the carve-out's (10 R222, 18 R351). -/
def Slice.ways (x : Slice) : Nat := 16 - 2 * x.carve.toNat

/-- The lines held in a line's set. -/
def Slice.peers (x : Slice) (line : Nat) : List Nat := (x.lines.filter (fun l => l.2.held && setOf l.1 = setOf line)).map (·.1)

/-- A line comes into its slice; where its set is full one of the set leaves: `victim` if it is of the set, else any (10 R222). -/
def Slice.insert (x : Slice) (line cycle : Nat) (victim : Option Nat) (write : Bool) : Slice :=
  let l := tget {} x.lines line
  let ps := x.peers line
  let out := match victim with
    | some v => if ps.contains v then v else ps.getD (Config.victimWay line cycle % ps.length) 0
    | none => ps.getD (Config.victimWay line cycle % ps.length) 0
  let kept := if l.held || decide (ps.length < x.ways) then x.lines else x.lines.filter (fun y => y.1 ≠ out)
  { x with lines := tput kept line { held := true, dirty := l.dirty || write } }

/-- A line comes in from its stack: a poison code there makes it poisoned (18 R349). -/
def State.fillBad (line : Nat) (s : State) : State :=
  if s.badNow line then { s with poison := line :: s.poison, badCopy := s.badCopy.filter (· ≠ line) } else s

/-- The line's metadata after an access (10 R222): held, and dirty after a write; carve-out lines are not cached. What the slice will write
back of a dirty line replaces a poison code in its stack (18 R349). -/
def State.touch (s : State) (pa : Nat) (write : Bool) : State :=
  match target pa, homeOf s pa with
  | .hbm _ _, some (d, n) =>
    let s := s.fillBad (lineOf pa)
    let s := if write then { s with badCopy := s.badCopy.filter (· ≠ lineOf pa) } else s
    s.modSlice d n (·.insert (lineOf pa) s.cycle none write)
  | _, _ => s

/-- Is a carve-out offset inside the carve-out now (18 R352)? Other targets always are. -/
def inCarve (s : State) (pa : Nat) : Bool :=
  match target pa with
  | .carve d n off => decide (off < (s.slice d n).carve.toNat * 2 ^ 20)
  | _ => true

/-! ### Translation (18 R337-R347) -/

/-- A walk's answer: the physical address and the leaf that gave it, with the page's size in bits; or the fault code. -/
inductive Xlat
  | ok (pa : Nat) (leaf : Word) (bits : Nat)
  | fail (code : BitVec 8)
  deriving DecidableEq, Repr

/-- Is a physical address valid (18 R337, R348)? The offset within a carve-out is checked at the access (R351). -/
def paValid (pa : Nat) : Bool :=
  match bits pa 47 46 with
  | 0 => bits pa 45 39 = 0
  | 1 => bits pa 45 39 = 0 && ((bits pa 35 29 = 0 && bits pa 28 23 < 48) || (bits pa 35 29 = 0x7F && bits pa 28 21 = 0))
  | 2 => true
  | _ => bits pa 45 38 < 192

/-- The leaf's kind (18 R342). -/
def leafKind (l : Word) : Nat := wbits l 11 10
def leafShadow (l : Word) : Bool := l.getLsbD 9
def leafSup (l : Word) : Bool := l.getLsbD 8
def leafW (l : Word) : Bool := l.getLsbD 7

/-- The frame that a leaf names, checked for its level (18 R342, R343). A handle's address in a kind-2 leaf is virtual (19 R364). -/
def leafOk (l : Word) (lvl : Nat) : Bool :=
  wbits l 53 48 = 0 && wbits l 15 12 = 0 && wbits l 6 2 = 0 && leafKind l ≠ 3 && (leafKind l = 2 || wbits l 63 54 = 0)
  && (lvl ≠ 1 || wbits l 20 16 = 0) && (lvl ≠ 2 || wbits l 29 16 = 0)
  && (leafKind l ≠ 1 || (lvl = 0 && wbits l 47 46 = 1 && wbits l 35 29 = 0))
  && (!leafShadow l || lvl = 0)
  && (leafKind l = 2 || paValid (wbits l 47 16 * 65536))

/-- The size in bits of a page at a level (18 R341). -/
def pageBits (lvl : Nat) : Nat := if lvl = 0 then 16 else if lvl = 1 then 21 else 30

/-- The index of a level (18 R341). -/
def walkIdx (va lvl : Nat) : Nat :=
  match lvl with
  | 3 => bits va 47 39
  | 2 => bits va 38 30
  | 1 => bits va 29 21
  | _ => bits va 20 16

/-- Does a physical address lie in a carve-out, at or above its size (18 R351)? -/
def beyondCarve (s : State) (pa : Nat) : Bool :=
  bits pa 47 46 = 1 && bits pa 35 29 = 0 && decide (bits pa 22 0 ≥ (s.slice (bits pa 38 36) (bits pa 28 23)).carve.toNat * 2 ^ 20)

/-- The code that stands for a walk that must wait: no fault has it (17 R323). -/
def walkWaits : BitVec 8 := 0

/-- A table word as a walk reads it, by a relaxed load at its home slice (18 R344): the walk waits, or it fails with 0x08 where the word
cannot be had (16 R455, 18 R349, R350). -/
def tableWord (s : State) (a : Nat) : Except (BitVec 8) Word :=
  match homeReady s a with
  | none => .error walkWaits
  | some false => .error 0x08
  | some true => if s.poisoned a 8 then .error 0x08 else .ok (word (s.memNat a 8))

/-- The lowest bit of a level's index (18 R341). -/
def walkShift (lvl : Nat) : Nat :=
  match lvl with
  | 3 => 39
  | 2 => 30
  | 1 => 21
  | _ => 16

/-- What a walk comes to: its answer, the addresses of the entries that it read, and the level-3 to level-1 entries among them. -/
structure Walk where
  out : Xlat
  reads : List Nat := []
  found : List TlbEntry := []

/-- A walk cache's entry for a level of an address (18 R344). -/
def walkCached (l : List TlbEntry) (ctx : BitVec 16) (va lvl : Nat) : Option Word :=
  if lvl = 0 then none
  else (l.find? (fun e => e.ctx == ctx && e.bits = walkShift lvl && e.page = va / 2 ^ walkShift lvl)).map (·.leaf)

/-- The walk from a table at a level (18 R341-R344, R351), over the entries that the walk cache `wc` holds; an entry that cannot be read
gives 0x08 (16 R455). -/
def walkFrom (s : State) (wc : List TlbEntry) (ctx : BitVec 16) (va : Nat) : Nat → Nat → Walk
  | lvl, table =>
    let a := table + 8 * walkIdx va lvl
    let kept := walkCached wc ctx va lvl
    match (match kept with
      | some e => Except.ok e
      | none => tableWord s a) with
    | .error c => { out := .fail c }
    | .ok e =>
      let reads := if kept.isSome then [] else [a]
      let found := if kept.isSome || lvl = 0 || !e.getLsbD 0 then [] else [(⟨ctx, va / 2 ^ walkShift lvl, walkShift lvl, e⟩ : TlbEntry)]
      let pa := wbits e 47 16 * 65536 + va % 2 ^ pageBits lvl
      if !e.getLsbD 0 then { out := .fail 0x04, reads := reads }
      else if e.getLsbD 1 then
        { out := if lvl = 3 || !leafOk e lvl || (leafKind e ≠ 2 && (!paValid pa || beyondCarve s pa)) then .fail 0x04
            else .ok pa e (pageBits lvl)
          reads := reads
          found := found }
      else
        match lvl with
        | 0 => { out := .fail 0x04, reads := reads }
        | l + 1 =>
          let nxt := wbits e 47 8 * 256
          if wbits e 63 48 ≠ 0 || wbits e 7 2 ≠ 0 || (l ≠ 0 && nxt % 4096 ≠ 0) || !paValid nxt then { out := .fail 0x04, reads := reads }
          else
            let r := walkFrom s wc ctx va l nxt
            { r with reads := reads ++ r.reads, found := found ++ r.found }

/-- The root table of a context, or the code with which its entry fails (18 R337, R338). -/
def rootOfCtx (s : State) (ctx : BitVec 16) : Except (BitVec 8) Nat :=
  let a := s.pkg.ctxBase.toNat + 16 * ctx.toNat
  match tableWord s a, tableWord s (a + 8) with
  | .error c, _ => .error c
  | _, .error c => .error c
  | .ok e, .ok f =>
    if !e.getLsbD 0 || wbits e 63 48 ≠ 0 || wbits e 11 1 ≠ 0 || f ≠ 0 || !paValid (wbits e 47 12 * 4096) then .error 0x04
    else .ok (wbits e 47 12 * 4096)

/-- A walk of an address in a context, over a walk cache (18 R338, R341). -/
def walkOver (s : State) (wc : List TlbEntry) (ctx : BitVec 16) (va : Nat) : Walk :=
  if va ≥ 2 ^ 48 then { out := .fail 0x04 }
  else match rootOfCtx s ctx with
    | .error c => { out := .fail c }
    | .ok root => walkFrom s wc ctx va 3 root

/-- A context's walk over the entries in memory (18 R338, R341). -/
def walk (s : State) (ctx : BitVec 16) (va : Nat) : Xlat := (walkOver s [] ctx va).out

/-- The slice that walks an address: the home of its level-3 entry's line (18 R344). -/
def walkSlice (s : State) (ctx : BitVec 16) (va : Nat) : Option (Nat × Nat) :=
  match rootOfCtx s ctx with
  | .ok root => homeOf s (root + 8 * walkIdx va 3)
  | .error _ => none

/-- Up to 1,024 entries of a walk cache, the new ones first (18 R344). -/
def addWalks (found l : List TlbEntry) : List TlbEntry :=
  (found ++ l.filter (fun e => !found.any (fun f => f.ctx == e.ctx && f.bits = e.bits && f.page = e.page))).take 1024

/-- A walk for a core, at the slice that walks it: what it reads comes into the slices, and its upper entries into the walk cache. With
`fresh`, the walk cache has dropped its entries for the address. -/
def sliceWalk (s : State) (fresh : Bool) (ctx : BitVec 16) (va : Nat) : Xlat × State :=
  match walkSlice s ctx va with
  | none => (walk s ctx va, s)
  | some (d, n) =>
    let w := walkOver s (if fresh then [] else (s.slice d n).walks) ctx va
    if w.out = .fail walkWaits then (w.out, s)
    else (w.out, (w.reads.foldl (fun s a => s.touch a false) s).modSlice d n (fun x => { x with walks := addWalks w.found x.walks }))

/-- The partition entry of a launch (18 R339). -/
def partAddr (s : State) (p : BitVec 16) : Nat := s.pkg.partBase.toNat + 64 * p.toNat

/-- Is a partition entry valid, with its zero bits clear (18 R339)? -/
def partOk (s : State) (p : BitVec 16) : Bool :=
  let a := partAddr s p
  let h := s.memNat a 8
  let r := s.memNat (a + 48) 8
  h % 2 = 1 && h / 64 = 0 && s.memNat (a + 44) 4 = 0 && bits r 31 20 = 0 && bits r 63 52 = 0 && s.memNat (a + 56) 8 = 0

/-- Is a peer index allowed by the partition, and its table entry valid (18 R339, 22 R412)? -/
def peerAllowed (s : State) (p : BitVec 16) (peer : Nat) : Bool :=
  let e := tget 0 s.pkg.peer peer
  peer < 192 && e.getLsbD 32 && wbits e 31 25 = 0 && wbits e 63 33 = 0 &&
    (s.memNat (partAddr s p + 8 + peer / 8) 1).testBit (peer % 8)

/-- Is a package in the partition (18 R339)? -/
def pkgAllowed (s : State) (p : BitVec 16) (id : BitVec 20) : Bool :=
  id == s.pkg.devId ||
  (List.range 192).any (fun i => peerAllowed s p i && decide (wbits (tget 0 s.pkg.peer i) 19 0 = id.toNat)) ||
  (let r := s.memNat (partAddr s p + 48) 8
   decide (bits r 19 0 ≤ id.toNat ∧ id.toNat ≤ bits r 51 32))

/-- Is a core of a package in the partition (18 R339)? -/
def coreAllowed (s : State) (p : BitVec 16) (id : BitVec 20) (die cluster : Nat) : Bool :=
  if id == s.pkg.devId then (s.memNat (partAddr s p + 32) 12).testBit (12 * die + cluster) else pkgAllowed s p id

/-- What an access wants of a page (18 R343); `own`: who makes it, where the crown, a central copy engine or a loader does. -/
structure Access where
  ctx : BitVec 16
  sup : Bool
  write : Bool := false
  kind : Nat := 0
  own : List Nat := []
  deriving DecidableEq, Repr

/-- The protection checks on a translated access (18 R343, R340): kind 0 plain, 1 versioned, 2 a layered view. -/
def protect (s : State) (q : Access) (pa : Nat) (leaf : Word) : Option (BitVec 8) :=
  if leafSup leaf && !q.sup then some 0x05
  else if leafKind leaf ≠ q.kind then some 0x05
  else if q.write && !leafW leaf && q.kind ≠ 2 then some 0x05
  else if q.kind = 2 then none
  else if bits pa 47 46 = 3 && !peerAllowed s q.ctx (bits pa 45 38) then some 0x07
  else none

/-- Translate without a translation cache (the crown, the copy engines of dies, the slices' own reads). -/
def translate (s : State) (q : Access) (va : Nat) : Xlat :=
  match walk s q.ctx va with
  | .fail e => .fail e
  | .ok pa leaf b => match protect s q pa leaf with
    | some e => .fail e
    | none => .ok pa leaf b

/-- A translation-cache hit (18 R344). -/
def tlbFind (l : List TlbEntry) (ctx : BitVec 16) (va : Nat) : Option TlbEntry :=
  l.find? (fun e => e.ctx == ctx && decide (va / 2 ^ e.bits = e.page))

/-- Does the core run a replayable node (16 R319)? -/
def nodeOf (s : State) (r : NodeRef) : Option Node :=
  match (s.die r.die).launches.find? (fun l => l.stamp.toNat = r.launch) with
  | some l => l.nodes[r.node]?
  | none => none

def replayNode (s : State) (c : Nat) : Bool :=
  match (s.core c).node with
  | some r => match nodeOf s r with
    | some n => n.replay
    | none => false
  | none => false

/-- Has the pre-emption signal reached a core (17 R332): from its cycle on no strand issues and nothing new starts? -/
def preempting (s : State) (c : Nat) : Bool :=
  let x := s.core c
  x.preempt || (match x.node with
    | some r => (match nodeOf s r with
      | some n => n.st = .saving && decide (n.ctxDue ≤ s.cycle) && x.ending.isNone && x.record.isNone
      | none => false)
    | none => false)

/-- The frame that a replayable node's page has, if it has one (16 R319). -/
def shadowOf (s : State) (c : Nat) (pa : Nat) : Nat :=
  match (s.core c).node with
  | some r => match nodeOf s r with
    | some n => match n.frames.find? (fun f => f.1 = pa / 65536) with
      | some f => f.2 * 65536 + pa % 65536
      | none => pa
    | none => pa
  | none => pa

/-- The entry that a walk leaves in a cache: its page, or the 64 KiB of it that was walked where it leads to a carve-out, whose size
each walk checks (18 R351, R352). -/
def tlbEntry (ctx : BitVec 16) (va pa : Nat) (leaf : Word) (b : Nat) : TlbEntry :=
  if leafKind leaf ≠ 2 && bits pa 47 46 = 1 then ⟨ctx, va / 2 ^ 16, 16, leaf ||| word (va % 2 ^ b / 65536 * 65536)⟩
  else ⟨ctx, va / 2 ^ b, b, leaf⟩

/-- Translate for a core through its translation cache, filling it on a miss (18 R344); replayable nodes' frames are applied
(16 R319). -/
def coreXlat (s : State) (c : Nat) (q : Access) (va : Nat) : Xlat × State :=
  let x := s.core c
  let r : Xlat × State := match tlbFind x.tlb q.ctx va with
    | some e => (.ok (wbits e.leaf 47 16 * 65536 + va % 2 ^ e.bits) e.leaf e.bits, s)
    | none => match sliceWalk s false q.ctx va with
      | (.fail e, s) => (.fail e, s)
      | (.ok pa leaf b, s) =>
        (.ok pa leaf b, s.modCore c (fun y => { y with tlb := tlbEntry q.ctx va pa leaf b :: y.tlb.take 255 }))
  match r.1 with
  | .fail e => (.fail e, r.2)
  | .ok pa leaf b =>
    match protect r.2 q pa leaf with
    | some e => (.fail e, r.2)
    | none => (.ok (if leafShadow leaf then shadowOf r.2 c pa else pa) leaf b, r.2)

/-- The access rights of a core's own words (17 R320). -/
def coreAccess (s : State) (c : Nat) : Access := { ctx := (s.core c).csr.partition, sup := (s.core c).csr.sup }

/-! ### Writes at the home slices, and what leaves the package (22 R407, R412) -/

/-- Write bytes that lie in one page at their home slices. -/
def writeBytes (s : State) (pa : Nat) (bs : List Byte) : State :=
  if !inCarve s pa then s
  else ((linesOf pa bs.length).foldl (fun s l => s.touch (l * 256) true) s).memStore pa bs

/-- A fresh request number. -/
def State.newReq (s : State) : Nat × State := (s.reqNext, { s with reqNext := s.reqNext + 1 })

/-- The function that carries a partition's host-window requests (18 R339, 22 R407). -/
def hostFn (s : State) (p : BitVec 16) : Nat := bits (s.memNat (partAddr s p) 8) 5 1

/-- Send a request to the host (22 R407): its number, and the state. -/
def sendHost (p : BitVec 16) (core : Option Nat) (off size : Nat) (write : Bool) (op : Option Nat) (x cmp : Word)
    (data : List Byte) (s : State) (own : List Nat := []) : Nat × State :=
  let (id, s) := s.newReq
  (id, { s with pkg := { s.pkg with hostReqs := s.pkg.hostReqs ++
    [{ id := id, fn := hostFn s p, addr := off, size := size, write := write, op := op, x := x, cmp := cmp, data := data, core := core, own := own, at_ := s.cycle }] } })

/-- Has a link credit for a channel (22 R410)? -/
def Link.credit (l : Link) (ch : Nat) : Bool := decide (tget 0 l.credits ch < Config.linkCredits ch)

/-- A beat of a channel goes onto a link; without credit, or behind beats that wait for it, it waits (22 R410, R411). -/
def Link.put (l : Link) (ch : Nat) (m : LinkItem) : Link :=
  if l.credit ch && !l.wait.any (fun x => x.1 = ch) then { l with out := l.out ++ [(ch, m)], credits := tmod 0 l.credits ch (· + 1) }
  else { l with wait := l.wait ++ [(ch, m)] }

/-- The beats of a channel that wait go out while there is credit. -/
def Link.drain (ch : Nat) : Nat → Link → Link
  | 0, l => l
  | n + 1, l =>
    match l.wait.find? (fun x => x.1 = ch) with
    | none => l
    | some x =>
      if l.credit ch then Link.drain ch n { l with wait := l.wait.erase x, out := l.out ++ [x], credits := tmod 0 l.credits ch (· + 1) } else l

/-- `n` credits of a channel come back: the far end has received as many beats, and those that wait go out. -/
def Link.credited (l : Link) (ch n : Nat) : Link :=
  Link.drain ch l.wait.length { l with
    credits := tmod 0 l.credits ch (· - n)
    out := l.out.filter (fun x => x.1 ≠ ch) ++ (l.out.filter (fun x => x.1 = ch)).drop n }

/-- Send an item to a peer over its first link (22 R412), on channel 2 (22 R410). -/
def sendPeer (idx : Nat) (m : LinkItem) (s : State) : State :=
  s.modLink (wbits (tget 0 s.pkg.peer idx) 24 20) (·.put 2 m)

/-- Write bytes that lie in one page, wherever their address leads: a home slice, the host, a peer. A register page keeps nothing of
them. -/
def writeOut (ctx : BitVec 16) (pa : Nat) (bs : List Byte) (s : State) : State :=
  match target pa with
  | .host off => (sendHost ctx none off bs.length true none 0 0 bs s).2
  | .peer idx off => sendPeer idx (.write off bs) s
  | .crown _ _ => s
  | _ => writeBytes s pa bs

/-- A word whose translation has failed: it stops, or it waits with its walk (18 R350). -/
def xlatStop (t : Trap) (w : QWord) (s : State) : Run := if t.code = walkWaits then .wait w s else .trap t w s

/-! ### Faults (01 R33, 17 R322-R327) -/

/-- The 64-byte fault record (17 R322). -/
def faultRecord (s : State) (c k : Nat) (t : Trap) (w pc : BitVec 32) (n : BitVec 32) : List Byte :=
  leBytes 8 (w.toNat * 2 ^ 32 + c % 2048 * 2 ^ 16 + k * 2 ^ 8 + t.code.toNat)
  ++ leBytes 8 (s.core c).csr.nodeId.toNat
  ++ leBytes 8 (s.pkg.devId.toNat * 2 ^ 32 + pc.toNat)
  ++ leBytes 8 t.addr.toNat ++ leBytes 8 t.x0.toNat ++ leBytes 8 t.x1.toNat
  ++ leBytes 8 (s.time.count.toNat / 2 ^ 32)
  ++ leBytes 8 (t.cls * 2 ^ 32 + n.toNat)

/-- The header of a flit (10 R209). -/
def Item.header (it : Item) (reqs : List Req) : Word :=
  let kind := match it.body with
    | .msg _ _ => 0
    | .mcast _ _ => 5
    | .req id => match reqs.find? (fun q => q.id = id) with
      | some q => (match q.kind with | .amo _ => 3 | _ => 1)
      | none => 1
  let tag := match it.body with
    | .msg _ t => t.toNat
    | .mcast _ t => t.toNat
    | .req id => id % 2 ^ 16
  word (kind * 2 ^ 60 + it.pkg.toNat * 2 ^ 40 + it.die % 8 * 2 ^ 37 + it.cluster % 16 * 2 ^ 33 + it.station % 32 * 2 ^ 28
    + coreDie it.src % 8 * 2 ^ 25 + coreCluster it.src * 2 ^ 21 + coreIdx it.src * 2 ^ 16 + tag)

/-- A flit whose header's fields are written (10 R209): its kind stays. -/
def Item.setHeader (it : Item) (v : Word) : Item :=
  { it with
    pkg := BitVec.ofNat 20 (wbits v 59 40)
    die := wbits v 39 37
    cluster := wbits v 36 33
    station := wbits v 32 28
    src := wbits v 27 25 * 256 + wbits v 24 21 * 16 + wbits v 20 16 % 16
    body := match it.body with
      | .msg p _ => .msg p (v.setWidth 16)
      | .mcast p _ => .mcast p (v.setWidth 16)
      | b => b }
def Item.value (it : Item) : Word :=
  match it.body with
  | .msg p _ => p
  | .mcast p _ => p
  | .req id => word id
def Item.setValue (it : Item) (v : Word) : Item :=
  { it with body := match it.body with
    | .msg _ t => .msg v t
    | .mcast _ t => .mcast v t
    | b => b }

/-- The sync root of a core's domain at a level: its die's, or the package root 8 (12 R241, R245). -/
def rootOf (c level : Nat) : Nat := if level ≤ 1 then coreDie c else 8

/-- The latency from a core to that root (12 R241). -/
def upLat (level : Nat) : Nat := if level ≤ 1 then 12 else 52

/-- Send a signal to the root of a core's domain. -/
def State.sendUp (s : State) (c level : Nat) (m : SyncUp) : State :=
  let d := tget {} (s.core c).csr.dom level
  s.modSlot (rootOf c level) d.slot.toNat (fun x => { x with up := x.up ++ [(s.cycle + upLat level, m)] })

/-- A core's fault signals every domain of which it is a member (12 R254). -/
def State.faultSignals (s : State) (c : Nat) : State :=
  (List.range 4).foldl (fun s l => if (tget {} (s.core c).csr.dom l).member then s.sendUp c l (.fault c) else s) s

/-- A word of the copy unit or of the vector engine that waits for a page refill stops, until the resume (07 R177, 08 R203). -/
def Strand.parked (t : Strand) : Strand :=
  { t with queues := t.queues.map (fun q => if q.1 = engNum .l || q.1 = engNum .v
      then (q.1, q.2.map (fun w => { w with stopped := w.stopped || w.paging })) else q) }

/-- A strand that the core's stop stops (01 R33). -/
def Strand.stopped (t : Strand) : Strand :=
  if t.active then { t.parked with st := .faulted, prior := t.st, pauseEnd := 0, issueAt := none } else t.parked

/-- May a word be withheld by the core's stop (01 R33)? -/
def heldByStop (t : Strand) (w : QWord) : Bool :=
  match t.stopSeq with
  | some n => decide (n ≤ w.seq)
  | none => false

/-- Handler entry (17 R325): X's block goes to the shadow with the words that stay queued, and X starts at the entry. -/
def enterHandler (x : Core) : Core :=
  let t := x.strand 3
  let live := { t with queues := [], st := .running, stop := none, stopSeq := none, reason := none,
                       cover := 0, coverNull := false,
                       pc := BitVec.ofNat 32 (x.csr.tvec.toNat / 4 * 4) }
  { (x.setStrand 3 live) with shadow := t, hndSeq := x.seq, csr := { x.csr with hnd := true } }

/-- A stopped core whose words have gone as far as they can: the record is written (R322), as a release, and then the handler is
entered, unless the record could not be written: the node ends with that code. -/
def settleStop (c : Nat) (s : State) : State :=
  let x := s.core c
  match x.record with
  | none => s
  | some b =>
    let q := { coreAccess s c with write := true }
    match coreXlat s c q x.csr.faultPtr.toNat with
    | (.ok pa _ _, s) =>
      if (match target pa with | .crown _ _ => true | _ => false) then failed 0x05 s
      else if rangeLost s pa 64 then failed 0x08 s
      else if !rangeReady s pa 64 then s
      else (writeOut q.ctx pa b s).modCore c (fun x =>
        if x.entering && x.ending.isNone then enterHandler { x with record := none, entering := false } else { x with record := none, entering := false })
    | (.fail e, s) => if e = walkWaits then s else failed e s
where
  /-- The record cannot be written. -/
  failed (e : BitVec 8) (s : State) : State := s.modCore c (fun x => { x with record := none, entering := false, ending := some e })

/-- Has a stopped core nothing left that could go on: every queued word is withheld by the stop, and no transfer has started (01 R33, 08
R203)? -/
def Core.quiet (x : Core) : Bool :=
  x.strands.all (fun t => t.2.words.all (fun w => w.phase = .queued && (heldByStop t.2 w || w.stopped)))
    && x.d.xfers.all (fun f => !f.started)

/-- Posted host writes of a core that no completion covers yet (10 R227). -/
def hostPending (s : State) (c : Nat) : Bool := s.pkg.hostReqs.any (fun r => r.write && r.core == some c)

/-- Stores of a core to peers that have not been acknowledged (10 R227). -/
def peerPending (s : State) (c : Nat) : Bool :=
  s.reqs.any (fun q => q.core = c && q.kind = .store && (match target q.pa with
    | .peer _ _ => true
    | _ => false))
  || s.asks.any (fun a => a.write && a.own = [6, c])

/-- A core stops (01 R33): strand `k` at word `w`, pc `pc`; `seq` is the word's number if it had issued. The domains hear of it (12 R254);
once the words that had issued have gone as far as they can, the record is written (R322), and the core enters its handler or its node ends
(R324); from the pre-emption signal on it ends (R332). -/
def takeFault (c k : Nat) (t : Trap) (w pc : BitVec 32) (seq : Option Nat) (s : State) : State :=
  let x := s.core c
  if (x.strand k).st = .faulted then                     -- a later fault of a stopped strand waits for the resume
    s.modStrand c k (fun y => { y with stopSeq := some (match y.stopSeq, seq with
      | some a, some b => Nat.min a b
      | some a, none => a
      | none, some b => b
      | none, none => x.seq) })
  else
    let n := (match x.node with
      | some r => s.cores.foldl (fun (t : BitVec 32) y => if y.2.node = some r then t + y.2.records else t) 0
      | none => x.records) + 1
    let handler := x.csr.tvec.getLsbD 0 && !x.csr.hnd && !preempting s c
    let record := faultRecord s c k t w pc n
    let s := s.modCore c (fun x =>
      let stopped : Core := { x with
        records := x.records + 1, lastCode := t.code,
        record := some record, entering := handler, ending := if handler then x.ending else some t.code,
        strands := x.strands.map (fun (y : Nat × Strand) => (y.1, y.2.stopped)),
        mark := { x.markAt s.cycle with fault := some k },
        d := { x.d with xfers := x.d.xfers.map (fun f => { f with stopped := !f.started }) } }
      stopped.modStrand k (fun y => { y with st := .faulted, stop := some t, stopSeq := seq,
                                             prior := if y.st = .faulted then y.prior else .running }))
    let s := s.faultSignals c
    if (s.core c).quiet && !hostPending s c && !peerPending s c then settleStop c s else s

/-- Is the core's stop of the deferred class (17 R323)? -/
def deferredStop (x : Core) : Bool :=
  (List.range 4).any (fun k => match (if k = 3 then x.shadow.stop else (x.strand k).stop) with
    | some t => t.cls = 4
    | none => false)

/-- A strand goes back to the state it held before the stop (17 R326). -/
def Strand.resumed (t : Strand) : Strand :=
  let u := { t with queues := t.queues.map (fun q => (q.1, q.2.map (fun w => { w with stopped := false }))) }
  if t.st = .faulted then { u with st := t.prior, stop := none, stopSeq := none } else u

/-- Return from a fault with resume (17 R326): X's block comes back from the shadow, hnd := 0, every strand continues. The TRET
itself, alone in the handler's Y queue, retires ahead of the words that come back. -/
def returnResume (x : Core) : Core :=
  let y := x.setStrand 3 (x.shadow.setQueue .y ((x.strand 3).queue .y ++ x.shadow.queue .y))
  { y with strands := y.strands.map (fun t => (t.1, t.2.resumed)), csr := { x.csr with hnd := false }
           shadow := { x.shadow with queues := [] }
           raw := []
           d := { y.d with xfers := y.d.xfers.map (fun f => { f with stopped := false }) } }

/-- Return from a fault with abort (17 R326): hnd := 0, and the node ends with the record's code. -/
def returnAbort (x : Core) : Core := { x with csr := { x.csr with hnd := false }, ending := some x.lastCode }

/-- TRET n (17 R326). For the deferred class, resume acts as abort. -/
def tret (abort : Bool) (c : Nat) (s : State) : State :=
  s.modCore c (fun x => if abort || deferredStop x then returnAbort x else returnResume x)

end Sys2Proof.Machine
end

