-- ==== Sys2Proof/Machine/Operands.lean ====
section
/-! DEFINITION. Operand forms: scalar source fields with their queue ports, destinations with their reservations and their
writes (01 R16-R23, 02 R36), and tokens. -/

namespace Sys2Proof.Machine

/-- Read one scalar source field, popping a queue port; none if the port has nothing to pop (01 R18, R19, R20). -/
def popSrc (k : Nat) (f : Option (BitVec 5)) (x : Core) : Option (Word × Core) :=
  match f with
  | none => some (0, x)
  | some r =>
    if r.toNat < 28 then some ((x.strand k).reg (physReg (x.strand k).rotBase r.toNat), x)
    else if r.toNat = 28 then
      match x.recv with
      | [] => none
      | v :: rest => some (v, { x with recv := rest })
    else
      let j := dist k (r.toNat - 28)
      match x.dqueue j k with
      | [] => none
      | e :: rest => match e.val with
        | some v => some (v, x.setDqueue j k rest)
        | none => none

/-- Read the source fields in the order a, b, d (01 R19): all of them, or none. -/
def popSrcs (k : Nat) (p : WordSpec) (x : Core) : Option (Word × Word × Word × Core) :=
  match popSrc k p.a x with
  | none => none
  | some (va, x) => match popSrc k p.b x with
    | none => none
    | some (vb, x) => match popSrc k p.d x with
      | none => none
      | some (vd, x) => some (va, vb, vd, x)

/-- What holds back the source fields that cannot be popped: the network where the receive queue holds too few flits for the q0
fields, a data queue where it holds too few entries for its fields (01 R19, R20, 05 R122). -/
def srcBlocks (k : Nat) (p : WordSpec) (x : Core) : List Block :=
  let named := fun (n : Nat) => ([p.a, p.b, p.d].filter (fun f => f == some (BitVec.ofNat 5 n))).length
  (if x.recv.length < named 28 then [.net] else [])
    ++ (if [1, 2, 3].any (fun n => decide ((dqReady (x.dqueue (dist k n) k)).length < named (28 + n))) then [.dq] else [])

/-- The first of them. -/
def srcBlock (k : Nat) (p : WordSpec) (x : Core) : Block := (srcBlocks k p x).headD .dq

/-- Does a word name q0 as a source (01 R20)? -/
def readsNet (p : WordSpec) : Bool := p.a == some 28#5 || p.b == some 28#5 || p.d == some 28#5

/-- Where a destination field sends the result (01 R19, R21): the physical register is fixed at issue (03 R78). -/
def dstOf (k : Nat) (rot : BitVec 4) (f : Option (BitVec 5)) : Dst :=
  match f with
  | none => .none
  | some r =>
    if r.toNat < 28 then .reg (physReg rot r.toNat) else if r.toNat = 28 then .net else .dq (dist k (r.toNat - 28))

/-- Room for the destination (01 R19, R21): an entry of the data queue or of the injection buffer. -/
def dstRoom (k : Nat) (d : Dst) (x : Core) : Option Block :=
  match d with
  | .dq j => if (x.dqueue k j).length < 8 then none else some .dq
  | .net => if x.inj.length + x.injRes + x.injRide < 8 then none else some .inj
  | _ => none

/-- Reserve the destination's entry (01 R19). -/
def reserve (k seq : Nat) (d : Dst) (x : Core) : Core :=
  match d with
  | .dq j => x.setDqueue k j (x.dqueue k j ++ [⟨seq, none⟩])
  | .net => { x with injRes := x.injRes + 1 }
  | _ => x

/-- The launch that a core's running node belongs to. -/
def Core.launchId (x : Core) : Nat := match x.node with
  | some r => r.launch + 1
  | none => 0

/-- A flit enters a core's injection buffer in cycle `cyc`: it carries the sender's launch and node. -/
def Core.stamp (x : Core) (cyc : Nat) (it : Item) : Item :=
  { it with launch := x.launchId, node := (x.node.map (·.node)).getD 0, at_ := cyc }

/-- The message flit that a q0 write builds from the sendto of its issue (01 R21, 03 R86, 10 R217). -/
def msgItem (c : Nat) (sendto v : Word) : Item :=
  { src := c, pkg := BitVec.ofNat 20 (wbits sendto 55 36), die := wbits sendto 26 24, cluster := wbits sendto 23 20,
    station := wbits sendto 19 16, body := .msg v (sendto.setWidth 16), launch := 0 }

/-- Write a result to its destination in cycle `cyc` (01 R16, R19, R21). -/
def writeDst (c k cyc seq : Nat) (sendto : Word) (d : Dst) (v : Word) (x : Core) : Core :=
  match d with
  | .none => x
  | .reg p => x.modStrand k (fun t => t.setReg p v)
  | .dq j => x.setDqueue k j (dqFill seq v (x.dqueue k j))
  | .net => { x with injRes := x.injRes - 1, inj := x.inj ++ [x.stamp cyc (msgItem c sendto v)] }

/-- Pop the K pop token (02 R36). -/
def popToken (k : Nat) (h : Hdr) (x : Core) : Core :=
  if h.pop = 0 then x
  else let j := dist k h.pop.toNat; x.setTokens j k (x.tokens j k - 1)

/-- Is the K pop token there (02 R36)? -/
def tokenReady (k : Nat) (h : Hdr) (x : Core) : Bool := h.pop = 0 || decide (x.tokens (dist k h.pop.toNat) k ≥ 1)

/-- The tokens that a word's retirement adds to the channel to strand `i`: its K push and a TKPUSH's count (05 R111, R112). -/
def pushCount (k : Nat) (h : Hdr) (tk : Nat × Nat) (i : Nat) : Nat :=
  (if h.push ≠ 0 && dist k h.push.toNat = i then 1 else 0) + (if tk.2 ≠ 0 && dist k tk.1 = i then tk.2 else 0)

/-- Is there room for a retirement's tokens (05 R111)? -/
def tokenRoom (k : Nat) (h : Hdr) (tk : Nat × Nat) (x : Core) : Bool :=
  (List.range 4).all (fun i => decide (x.tokens k i + pushCount k h tk i ≤ 15))

/-- Push a retirement's tokens. -/
def pushTokens (k : Nat) (h : Hdr) (tk : Nat × Nat) (x : Core) : Core :=
  (List.range 4).foldl (fun x i => if pushCount k h tk i = 0 then x else x.setTokens k i (x.tokens k i + pushCount k h tk i)) x

end Sys2Proof.Machine
end

