-- ==== Sys2Proof/Machine/Flags.lean ====
section
/-! DEFINITION. Flags and CSRs: what raising events does (03 R87, 04 R98, R105), the element types that a word's issue-time CSRs
name (07 R149-R151), and reading and writing every CSR of the map (03 R81-R88). -/

namespace Sys2Proof.Machine

/-- Finish a word that raises events: 0x14 where one meets its trap enable, with no flag set and nothing written (03 R87, 07 R152,
06 R136), else the flags are set and the word is done. -/
def withFlags (c k : Nat) (w : QWord) (f : Flags) (s : State) (go : State → Run) : Run :=
  if trapped w.trapen f then .trap (runTrap 0x14) w s else go (s.raise c k f)

/-- The format of an element type code (07 R149): none for a narrow code whose descriptor is 0 (04 R92). -/
def typeFmt (w : QWord) (code : Nat) : Option Fmt :=
  match code with
  | 0 => some (.int true 8) | 1 => some (.int false 8) | 2 => some (.int true 16) | 3 => some (.int false 16)
  | 4 => some (.int true 32) | 5 => some (.int false 32) | 6 => some (.int true 64)
  | 7 => some Fmt.bf16 | 8 => some Fmt.fp16 | 9 => some Fmt.fp32
  | 10 => if w.fmtA = 0 then none else some (Fmt.ofDesc w.fmtA)
  | 11 => if w.fmtB = 0 then none else some (Fmt.ofDesc w.fmtB)
  | 12 => if w.fmtC = 0 then none else some (Fmt.ofDesc w.fmtC)
  | _ => none

/-- The element width of a type code: a narrow type's is its container's (07 R150). -/
def typeWidth (w : QWord) (code : Nat) : Nat :=
  match typeFmt w code with
  | some f => if code ≥ 10 then f.container else f.width
  | none => 8

def vtypeCode (w : QWord) : Nat := bits w.vtype.toNat 3 0
def vstypeCode (w : QWord) : Nat := bits w.vtype.toNat 7 4
def visat (w : QWord) : Bool := w.vtype.getLsbD 8

/-- hoopN.st (08 R193): the fault field is the code of the lowest filled, unread slot that failed. -/
def hoopStatus (h : Hoop) : Word :=
  let n := (h.alloc - h.rd).toNat
  let f := (List.range n).findSome? (fun i =>
    let t := tget ({} : Slot) h.slots ((h.rd.toNat + i) % 16)
    if t.filled && t.code ≠ 0 then some t.code else none)
  word ((f.getD 0).toNat * 2 ^ 24 + h.alloc.toNat * 2 ^ 16 + h.wr.toNat * 2 ^ 8 + h.rd.toNat)

/-- win.status (08 R187). -/
def winStatus (x : Window) : Word :=
  word (x.pos * 2 ^ 32 + x.rows.length * 2 ^ 16 + (if x.fin then 2 else 0) + (if x.cfg then 1 else 0))

/-- permit (06 R146). -/
def permitWord (x : CoreCsr) : Word :=
  word ((if x.permHeld then 2 ^ 63 else 0) + (if x.permDenied then 2 ^ 62 else 0) + x.permRetry.toNat * 2 ^ 32 + x.permLeft.toNat)

/-- dom.lN (12 R244). -/
def domWord (d : DomCsr) : Word :=
  word (d.epoch.toNat * 2 ^ 16 + (if d.member then 2 ^ 15 else 0) + d.slot.toNat)

/-- Is a CSR number in the map (03 R84, 17 R321)? -/
def csrKnown (n : Nat) : Bool :=
  n ≤ 0x23 || (0x30 ≤ n && n ≤ 0x33) || (0x40 ≤ n && n ≤ 0x42) || n = 0x100 || n = 0x101

/-- Read a CSR (03 R84): the value at this moment. -/
def csrGet (s : State) (c k n : Nat) : Word :=
  let x := s.core c
  let t := x.strand k
  match n with
  | 0x000 => word k
  | 0x001 => word (c % 2048)
  | 0x002 => zext s.pkg.devId
  | 0x003 => x.csr.ntiles
  | 0x004 => x.csr.args
  | 0x005 => zext t.vtype
  | 0x006 => zext t.fmtA
  | 0x007 => zext t.fmtB
  | 0x008 => zext t.fmtC
  | 0x009 => zext x.csr.accMode
  | 0x00A => zext t.flags
  | 0x00B => zext t.trapen
  | 0x00C => zext t.round
  | 0x00D => zext t.srSeed
  | 0x00E => zext x.csr.cqOwner
  | 0x00F => word x.cq.length
  | 0x010 => x.csr.sendto
  | 0x011 => x.csr.mcastBase
  | 0x012 => zext x.csr.partition
  | 0x013 => domWord (tget {} x.csr.dom 0)
  | 0x014 => domWord (tget {} x.csr.dom 1)
  | 0x015 => domWord (tget {} x.csr.dom 2)
  | 0x016 => domWord (tget {} x.csr.dom 3)
  | 0x017 => zext x.csr.dqBase <<< 6
  | 0x018 => zext x.csr.dqCap
  | 0x019 => zext t.rotBase
  | 0x01A => zext t.stagep
  | 0x01B => t.lc
  | 0x01C => word (s.time.count.toNat / 2 ^ 32)
  | 0x01D => match t.timeLatch with
    | some f => zext f
    | none => word (s.time.count.toNat / 2 ^ 16 % 2 ^ 16)
  | 0x01E => permitWord x.csr
  | 0x01F => word (x.csr.frzCount.toNat * 2 ^ 16 + (if x.csr.frzScope then 1 else 0))
  | 0x020 => x.csr.nodeId
  | 0x021 => zext x.csr.prio
  | 0x022 => x.csr.faultPtr
  | 0x023 => winStatus x.d.win
  | 0x030 => hoopStatus (x.d.hoop 0)
  | 0x031 => hoopStatus (x.d.hoop 1)
  | 0x032 => hoopStatus (x.d.hoop 2)
  | 0x033 => hoopStatus (x.d.hoop 3)
  | 0x040 => word (x.tokens (dist k 1) k)
  | 0x041 => word (x.tokens (dist k 2) k)
  | 0x042 => word (x.tokens (dist k 3) k)
  | 0x100 => word ((if x.csr.hnd then 2 else 0) + (if x.csr.sup then 1 else 0))
  | 0x101 => zext (x.csr.tvec &&& 0x3FFD#14)
  | _ => 0

/-- What reading a CSR also does: time.lo sets the strand's time latch (03 R83). -/
def csrReadEffect (c k n : Nat) (s : State) : State :=
  if n = 0x01C then
    s.modStrand c k (fun t => { t with timeLatch := some (BitVec.ofNat 16 (s.time.count.toNat / 2 ^ 16 % 2 ^ 16)) })
  else s

/-- A fmt CSR keeps its value where the written descriptor is not allowed (04 R92). -/
def fmtWrite (old : BitVec 16) (x : Word) : BitVec 16 :=
  let d := x.setWidth 16
  if d = 0 || Fmt.allowed d then d else old

/-- vtype's fields, each kept where the written code is not allowed (03 R81, 07 R149). -/
def vtypeWrite (old : BitVec 9) (x : Word) : BitVec 9 :=
  let ty := if wbits x 3 0 ≤ 12 then wbits x 3 0 else bits old.toNat 3 0
  let sy := if wbits x 7 4 ≤ 12 then wbits x 7 4 else bits old.toNat 7 4
  BitVec.ofNat 9 (wbits x 8 8 * 256 + sy * 16 + ty)

/-- Write a CSR (03 R81-R88): read-only and reserved fields ignore the write. -/
def csrSet (c k n : Nat) (x : Word) (s : State) : State :=
  match n with
  | 0x005 => s.modStrand c k (fun t => { t with vtype := vtypeWrite t.vtype x })
  | 0x006 => s.modStrand c k (fun t => { t with fmtA := fmtWrite t.fmtA x })
  | 0x007 => s.modStrand c k (fun t => { t with fmtB := fmtWrite t.fmtB x })
  | 0x008 => s.modStrand c k (fun t => { t with fmtC := fmtWrite t.fmtC x })
  | 0x00A => s.modStrand c k (fun t => { t with flags := x.setWidth 9 })
  | 0x00B => s.modStrand c k (fun t => { t with trapen := x.setWidth 9 })
  | 0x00C => s.modStrand c k (fun t => { t with round := if wbits x 2 0 ≤ 4 then x.setWidth 3 else t.round })
  | 0x00D => s.modStrand c k (fun t => { t with srSeed := x.setWidth 16, g := srLoad (x.setWidth 16) })
  | 0x00E => s.modCsr c (fun r => { r with cqOwner := x.setWidth 2 })
  | 0x010 => s.modCsr c (fun r => { r with sendto := x &&& 0x03FFFFF007FFFFFF#64 })
  | 0x011 => s.modCsr c (fun r => { r with mcastBase := x &&& 0x00FFFFF007F0FFFF#64 })
  | 0x017 => s.modCsr c (fun r => { r with dqBase := BitVec.ofNat 13 (wbits x 18 6) })
  | 0x018 => s.modCsr c (fun r => { r with dqCap := x.setWidth 12 })
  | 0x019 => s.modStrand c k (fun t => { t with rotBase := if wbits x 3 0 ≤ 11 then x.setWidth 4 else t.rotBase })
  | 0x01B => s.modStrand c k (fun t => { t with lc := x })
  | 0x01F => s.modCsr c (fun r => { r with frzScope := x.getLsbD 0 })
  | 0x101 => s.modCsr c (fun r => { r with tvec := x.setWidth 14 &&& 0x3FFD#14 })
  | _ => s

/-- The value that a CSRX returns (03 R83): that before all the writes to a CSR of core scope in this cycle. -/
def csrBefore (s : State) (c k n : Nat) : Word :=
  match ((s.core c).markAt s.cycle).wrote.find? (fun r => r.1 = n) with
  | some r => r.2
  | none => csrGet s c k n

/-- Is a CSR of core scope and writable (03 R84, 17 R321)? -/
def csrShared (n : Nat) : Bool := [0x00E, 0x010, 0x011, 0x017, 0x018, 0x01F, 0x101].contains n

/-- Write a CSR at a word's retirement; the cycle's first write to one of core scope keeps the value before it (03 R83). -/
def csrWrite (c k n : Nat) (x : Word) (s : State) : State :=
  csrSet c k n x (if csrShared n then s.modCore c (fun y => y.setMark s.cycle (fun m =>
    { m with wrote := if m.wrote.any (fun r => r.1 = n) then m.wrote else m.wrote ++ [(n, csrGet s c k n)] })) else s)

end Sys2Proof.Machine
end

