-- ==== Sys2Proof/Machine/Scalar.lean ====
section
/-! DEFINITION. X words and H words (03, 02 R48-R49): one specification for each. -/

namespace Sys2Proof.Machine

/-- An X word of two sources and a destination. -/
def alu2 (h : Hdr) (d a b : BitVec 5) (f : Word → Word → Word) : WordSpec :=
  { engine := .x, hdr := h, a := some a, b := some b, dst := some d, body := fun _ _ w s => .done s (f w.va w.vb) false }

/-- An X word of one source and a destination. -/
def alu1 (h : Hdr) (d a : BitVec 5) (f : Word → Word) : WordSpec :=
  { engine := .x, hdr := h, a := some a, dst := some d, body := fun _ _ w s => .done s (f w.va) false }

/-! ### Immediate arithmetic (R62) -/
def specAddi (h : Hdr) (d a : BitVec 5) (i : BitVec 10) : WordSpec := alu1 h d a (fun x => x + sext i)
def specAndi (h : Hdr) (d a : BitVec 5) (i : BitVec 10) : WordSpec := alu1 h d a (fun x => x &&& sext i)
def specOri (h : Hdr) (d a : BitVec 5) (i : BitVec 10) : WordSpec := alu1 h d a (fun x => x ||| sext i)
def specXori (h : Hdr) (d a : BitVec 5) (i : BitVec 10) : WordSpec := alu1 h d a (fun x => x ^^^ sext i)
def specSlli (h : Hdr) (d a : BitVec 5) (i : BitVec 10) : WordSpec := alu1 h d a (fun x => x <<< i.toNat)
def specSrli (h : Hdr) (d a : BitVec 5) (i : BitVec 10) : WordSpec := alu1 h d a (fun x => x >>> i.toNat)
def specSrai (h : Hdr) (d a : BitVec 5) (i : BitVec 10) : WordSpec := alu1 h d a (fun x => x.sshiftRight i.toNat)
def specSlti (h : Hdr) (d a : BitVec 5) (i : BitVec 10) : WordSpec := alu1 h d a (fun x => wbool (x.slt (sext i)))
def specSltiu (h : Hdr) (d a : BitVec 5) (i : BitVec 10) : WordSpec := alu1 h d a (fun x => wbool (x.ult (sext i)))

/-! ### Scratch loads and stores (R64, R65) -/

/-- LDX: the address is checked at issue; a page miss holds the strand; a poisoned line traps 0x08. -/
def ldx (h : Hdr) (d a : BitVec 5) (i : BitVec 10) (size : Nat) (ext : Nat → Word) : WordSpec :=
  let addr := fun (w : QWord) => w.va + sext i * word size
  { engine := .x, hdr := h, a := some a, dst := some d, scr := fun _ w _ => [((addr w).toNat, size)], hold := .begun
    check := fun _ _ w _ => scrCheck 1 (addr w) size size
    body := fun c _ w s =>
      let ad := (addr w).toNat
      withPages c ad size w s (fun s =>
        if (s.core c).d.scrPoisoned ad size then .trap { runTrap 0x08 with addr := addr w } w s
        else .done s (ext (leNat ((s.core c).d.scrRead ad size))) false) }

/-- STX: field d is the data, read at issue. -/
def stx (h : Hdr) (d a : BitVec 5) (i : BitVec 10) (size : Nat) : WordSpec :=
  let addr := fun (w : QWord) => w.va + sext i * word size
  { engine := .x, hdr := h, a := some a, d := some d, scr := fun _ w _ => [((addr w).toNat, size)], hold := .begun
    check := fun _ _ w _ => scrCheck 1 (addr w) size size
    body := fun c _ w s =>
      let ad := (addr w).toNat
      withPages c ad size w s (fun s => .done (s.modData c (·.scrWrite ad (leBytes size w.vd.toNat))) 0 false) }

def specLdxD (h : Hdr) (d a : BitVec 5) (i : BitVec 10) : WordSpec := ldx h d a i 8 word
def specLdxW (h : Hdr) (d a : BitVec 5) (i : BitVec 10) : WordSpec := ldx h d a i 4 (fun n => sext (BitVec.ofNat 32 n))
def specStxD (h : Hdr) (d a : BitVec 5) (i : BitVec 10) : WordSpec := stx h d a i 8
def specStxW (h : Hdr) (d a : BitVec 5) (i : BitVec 10) : WordSpec := stx h d a i 4

/-! ### CSR words (R81-R83): they act when they retire. -/

/-- Numbers outside the map trap 0x02 (R81); 0x100-0x1FF are supervisor-only (17 R320). -/
def csrWord (h : Hdr) (i : BitVec 10) : WordSpec :=
  { engine := .x, hdr := h, csr := some i.toNat, late := true, sup := decide (0x100 ≤ i.toNat ∧ i.toNat ≤ 0x1FF)
    check := fun _ _ _ _ => if csrKnown i.toNat then none else some (issueTrap 0x02)
    body := fun _ _ _ s => .done s 0 false }

/-- lc, rot.base and stagep may not be written in a loop body (R80). -/
def loopCsr (i : BitVec 10) : Bool := i = 0x019 || i = 0x01A || i = 0x01B

/-- CSRR: the loop's CSRs, which a pass changes at issue (R76), are read in the issue cycle. -/
def specCsrr (h : Hdr) (d : BitVec 5) (i : BitVec 10) : WordSpec :=
  { csrWord h i with dst := some d
                     pre := fun c k s => if loopCsr i then csrGet s c k i.toNat else 0
                     body := fun c k w s =>
                       .done (csrReadEffect c k i.toNat s) (if loopCsr i then w.res else csrGet s c k i.toNat) false }
def specCsrw (h : Hdr) (a : BitVec 5) (i : BitVec 10) : WordSpec :=
  { csrWord h i with a := some a, csrW := true, noLoop := loopCsr i
                     body := fun c k w s => .done (csrWrite c k i.toNat w.va s) 0 false }
def specCsrx (h : Hdr) (d a : BitVec 5) (i : BitVec 10) : WordSpec :=
  { csrWord h i with a := some a, dst := some d, csrW := true, noLoop := loopCsr i
                     body := fun c k w s => .done (csrWrite c k i.toNat w.va s) (csrBefore s c k i.toNat) false }

/-! ### Constants and the program counter (R63) -/
def specLi (h : Hdr) (d : BitVec 5) (i : BitVec 15) : WordSpec :=
  { engine := .x, hdr := h, dst := some d, body := fun _ _ _ s => .done s (sext i) false }
def specLsh (h : Hdr) (d : BitVec 5) (i : BitVec 15) : WordSpec :=
  { engine := .x, hdr := h, d := some d, dst := some d, body := fun _ _ w s => .done s (w.vd <<< 15 ||| zext i) false }
def specAuipc (h : Hdr) (d : BitVec 5) (i : BitVec 15) : WordSpec :=
  { engine := .x, hdr := h, dst := some d, body := fun _ _ w s => .done s (zext w.pc + sext i * 4) false }
/-- SETLC (R63): lc changes in the issue cycle; words that use lc wait (R82). -/
def specSetlc (h : Hdr) (i : BitVec 15) : WordSpec :=
  { engine := .x, hdr := h, csr := some 0x01B, csrW := true, noCover := true, noLoop := true
    take := fun c k _ s => s.modStrand c k (fun t => { t with lc := zext i })
    body := fun _ _ _ s => .done s 0 false }
def specSetlcS (h : Hdr) (a : BitVec 5) : WordSpec :=
  { engine := .x, hdr := h, a := some a, csr := some 0x01B, csrW := true, noCover := true, noLoop := true
    take := fun c k w s => s.modStrand c k (fun t => { t with lc := w.va })
    body := fun _ _ _ s => .done s 0 false }
def specRdlc (h : Hdr) (d : BitVec 5) : WordSpec :=
  { engine := .x, hdr := h, dst := some d, uses := [0x01B], pre := fun c k s => (s.strand c k).lc
    body := fun _ _ w s => .done s w.res false }

/-! ### Branches and jumps (R70-R72): the target is checked at issue under 01 R15 -/

/-- A pc-relative target in words. -/
def relTarget (w : QWord) (f : BitVec 15) : Word := zext w.pc + sext f * 4

/-- A branch word: never covered, never in a loop body (R74, R80). -/
def branch (h : Hdr) (f : BitVec 15) (taken : QWord → Strand → Bool) : WordSpec :=
  { engine := .x, hdr := h, noCover := true, noLoop := true
    jump := fun w t => if taken w t then some (relTarget w f) else none
    body := fun _ _ _ s => .done s 0 false }

def specBeqz (h : Hdr) (a : BitVec 5) (f : BitVec 15) : WordSpec := { branch h f (fun w _ => w.va == 0) with a := some a }
def specBnez (h : Hdr) (a : BitVec 5) (f : BitVec 15) : WordSpec := { branch h f (fun w _ => w.va != 0) with a := some a }
def specBcq (h : Hdr) (f : BitVec 15) : WordSpec := { branch h f (fun w _ => w.bit) with cqPop := true }
def specBncq (h : Hdr) (f : BitVec 15) : WordSpec := { branch h f (fun w _ => !w.bit) with cqPop := true }
/-- BLC (R71): lc counts down to 0. -/
def specBlc (h : Hdr) (f : BitVec 15) : WordSpec :=
  { branch h f (fun _ t => t.lc != 0 && t.lc != 1) with
    csr := some 0x01B, csrW := true
    take := fun c k _ s => s.modStrand c k (fun t => { t with lc := if t.lc = 0 then 0 else t.lc - 1 }) }
def specJal (h : Hdr) (d : BitVec 5) (f : BitVec 15) : WordSpec :=
  { branch h f (fun _ _ => true) with dst := some d, body := fun _ _ w s => .done s (zext w.pc + 4) false }
def specJalr (h : Hdr) (d a : BitVec 5) : WordSpec :=
  { engine := .x, hdr := h, noCover := true, noLoop := true, a := some a, dst := some d
    jump := fun w _ => some w.va
    body := fun _ _ w s => .done s (zext w.pc + 4) false }

/-! ### Register arithmetic (R66, R67) -/
def specAdd (h : Hdr) (d a b : BitVec 5) : WordSpec := alu2 h d a b (· + ·)
def specSub (h : Hdr) (d a b : BitVec 5) : WordSpec := alu2 h d a b (· - ·)
def specAnd (h : Hdr) (d a b : BitVec 5) : WordSpec := alu2 h d a b (· &&& ·)
def specOr (h : Hdr) (d a b : BitVec 5) : WordSpec := alu2 h d a b (· ||| ·)
def specXor (h : Hdr) (d a b : BitVec 5) : WordSpec := alu2 h d a b (· ^^^ ·)
def specSll (h : Hdr) (d a b : BitVec 5) : WordSpec := alu2 h d a b (fun x y => x <<< (y.toNat % 64))
def specSrl (h : Hdr) (d a b : BitVec 5) : WordSpec := alu2 h d a b (fun x y => x >>> (y.toNat % 64))
def specSra (h : Hdr) (d a b : BitVec 5) : WordSpec := alu2 h d a b (fun x y => x.sshiftRight (y.toNat % 64))
def specSlt (h : Hdr) (d a b : BitVec 5) : WordSpec := alu2 h d a b (fun x y => wbool (x.slt y))
def specSltu (h : Hdr) (d a b : BitVec 5) : WordSpec := alu2 h d a b (fun x y => wbool (x.ult y))
def specMin (h : Hdr) (d a b : BitVec 5) : WordSpec := alu2 h d a b (fun x y => if x.slt y then x else y)
def specMax (h : Hdr) (d a b : BitVec 5) : WordSpec := alu2 h d a b (fun x y => if x.slt y then y else x)
def specMinu (h : Hdr) (d a b : BitVec 5) : WordSpec := alu2 h d a b (fun x y => if x.ult y then x else y)
def specMaxu (h : Hdr) (d a b : BitVec 5) : WordSpec := alu2 h d a b (fun x y => if x.ult y then y else x)
def specMul (h : Hdr) (d a b : BitVec 5) : WordSpec := alu2 h d a b (· * ·)
def specMulh (h : Hdr) (d a b : BitVec 5) : WordSpec :=
  alu2 h d a b (fun x y => BitVec.ofInt 64 (x.toInt * y.toInt / (2 ^ 64 : Int)))
def specMulhu (h : Hdr) (d a b : BitVec 5) : WordSpec := alu2 h d a b (fun x y => word (x.toNat * y.toNat / 2 ^ 64))

/-- A division word (R67): a zero divisor raises dz, or traps 0x14 where its trap is enabled. -/
def divide (h : Hdr) (d a b : BitVec 5) (zero : Word → Word) (f : Word → Word → Word) : WordSpec :=
  { engine := .x, hdr := h, a := some a, b := some b, dst := some d, uses := [0x00A, 0x00B]
    body := fun c k w s =>
      if w.vb = 0 then
        (if trapped (s.strand c k).trapen Flags.dz then .trap (runTrap 0x14) w s else .done (s.raise c k Flags.dz) (zero w.va) false)
      else .done s (f w.va w.vb) false }

def specDiv (h : Hdr) (d a b : BitVec 5) : WordSpec :=
  divide h d a b (fun _ => BitVec.allOnes 64) (fun x y => BitVec.ofInt 64 (x.toInt.tdiv y.toInt))
def specDivu (h : Hdr) (d a b : BitVec 5) : WordSpec :=
  divide h d a b (fun _ => BitVec.allOnes 64) (fun x y => word (x.toNat / y.toNat))
def specRem (h : Hdr) (d a b : BitVec 5) : WordSpec :=
  divide h d a b id (fun x y => BitVec.ofInt 64 (x.toInt - y.toInt * x.toInt.tdiv y.toInt))
def specRemu (h : Hdr) (d a b : BitVec 5) : WordSpec := divide h d a b id (fun x y => word (x.toNat % y.toNat))

/-- Number of set bits among the low `n`. -/
def popcount : Nat → Nat → Nat
  | 0, _ => 0
  | n + 1, x => x % 2 + popcount n (x / 2)

/-- Index of the lowest set bit among the low `n`; `n` if none is set. -/
def lowest : Nat → Nat → Nat
  | 0, _ => 0
  | n + 1, x => if x % 2 = 1 then 0 else 1 + lowest n (x / 2)

def specClz (h : Hdr) (d a : BitVec 5) : WordSpec := alu1 h d a (fun x => word (64 - bitLen x.toNat))
def specCtz (h : Hdr) (d a : BitVec 5) : WordSpec := alu1 h d a (fun x => word (lowest 64 x.toNat))
def specPopc (h : Hdr) (d a : BitVec 5) : WordSpec := alu1 h d a (fun x => word (popcount 64 x.toNat))
def specSextB (h : Hdr) (d a : BitVec 5) : WordSpec := alu1 h d a (fun x => sext (x.setWidth 8))
def specSextH (h : Hdr) (d a : BitVec 5) : WordSpec := alu1 h d a (fun x => sext (x.setWidth 16))
def specSextW (h : Hdr) (d a : BitVec 5) : WordSpec := alu1 h d a (fun x => sext (x.setWidth 32))
def specZextW (h : Hdr) (d a : BitVec 5) : WordSpec := alu1 h d a (fun x => zext (x.setWidth 32))

/-! ### Conditional moves, address arithmetic (R68, R69) -/
def specCmovz (h : Hdr) (d a b : BitVec 5) : WordSpec :=
  { alu2 h d a b (fun x _ => x) with
    d := some d, body := fun _ _ w s => .done s (if w.vb = 0 then w.va else w.vd) false }
def specCmovnz (h : Hdr) (d a b : BitVec 5) : WordSpec :=
  { alu2 h d a b (fun x _ => x) with
    d := some d, body := fun _ _ w s => .done s (if w.vb = 0 then w.vd else w.va) false }
def specAddSh1 (h : Hdr) (d a b : BitVec 5) : WordSpec := alu2 h d a b (fun x y => x + y <<< 1)
def specAddSh2 (h : Hdr) (d a b : BitVec 5) : WordSpec := alu2 h d a b (fun x y => x + y <<< 2)
def specAddSh3 (h : Hdr) (d a b : BitVec 5) : WordSpec := alu2 h d a b (fun x y => x + y <<< 3)
def specAddSh4 (h : Hdr) (d a b : BitVec 5) : WordSpec := alu2 h d a b (fun x y => x + y <<< 4)

/-- The bits of a 16-bit number spread to the even positions. -/
def spread : Nat → Nat → Nat
  | 0, _ => 0
  | n + 1, x => x % 2 + 4 * spread n (x / 2)

/-- The Morton number of a row and a column (R68). -/
def morton (row col : Nat) : Nat := spread 16 col + 2 * spread 16 row

/-- The even bits of a number, gathered. -/
def gatherBits : Nat → Nat → Nat
  | 0, _ => 0
  | n + 1, x => x % 2 + 2 * gatherBits n (x / 4)

def mortonCol (t : Nat) : Nat := gatherBits 24 t
def mortonRow (t : Nat) : Nat := gatherBits 24 (t / 2)

def specTaddr (h : Hdr) (d a b : BitVec 5) : WordSpec :=
  alu2 h d a b (fun x y => x + word (morton (wbits y 47 32) (wbits y 15 0)) <<< 11)

/-! ### Static slots and pipelined loops (R73-R80) -/
def specIfq (h : Hdr) (n : BitVec 5) : WordSpec :=
  { engine := .x, hdr := h, cqPop := true, noCover := true, covers := n.toNat
    take := fun c k w s =>
      s.modStrand c k (fun t => { t with latch := w.bit, cover := n.toNat, coverNull := !w.bit })
    body := fun _ _ _ s => .done s 0 false }
def specElseq (h : Hdr) (n : BitVec 5) : WordSpec :=
  { engine := .x, hdr := h, noCover := true, covers := n.toNat
    take := fun c k _ s => s.modStrand c k (fun t => { t with cover := n.toNat, coverNull := t.latch })
    body := fun _ _ _ s => .done s 0 false }

/-- Is a pc in the active loop's body (R76)? -/
def inBody (t : Strand) (pc : BitVec 32) : Bool :=
  match t.loop with
  | none => false
  | some l => decide (l.start ≤ pc.toNat / 4 ∧ pc.toNat / 4 < l.start + l.len)

/-- The stage predicates of pass `p` (R76). -/
def stagePreds (trips p : Nat) : BitVec 8 :=
  BitVec.ofNat 8 ((List.range 8).foldl (fun x j => if j ≤ p ∧ p - j < trips then x + 2 ^ j else x) 0)

def specStgStage (h : Hdr) (n : BitVec 5) : WordSpec :=
  { engine := .x, hdr := h, noCover := true, marker := true
    check := fun c k w s => match (s.strand c k).loop with
      | some l => if inBody (s.strand c k) w.pc && decide (l.stages ≤ n.toNat) then some (issueTrap 0x02) else none
      | none => none
    take := fun c k w s => s.modStrand c k (fun t => if inBody t w.pc then { t with stage := n.toNat } else t)
    body := fun _ _ _ s => .done s 0 false }

/-- LOOPP (R76): T = 0 skips the body; otherwise pass 0 begins. -/
def specLoopp (h : Hdr) (st : BitVec 5) (l : BitVec 10) : WordSpec :=
  { engine := .x, hdr := h, noCover := true, noLoop := true, csr := some 0x01B, csrW := true, uses := [0x019, 0x01A]
    check := fun c k _ s =>
      if (s.strand c k).loop.isSome then some (issueTrap 0x01)
      else if (s.strand c k).lc.toNat ≥ 2 ^ 32 then some (issueTrap 0x02) else none
    jump := fun w t => if t.lc = 0 then some (zext w.pc + 4 + 4 * zext l) else none
    take := fun c k w s => s.modStrand c k (fun t =>
      if t.lc = 0 then t
      else
        { t with lc := t.lc + zext st - 1
                 stagep := stagePreds t.lc.toNat 0, stage := 0
                 loop := some ⟨st.toNat, l.toNat, w.pc.toNat / 4 + 1, t.lc.toNat, 0⟩ })
    body := fun _ _ _ s => .done s 0 false }

def specSetrb (h : Hdr) (a : BitVec 5) : WordSpec :=
  { engine := .x, hdr := h, a := some a, csr := some 0x019, csrW := true, noCover := true, noLoop := true
    check := fun _ _ w _ => if w.va.toNat > 11 then some (issueTrap 0x02) else none
    take := fun c k w s => s.modStrand c k (fun t => { t with rotBase := w.va.setWidth 4 })
    body := fun _ _ _ s => .done s 0 false }

/-! ### Hints (02 R48, R49): no architectural effect but PRIO's weight and PAUSE's cycles -/

/-- A hint word: no check, no token, no destination. -/
def hint (take : Nat → Nat → State → State) : WordSpec :=
  { engine := .x, hint := true, take := fun c k _ s => take c k s, body := fun _ _ _ s => .done s 0 false }

/-- The slice may bring the line in (02 R49): the data is the same either way, so nothing changes. -/
def specPrefG : WordSpec := hint (fun _ _ s => s)
/-- The copy engine may refill the page (02 R49); this model never does. -/
def specPrefS : WordSpec := hint (fun _ _ s => s)
def specPrio (i : BitVec 9) : WordSpec := hint (fun c k s => s.modStrand c k (fun t => { t with prio := i.setWidth 2 }))
/-- The strand issues nothing for imm9 cycles. -/
def specPause (i : BitVec 9) : WordSpec :=
  hint (fun c k s => s.modStrand c k (fun t => { t with pauseEnd := if i = 0 then 0 else s.cycle + 1 + i.toNat }))

end Sys2Proof.Machine
end

