-- ==== Sys2Proof/Machine/Matrix.lean ====
section
/-! DEFINITION. M words (06) and the accumulator arithmetic of 04 R100-R106. -/

namespace Sys2Proof.Machine

/-! ### Operand tiles (R125-R127) -/

/-- Bit position of element n of the natural order in a tile or packed group string of container width w (04 R95). -/
def elemPos (w n : Nat) : Nat :=
  if w = 4 then n / 64 * 256 + (n % 64 % 8 * 8 + n % 64 / 8) * 4
  else if w = 2 then n / 128 * 256 + (n % 128 % 16 * 8 + n % 128 / 16) * 2
  else n * w

/-- The code of element n. -/
def tileElem (data : Nat) (w n : Nat) : Nat := data >>> elemPos w n % pow2 w

/-- A tile's data from the codes of its elements in natural order. -/
def tileOf (w : Nat) (codes : List Nat) : BitVec 16384 :=
  BitVec.ofNat 16384 ((codes.foldl (fun (p : Nat × Nat) x => (p.1 + x % pow2 w * pow2 (elemPos w p.2), p.2 + 1)) (0, 0)).1)

/-- The matrix configuration of acc.mode (R128). -/
structure MatCfg where
  cfg : Bool
  mode : Nat
  fa : Fmt
  fb : Fmt
  w : Nat
  red : Bool
  deriving DecidableEq, Repr

def kindFmt (kind : Nat) (desc : BitVec 16) : Fmt := if kind = 1 then Fmt.bf16 else if kind = 2 then Fmt.fp16 else Fmt.ofDesc desc
def kindWidth (kind : Nat) (desc : BitVec 16) : Nat := if kind = 0 then (Fmt.ofDesc desc).container else 16

def matCfg (m : BitVec 48) : MatCfg :=
  let n := m.toNat
  let ak := bits n 4 3
  { cfg := m.getLsbD 7, mode := bits n 6 5, fa := kindFmt ak (BitVec.ofNat 16 (bits n 47 32)),
    fb := kindFmt (bits n 2 1) (BitVec.ofNat 16 (bits n 31 16)), w := kindWidth ak (BitVec.ofNat 16 (bits n 47 32)),
    red := m.getLsbD 0 }

/-- Does a tile hold a code that is infinite or NaN under either operand format (R126)? -/
def tileNonfinite (g : MatCfg) (data : BitVec 16384) : Bool :=
  (List.range (16384 / g.w)).any (fun n =>
    let c := tileElem data.toNat g.w n
    (g.fa.decode c).special || (g.fb.decode c).special)

/-- A block scale's value (04 R96). -/
def scaleVal (c : Nat) : Val := if c = 0 then Val.zero else if c = 511 then .nan else .fin false 1 ((c : Int) - 255)

/-- Every scale code 1.0 (R129). -/
def unitScales : BitVec 2304 := BitVec.ofNat 2304 ((List.range 256).foldl (fun x c => x + 255 * pow2 (9 * c)) 0)

def scaleCode (t : Tile) (line b : Nat) : Nat := t.scale.toNat >>> (9 * (line * 8 + b)) % 512

/-- A lent bank as a tile (R127): no poison, no flag, every scale 1. -/
def bankTile (x : CoreData) (b : Nat) : Tile :=
  { data := BitVec.ofNat 16384 ((List.range 8).foldl (fun n j => n + (x.getV (8 * b + j)).toNat * pow2 (2048 * j)) 0),
    scale := unitScales }

/-! ### Contributions (04 R101-R104) -/

/-- Cut a list into groups of n. -/
def chunks {α : Type} (n : Nat) : Nat → List α → List (List α)
  | 0, _ => []
  | f + 1, l => if l.isEmpty then [] else l.take n :: chunks n f (l.drop n)

/-- Round an exact finite value to a multiple of 2^-64, nearest even, as that multiple (R102). -/
def roundFx : Val → Int
  | .fin n m e =>
    let e' := e + 64
    let y : Nat :=
      if 0 ≤ e' then m <<< e'.toNat
      else
        let sh := (-e').toNat
        let lo := m >>> sh
        let r := m % pow2 sh
        if 2 * r > pow2 sh || (2 * r = pow2 sh && lo % 2 = 1) then lo + 1 else lo
    if n then -(y : Int) else (y : Int)
  | _ => 0

/-- The special tag of a value (04 R100): 01 +infinity, 10 −infinity, 11 NaN. -/
def fxTag : Val → BitVec 2
  | .nan => 3
  | .inf n => if n then 2 else 1
  | .fin _ _ _ => 0

def tagVal (t : BitVec 2) : Val := if t = 1 then .inf false else if t = 2 then .inf true else .nan

/-- The greatest magnitude of an FX element. -/
def fxMax : Int := 2 ^ 127 - 1

/-- Clamp an exact FX sum (R102). -/
def fxClamp (t : Int) : Int × Flags :=
  if t > fxMax then (fxMax, Flags.fxsat) else if t < -fxMax then (-fxMax, Flags.fxsat) else (t, 0)

/-- fx.add (R102): `v` special, or its multiple of 2^-64. Bits [127:0] of a tagged element are 0: DESIGN CHOICE, log entry 59. -/
def fxAdd (a : AccElem) (v : Val) (z : Int) : AccElem × Flags :=
  if a.tag ≠ 0 || v.special then
    let x := if a.tag ≠ 0 then tagVal a.tag else Val.zero
    let y := if v.special then v else Val.zero
    ({ bits := 0, tag := fxTag (Val.add x y).1 }, 0)
  else
    let r := fxClamp (a.bits.toInt + z)
    ({ bits := BitVec.ofInt 128 r.1, tag := 0 }, r.2)

/-- One block's contribution in FX mode. -/
def contribFx (sub : Bool) (a : AccElem) (prods : List Val) (sa sb : Val) : AccElem × Flags :=
  let v := (Val.mul (Val.mul (Val.sum prods).1 sa).1 sb).1
  let v := if sub then v.neg else v
  fxAdd a v (roundFx v)

/-- One k-group's contribution in F32 mode (R103): the events of its two roundings (R97), f32ovf in place of of; DEDUCED, log entry 59,
that a NaN raises none. -/
def contribF32 (sub : Bool) (a : AccElem) (prods : List Val) (sa sb : Val) : AccElem × Flags :=
  let ps := prods.map (fun p => (Val.mul (Val.mul p sa).1 sb).1)
  let g := Fmt.fp32.round 0 0 (Val.sum ps).1
  let gv := Fmt.fp32.decode g.1
  let gv := if sub then gv.neg else gv
  let r := Fmt.fp32.round 0 0 (Val.add (Fmt.fp32.decode a.bits.toNat) gv).1
  let f := g.2 ||| r.2
  ({ bits := BitVec.ofNat 128 r.1, tag := 0 }, if f &&& Flags.ovf ≠ 0 then f &&& ~~~Flags.ovf ||| Flags.f32ovf else f)

/-- An exact integer value. -/
def valInt : Val → Int
  | .fin n m e => let y : Nat := m <<< e.toNat; if n then -(y : Int) else (y : Int)
  | _ => 0

/-- Clamp to a range. -/
def clampInt (lo hi x : Int) : Int × Bool := if x < lo then (lo, true) else if x > hi then (hi, true) else (x, false)

/-- One k-group's contribution in I32 mode (R104). -/
def contribI32 (sub : Bool) (a : AccElem) (prods : List Val) : AccElem × Flags :=
  let g := (prods.map valInt).foldl (· + ·) 0
  let g := if sub then -g else g
  let r := clampInt (-(2 ^ 31)) (2 ^ 31 - 1) ((a.bits.setWidth 32).toInt + g)
  ({ bits := (BitVec.ofInt 32 r.1).setWidth 128, tag := 0 }, if r.2 then Flags.i32sat else 0)

/-- The dot product of one row and one column, in groups: `start` is the k-group's or block's number. -/
def dotInto (g : MatCfg) (sub : Bool) (sa sb : Nat → Val) : Nat → List (List Val) → List (List Val) → AccElem × Flags → AccElem × Flags
  | n, xs :: as, ys :: bs, (e, f) =>
    let ps := List.zipWith (fun x y => (Val.mul x y).1) xs ys
    let b := if g.mode = 0 then n else n / 8
    let r := if g.mode = 0 then contribFx sub e ps (sa b) (sb b)
      else if g.mode = 1 then contribF32 sub e ps (sa b) (sb b) else contribI32 sub e ps
    dotInto g sub sa sb (n + 1) as bs (r.1, f ||| r.2)
  | _, _, _, e => e

/-- An A line in groups: its decoded elements (R125). -/
def aGroups (g : MatCfg) (t : Tile) (i : Nat) : List (List Val) :=
  let kk := 512 / g.w
  chunks (if g.mode = 0 then 32 else 4) 64 ((List.range kk).map (fun k => g.fa.decode (tileElem t.data.toNat g.w (i * kk + k))))

/-- A B column in groups (R125). -/
def bGroups (g : MatCfg) (tb : Bool) (t : Tile) (j : Nat) : List (List Val) :=
  let kk := 512 / g.w
  chunks (if g.mode = 0 then 32 else 4) 64 ((List.range kk).map (fun k =>
    g.fb.decode (tileElem t.data.toNat g.w (if tb then k * 32 + j else j * kk + k))))

/-- One product into one copy of an accumulator (R132): the elements and the events. -/
def product (g : MatCfg) (tb sub ovw : Bool) (ta tbt : Tile) (e : Table AccElem) : Table AccElem × Flags :=
  let cols := (List.range 32).map (fun j => (j, bGroups g tb tbt j))
  let out := (List.range 32).flatMap (fun i =>
    let ag := aGroups g ta i
    cols.map (fun (p : Nat × List (List Val)) =>
      let e0 : AccElem := if ovw then {} else tget {} e (i * 32 + p.1)
      (i * 32 + p.1, dotInto g sub (fun b => scaleVal (scaleCode ta i b)) (fun b => scaleVal (scaleCode tbt p.1 b)) 0 ag p.2 (e0, 0))))
  ((out.map (fun x => (x.1, x.2.1))).filter (fun x => x.2 != {}), out.foldl (fun f x => f ||| x.2.2) 0)

/-! ### Zero skipping and occupancy (R130, R134) -/

/-- The rate factor (R130). -/
def rateFactor (r : Nat) : Nat := if r = 0 then 1 else if r = 1 then 2 else 4

/-- The k-groups of A that may be skipped: every element ovw the 32 rows decodes to a zero (R134). -/
def zeroGroups (g : MatCfg) (ta : Tile) : List Nat :=
  let kk := 512 / g.w
  (List.range (kk / 4)).filter (fun q => (List.range 32).all (fun i =>
    (List.range 4).all (fun k => (g.fa.decode (tileElem ta.data.toNat g.w (i * kk + 4 * q + k))).isZero)))

/-- Is skipping suppressed for a product (R134)? -/
def suppressed (g : MatCfg) (ta tbt : Tile) (bank : Bool) : Bool :=
  bank || ta.nonfinite || tbt.nonfinite ||
  (g.mode ≠ 2 && (List.range 32).any (fun l => (List.range (512 / g.w / 32)).any (fun b =>
    scaleCode ta l b = 511 || scaleCode tbt l b = 511)))

/-- The occupancy of one product and whether a group was skipped; which of the groups that may be skipped are is open. -/
def occupancy (g : MatCfg) (zs bank : Bool) (rate free : Nat) (ta tbt : Tile) : Nat × Bool :=
  let fr := if g.red then 2 else 1
  let fq := rateFactor rate
  if zs then
    let sk := if suppressed g ta tbt bank then 0
      else ((zeroGroups g ta).filter (fun q => Config.skips (free + q))).length
    let k := if g.w = 16 then 1 else if g.w = 8 then 4 else 8
    (Nat.max 1 ((4 * (512 / g.w / 4 - sk) + k - 1) / k * fr * fq), sk ≠ 0)
  else ((if g.w = 16 || g.w = 2 then 32 else 16) * fr * fq, false)

/-! ### Products of a word (R132, R133, R141, R142) -/

/-- Row poison after a product: a poisoned A line, or any poisoned B line. -/
def productPoison (ta tbt : Tile) : BitVec 32 := ta.poison ||| (if tbt.poison = 0 then 0 else BitVec.allOnes 32)

/-- The elements that a half computed with an error (R141). -/
def halfErrs (copy : Bool) (es : List (Bool × Nat × BitVec 128)) (e : Table AccElem) : Table AccElem :=
  es.foldl (fun e x => if x.1 = copy then tmod {} e x.2.1 (fun a => { a with bits := a.bits ^^^ x.2.2 }) else e) e

/-- An accumulator's listed elements, those that are zero with tag 00 left out. -/
def accNonzero (e : Table AccElem) : Table AccElem := e.filter (fun x => x.2 != {})

/-- The errors that meet a product: rows whose residue check fails, and errors of its halves (R132, R141, R142). -/
structure ProductErrs where
  residue : List Nat := []
  half : List (Bool × Nat × BitVec 128) := []

/-- The errors that meet a core's product with `j` products before it, and those left after `n` products. -/
def CoreData.errsAt (x : CoreData) (j : Nat) : ProductErrs :=
  { residue := (x.residue.filter (fun r => r.1 = j)).map (·.2), half := (x.half.filter (fun r => r.1 = j)).map (·.2) }
def CoreData.errsAfter (x : CoreData) (n : Nat) : CoreData :=
  { x with residue := (x.residue.filter (fun r => decide (n ≤ r.1))).map (fun r => (r.1 - n, r.2))
           half := (x.half.filter (fun r => decide (n ≤ r.1))).map (fun r => (r.1 - n, r.2)) }

/-- One product into an accumulator: the accumulator and the events. `sees` says whether the residue notices copies that
differ (R141 leaves that open). -/
def accProduct (g : MatCfg) (tb : Bool) (mode : Nat) (ta tbt : Tile) (seq : BitVec 32) (sees : Bool) (er : ProductErrs) (a : Acc) :
    Acc × Flags :=
  let ovw := mode = 1
  let sub := mode = 2
  let a := if ovw then { a with mismatch := none, poison := 0 } else a
  let r0 := product g tb sub ovw ta tbt a.e0
  let r1 := if g.red then product g tb sub ovw ta tbt a.e1 else ([], 0)
  let e0 := if g.red then halfErrs false er.half r0.1 else r0.1
  let e1 := if g.red then halfErrs true er.half r1.1 else r1.1
  let mm := if g.red && accNonzero e0 != accNonzero e1 && a.mismatch.isNone && sees then some seq else a.mismatch
  let rows : BitVec 32 := if g.red then 0 else er.residue.foldl (fun (p : BitVec 32) i => p ||| (1#32 <<< i)) 0
  ({ e0 := e0, e1 := e1, poison := a.poison ||| productPoison ta tbt ||| rows, mismatch := mm, last := seq }, r0.2 ||| r1.2)

/-- The mode field's codes (02 R56): 0 add, 1 overwrite, 2 subtract. A word's products in order: tiles (A, B), modes. -/
structure MulWord where
  acc : Nat
  tiles : List (Tile × Tile)
  mode : Nat
  tb : Bool
  zs : Bool
  bank : Bool
  rate : Nat
  run : Bool

/-- The products of a word, in order (R133): overwrite applies to product 0 only. Each meets the errors that struck it, and its own bit of
`fv` decides what its residue sees. -/
def runProducts (g : MatCfg) (m : MulWord) (fv : Word) (er : Nat → ProductErrs) : Nat → BitVec 32 → List (Tile × Tile) → Acc × Flags → Acc × Flags
  | _, _, [], r => r
  | j, seq, (ta, tb) :: rest, (a, f) =>
    let md := if m.mode = 1 && j ≠ 0 then 0 else m.mode
    let r := accProduct g m.tb md ta tb seq (fv.getLsbD j) (er j) a
    runProducts g m fv er (j + 1) (seq + 1) rest (r.1, f ||| r.2)

/-- Occupancy of a word and whether it skips. -/
def mulOccupancy (g : MatCfg) (m : MulWord) (free : Nat) : Nat × Bool :=
  m.tiles.foldl (fun (x : Nat × Bool) t =>
    let o := occupancy g m.zs m.bank m.rate free t.1 t.2
    (x.1 + o.1, x.2 || o.2)) (0, false)

/-- The write-back of MMA or MRUN (R132, R133): the accumulator, flags, sequence number, and MRUN's run record. -/
def mulWrite (c k : Nat) (m : MulWord) (w : QWord) (s : State) : Run :=
  let x := s.core c
  let g := matCfg x.csr.accMode
  let r := runProducts g m s.freeVal x.d.errsAt 0 x.d.mseq m.tiles (x.d.getA m.acc, 0)
  withFlags c k w r.2 s (fun s =>
    let o := mulOccupancy g m w.idx
    let n := m.tiles.length
    let rec_ := word (x.d.mseq.toNat * 2 ^ 32 + Nat.min o.1 0xFFFF * 2 ^ 16 + n * 2 ^ 8 + m.acc * 2 ^ 6
      + (if r.1.poison = 0 then 0 else 2 ^ 5) + (if r.1.mismatch.isSome then 2 ^ 4 else 0) + (if o.2 then 2 ^ 3 else 0)
      + (if r.2 &&& Flags.i32sat ≠ 0 then 4 else 0) + (if r.2 &&& Flags.f32ovf ≠ 0 then 2 else 0)
      + (if r.2 &&& Flags.fxsat ≠ 0 then 1 else 0))
    .done ((s.modData c (fun d =>
      let d := d.setA m.acc r.1
      { d.errsAfter n with mseq := d.mseq + BitVec.ofNat 32 n, runq := if m.run then d.runq ++ [rec_] else d.runq })).takeFree) 0 false)

/-- The start of MMA or MRUN: a heavy word needs the permit, and is charged (R146); the write-back follows (R130), in the same
step when the word runs at once. -/
def mulStart (c k : Nat) (m : MulWord) (w : QWord) (s : State) : Run :=
  let x := s.core c
  let o := mulOccupancy (matCfg x.csr.accMode) m s.free
  let w := { w with idx := s.free }
  let go := fun (s : State) => if s.now then mulWrite c k m w s else .begun w s
  if m.rate = 2 then go s
  else if x.csr.permHeld && decide (o.1 ≤ x.csr.permLeft.toNat) then
    go (s.modCsr c (fun r => { r with permLeft := r.permLeft - BitVec.ofNat 32 o.1 }))
  else .wait w s

/-! ### Issue checks (R131, R145) -/

/-- Is the word in a strand's M queue an MCFG, an MLEND, an MRET? -/
def isMcfg : Instr → Bool
  | .mcfg _ _ _ _ _ => true
  | _ => false
def isMrun : Instr → Bool
  | .mrun _ _ _ _ _ _ _ _ _ => true
  | _ => false
def isMret : Instr → Option Nat
  | .mret _ b => some b.toNat
  | _ => none

/-- A configuration is in force for a word that issues now (R131). -/
def cfgInForce (x : Core) : Bool := x.csr.accMode.getLsbD 7 || ((x.strand 1).queue .m).any (fun w => isMcfg w.i)

/-- The lend state that every MLEND and MRET issued so far will leave (05 R108, R145). -/
def lendAfter (x : Core) : BitVec 4 :=
  ((x.strand 1).queue .m).foldl (fun l w =>
    if w.phase = .done then l else
    match w.i with
    | .mlend _ b => l ||| (1#4 <<< b.toNat)
    | .mret _ b => l &&& ~~~(1#4 <<< b.toNat)
    | _ => l) x.d.lend

/-- An M word: C only (01 R26); a configuration must be in force (R131). -/
def mword (h : Hdr) (body : Nat → Nat → QWord → State → Run) : WordSpec :=
  { engine := .m, hdr := h, strands := [1]
    check := fun c _ _ s => if cfgInForce (s.core c) then none else some (issueTrap 0x02)
    body := body }

/-- The registers of a bank. -/
def bankRegs (b : Nat) : List Reg := (List.range 8).map (fun j => .v (8 * b + j))

/-- The registers of a vector group. -/
def vgroup (v n : Nat) : List Reg := (List.range n).map (fun j => .v (v + j))

def specMma (h : Hdr) (acc : BitVec 2) (a b : BitVec 3) (z : BitVec 1) (m : BitVec 2) (t x y : BitVec 1) (r : BitVec 2) : WordSpec :=
  let mk := fun (d : CoreData) => ({
    acc := acc.toNat, mode := m.toNat, tb := t = 1, zs := z = 1, bank := x = 1 || y = 1, rate := r.toNat, run := false,
    tiles := [(if x = 1 then bankTile d a.toNat else d.getM a.toNat, if y = 1 then bankTile d b.toNat else d.getM b.toNat)] } : MulWord)
  { mword h (fun c k w s => mulStart c k (mk (s.core c).d) w s) with
    uses := [0x00A, 0x00B] ++ (if r = 2 then [] else [0x01E])
    rd := (if x = 1 then bankRegs a.toNat else [.m a.toNat]) ++ (if y = 1 then bankRegs b.toNat else [.m b.toNat])
      ++ (if m = 1 then [] else [.a acc.toNat])
    wr := [.a acc.toNat]
    check := fun c _ _ s =>
      let l := lendAfter (s.core c)
      if !cfgInForce (s.core c) || (x = 1 && !l.getLsbD a.toNat) || (y = 1 && !l.getLsbD b.toNat)
      then some (issueTrap 0x02) else none }

def mrunWord (acc : BitVec 2) (a b : BitVec 3) (z : BitVec 1) (m : BitVec 2) (t : BitVec 1) (n : BitVec 3) (r : BitVec 2)
    (d : CoreData) : MulWord :=
  { acc := acc.toNat, mode := m.toNat, tb := t = 1, zs := z = 1, bank := false, rate := r.toNat, run := true,
    tiles := (List.range (n.toNat + 1)).map (fun j => (d.getM (a.toNat + j), d.getM (b.toNat + j))) }

def specMrun (h : Hdr) (acc : BitVec 2) (a b : BitVec 3) (z : BitVec 1) (m : BitVec 2) (t : BitVec 1) (n : BitVec 3) (r : BitVec 2) : WordSpec :=
  { mword h (fun c k w s => mulStart c k (mrunWord acc a b z m t n r (s.core c).d) w s) with
    uses := [0x00A, 0x00B] ++ (if r = 2 then [] else [0x01E])
    rd := (List.range (n.toNat + 1)).flatMap (fun j => [.m (a.toNat + j), .m (b.toNat + j)]) ++ (if m = 1 then [] else [.a acc.toNat])
    wr := [.a acc.toNat]
    ready := fun c _ _ s =>
      let x := s.core c
      if x.d.runq.length + (((x.strand 1).queue .m).filter (fun w => isMrun w.i && w.phase ≠ .done)).length < 4 then none
      else some .hold }

/-- The MulWord of a started MMA or MRUN (R130). -/
def mulOf (i : Instr) (d : CoreData) : Option MulWord :=
  match i with
  | .mma _ acc a b z m t x y r => some {
      acc := acc.toNat, mode := m.toNat, tb := t = 1, zs := z = 1, bank := x = 1 || y = 1, rate := r.toNat, run := false,
      tiles := [(if x = 1 then bankTile d a.toNat else d.getM a.toNat, if y = 1 then bankTile d b.toNat else d.getM b.toNat)] }
  | .mrun _ acc a b z m t n r => some (mrunWord acc a b z m t n r d)
  | _ => none

/-! ### Drains and loads (R135-R137) -/

/-- The element type of a drain or load (R135). -/
def drainFmt (w : QWord) (y : Nat) : Fmt :=
  if y = 0 then Fmt.ofDesc w.fmtC else if y = 1 then Fmt.bf16 else if y = 2 then Fmt.fp16 else if y = 3 then Fmt.fp32 else Fmt.int32
def drainWidth (w : QWord) (y : Nat) : Nat := if y = 0 then (Fmt.ofDesc w.fmtC).container else if y ≤ 2 then 16 else 32

/-- The exact value of an accumulator element (04 R100, R106). -/
def accVal (mode : Nat) (e : AccElem) : Val :=
  if mode = 0 then
    (if e.tag ≠ 0 then tagVal e.tag else .fin (e.bits.toInt < 0) e.bits.toInt.natAbs (-64))
  else if mode = 1 then Fmt.fp32.decode e.bits.toNat
  else Val.ofInt (e.bits.setWidth 32).toInt

/-- Every element converted, in row-major order (R136). -/
def drainCodes (mode : Nat) (f : Fmt) (w : QWord) (g : BitVec 16) (a : Acc) : List Nat × Flags × BitVec 16 :=
  roundAll f w.round.toNat ((List.range 1024).map (fun n => accVal mode (tget {} a.e0 n))) g

def Acc.zero (a : Acc) : Acc := { a with e0 := [], e1 := [], poison := 0, mismatch := none }

/-- The redundant copies' comparison before a drain (R136, R141). -/
def copiesDiffer (red : Bool) (a : Acc) : Bool := red && accNonzero a.e0 != accNonzero a.e1

/-- The record names the latched number, else that of the last product written (R136, R141); 0 where there is none: DESIGN CHOICE, log
entry 59. -/
def mismatchTrap (n : Nat) (a : Acc) : Trap := { runTrap 0x0B with x0 := word n, x1 := zext (a.mismatch.getD a.last) }

/-- Rows of a value written into a register group in natural order, the first `rows` of them. -/
def drainInto (w : Nat) (codes : List Nat) (rows v : Nat) (d : CoreData) : CoreData :=
  let per := 2048 / w
  (List.range (w / 2)).foldl (fun d j =>
    let lim := rows * 32 - j * per                             -- elements of this register that are written
    let cs := (codes.drop (j * per)).take (Nat.min per lim)
    if cs.isEmpty then d
    else
      let n := cs.length * w
      let lo := (cs.foldl (fun (p : Nat × Nat) x => (p.1 + x % pow2 w * pow2 p.2, p.2 + w)) (0, 0)).1
      let old := (d.getV (v + j)).toNat
      d.setV (v + j) (BitVec.ofNat 2048 (old >>> n <<< n + lo))) d

def specMdrain (h : Hdr) (acc : BitVec 2) (y d : BitVec 3) (z : BitVec 1) : WordSpec :=
  { mword h (fun c k w s =>
      let x := s.core c
      let g := matCfg x.csr.accMode
      let a := x.d.getA acc.toNat
      let f := drainFmt w y.toNat
      let ww := drainWidth w y.toNat
      if copiesDiffer g.red a then .trap (mismatchTrap acc.toNat a) w s
      else
        let r := drainCodes g.mode f w (x.strand k).g a
        withFlags c k w r.2.1 s (fun s =>
          .done ((s.modData c (fun dd =>
            let t := dd.getM d.toNat
            let pz := (List.range 32).foldl (fun p i => if a.poison.getLsbD i then p ||| (1#32 <<< (i * 32 * ww / 512)) else p) 0#32
            let dd := dd.setM d.toNat { t with data := tileOf ww r.1, poison := pz, nonfinite := r.1.any (fun q => (f.decode q).special) }
            if z = 1 then dd.setA acc.toNat a.zero else dd)).modStrand c k (fun t => { t with g := r.2.2 })) 0 false)) with
    uses := [0x008, 0x00A, 0x00B, 0x00C, 0x00D]
    rd := [.a acc.toNat], wr := .m d.toNat :: (if z = 1 then [.a acc.toNat] else [])
    check := fun c _ w s => if !cfgInForce (s.core c) || (y = 0 && w.fmtC = 0) then some (issueTrap 0x02) else none }

def specMdrainV (h : Hdr) (acc : BitVec 2) (y : BitVec 3) (v : BitVec 5) (z : BitVec 1) : WordSpec :=
  { mword h (fun c k w s =>
      let x := s.core c
      let g := matCfg x.csr.accMode
      let a := x.d.getA acc.toNat
      let ww := drainWidth w y.toNat
      if copiesDiffer g.red a then .trap (mismatchTrap acc.toNat a) w s
      else
        let r := drainCodes g.mode (drainFmt w y.toNat) w (x.strand k).g a
        if trapped w.trapen r.2.1 then .trap (runTrap 0x14) w s
        else
          match (List.range 32).find? (fun i => a.poison.getLsbD i) with
          | some row =>                                    -- the rows before it are written, with their conversions' flags (R98)
            let done := roundAll (drainFmt w y.toNat) w.round.toNat
              ((List.range (row * 32)).map (fun n => accVal g.mode (tget {} a.e0 n))) (x.strand k).g
            .trap { runTrap 0x0A with x0 := word acc.toNat, x1 := word row } w
              ((s.raise c k done.2.1).modData c (drainInto ww r.1 row v.toNat))
          | none =>
            .done (((s.raise c k r.2.1).modData c (fun dd =>
              let dd := drainInto ww r.1 32 v.toNat dd
              if z = 1 then dd.setA acc.toNat a.zero else dd)).modStrand c k (fun t => { t with g := r.2.2 })) 0 false) with
    uses := [0x008, 0x00A, 0x00B, 0x00C, 0x00D]
    rd := [.a acc.toNat], wr := if z = 1 then [.a acc.toNat] else []
    wrw := fun w => vgroup v.toNat (drainWidth w y.toNat / 2)
    check := fun c _ w s =>
      if !cfgInForce (s.core c) || (y = 0 && (w.fmtC = 0 || decide (v.toNat + drainWidth w 0 / 2 > 32)))
      then some (issueTrap 0x02) else none }

/-- One loaded element (R137): the accumulator's encoding and the events. -/
def loadElem (mode : Nat) (x : Val) : AccElem × Flags :=
  if mode = 0 then
    if x.special then ({ bits := 0, tag := fxTag x }, 0)
    else
      let z := roundFx x
      let r := fxClamp z
      let exact : Bool := match x with
        | .fin n m e => decide (Val.cmp (.fin n m e) (.fin (z < 0) z.natAbs (-64)) = 0)
        | _ => true
      ({ bits := BitVec.ofInt 128 r.1, tag := 0 }, r.2 ||| (if exact then 0 else Flags.nx))
  else if mode = 1 then let r := Fmt.fp32.round 0 0 x; ({ bits := BitVec.ofNat 128 r.1, tag := 0 }, r.2)
  else let r := Fmt.int32.round 0 0 x; ({ bits := BitVec.ofNat 128 r.1, tag := 0 }, r.2)

def specMloada (h : Hdr) (acc : BitVec 2) (y : BitVec 3) (v : BitVec 5) : WordSpec :=
  { mword h (fun c k w s =>
      let x := s.core c
      let g := matCfg x.csr.accMode
      let f := drainFmt w y.toNat
      let ww := drainWidth w y.toNat
      let per := 2048 / ww
      let es := (List.range 1024).map (fun n =>
        (n, loadElem g.mode (f.decode ((x.d.getV (v.toNat + n / per)).toNat >>> (n % per * ww) % pow2 ww))))
      let fl := es.foldl (fun (p : Flags) e => p ||| e.2.2) 0
      withFlags c k w fl s (fun s =>
        let tab := (es.map (fun e => (e.1, e.2.1))).filter (fun e => e.2 != {})
        .done (s.modData c (fun dd => dd.setA acc.toNat
          { dd.getA acc.toNat with e0 := tab, e1 := if g.red then tab else [], poison := 0, mismatch := none })) 0 false)) with
    uses := [0x008, 0x00A, 0x00B]
    rdw := fun w => vgroup v.toNat (drainWidth w y.toNat / 2), wr := [.a acc.toNat]
    check := fun c _ w s =>
      if !cfgInForce (s.core c) || (y = 0 && (w.fmtC = 0 || decide (v.toNat + drainWidth w 0 / 2 > 32)))
      then some (issueTrap 0x02) else none }

def specMtrans (h : Hdr) (src d : BitVec 3) (wc : BitVec 2) : WordSpec :=
  { mword h (fun c _ _ s =>
      let ww := 16 >>> wc.toNat
      let kk := 512 / ww
      .done (s.modData c (fun dd =>
        let t := dd.getM src.toNat
        let codes := (List.range 1024).map (fun n => tileElem t.data.toNat ww (n % 32 * kk + n / 32))
        dd.setM d.toNat { t with data := tileOf ww codes, poison := if t.poison = 0 then 0 else BitVec.allOnes 32 })) 0 false) with
    rd := [.m src.toNat], wr := [.m d.toNat] }

def specMscale (h : Hdr) (d : BitVec 3) (v : BitVec 5) : WordSpec :=
  { mword h (fun c _ _ s =>
      .done (s.modData c (fun dd =>
        let sc := (List.range 256).foldl (fun x n =>
          x + (dd.getV (v.toNat + n / 128)).toNat >>> (n % 128 * 16) % 512 * pow2 (9 * n)) 0
        dd.setM d.toNat { dd.getM d.toNat with scale := BitVec.ofNat 2304 sc })) 0 false) with
    rd := vgroup v.toNat 2, wr := [.m d.toNat] }

def specMzero (h : Hdr) (acc : BitVec 2) : WordSpec :=
  { mword h (fun c _ _ s => .done (s.modData c (fun dd => dd.setA acc.toNat (dd.getA acc.toNat).zero)) 0 false) with
    wr := [.a acc.toNat] }

/-! ### MCFG (R140) -/

/-- Is a configuration allowed (R140)? -/
def mcfgOk (mode ak bk : Nat) (w : QWord) : Bool :=
  let fa := kindFmt ak w.fmtA
  let fb := kindFmt bk w.fmtB
  let e : Fmt → Nat := fun f => match f with
    | .int _ _ => 0
    | .flt _ eb _ _ _ => eb
  !(ak = 0 && w.fmtA = 0) && !(bk = 0 && w.fmtB = 0) && kindWidth ak w.fmtA = kindWidth bk w.fmtB
  && (mode ≠ 0 || (decide (e fa ≤ 5) && decide (e fb ≤ 5)))
  && (mode ≠ 2 || (ak = 0 && bk = 0 && !fa.floating && !fb.floating))

def specMcfg (h : Hdr) (m a b : BitVec 2) (r : BitVec 1) : WordSpec :=
  { engine := .m, hdr := h, strands := [1], uses := [0x006, 0x007, 0x009]
    check := fun _ _ w _ => if mcfgOk m.toNat a.toNat b.toNat w then none else some (issueTrap 0x02)
    body := fun c k w s =>
      let x := s.core c
      if ((x.strand k).queue .m).any (fun q => decide (q.seq < w.seq)) then .wait w s
      else
        let old := matCfg x.csr.accMode
        let ad := if a = 0 then w.fmtA.toNat else 0
        let bd := if b = 0 then w.fmtB.toNat else 0
        let md := BitVec.ofNat 48 (ad * 2 ^ 32 + bd * 2 ^ 16 + 128 + m.toNat * 32 + a.toNat * 8 + b.toNat * 2 + r.toNat)
        .done ((s.modCsr c (fun q => { q with accMode := md })).modData c (fun d =>
          let d := (List.range 4).foldl (fun (d : CoreData) n =>
            let t := d.getA n
            d.setA n (if old.mode ≠ m.toNat || !old.cfg then t.zero
              else if r = 1 then (if old.red then t else { t with e1 := t.e0 }) else { t with e1 := [] })) d
          (List.range 8).foldl (fun (d : CoreData) n => d.setM n { d.getM n with scale := unitScales, nonfinite := true }) d)) 0 false }

/-! ### Checks, status and lending (R143-R145) -/

def specMchk (h : Hdr) (acc : BitVec 2) : WordSpec :=
  { mword h (fun c _ _ s =>
      let x := s.core c
      let a := x.d.getA acc.toNat
      .done s 0 (a.poison = 0 && !copiesDiffer (matCfg x.csr.accMode).red a)) with
    cqPush := true, rd := [.a acc.toNat] }

/-- MLEND waits until no earlier word of any strand has a pending write or read of a register of the bank (R145, 05 R108). -/
def specMlend (h : Hdr) (b : BitVec 2) : WordSpec :=
  { engine := .m, hdr := h, strands := [1], bankWait := some (b.toNat, false)
    check := fun c _ _ s => if (lendAfter (s.core c)).getLsbD b.toNat then some (issueTrap 0x02) else none
    body := fun c _ _ s => .done (s.modData c (fun d => { d with lend := d.lend ||| (1#4 <<< b.toNat) })) 0 false }

/-- MRET waits until no earlier M word reads or writes a register of the bank (R145). -/
def specMret (h : Hdr) (b : BitVec 2) : WordSpec :=
  { engine := .m, hdr := h, strands := [1], bankWait := some (b.toNat, true)
    check := fun c _ _ s => if (lendAfter (s.core c)).getLsbD b.toNat then none else some (issueTrap 0x02)
    body := fun c _ _ s => .done (s.modData c (fun d => { d with lend := d.lend &&& ~~~(1#4 <<< b.toNat) })) 0 false }

/-- MPROBE waits for every earlier M word (R144). -/
def mprobeWait (c k : Nat) (w : QWord) (s : State) (go : Run) : Run :=
  if (((s.core c).strand k).queue .m).any (fun q => decide (q.seq < w.seq)) then .wait w s else go

def specMprobe (h : Hdr) (sel : BitVec 1) (d : BitVec 5) : WordSpec :=
  { engine := .m, hdr := h, strands := [1], dst := some d
    body := fun c k w s => mprobeWait c k w s (
      let x := (s.core c).d
      if sel = 0 then
        match x.runq with
        | [] => .wait w s
        | r :: rest => .done (s.modData c (fun d => { d with runq := rest })) r false
      else .done s (word (x.mseq.toNat * 2 ^ 32 + x.runq.length)) false) }

def specMprobeAcc (h : Hdr) (acc : BitVec 2) (d : BitVec 5) : WordSpec :=
  { engine := .m, hdr := h, strands := [1], dst := some d, rd := [.a acc.toNat]
    body := fun c k w s => mprobeWait c k w s (
      let a := (s.core c).d.getA acc.toNat
      .done s (word ((if a.mismatch.isSome then 2 ^ 32 else 0) + a.poison.toNat)) false) }

end Sys2Proof.Machine
end

