-- ==== Sys2Proof/Machine/Vector.lean ====
section
/-! DEFINITION. V words and K words (07). -/

namespace Sys2Proof.Machine

/-- Type classes (R151): I, F, N. -/
inductive Cls
  | i | f | n
  deriving DecidableEq, Repr

def clsOf (code : Nat) : Cls := if code ≤ 6 then .i else if code ≤ 9 then .f else .n

/-- The type check of a word (R151): 0x02 at issue. -/
def typeCheck (w : QWord) (code : Nat) (allow : List Cls) : Bool :=
  allow.contains (clsOf code) && (typeFmt w code).isSome

/-- The elements of a register at width `w`, and a register of elements (R150). -/
def velems (w : Nat) (x : BitVec 2048) : List Nat := (List.range (2048 / w)).map (fun i => x.toNat >>> (i * w) % pow2 w)
def vpackN : Nat → List Nat → Nat
  | _, [] => 0
  | w, x :: xs => x % pow2 w + vpackN w xs <<< w
def vofElems (w : Nat) (xs : List Nat) : BitVec 2048 := BitVec.ofNat 2048 (vpackN w xs)

/-- Elements that share a mask bit (R150). -/
def maskG (n : Nat) : Nat := Nat.max 1 (n / 256)
/-- Is element i active (R150)? -/
def active (m : BitVec 256) (g i : Nat) : Bool := m.getLsbD (i / g)

/-- The format and width that vtype's type names. -/
def vfmt (w : QWord) : Fmt := (typeFmt w (vtypeCode w)).getD Fmt.int8
def vwidth (w : QWord) : Nat := typeWidth w (vtypeCode w)

/-- An exact integer reduced to a type (R152): wrapped, or clamped with sat. -/
def intReduce (f : Fmt) (isat : Bool) (z : Int) : Nat × Flags :=
  match f with
  | .int sg w =>
    let lo : Int := if sg then -(2 ^ (w - 1) : Nat) else 0
    let hi : Int := if sg then (2 ^ (w - 1) : Nat) - 1 else (2 ^ w : Nat) - 1
    if isat && (z < lo || z > hi) then (((if z < lo then lo else hi) % (2 ^ w : Nat)).toNat, Flags.sat)
    else ((z % (2 ^ w : Nat)).toNat, 0)
  | _ => (0, 0)

/-- A floating result, with nv for an invalid operation (R152). -/
def fltReduce (f : Fmt) (r : Val × Bool) : Nat × Flags :=
  let q := f.round 0 0 r.1
  (q.1, q.2 ||| (if r.2 then Flags.nv else 0))

/-- An arithmetic operation of an element: exact on values for F, exact on integers for I. -/
def arith (fF : Val → Val → Val → Val × Bool) (fI : Int → Int → Int → Int) (f : Fmt) (isat : Bool) (a b c : Nat) : Nat × Flags :=
  if f.floating then fltReduce f (fF (f.decode a) (f.decode b) (f.decode c))
  else intReduce f isat (fI (valInt (f.decode a)) (valInt (f.decode b)) (valInt (f.decode c)))

/-- The lesser of two values, −0 below +0, NaN if either is NaN (R156). -/
def vminVal (x y : Val) : Val :=
  if x.isNan || y.isNan then .nan
  else if x.isZero && y.isZero then (if x.isNeg then x else y)
  else if Val.cmp x y ≤ 0 then x else y
def vmaxVal (x y : Val) : Val :=
  if x.isNan || y.isNan then .nan
  else if x.isZero && y.isZero then (if x.isNeg then y else x)
  else if Val.cmp x y ≤ 0 then y else x

/-- A V word (R154): C only; vtype, its descriptors and the flags are the CSRs it uses. -/
def vword (h : Hdr) (rd wr : List Reg) (allow : List Cls) (body : Nat → Nat → QWord → State → Run) : WordSpec :=
  { engine := .v, hdr := h, strands := [1], rd := rd, wr := wr, uses := [0x005, 0x006, 0x007, 0x008, 0x00A, 0x00B, 0x00C]
    check := fun _ _ w _ => if typeCheck w (vtypeCode w) allow then none else some (issueTrap 0x02)
    body := body }

/-- What a V word computes: the register files, its events, those of its inactive elements, the stochastic generator where it draws, a
scalar result and a bit. -/
structure VOut where
  d : CoreData
  fl : Flags := 0
  ex : Flags := 0
  g : Option (BitVec 16) := none
  res : Word := 0
  bit : Bool := false
  deriving DecidableEq, Repr

/-- A computation of the register files and the strand's generator, with what the word read at issue. -/
abbrev VFun := QWord → CoreData → BitVec 16 → VOut

/-- Run a computation: where an event of an active or inactive element meets its trap enable nothing is written, else the active
elements' flags are set and it is written (R152). -/
def vRun (f : VFun) (c kk : Nat) (w : QWord) (s : State) : Run :=
  let o := f w (s.core c).d (s.strand c kk).g
  if trapped w.trapen o.ex then .trap (runTrap 0x14) w s
  else withFlags c kk w o.fl s (fun s =>
    .done ((s.modData c (fun _ => o.d)).modStrand c kk (fun t => { t with g := o.g.getD t.g })) o.res o.bit)

/-- An element's result: the computed one and its events where it is active, else what it holds, with the events apart (R150, R152). -/
def merge {β : Type} (act : Bool) (old : β) (q : β × Flags) : β × Flags × Flags := if act then (q.1, q.2, 0) else (old, 0, q.2)

/-- The events of a list of results, together: of the active elements, and of the inactive ones. -/
def allFlags {β : Type} (rs : List (β × Flags × Flags)) : Flags := rs.foldl (fun (fl : Flags) r => fl ||| r.2.1) 0
def idleFlags {β : Type} (rs : List (β × Flags × Flags)) : Flags := rs.foldl (fun (fl : Flags) r => fl ||| r.2.2) 0

/-- Write the active elements of a result into a register, with its flags (R150, R152). -/
def elementwise (op : Fmt → Bool → Nat → Nat → Nat → Nat × Flags) (d : BitVec 5) (av bv : CoreData → BitVec 2048) (k : BitVec 3) : VFun :=
  fun w x _ =>
    let f := vfmt w
    let ww := vwidth w
    let n := 2048 / ww
    let m := x.getK k.toNat
    let as := velems ww (av x)
    let bs := velems ww (bv x)
    let cs := velems ww (x.getV d.toNat)
    let rs := ((as.zip (bs.zip cs)).zip (List.range n)).map (fun (p : (Nat × Nat × Nat) × Nat) =>
      merge (active m (maskG n) p.2) p.1.2.2 (op f (visat w) p.1.1 p.1.2.1 p.1.2.2))
    { d := x.setV d.toNat (vofElems ww (rs.map (·.1))), fl := allFlags rs, ex := idleFlags rs }

/-- A three-register element word; it merges, so it reads vD too. -/
def v3 (h : Hdr) (d a b : BitVec 5) (k : BitVec 3) (allow : List Cls) (op : Fmt → Bool → Nat → Nat → Nat → Nat × Flags) : WordSpec :=
  vword h [.v a.toNat, .v b.toNat, .v d.toNat, .k k.toNat] [.v d.toNat] allow
    (vRun (elementwise op d (·.getV a.toNat) (·.getV b.toNat) k))

/-- A two-register element word. -/
def v2 (h : Hdr) (d a : BitVec 5) (k : BitVec 3) (allow : List Cls) (op : Fmt → Bool → Nat → Nat × Flags) : WordSpec :=
  vword h [.v a.toNat, .v d.toNat, .k k.toNat] [.v d.toNat] allow
    (vRun (elementwise (fun f i x _ _ => op f i x) d (·.getV a.toNat) (fun _ => 0) k))

/-! ### Arithmetic (R156) -/
def specVadd (h : Hdr) (d a b : BitVec 5) (k : BitVec 3) : WordSpec :=
  v3 h d a b k [.i, .f] (arith (fun x y _ => Val.add x y) (fun x y _ => x + y))
def specVsub (h : Hdr) (d a b : BitVec 5) (k : BitVec 3) : WordSpec :=
  v3 h d a b k [.i, .f] (arith (fun x y _ => Val.sub x y) (fun x y _ => x - y))
def specVmul (h : Hdr) (d a b : BitVec 5) (k : BitVec 3) : WordSpec :=
  v3 h d a b k [.i, .f] (arith (fun x y _ => Val.mul x y) (fun x y _ => x * y))
def fmaVal (x y z : Val) : Val × Bool := let p := Val.mul x y; let r := Val.add p.1 z; (r.1, p.2 || r.2)
def specVfma (h : Hdr) (d a b : BitVec 5) (k : BitVec 3) : WordSpec :=
  v3 h d a b k [.i, .f] (arith (fun x y z => fmaVal x y z) (fun x y z => x * y + z))
def specVfms (h : Hdr) (d a b : BitVec 5) (k : BitVec 3) : WordSpec :=
  v3 h d a b k [.i, .f] (arith (fun x y z => fmaVal x y z.neg) (fun x y z => x * y - z))
def specVmin (h : Hdr) (d a b : BitVec 5) (k : BitVec 3) : WordSpec :=
  v3 h d a b k [.i, .f] (arith (fun x y _ => (vminVal x y, false)) (fun x y _ => if x ≤ y then x else y))
def specVmax (h : Hdr) (d a b : BitVec 5) (k : BitVec 3) : WordSpec :=
  v3 h d a b k [.i, .f] (arith (fun x y _ => (vmaxVal x y, false)) (fun x y _ => if x ≤ y then y else x))
def absVal (x : Val) : Val := if x.isNeg then x.neg else x
def specVabs (h : Hdr) (d a : BitVec 5) (k : BitVec 3) : WordSpec :=
  v2 h d a k [.i, .f] (fun f i x => arith (fun x _ _ => (absVal x, false)) (fun x _ _ => x.natAbs) f i x 0 0)
def specVneg (h : Hdr) (d a : BitVec 5) (k : BitVec 3) : WordSpec :=
  v2 h d a k [.i, .f] (fun f i x => arith (fun x _ _ => (x.neg, false)) (fun x _ _ => -x) f i x 0 0)
def specVclamp (h : Hdr) (d a b : BitVec 5) (k : BitVec 3) : WordSpec :=
  v3 h d a b k [.i, .f] (arith (fun x y z => (vminVal (vmaxVal z x) y, false))
    (fun x y z => let t := if z ≤ x then x else z; if t ≤ y then t else y))

/-! ### Transcendentals (R157) -/
def rcpVal : Val → Val × Bool
  | .nan => (.nan, false)
  | .inf n => (.fin n 0 0, false)
  | .fin n m e => if m = 0 then (.inf n, false) else (recipVal n m e, false)
def rsqVal : Val → Val × Bool
  | .nan => (.nan, false)
  | .inf n => if n then (.nan, true) else (Val.zero, false)
  | .fin n m e => if m = 0 then (.inf n, false) else if n then (.nan, true) else (rsqrtVal m e, false)
def exp2OfVal : Val → Val × Bool
  | .nan => (.nan, false)
  | .inf n => if n then (Val.zero, false) else (.inf false, false)
  | .fin n m e => if m = 0 then (Val.one, false) else (exp2Val n m e, false)
def log2OfVal : Val → Val × Bool
  | .nan => (.nan, false)
  | .inf n => if n then (.nan, true) else (.inf false, false)
  | .fin n m e => if m = 0 then (.inf true, false) else if n then (.nan, true) else (log2Val m e, false)

def vtrans (h : Hdr) (d a : BitVec 5) (k : BitVec 3) (g : Val → Val × Bool) : WordSpec :=
  v2 h d a k [.f] (fun f _ x => fltReduce f (g (f.decode x)))
def specVrcp (h : Hdr) (d a : BitVec 5) (k : BitVec 3) : WordSpec := vtrans h d a k rcpVal
def specVrsq (h : Hdr) (d a : BitVec 5) (k : BitVec 3) : WordSpec := vtrans h d a k rsqVal
def specVexp2 (h : Hdr) (d a : BitVec 5) (k : BitVec 3) : WordSpec := vtrans h d a k exp2OfVal
def specVlog2 (h : Hdr) (d a : BitVec 5) (k : BitVec 3) : WordSpec := vtrans h d a k log2OfVal

/-! ### Logic and shifts (R158): bit operations, no flag -/
def specVand (h : Hdr) (d a b : BitVec 5) (k : BitVec 3) : WordSpec := v3 h d a b k [.i, .f, .n] (fun _ _ x y _ => (x &&& y, 0))
def specVor (h : Hdr) (d a b : BitVec 5) (k : BitVec 3) : WordSpec := v3 h d a b k [.i, .f, .n] (fun _ _ x y _ => (x ||| y, 0))
def specVxor (h : Hdr) (d a b : BitVec 5) (k : BitVec 3) : WordSpec := v3 h d a b k [.i, .f, .n] (fun _ _ x y _ => (x ^^^ y, 0))
/-- The complement of a pattern of the element's container width. -/
def vnotF (d a : BitVec 5) (k : BitVec 3) : VFun :=
  fun w x g => elementwise (fun _ _ x _ _ => (pow2 (vwidth w) - 1 - x, 0)) d (·.getV a.toNat) (fun _ => 0) k w x g
def specVnot (h : Hdr) (d a : BitVec 5) (k : BitVec 3) : WordSpec :=
  vword h [.v a.toNat, .v d.toNat, .k k.toNat] [.v d.toNat] [.i, .f, .n] (vRun (vnotF d a k))

/-- A shift of a w-bit pattern right with sign fill. -/
def sraPat (w x n : Nat) : Nat := ((if x ≥ 2 ^ (w - 1) then (x : Int) - 2 ^ w else (x : Int)) / (2 ^ n : Int) % (2 ^ w : Int)).toNat
def specVshl (h : Hdr) (d a b : BitVec 5) (k : BitVec 3) : WordSpec :=
  v3 h d a b k [.i] (fun f _ x y _ => (x <<< (y % f.width) % pow2 f.width, 0))
def specVshr (h : Hdr) (d a b : BitVec 5) (k : BitVec 3) : WordSpec := v3 h d a b k [.i] (fun f _ x y _ => (x >>> (y % f.width), 0))
def specVsra (h : Hdr) (d a b : BitVec 5) (k : BitVec 3) : WordSpec :=
  v3 h d a b k [.i] (fun f _ x y _ => (sraPat f.width x (y % f.width), 0))

/-- An immediate shift: w or more traps 0x02. -/
def vshiftImm (h : Hdr) (d a i : BitVec 5) (k : BitVec 3) (op : Fmt → Nat → Nat) : WordSpec :=
  { v2 h d a k [.i] (fun f _ x => (op f x, 0)) with
    check := fun _ _ w _ =>
      if typeCheck w (vtypeCode w) [.i] && decide (i.toNat < vwidth w) then none else some (issueTrap 0x02) }
def specVshli (h : Hdr) (d a i : BitVec 5) (k : BitVec 3) : WordSpec :=
  vshiftImm h d a i k (fun f x => x <<< i.toNat % pow2 f.width)
def specVshri (h : Hdr) (d a i : BitVec 5) (k : BitVec 3) : WordSpec :=
  vshiftImm h d a i k (fun f x => if f.signed then sraPat f.width x i.toNat else x >>> i.toNat)

/-! ### Compares (R159) and the condition queue (R160) -/

/-- Comparison codes: EQ 0, NE 1, LT 2, LE 3, UN 4; the bit and the flags. -/
def vcompare (op : Nat) (f : Fmt) (a b : Nat) : Bool × Flags :=
  let x := f.decode a
  let y := f.decode b
  if x.isNan || y.isNan then
    (op = 1 || op = 4, if op = 2 || op = 3 then Flags.nv else 0)
  else
    let z := Val.cmp x y
    (match op with | 0 => z = 0 | 1 => z ≠ 0 | 2 => z < 0 | 3 => z ≤ 0 | _ => false, 0)

/-- A mask from bits 0, 1, .... -/
def maskOf (bs : List Bool) : BitVec 256 :=
  BitVec.ofNat 256 (bs.foldr (fun b x => (if b then 1 else 0) + 2 * x) 0)

/-- A comparison's mask. -/
def vcmpF (op : Nat) (d a b : BitVec 5) (k : BitVec 3) : VFun := fun w x _ =>
  let ww := vwidth w
  let m := x.getK k.toNat
  let rs := (((velems ww (x.getV a.toNat)).zip (velems ww (x.getV b.toNat))).zip (List.range (2048 / ww))).map
    (fun (p : (Nat × Nat) × Nat) => merge (active m 1 p.2) false (vcompare op (vfmt w) p.1.1 p.1.2))
  { d := x.setK d.toNat (maskOf (rs.map (·.1))), fl := allFlags rs, ex := idleFlags rs }

def vcmp (h : Hdr) (op : Nat) (d a b : BitVec 5) (k : BitVec 3) : WordSpec :=
  vword h [.v a.toNat, .v b.toNat, .k k.toNat] [.k d.toNat] [.i, .f] (vRun (vcmpF op d a b k))
def specVcmpEq (h : Hdr) (d a b : BitVec 5) (k : BitVec 3) : WordSpec := vcmp h 0 d a b k
def specVcmpNe (h : Hdr) (d a b : BitVec 5) (k : BitVec 3) : WordSpec := vcmp h 1 d a b k
def specVcmpLt (h : Hdr) (d a b : BitVec 5) (k : BitVec 3) : WordSpec := vcmp h 2 d a b k
def specVcmpLe (h : Hdr) (d a b : BitVec 5) (k : BitVec 3) : WordSpec := vcmp h 3 d a b k
def specVcmpUn (h : Hdr) (d a b : BitVec 5) (k : BitVec 3) : WordSpec := vcmp h 4 d a b k

/-- The bits of kA at the active elements. -/
def vcqF (a : BitVec 5) (k : BitVec 3) (all : Bool) : VFun := fun w x _ =>
  let n := 2048 / vwidth w
  let g := maskG n
  let act := (List.range n).filter (fun i => active (x.getK k.toNat) g i)
  let p := fun i => active (x.getK a.toNat) g i
  { d := x, bit := if all then act.all p else act.any p }

def vcq (h : Hdr) (a : BitVec 5) (k : BitVec 3) (all : Bool) : WordSpec :=
  { vword h [.k a.toNat, .k k.toNat] [] [.i, .f, .n] (vRun (vcqF a k all)) with cqPush := true }
def specVcqAny (h : Hdr) (a : BitVec 5) (k : BitVec 3) : WordSpec := vcq h a k false
def specVcqAll (h : Hdr) (a : BitVec 5) (k : BitVec 3) : WordSpec := vcq h a k true

/-! ### Moves (R161) -/
/-- VSEL: the k field selects, and every element is written. -/
def vselF (d a b : BitVec 5) (k : BitVec 3) : VFun := fun w x _ =>
  let ww := vwidth w
  let n := 2048 / ww
  let rs := (((velems ww (x.getV a.toNat)).zip (velems ww (x.getV b.toNat))).zip (List.range n)).map
    (fun (p : (Nat × Nat) × Nat) => if active (x.getK k.toNat) (maskG n) p.2 then p.1.1 else p.1.2)
  { d := x.setV d.toNat (vofElems ww rs) }
def specVsel (h : Hdr) (d a b : BitVec 5) (k : BitVec 3) : WordSpec :=
  vword h [.v a.toNat, .v b.toNat, .k k.toNat] [.v d.toNat] [.i, .f, .n] (vRun (vselF d a b k))
def specVmov (h : Hdr) (d a : BitVec 5) (k : BitVec 3) : WordSpec := v2 h d a k [.i, .f, .n] (fun _ _ x => (x, 0))
def vbcastF (d : BitVec 5) (k : BitVec 3) : VFun :=
  fun w x g => elementwise (fun _ _ _ _ _ => (w.va.toNat % pow2 (vwidth w), 0)) d (fun _ => 0) (fun _ => 0) k w x g
def specVbcast (h : Hdr) (d a : BitVec 5) (k : BitVec 3) : WordSpec :=
  { vword h [.v d.toNat, .k k.toNat] [.v d.toNat] [.i, .f, .n] (vRun (vbcastF d k)) with a := some a }

/-- An element index of N or more traps 0x02 (R161): s[b] is read at issue. -/
def idxCheck (w : QWord) : Option Trap :=
  if typeCheck w (vtypeCode w) [.i, .f, .n] && decide (w.vb.toNat < 2048 / vwidth w) then none else some (issueTrap 0x02)

/-- The element at index s[b]; a signed integer type's is sign-extended. -/
def vextF (a : BitVec 5) : VFun := fun w x _ =>
  let ww := vwidth w
  let e := (x.getV a.toNat).toNat >>> (w.vb.toNat * ww) % pow2 ww
  let sg := match vfmt w with
    | .int true _ => decide (vtypeCode w ≤ 6)
    | _ => false
  { d := x, res := if sg && decide (e ≥ 2 ^ (ww - 1)) then BitVec.ofInt 64 ((e : Int) - 2 ^ ww) else word e }
def specVext (h : Hdr) (d a b : BitVec 5) : WordSpec :=
  { vword h [.v a.toNat] [] [.i, .f, .n] (vRun (vextF a)) with
    b := some b, dst := some d, check := fun _ _ w _ => idxCheck w }

def vinsF (d : BitVec 5) : VFun := fun w x _ =>
  let ww := vwidth w
  { d := x.setV d.toNat (vofElems ww ((velems ww (x.getV d.toNat)).set w.vb.toNat (w.va.toNat % pow2 ww))) }
def specVins (h : Hdr) (d a b : BitVec 5) : WordSpec :=
  { vword h [.v d.toNat] [.v d.toNat] [.i, .f, .n] (vRun (vinsF d)) with
    a := some a, b := some b, check := fun _ _ w _ => idxCheck w }

/-- The number of set bits of a mask below each position. -/
def viotaF (d : BitVec 5) (k : BitVec 3) : VFun := fun w x _ =>
  let ww := vwidth w
  { d := x.setV d.toNat (vofElems ww ((List.range (2048 / ww)).map (fun i => popcount i (x.getK k.toNat).toNat))) }
def specViota (h : Hdr) (d : BitVec 5) (k : BitVec 3) : WordSpec :=
  vword h [.k k.toNat] [.v d.toNat] [.i] (vRun (viotaF d k))

/-! ### Conversion and packing (R162, R163) -/

/-- Do a word's stype and type agree with its classes? -/
def cvtCheck (w : QWord) (sCls tCls : List Cls) : Bool :=
  typeCheck w (vstypeCode w) sCls && typeCheck w (vtypeCode w) tCls

/-- Convert elements in ascending order with `rnd`, one draw for each active one in stochastic mode (04 R99): the codes, the events, the
inactive elements' events, the generator. An inactive element keeps its code and draws nothing; its events are those of draw 0: DESIGN
CHOICE, log entry 27. -/
def roundSome {α : Type} (rnd : Nat → α → Nat × Flags) (draws : Bool) :
    List (Nat × Bool × α) → BitVec 16 → List Nat × Flags × Flags × BitVec 16
  | [], g => ([], 0, 0, g)
  | (old, act, x) :: r, g =>
    let g' := if draws && act then srDraw g else g
    let q := rnd (if act then g'.toNat else 0) x
    let t := roundSome rnd draws r g'
    if act then (q.1 :: t.1, q.2 ||| t.2.1, t.2.2) else (old :: t.1, t.2.1, q.2 ||| t.2.2.1, t.2.2.2)

/-- Conversion of part `i` (R162). -/
def vcvtF (d a i : BitVec 5) (k : BitVec 3) : VFun := fun w x gen =>
  let ws := typeWidth w (vstypeCode w)
  let wd := vwidth w
  let fs := (typeFmt w (vstypeCode w)).getD Fmt.int8
  let m := 2048 / Nat.max ws wd
  let g := maskG m
  let src := velems ws (x.getV a.toNat)
  let old := velems wd (x.getV d.toNat)
  let p := i.toNat
  let part := if wd ≥ ws then (src.drop (p * m)).take m else src.take m
  let base := if wd ≥ ws then 0 else p * m
  let todo := ((part.zip ((old.drop base).take m)).zip (List.range m)).map (fun (q : (Nat × Nat) × Nat) =>
    (q.1.2, active (x.getK k.toNat) g q.2, fs.decode q.1.1))
  let r := roundSome ((vfmt w).round w.round.toNat) (w.round = 4) todo gen
  { d := x.setV d.toNat (vofElems wd (old.take base ++ r.1 ++ old.drop (base + m))), fl := r.2.1, ex := r.2.2.1, g := some r.2.2.2 }

def specVcvt (h : Hdr) (d a i : BitVec 5) (k : BitVec 3) : WordSpec :=
  { vword h [.v a.toNat, .v d.toNat, .k k.toNat] [.v d.toNat] [.i, .f, .n] (vRun (vcvtF d a i k)) with
    uses := [0x005, 0x006, 0x007, 0x008, 0x00A, 0x00B, 0x00C, 0x00D]
    check := fun _ _ w _ =>
      let ws := typeWidth w (vstypeCode w)
      let wd := vwidth w
      if cvtCheck w [.i, .f, .n] [.i, .f, .n] && decide (i.toNat < Nat.max ws wd / Nat.min ws wd) then none
      else some (issueTrap 0x02) }

/-- Move between natural order and the pre-shuffled layout of 04 R95 within each 32-byte group. -/
def packF (d a i : BitVec 5) (inv : Bool) : VFun := fun _ x _ =>
  let w := if i = 0 then 2 else if i = 1 then 4 else 8
  let v := (x.getV a.toNat).toNat
  let y := (List.range (2048 / w)).foldl (fun y n =>
    if inv then y + (v >>> elemPos w n % pow2 w) <<< (n * w) else y + (v >>> (n * w) % pow2 w) <<< elemPos w n) 0
  { d := x.setV d.toNat (BitVec.ofNat 2048 y) }
def packWord (h : Hdr) (d a i : BitVec 5) (inv : Bool) : WordSpec :=
  { engine := .v, hdr := h, strands := [1], rd := [.v a.toNat], wr := [.v d.toNat], body := vRun (packF d a i inv) }
def specVpack (h : Hdr) (d a i : BitVec 5) : WordSpec := packWord h d a i false
def specVunpack (h : Hdr) (d a i : BitVec 5) : WordSpec := packWord h d a i true

/-! ### Permutations (R164) -/

/-- Where an element of a permutation comes from: the word, N, the elements of vA and of the old vD, the registers, the index. -/
abbrev Pick := QWord → Nat → List Nat → List Nat → CoreData → Nat → Nat

/-- Write the active elements of a permutation of the old registers. -/
def permF (d a : BitVec 5) (k : BitVec 3) (pick : Pick) : VFun := fun w x _ =>
  let ww := vwidth w
  let n := 2048 / ww
  let as := velems ww (x.getV a.toNat)
  let old := velems ww (x.getV d.toNat)
  let rs := (old.zip (List.range n)).map (fun (p : Nat × Nat) =>
    if active (x.getK k.toNat) (maskG n) p.2 then pick w n as old x p.2 else p.1)
  { d := x.setV d.toNat (vofElems ww rs) }

def permWord (h : Hdr) (d a : BitVec 5) (rd : List Reg) (k : BitVec 3) (pick : Pick) : WordSpec :=
  vword h (.v a.toNat :: .v d.toNat :: .k k.toNat :: rd) [.v d.toNat] [.i, .f, .n] (vRun (permF d a k pick))

def permPick (b : BitVec 5) : Pick := fun w _ as _ x i =>
  as.getD ((x.getV b.toNat).toNat >>> (i * vwidth w) % pow2 (vwidth w)) 0
def slidePick : Pick := fun w n as _ _ i =>
  let j := (i : Int) + w.vb.toInt
  if 0 ≤ j ∧ j < n then as.getD j.toNat 0 else 0
def shufPick (i : BitVec 5) : Pick := fun _ n as old _ e =>
  let hh := n / 2
  match i.toNat with
  | 0 => if e % 2 = 0 then as.getD (e / 2) 0 else old.getD (e / 2) 0
  | 1 => if e % 2 = 0 then as.getD (hh + e / 2) 0 else old.getD (hh + e / 2) 0
  | 2 => if e < hh then as.getD (2 * e) 0 else old.getD (2 * (e - hh)) 0
  | 3 => if e < hh then as.getD (2 * e + 1) 0 else old.getD (2 * (e - hh) + 1) 0
  | _ => as.getD (n - 1 - e) 0

def specVperm (h : Hdr) (d a b : BitVec 5) (k : BitVec 3) : WordSpec := permWord h d a [.v b.toNat] k (permPick b)
def specVslide (h : Hdr) (d a b : BitVec 5) (k : BitVec 3) : WordSpec := { permWord h d a [] k slidePick with b := some b }
def specVshuf (h : Hdr) (d a i : BitVec 5) (k : BitVec 3) : WordSpec := permWord h d a [] k (shufPick i)

/-! ### Reductions and scans (R165, R166) -/

/-- One level of the pairwise tree. -/
def pairUp (op : Nat → Nat → Nat × Flags) : List Nat → List Nat × Flags
  | a :: b :: r => let q := op a b; let t := pairUp op r; (q.1 :: t.1, q.2 ||| t.2)
  | l => (l, 0)

/-- The whole tree, `n` levels. -/
def treeReduce (op : Nat → Nat → Nat × Flags) : Nat → List Nat → List Nat × Flags
  | 0, l => (l, 0)
  | n + 1, l => let q := pairUp op l; let t := treeReduce op n q.1; (t.1, q.2 ||| t.2)

/-- A reduction: op and identity in F, and the integer result of the active values. -/
structure RedOp where
  op : Fmt → Nat → Nat → Nat × Flags
  ident : Fmt → Nat
  fI : Fmt → Bool → List Int → Nat × Flags

def vredF (d a : BitVec 5) (k : BitVec 3) (q : RedOp) : VFun := fun w x _ =>
  let f := vfmt w
  let ww := vwidth w
  let n := 2048 / ww
  let es := (velems ww (x.getV a.toNat)).zip (List.range n)
  let m := x.getK k.toNat
  let r : Nat × Flags :=
    if f.floating then
      let t := treeReduce (q.op f) 8 (es.map (fun e => if active m 1 e.2 then e.1 else q.ident f))
      (t.1.headD 0, t.2)
    else q.fI f (visat w) ((es.filter (fun e => active m 1 e.2)).map (fun e => valInt (f.decode e.1)))
  { d := x.setV d.toNat (BitVec.ofNat 2048 r.1), fl := r.2 }

def vred (h : Hdr) (d a : BitVec 5) (k : BitVec 3) (q : RedOp) : WordSpec :=
  vword h [.v a.toNat, .k k.toNat] [.v d.toNat] [.i, .f] (vRun (vredF d a k q))

/-- The bounds of an integer type. -/
def intMax (f : Fmt) : Int := f.maxMag false
def intMin (f : Fmt) : Int := if f.signed then -(f.maxMag true : Int) else 0

def redSum : RedOp :=
  { op := fun f x y => fltReduce f (Val.add (f.decode x) (f.decode y)), ident := fun f => f.put true 0
    fI := fun f i l => intReduce f i (l.foldl (· + ·) 0) }
def redMin : RedOp :=
  { op := fun f x y => fltReduce f (vminVal (f.decode x) (f.decode y), false), ident := fun f => f.infCode false
    fI := fun f i l => intReduce f i (l.foldl min (intMax f)) }
def redMax : RedOp :=
  { op := fun f x y => fltReduce f (vmaxVal (f.decode x) (f.decode y), false), ident := fun f => f.infCode true
    fI := fun f i l => intReduce f i (l.foldl max (intMin f)) }

def specVredSum (h : Hdr) (d a : BitVec 5) (k : BitVec 3) : WordSpec := vred h d a k redSum
def specVredMin (h : Hdr) (d a : BitVec 5) (k : BitVec 3) : WordSpec := vred h d a k redMin
def specVredMax (h : Hdr) (d a : BitVec 5) (k : BitVec 3) : WordSpec := vred h d a k redMax

/-- The running sum (R166): (new element, flags) for each element. -/
def scanGo (f : Fmt) (isat : Bool) : Nat → List (Nat × Nat × Bool) → List Nat × Flags
  | _, [] => ([], 0)
  | sum, (a, old, act) :: r =>
    if act then
      let q := arith (fun x y _ => Val.add x y) (fun x y _ => x + y) f isat sum a 0
      let t := scanGo f isat q.1 r
      (q.1 :: t.1, q.2 ||| t.2)
    else
      let t := scanGo f isat sum r
      (old :: t.1, t.2)

def vscanF (d a : BitVec 5) (k : BitVec 3) : VFun := fun w x _ =>
  let f := vfmt w
  let ww := vwidth w
  let m := x.getK k.toNat
  let l := ((velems ww (x.getV a.toNat)).zip (velems ww (x.getV d.toNat))).zip (List.range (2048 / ww))
  let r := scanGo f (visat w) (if f.floating then f.put true 0 else 0) (l.map (fun e => (e.1.1, e.1.2, active m 1 e.2)))
  { d := x.setV d.toNat (vofElems ww r.1), fl := r.2 }
def specVscan (h : Hdr) (d a : BitVec 5) (k : BitVec 3) : WordSpec :=
  vword h [.v a.toNat, .v d.toNat, .k k.toNat] [.v d.toNat] [.i, .f] (vRun (vscanF d a k))

/-! ### Compression, pruning, scaling, dot products (R167-R170) -/
def vcompressF (d a : BitVec 5) (k : BitVec 3) : VFun := fun w x _ =>
  let ww := vwidth w
  let n := 2048 / ww
  let es := ((velems ww (x.getV a.toNat)).zip (List.range n)).filter (fun e => active (x.getK k.toNat) (maskG n) e.2)
  { d := x.setV d.toNat (vofElems ww (es.map (·.1))) }
def specVcompress (h : Hdr) (d a : BitVec 5) (k : BitVec 3) : WordSpec :=
  vword h [.v a.toNat, .k k.toNat] [.v d.toNat] [.i, .f, .n] (vRun (vcompressF d a k))

/-- Spread values over the active positions. -/
def expandGo : List (Nat × Bool) → List Nat → List Nat
  | [], _ => []
  | (old, act) :: r, vs => if act then vs.headD 0 :: expandGo r vs.tail else old :: expandGo r vs

def vexpandF (d a : BitVec 5) (k : BitVec 3) : VFun := fun w x _ =>
  let ww := vwidth w
  let n := 2048 / ww
  let l := ((velems ww (x.getV d.toNat)).zip (List.range n)).map (fun e => (e.1, active (x.getK k.toNat) (maskG n) e.2))
  { d := x.setV d.toNat (vofElems ww (expandGo l (velems ww (x.getV a.toNat)))) }
def specVexpand (h : Hdr) (d a : BitVec 5) (k : BitVec 3) : WordSpec :=
  vword h [.v a.toNat, .v d.toNat, .k k.toNat] [.v d.toNat] [.i, .f, .n] (vRun (vexpandF d a k))

/-- Does a magnitude rank strictly above another (R168)? NaN is above every other. -/
def ranksAbove (x y : Val) : Bool :=
  if x.isNan then !y.isNan else if y.isNan then false else decide (Val.cmp (absVal x) (absVal y) > 0)

/-- The kept elements of a group: (value, active) in order. -/
def pruneGroup (keep : Nat) (l : List (Val × Bool)) : List Bool :=
  (l.zip (List.range l.length)).map (fun e =>
    e.1.2 && decide (((l.zip (List.range l.length)).filter (fun o =>
      o.1.2 && (ranksAbove o.1.1 e.1.1 || (!ranksAbove e.1.1 o.1.1 && decide (o.2 < e.2))))).length < keep))

def vpruneF (d a i : BitVec 5) (k : BitVec 3) : VFun := fun w x _ =>
  let f := vfmt w
  let ww := vwidth w
  let m := x.getK k.toNat
  let l := ((velems ww (x.getV a.toNat)).zip (List.range (2048 / ww))).map (fun e => (f.decode e.1, active m 1 e.2))
  { d := x.setK d.toNat (maskOf ((chunks (pow2 (i.toNat / 8 + 1)) 256 l).flatMap (pruneGroup (i.toNat % 8)))) }
def specVprune (h : Hdr) (d a i : BitVec 5) (k : BitVec 3) : WordSpec :=
  vword h [.v a.toNat, .k k.toNat] [.k d.toNat] [.i, .f] (vRun (vpruneF d a i k))

/-- One VQUANT element (R169): σ × a under the mode, saturating; a NaN gives the target's NaN code, or 0 with nv. -/
def quantRound (f : Fmt) (mode u : Nat) (x : Val × Bool) : Nat × Flags :=
  let q := f.round mode u x.1
  let nv : Flags := if x.2 then Flags.nv else 0
  match x.1 with
  | .nan => (q.1, q.2 ||| nv)
  | .inf n => (f.put n (f.maxMag n) * (if n && !f.signed then 0 else 1), Flags.sat ||| nv)
  | .fin n _ _ =>
    if q.2 &&& Flags.ovf ≠ 0 then (f.put n (f.maxMag n), (q.2 &&& ~~~Flags.ovf) ||| Flags.sat ||| nv) else (q.1, q.2 ||| nv)

/-- VQUANT (R169). The mask's bit i governs source element i whatever the target's container: DESIGN CHOICE, log entry 59. -/
def vquantF (d a : BitVec 5) (k : BitVec 3) : VFun := fun w x g =>
  let ws := typeWidth w (vstypeCode w)
  let wd := vwidth w
  let fs := (typeFmt w (vstypeCode w)).getD Fmt.fp32
  let ns := 2048 / ws
  let sigma := Fmt.fp32.decode (wbits w.vb 31 0)
  let l := ((velems ws (x.getV a.toNat)).zip (velems wd (x.getV d.toNat))).zip (List.range ns)
  let r := roundSome (quantRound (vfmt w) w.round.toNat) (w.round = 4) (l.map (fun e =>
    (e.1.2, active (x.getK k.toNat) (maskG ns) e.2, Val.mul (fs.decode e.1.1) sigma))) g
  { d := x.setV d.toNat (vofElems wd r.1), fl := r.2.1, ex := r.2.2.1, g := some r.2.2.2 }

def specVquant (h : Hdr) (d a b : BitVec 5) (k : BitVec 3) : WordSpec :=
  { vword h [.v a.toNat, .v d.toNat, .k k.toNat] [.v d.toNat] [.i, .n] (vRun (vquantF d a k)) with
    b := some b
    uses := [0x005, 0x006, 0x007, 0x008, 0x00A, 0x00B, 0x00C, 0x00D]
    check := fun _ _ w _ =>
      if cvtCheck w [.f] [.i, .n] && decide (vwidth w ≤ typeWidth w (vstypeCode w)) then none else some (issueTrap 0x02) }

def specVscale (h : Hdr) (d a b : BitVec 5) (k : BitVec 3) : WordSpec :=
  v3 h d a b k [.f] (fun f _ x y _ =>
    fltReduce f ((f.decode x).scale (valInt ((Fmt.int true f.width).decode y)), false))

/-- VDOT (R170): p inputs feed each wider output element. Where a sum holds a NaN and infinities of both signs, nv is set if the
infinities meet before the NaN: DESIGN CHOICE, log entry 59. -/
def vdotF (d a b : BitVec 5) (k : BitVec 3) : VFun := fun w x _ =>
  let f := vfmt w
  let ww := vwidth w
  let p := if f.floating then 2 else 4
  let wo := ww * (if f.floating then 2 else 4)
  let fo := if f.floating then Fmt.fp32 else Fmt.int true wo
  let ps := List.zipWith (fun y z => Val.mul (f.decode y) (f.decode z)) (velems ww (x.getV a.toNat)) (velems ww (x.getV b.toNat))
  let l := ((velems wo (x.getV d.toNat)).zip (chunks p 2048 ps)).zip (List.range (2048 / wo))
  let rs := l.map (fun (e : (Nat × List (Val × Bool)) × Nat) =>
    let t := Val.sum (fo.decode e.1.1 :: e.1.2.map (·.1))
    merge (active (x.getK k.toNat) 1 e.2) e.1.1
      (if f.floating then fltReduce fo (t.1, t.2 || e.1.2.any (·.2)) else intReduce fo (visat w) (valInt t.1)))
  { d := x.setV d.toNat (vofElems wo (rs.map (·.1))), fl := allFlags rs, ex := idleFlags rs }

def specVdot (h : Hdr) (d a b : BitVec 5) (k : BitVec 3) : WordSpec :=
  { vword h [.v a.toNat, .v b.toNat, .v d.toNat, .k k.toNat] [.v d.toNat] [.i, .f] (vRun (vdotF d a b k)) with
    check := fun _ _ w _ => if [0, 1, 2, 3, 7, 8].contains (vtypeCode w) then none else some (issueTrap 0x02) }

/-! ### The deferral queue (R171-R175) -/

/-- The base and the records per path that a word read at issue (03 R82): `dqRead` is how they stand in its `res`. -/
def dqRead (c _ : Nat) (s : State) : Word := word ((s.core c).csr.dqBase.toNat * 4096 + (s.core c).csr.dqCap.toNat)
def dqArea (w : QWord) : Nat × Nat := (w.res.toNat / 4096 * 64, w.res.toNat % 4096)
def dqAreaBad (w : QWord) : Option (BitVec 8) :=
  let a := dqArea w
  if a.2 = 0 then some 0x02 else if a.1 + 64 + 4 * a.2 * 64 > 0x80000 then some 0x05 else none

/-- Path `p`'s descriptor and record `r`. -/
def dqDescAt (w : QWord) (p : Nat) : Nat := (dqArea w).1 + 16 * p
def dqRecord (w : QWord) (p r : Nat) : Nat := (dqArea w).1 + 64 + (p * (dqArea w).2 + r) * 64

/-- A deferral word (R171, R175): its scratch accesses, C's V queue's, are its path's descriptor and records. -/
def dqWord (h : Hdr) (p : Nat) (rd wr : List Reg) (body : Nat → Nat → QWord → State → Run) : WordSpec :=
  { vword h rd wr [.i, .f, .n] body with
    scr := fun _ w _ => [(dqDescAt w p, 8), (dqRecord w p 0, (dqArea w).2 * 64)]
    uses := [0x005, 0x006, 0x007, 0x008, 0x017, 0x018], pre := dqRead
    check := fun _ _ w _ =>
      if !typeCheck w (vtypeCode w) [.i, .f, .n] then some (issueTrap 0x02)
      else match dqAreaBad w with
        | some e => some (issueTrap e)
        | none => none }

/-- head and count of a path. -/
def dqDesc (x : CoreData) (a : Nat) : Nat × Nat := (leNat (x.scrRead a 4), leNat (x.scrRead (a + 4) 4))

/-- VDEFER (R172, R173). An overflow's extra words hold p, and count and |A| in the halves of the second: DESIGN CHOICE, log entry 59. -/
def specVdefer (hh : Hdr) (a : BitVec 5) (n p : BitVec 2) (k : BitVec 3) : WordSpec :=
  dqWord hh p.toNat (.k k.toNat :: vgroup a.toNat (n.toNat + 1)) [] (fun c _ w s =>
    let x := (s.core c).d
    let da := dqDescAt w p.toNat
    withPages c da 8 w s (fun s =>
      if x.scrPoisoned da 8 then .trap { runTrap 0x08 with addr := word da } w s
      else
        let hc := dqDesc x da
        let cap := (dqArea w).2
        let ww := vwidth w
        let nn := 2048 / ww
        let act := (List.range nn).filter (fun i => active (x.getK k.toNat) (maskG nn) i)
        if hc.2 + act.length > cap then
          .trap { runTrap 0x0C with x0 := word p.toNat, x1 := word (hc.2 * 2 ^ 32 + act.length) } w s
        else if act.isEmpty then .done s 0 false
        else
          let recs := (List.range act.length).map (fun q => dqRecord w p.toNat ((hc.1 + hc.2 + q) % cap))
          withRanges c (recs.map (fun r => (r, 64))) w s (fun s =>
            let d := (act.zip recs).foldl (fun (d : CoreData) e =>
              let vals := (List.range 4).flatMap (fun j =>
                leBytes 8 (if j ≤ n.toNat then (x.getV (a.toNat + j)).toNat >>> (e.1 * ww) % pow2 ww else 0))
              d.scrWrite e.2 (leBytes 2 e.1 ++ leBytes 1 (n.toNat + 1) ++ leBytes 5 0 ++ vals ++ leBytes 24 0)) x
            .done (s.modData c (fun _ => d.scrWrite da (leBytes 4 hc.1 ++ leBytes 4 (hc.2 + act.length)))) 0 false)))

/-- VDRAIN's registers in ascending order, from the records of a batch; a poisoned record leaves the registers before it written
(02 R50). -/
def drainRegs (x : CoreData) (recs : List Nat) (n ww : Nat) : Nat → Nat → CoreData → CoreData × Bool
  | 0, _, d => (d, true)
  | f + 1, j, d =>
    if recs.any (fun a => x.scrPoisoned a 64) then (d, false)
    else
      let es := recs.map (fun a =>
        if j = n then leNat (x.scrRead a 2)
        else if j ≥ leNat (x.scrRead (a + 2) 1) then 0 else leNat (x.scrRead (a + 8 + 8 * j) 8))
      drainRegs x recs n ww f (j + 1) (d.setV j (vofElems ww es))

/-- Move registers 0 .. n of a scratch set of registers to vD .. vD + n. -/
def placeRegs (src : CoreData) (v n : Nat) (d : CoreData) : CoreData :=
  (List.range (n + 1)).foldl (fun d j => if (src.v.any (fun e => e.1 = j)) then d.setV (v + j) (src.getV j) else d) d

/-- VDRAIN (R174). -/
def specVdrain (hh : Hdr) (v : BitVec 5) (n p : BitVec 2) (k : BitVec 3) : WordSpec :=
  dqWord hh p.toNat [] (.k k.toNat :: vgroup v.toNat (n.toNat + 2)) (fun c _ w s =>
    let x := (s.core c).d
    let da := dqDescAt w p.toNat
    withPages c da 8 w s (fun s =>
      if x.scrPoisoned da 8 then .trap { runTrap 0x08 with addr := word da } w s
      else
        let hc := dqDesc x da
        let cap := (dqArea w).2
        let ww := vwidth w
        let nn := 2048 / ww
        let cc := Nat.min hc.2 nn
        let recs := (List.range cc).map (fun r => dqRecord w p.toNat ((hc.1 + r) % cap))
        withRanges c (recs.map (fun r => (r, 64))) w s (fun s =>
          let r := drainRegs x recs (n.toNat + 1) ww (n.toNat + 2) 0 {}
          let s := s.modData c (placeRegs r.1 v.toNat (n.toNat + 1))
          if !r.2 then .trap (runTrap 0x08) w s
          else
            let g := maskG nn
            .done (s.modData c (fun d =>
              (d.setK k.toNat (maskOf ((List.range (nn / g)).map (fun j => decide (j * g < cc))))).scrWrite da
                (leBytes 4 ((hc.1 + cc) % cap) ++ leBytes 4 (hc.2 - cc)))) 0 false)))

/-! ### VTYPE (R155) and the mask words (R176) -/
def specVtype (h : Hdr) (d a : BitVec 5) (i : BitVec 1) : WordSpec :=
  { engine := .v, hdr := h, strands := [1], uses := [0x005]
    take := fun c k _ s => s.modStrand c k (fun t => { t with vtype := BitVec.ofNat 9 (i.toNat * 256 + a.toNat * 16 + d.toNat) })
    body := fun _ _ _ s => .done s 0 false }

/-- A mask word of two sources. -/
def kwordF (d a b : BitVec 5) (f : BitVec 256 → BitVec 256 → BitVec 256) : VFun := fun _ x _ =>
  { d := x.setK d.toNat (f (x.getK a.toNat) (x.getK b.toNat)) }
def kword (h : Hdr) (d a b : BitVec 5) (f : BitVec 256 → BitVec 256 → BitVec 256) : WordSpec :=
  { engine := .v, hdr := h, strands := [1], rd := [.k a.toNat, .k b.toNat], wr := [.k d.toNat], body := vRun (kwordF d a b f) }
def specKand (h : Hdr) (d a b : BitVec 5) : WordSpec := kword h d a b (· &&& ·)
def specKor (h : Hdr) (d a b : BitVec 5) : WordSpec := kword h d a b (· ||| ·)
def specKxor (h : Hdr) (d a b : BitVec 5) : WordSpec := kword h d a b (· ^^^ ·)
def specKnot (h : Hdr) (d a : BitVec 5) : WordSpec := kword h d a a (fun x _ => ~~~x)
def specKmov (h : Hdr) (d a : BitVec 5) : WordSpec := kword h d a a (fun x _ => x)

/-- A mask word with a scalar result. -/
def kscalarF (a : BitVec 5) (f : Nat → Nat) : VFun := fun _ x _ => { d := x, res := word (f (x.getK a.toNat).toNat) }
def kscalar (h : Hdr) (d a : BitVec 5) (f : Nat → Nat) : WordSpec :=
  { engine := .v, hdr := h, strands := [1], dst := some d, rd := [.k a.toNat], body := vRun (kscalarF a f) }
def specKpopc (h : Hdr) (d a : BitVec 5) : WordSpec := kscalar h d a (popcount 256)
def specKfirst (h : Hdr) (d a : BitVec 5) : WordSpec := kscalar h d a (lowest 256)

end Sys2Proof.Machine
end

