-- ==== Sys2Proof/WellFormed.lean ====
section
/-! DEFINITION. Well-formed instructions: the operand checks that need the word alone. A word that fails one traps 0x02 at
issue (02 R40, R46 row 6, and the word's own rule); an event that fails one names a part that the device does not have. -/

namespace Sys2Proof

/-- The strand number of a core (01 R13). -/
def strandOk (k : Nat) : Bool := k < 4

/-- A core.id of the package: die, cluster and core fields (03 R85). -/
def coreOk (c : Nat) : Bool := c / 256 < 8 && c / 16 % 16 < 12

/-- A die of the package (00 R4). -/
def dieOk (d : Nat) : Bool := d < 8

/-- A scalar field that may not name a queue port (01 R19). -/
def notPort (d : BitVec 5) : Bool := d.toNat < 28

/-- A group of `n` registers from `r` lies in a file of 32 (02 R50). -/
def group32 (r : BitVec 5) (n : Nat) : Bool := r.toNat + n ≤ 32

/-- The register count of the code n of VST.BM, VLD.BM and FOPEN (08 R189, R200). -/
def bmCount (n : BitVec 2) : Nat := 2 ^ n.toNat

/-- The operand checks of R40, R50 and the words' own rules that the word alone decides. -/
def Instr.wf : Instr → Bool
  | .slli _ _ _ i | .srli _ _ _ i | .srai _ _ _ i => i.toNat ≤ 63                                    -- 03 R62
  | .lsh _ d _ => notPort d                                                                          -- 03 R63
  | .cmovz _ d _ _ | .cmovnz _ d _ _ => notPort d                                                    -- 03 R69
  | .ifq _ n | .elseq _ n => n ≠ 0                                                                   -- 03 R73
  | .loopp _ s l => 1 ≤ s.toNat && s.toNat ≤ 8 && l ≠ 0                                              -- 03 R76
  | .tkpush _ _ b | .tkpop _ _ b => 1 ≤ b.toNat && b.toNat ≤ 3                                       -- 05 R112
  | .tkcnt _ _ b => 1 ≤ b.toNat && b.toNat ≤ 3
  | .vcmpEq _ d _ _ _ | .vcmpNe _ d _ _ _ | .vcmpLt _ d _ _ _ | .vcmpLe _ d _ _ _ | .vcmpUn _ d _ _ _ => d.toNat < 8
  | .vcqAny _ a _ | .vcqAll _ a _ => a.toNat < 8                                                     -- 07 R154
  | .vpack _ _ _ i | .vunpack _ _ _ i => i.toNat ≤ 2                                                 -- 07 R163
  | .vshuf _ _ _ i _ => i.toNat ≤ 4                                                                  -- 07 R164
  | .vprune _ d _ i _ => d.toNat < 8 && i.toNat / 8 < 3 && i.toNat % 8 ≠ 0 && i.toNat % 8 < 2 ^ (i.toNat / 8 + 1)  -- R168
  | .vdefer _ a n _ _ => group32 a (n.toNat + 1)                                                     -- 07 R173
  | .vdrain _ d n _ _ => group32 d (n.toNat + 2)                                                     -- 07 R174
  | .vtype _ d a _ => d.toNat ≤ 12 && a.toNat ≤ 12                                                   -- 07 R155
  | .kand _ d a b | .kor _ d a b | .kxor _ d a b => d.toNat < 8 && a.toNat < 8 && b.toNat < 8        -- 07 R154
  | .knot _ d a | .kmov _ d a => d.toNat < 8 && a.toNat < 8
  | .kpopc _ _ a | .kfirst _ _ a => a.toNat < 8
  | .mma _ _ a b _ m _ x y r =>                                                                      -- 06 R132
      m ≠ 3 && r ≠ 3 && !(x = 1 && a.toNat ≥ 4) && !(y = 1 && b.toNat ≥ 4)
  | .mrun _ _ a b _ m _ n r => m ≠ 3 && r ≠ 3 && a.toNat + n.toNat ≤ 7 && b.toNat + n.toNat ≤ 7      -- 06 R133
  | .mdrain _ _ y _ _ => y.toNat ≤ 2                                                                 -- 06 R136
  | .mdrainV _ _ y v _ | .mloada _ _ y v =>                                                          -- 06 R135, R136, R137
      y.toNat ≤ 4 && (y.toNat = 0 || group32 v (if y.toNat ≥ 3 then 16 else 8))
  | .mscale _ _ v => v ≠ 31                                                                          -- 06 R139
  | .mcfg _ m a b _ => m ≠ 3 && a ≠ 3 && b ≠ 3                                                       -- 06 R140
  | .mtrans _ s d _ => s ≠ d                                                                         -- 06 R138
  | .mld _ d _ _ _ | .mldT _ d _ _ _ _ | .mst _ d _ _ _ => d.toNat < 8                               -- 08 R185
  | .mldU _ d _ => d.toNat < 8                                                                       -- 08 R187
  | .vldBm _ d _ _ _ n | .vstBm _ d _ _ _ n => group32 d (bmCount n)                                 -- 08 R189
  | .agCfg _ _ j _ => j.toNat ≤ 4                                                                    -- 08 R196
  | .fopen _ d _ n _ k => d.toNat < 4 && (k = 0 || k = 1 && n = 0)                                   -- 08 R200
  | .fadv _ d a _ _ => a.toNat < 4 && group32 d 2                                                    -- 08 R201
  | .fend _ a | .fclose _ a => a.toNat < 4                                                           -- 08 R202
  | .ldg _ _ _ _ _ o => o = 0 || o = 1                                                               -- 10 R227
  | .stg _ _ _ _ _ o => o = 0 || o = 2
  | .fence _ _ o => o ≠ 0                                                                            -- 10 R228
  | .amoCas _ d _ _ _ _ => notPort d                                                                 -- 10 R229
  | .red _ _ _ b _ => b.toNat ≤ 6                                                                    -- 12 R251
  | .rdst _ _ _ c | .wrst _ _ _ c | .ctxSave _ _ _ c | .ctxLoad _ _ _ c => c.toNat ≤ 191             -- 17 R335
  | .hmsetQuiesce _ _ _ m | .hmsetSwitch _ _ _ m | .hmsetResume _ _ _ m => m.toNat < 12              -- 10 R232
  | .rgload _ _ _ g | .rgreadSave _ _ _ g => g.toNat ≤ 47                                            -- 14 R283
  | .rgswapHot _ _ g | .rgswapNow _ _ g | .rgfreezeFreeze _ _ g | .rgfreezeThaw _ _ g | .rgreadStatus _ _ g => g.toNat ≤ 47
  | .rgreadFetch _ _ _ _ g => g.toNat ≤ 47
  | .rgreadRestore _ _ _ g => g.toNat ≤ 47
  | .rgclk _ _ c g => c.toNat ≤ 5 && g.toNat ≤ 47                                                    -- 14 R283
  | .wout _ t _ _ _ | .win _ t _ _ _ => t.toNat < 2                                                  -- 13 R269
  | .weos _ t | .wdrainIn _ t | .wdrainOut _ t => t.toNat < 2
  | .wtest _ t _ n => t.toNat < 2 && n.toNat ≤ 16                                                    -- 13 R271
  | .wstat _ t _ _ _ => t.toNat < 2
  | .engineWordStart c k _ | .wordRetire c k _ | .pauseEnd c k => coreOk c && strandOk k
  | .deadlockDetect c | .correctableError c | .freezeBegin c | .freezeEnd c | .accumulatorWriteback c => coreOk c
  | .permitDecision c | .wbrInvrFinish c | .wutCrossing c => coreOk c
  | .pageRefillComplete c page _ _ => coreOk c && page < 128
  | .transferStart c h s | .transferChunk c h s | .slotFill c h s => coreOk c && h < 4 && s < 16
  | .rehomeResend c _ | .translationWalkDone c _ => coreOk c
  | .fifoCrossing c p => coreOk c && p < 4
  | .flitInject r st | .flitOffer r st => r < 104 && st < 24
  | .sliceAccess d s => dieOk d && s < 48
  | .carveWrite d s _ => dieOk d && s < 48
  | .invalidationRequest d | .invalidationDone d | .loadGo d | .loadComplete d | .operandWordPoll d => dieOk d
  | .nodePlace d | .saveWritebackDone d | .thermalHold d | .dieReset d => dieOk d
  | .stackReset d _ => dieOk d
  | .queueTableWrite d e _ => dieOk d && e < 64
  | .packetAccept d e | .completionRecordWrite d e => dieOk d && e < 64
  | .registerWrite d o _ => dieOk d && o < 0x200000
  | .copyPacketRow d k => dieOk d && k < 4
  | .priorityAging d _ _ | .textRewrite d _ _ | .dispatch d _ _ | .preemptDecision d _ _ | .preemptSignal d _ _ => dieOk d
  | .contextSaved d _ _ | .nodeResume d _ _ | .haltTreeFire d _ _ => dieOk d
  | .syncArrival r s | .barrierRelease r s | .reductionResult r s | .broadcastDelivery r s => r < 9 && s < 64
  | .broadcastCreditReturn r s | .eventDelivery r s | .syncFaultSignal r s | .brokenVerdict r s => r < 9 && s < 64
  | .beatTransfer g l _ => g < 384 && l < 8
  | .withyTransfer g w => g < 384 && w < 32
  | .regionRamError g _ | .swapBoundary g | .planeExchange g | .regionClockEdge g => g < 384
  | .hostWrite p fn _ _ _ => p < 2 && fn < 32
  | .hostRead p fn _ _ => p < 2 && fn < 32
  | .hostAtomicop p fn _ sz _ _ _ => p < 2 && fn < 32 && (sz = 4 || sz = 8)
  | .linkBeatArrival l ch _ _ => l < 32 && ch < 4
  | .treeTokenForward l _ => l < 32
  | .ptpMessage l _ _ => l < 32
  | .linkReset l f => l < 32 && 64 ≤ f.toNat && f.toNat ≤ 1080
  | .governorCapUpdate d c cap => dieOk d && c < 12 && cap.toNat ≤ 16
  | .msixVectorUnmask fn v => fn < 64 && v < 2048
  | .addi .. | .andi .. | .ori .. | .xori .. | .slti .. | .sltiu .. | .ldxD .. | .ldxW .. | .stxD .. | .stxW ..
  | .csrr .. | .csrw .. | .csrx .. | .li .. | .auipc .. | .setlc .. | .beqz .. | .bnez .. | .bcq .. | .bncq ..
  | .blc .. | .jal .. | .add .. | .sub .. | .and .. | .or .. | .xor .. | .sll .. | .srl .. | .sra .. | .slt ..
  | .sltu .. | .min .. | .max .. | .minu .. | .maxu .. | .mul .. | .mulh .. | .mulhu .. | .div .. | .divu .. | .rem ..
  | .remu .. | .clz .. | .ctz .. | .popc .. | .sextB .. | .sextH .. | .sextW .. | .zextW .. | .jalr .. | .setlcS ..
  | .rdlc .. | .stgStage .. | .setrb .. | .addSh1 .. | .addSh2 .. | .addSh3 .. | .addSh4 .. | .taddr .. | .vadd ..
  | .vsub .. | .vmul .. | .vfma .. | .vfms .. | .vmin .. | .vmax .. | .vabs .. | .vneg .. | .vrcp .. | .vrsq ..
  | .vexp2 .. | .vlog2 .. | .vand .. | .vor .. | .vxor .. | .vnot .. | .vshl .. | .vshr .. | .vsra .. | .vshli ..
  | .vshri .. | .vsel .. | .vmov .. | .vbcast .. | .vext .. | .vins .. | .viota .. | .vcvt .. | .vperm .. | .vslide ..
  | .vredSum .. | .vredMin .. | .vredMax .. | .vscan .. | .vcompress .. | .vexpand .. | .vquant .. | .vscale ..
  | .vclamp .. | .vdot .. | .mzero .. | .mlend .. | .mret .. | .mchk .. | .mprobe .. | .mprobeAcc .. | .vld ..
  | .vldS .. | .vst .. | .vstS .. | .cpyIn .. | .cpyOut .. | .cpyLoc .. | .awf .. | .rls .. | .winCfg .. | .lda ..
  | .strl .. | .amoAdd .. | .amoAnd .. | .amoOr .. | .amoXor .. | .amoMin .. | .amoMax .. | .amoMinu .. | .amoMaxu ..
  | .amoSwap .. | .amoFadd .. | .verst .. | .verld .. | .verrcl .. | .barW .. | .barA .. | .barT .. | .bcast ..
  | .brecv .. | .evt .. | .submit .. | .mcast .. | .wbr .. | .invr .. | .wbwait .. | .lat .. | .ldt .. | .lfold ..
  | .lfwait .. | .lgen .. | .trap .. | .tretResume .. | .tretAbort .. | .halt .. | .yield .. | .wfe .. | .wut ..
  | .rdtime .. | .mperm .. | .domsetInstall .. | .domsetRemove .. | .prefG .. | .prefS .. | .prio .. | .pause ..
  | .sliceMissFill .. | .verstStallTimeout .. | .foldTile .. | .foldSwap .. | .devIdWrite .. | .syncInterval ..
  | .thermalShutdown | .patrolScrub .. | .packageReset .. | .reportRequest .. | .reportReady | .hostCompletion ..
  | .hostCompletionTimeout .. | .timeStRead | .ptpParentLoss => true

end Sys2Proof
end

