-- ==== Sys2Proof/Machine/Copy.lean ====
section
/-! DEFINITION. L words (08): scratch loads and stores, tiles, the window unit, bitmask-plus-values blocks, copy commands with their
hoops and generators, and fibres. -/

namespace Sys2Proof.Machine

/-- A synchronous L word of strand L or S (R179, 01 R26). -/
def lword (h : Hdr) (strands : List Nat) : WordSpec :=
  { engine := .l, hdr := h, strands := strands, body := fun _ _ _ s => .done s 0 false }

/-- addr := (s[a] + s[b]) mod 2^64 (R180). -/
def lAddr (w : QWord) : Word := w.va + w.vb

/-- The scratch range of a word that accesses `n` bytes at addr. -/
def lScr (n : Nat) : Nat → QWord → Core → List (Nat × Nat) := fun _ w _ => [((lAddr w).toNat, n)]

/-- Run on a scratch range: absent pages hold the word, a poisoned line traps `bad` where the range is read. -/
def onScratch (c a n : Nat) (bad : Option (BitVec 8)) (w : QWord) (s : State) (go : State → Run) : Run :=
  withPages c a n w s (fun s =>
    match bad with
    | some e => if (s.core c).d.scrPoisoned a n then .trap { runTrap e with addr := word a } w s else go s
    | none => go s)

/-- The bytes of a vector register. -/
def vBytes (v : BitVec 2048) : List Byte := leBytes 256 v.toNat
def vOf (b : List Byte) : BitVec 2048 := BitVec.ofNat 2048 (leNat b)

/-! ### Vector loads and stores (R183, R184) -/
def specVld (h : Hdr) (d a b : BitVec 5) (_c z : BitVec 2) : WordSpec :=
  let n := 256 >>> z.toNat
  { lword h [0] with
    a := some a, b := some b, wr := [.v d.toNat], scr := lScr n
    check := fun _ _ w _ => scrCheck 1 (lAddr w) n 32
    body := fun c _ w s => onScratch c (lAddr w).toNat n (some 0x08) w s (fun s =>
      .done (s.modData c (fun x => x.setV d.toNat (vOf (x.scrRead (lAddr w).toNat n)))) 0 false) }

def specVst (h : Hdr) (d a b : BitVec 5) (_c z : BitVec 2) : WordSpec :=
  let n := 256 >>> z.toNat
  { lword h [2] with
    a := some a, b := some b, rd := [.v d.toNat], scr := lScr n
    check := fun _ _ w _ => scrCheck 1 (lAddr w) n 32
    body := fun c _ w s => onScratch c (lAddr w).toNat n none w s (fun s =>
      .done (s.modData c (fun x => x.scrWrite (lAddr w).toNat ((vBytes (x.getV d.toNat)).take n))) 0 false) }

/-- Chunk j of a strided access (R184). -/
def chunkAddr (w : QWord) (j : Nat) : Word := w.va + word j * w.vb

/-- The scratch ranges of a strided access. -/
def chunkScr (cb n : Nat) (w : QWord) : List (Nat × Nat) := (List.range n).map (fun j => ((chunkAddr w j).toNat, cb))

/-- All chunk checks, before any access. -/
def chunkChecks (w : QWord) (cb : Nat) : Nat → Option Trap
  | 0 => none
  | n + 1 => match chunkChecks w cb n with
    | some t => some t
    | none => scrCheck 1 (chunkAddr w n) cb cb

/-- The absent pages of all chunks hold the word. -/
def onChunks (c cb n : Nat) (bad : Option (BitVec 8)) (w : QWord) (s : State) (go : State → Run) : Run :=
  let x := (s.core c).d
  let ps := ((List.range n).flatMap (fun j => x.absent (chunkAddr w j).toNat cb)).eraseDups
  if !ps.isEmpty then .wait { w with paging := true, wants := ps } (s.modData c (·.refill ps))
  else match bad, (List.range n).find? (fun j => x.scrPoisoned (chunkAddr w j).toNat cb) with
    | some e, some j => .trap { runTrap e with addr := chunkAddr w j } w s
    | _, _ => go s

def specVldS (h : Hdr) (d a b : BitVec 5) (_c ch : BitVec 2) : WordSpec :=
  let cb := 32 >>> ch.toNat
  let n := 256 / cb
  { lword h [0] with
    a := some a, b := some b, wr := [.v d.toNat], scr := fun _ w _ => chunkScr cb n w
    check := fun _ _ w _ => chunkChecks w cb n
    body := fun c _ w s => onChunks c cb n (some 0x08) w s (fun s =>
      .done (s.modData c (fun x =>
        x.setV d.toNat (vOf ((List.range n).flatMap (fun j => x.scrRead (chunkAddr w j).toNat cb))))) 0 false) }

/-- VST.S. Its chunks count as one write, so a poisoned line that they only together cover loses its mark: DESIGN CHOICE, log entry
22. -/
def specVstS (h : Hdr) (d a b : BitVec 5) (_c ch : BitVec 2) : WordSpec :=
  let cb := 32 >>> ch.toNat
  let n := 256 / cb
  { lword h [2] with
    a := some a, b := some b, rd := [.v d.toNat], scr := fun _ w _ => chunkScr cb n w
    check := fun _ _ w _ => chunkChecks w cb n
    body := fun c _ w s => onChunks c cb n none w s (fun s =>
      .done (s.modData c (fun x => (List.range n).foldl (fun (y : CoreData) j =>
        y.scrWrite (chunkAddr w j).toNat (((vBytes (x.getV d.toNat)).drop (j * cb)).take cb)) (x.scrCover (chunkScr cb n w)))) 0 false) }

/-! ### Tile loads and stores (R185) -/

/-- Put loaded data into a tile (R185, R187): poison clear, the flag by R126, scales unchanged. -/
def loadTile (x : Core) (d : Nat) (data : BitVec 16384) : Tile :=
  let g := matCfg x.csr.accMode
  { x.d.getM d with data := data, poison := 0, nonfinite := !g.cfg || tileNonfinite g data }

def specMld (h : Hdr) (d a b : BitVec 5) (_c : BitVec 2) : WordSpec :=
  { lword h [0] with
    a := some a, b := some b, wr := [.m d.toNat], scr := lScr 2048
    check := fun _ _ w _ => scrCheck 1 (lAddr w) 2048 64
    body := fun c _ w s => onScratch c (lAddr w).toNat 2048 (some 0x08) w s (fun s =>
      let x := s.core c
      let t := loadTile x d.toNat (BitVec.ofNat 16384 (leNat (x.d.scrRead (lAddr w).toNat 2048)))
      .done (s.modData c (·.setM d.toNat t)) 0 false) }

def specMldT (h : Hdr) (d a b : BitVec 5) (_c wc : BitVec 2) : WordSpec :=
  let ww := 16 >>> wc.toNat
  let kk := 512 / ww
  { lword h [0] with
    a := some a, b := some b, wr := [.m d.toNat], scr := lScr 2048
    check := fun _ _ w _ => scrCheck 1 (lAddr w) 2048 64
    body := fun c _ w s => onScratch c (lAddr w).toNat 2048 (some 0x08) w s (fun s =>
      let x := s.core c
      let im := leNat (x.d.scrRead (lAddr w).toNat 2048)
      let data := tileOf ww ((List.range (32 * kk)).map (fun n => tileElem im ww (n % kk * 32 + n / kk)))
      .done (s.modData c (·.setM d.toNat (loadTile x d.toNat data))) 0 false) }

/-- MST. A 0x0A's extra words name the tile and its first poisoned line, in this order: DESIGN CHOICE, log entry 60. -/
def specMst (h : Hdr) (d a b : BitVec 5) (_c : BitVec 2) : WordSpec :=
  { lword h [2] with
    a := some a, b := some b, rd := [.m d.toNat], scr := lScr 2048
    check := fun _ _ w _ => scrCheck 1 (lAddr w) 2048 64
    body := fun c _ w s => onScratch c (lAddr w).toNat 2048 none w s (fun s =>
      let t := (s.core c).d.getM d.toNat
      if t.poison ≠ 0 then .trap { runTrap 0x0A with x0 := word d.toNat, x1 := word (lowest 32 t.poison.toNat) } w s
      else .done (s.modData c (·.scrWrite (lAddr w).toNat (leBytes 2048 t.data.toNat))) 0 false) }

/-! ### The window unit (R186, R187) -/

/-- The fields of a window configuration. -/
structure WinCfg where
  ch : Nat
  ht : Nat
  wd : Nat
  dil : Nat
  st : Nat
  kw : Nat
  kh : Nat
  pitch : Nat
  base : Nat

def winFields (a b : Word) : WinCfg :=
  { ch := wbits a 43 34, ht := wbits a 33 22 + 1, wd := wbits a 21 10 + 1, dil := wbits a 9 8 + 1, st := wbits a 7 6 + 1
    kw := wbits a 5 3 + 1, kh := wbits a 2 0 + 1, pitch := wbits b 39 20, base := wbits b 19 0 }

/-- floor((n − (k − 1) × dil − 1) / st) + 1; 0 where it is below 1. -/
def winOut (n k dil st : Nat) : Nat := if n < (k - 1) * dil + 1 then 0 else (n - (k - 1) * dil - 1) / st + 1

def WinCfg.ho (g : WinCfg) : Nat := winOut g.ht g.kh g.dil g.st
def WinCfg.wo (g : WinCfg) : Nat := winOut g.wd g.kw g.dil g.st

/-- The limits of R186; C has the limits 1 to 1,023. -/
def winOk (a b : Word) : Bool :=
  let g := winFields a b
  wbits a 63 44 = 0 && wbits b 63 40 = 0 && g.ch ≠ 0 && g.pitch % 32 = 0 && g.base % 32 = 0 && g.base ≤ 0x7FFFF
  && g.ho ≥ 1 && g.wo ≥ 1

def specWinCfg (h : Hdr) (a b : BitVec 5) : WordSpec :=
  { engine := .l, hdr := h, a := some a, b := some b, uses := [0x023]
    check := fun _ _ w _ => if winOk w.va w.vb then none else some (issueTrap 0x02)
    body := fun c _ w s => .done (s.modData c (fun x => { x with win := { cfg := true, a := w.va, b := w.vb } })) 0 false }

/-- The image rows that output row `oy` needs. -/
def rowsOf (g : WinCfg) (oy : Nat) : List Nat := (List.range g.kh).map (fun k => oy * g.st + k * g.dil)

/-- Does some output row from `oy` on need image row `r`? -/
def rowNeeded (g : WinCfg) (oy r : Nat) : Bool :=
  (List.range g.kh).any (fun k => decide (k * g.dil ≤ r) && (r - k * g.dil) % g.st = 0
    && decide (oy ≤ (r - k * g.dil) / g.st) && decide ((r - k * g.dil) / g.st < g.ho))

/-- The image rows that the next 32 output positions need and that are not held, in ascending order. -/
def winNeed (g : WinCfg) (u : Window) : List Nat :=
  let rows := (((List.range 32).map (· + u.pos)).filter (· < g.ho * g.wo)).flatMap (fun q => rowsOf g (q / g.wo))
  (List.range g.ht).filter (fun r => rows.contains r && !u.rows.contains r)

/-- The bytes of an image row. -/
def WinCfg.rowBytes (g : WinCfg) (m : MatCfg) : Nat := g.wd * g.ch * (m.w / 8)

/-- The bytes held once the rows `need` are read from scratch. -/
def winRead (g : WinCfg) (m : MatCfg) (need : List Nat) (x : CoreData) : Memory :=
  need.foldl (fun h r => memWriteN h (r * 65536) (x.scrRead (g.base + r * g.pitch) (g.rowBytes m))) x.win.held

/-- The tile of 32 output positions from `pos` on: element k of position q is channel k mod C at column kx and row ky of its window, and
zero past the last position and past the window's elements (R187). -/
def winTile (g : WinCfg) (m : MatCfg) (pos : Nat) (held : Memory) : BitVec 16384 :=
  let code := fun (q k : Nat) =>
    if q ≥ g.ho * g.wo || k ≥ g.kh * g.kw * g.ch then 0
    else
      let y := q / g.wo * g.st + k / (g.ch * g.kw) * g.dil
      let xx := q % g.wo * g.st + k / g.ch % g.kw * g.dil
      leNat (memReadN held (y * 65536 + (xx * g.ch + k % g.ch) * (m.w / 8)) (m.w / 8))
  tileOf m.w (((List.range 32).map (· + pos)).flatMap (fun q => (List.range (512 / m.w)).map (code q)))

/-- MLD.U (R187). Rows that are held keep the bytes that were read, also where acc.mode has changed the container since: DESIGN CHOICE, log
entry 70. -/
def mldUBody (d : Nat) (c : Nat) (w : QWord) (s : State) : Run :=
  let x := s.core c
  let u := x.d.win
  let g := winFields u.a u.b
  let m := matCfg x.csr.accMode
  let rowB := g.rowBytes m
  if !u.cfg || !m.cfg || m.w < 8 || g.kh * g.kw * g.ch > 512 / m.w || rowB * ((g.kh - 1) * g.dil + 1) > 65536
  then .trap (runTrap 0x02) w s
  else if g.base + (g.ht - 1) * g.pitch + rowB > 0x80000 then .trap { runTrap 0x05 with addr := word (g.base + (g.ht - 1) * g.pitch) } w s
  else
    let p := g.ho * g.wo
    let need := winNeed g u
    let absent := (need.flatMap (fun r => x.d.absent (g.base + r * g.pitch) rowB)).eraseDups
    if !absent.isEmpty then .wait { w with paging := true, wants := absent } (s.modData c (·.refill absent))
    else match need.find? (fun r => x.d.scrPoisoned (g.base + r * g.pitch) rowB) with
      | some r => .trap { runTrap 0x08 with addr := word (g.base + r * g.pitch) } w s
      | none =>
        let held := winRead g m need x.d
        let data := winTile g m u.pos held
        let pos := Nat.min (u.pos + 32) p
        let keep := (u.rows ++ need).filter (fun r => decide (pos < p) && rowNeeded g (pos / g.wo) r)
        let held := held.filter (fun b => keep.contains (b.1 / 65536))
        .done (s.modData c (fun y => { (y.setM d (loadTile x d data)) with
          win := { u with pos := pos, fin := decide (pos = p), rows := keep, held := held } })) 0 false

/-- Is the word a WIN.CFG? -/
def isWinCfg : Instr → Bool
  | .winCfg .. => true
  | _ => false

/-- The rows that MLD.U reads from a window: those that its 32 positions need and that are not held. -/
def winScr (x : Core) (u : Window) : List (Nat × Nat) :=
  let g := winFields u.a u.b
  if !u.cfg then [] else (winNeed g u).map (fun r => (g.base + r * g.pitch, g.rowBytes (matCfg x.csr.accMode)))

/-- The rows that a queued MLD.U reads: of the window, or of one that another strand's WIN.CFG, queued, may set before it starts. -/
def mldUScr (x : Core) : List (Nat × Nat) :=
  winScr x x.d.win ++ x.strands.flatMap (fun t => if t.1 = 0 then [] else (t.2.queue .l).flatMap (fun v =>
    if isWinCfg v.i && v.phase ≠ .done then winScr x { cfg := true, a := v.va, b := v.vb } else []))

def specMldU (h : Hdr) (d : BitVec 5) (_c : BitVec 2) : WordSpec :=
  { lword h [0] with wr := [.m d.toNat], uses := [0x023], scr := fun _ _ x => mldUScr x, body := fun c _ w s => mldUBody d.toNat c w s }

/-! ### Bitmask-plus-values blocks (R188-R190) -/

/-- The byte offset of the values: vo (R188). -/
def bmVo (e : Nat) : Nat := 32 * ((16 + e / 8 + 31) / 32)

/-- The bytes of `cnt` values of width w, to the next 32-byte boundary. -/
def bmSize (cnt w : Nat) : Nat := 32 * ((cnt * w + 255) / 256)

/-- The header bytes of a block. -/
def bmHeader (count cap fmt : Nat) : List Byte :=
  let b := leBytes 2 count ++ leBytes 2 cap ++ leBytes 1 fmt
  b ++ [b.foldl (fun x y => x ^^^ y) 0x5A#8] ++ List.replicate 10 0

/-- Does a header's check byte hold (R188)? -/
def bmCheck (b : List Byte) : Bool := b.getD 5 0 = (b.take 5).foldl (fun x y => x ^^^ y) 0x5A#8

/-- A type whose fmt CSR holds no descriptor has no width (04 R92). -/
def typeKnown (w : QWord) : Bool := (typeFmt w (vtypeCode w)).isSome

/-- Words of R188 read vtype at issue and check blk's alignment there. -/
def bmCheckIssue (w : QWord) : Option Trap :=
  if !typeKnown w then some (issueTrap 0x02)
  else if (lAddr w).toNat % 32 ≠ 0 then some { issueTrap 0x03 with addr := lAddr w } else none

/-- A 0x05 of a scratch range at start (R189, R190). -/
def bmRange (a n : Nat) : Option Trap :=
  if a + n > 0x80000 then some { runTrap 0x05 with addr := word a } else none

/-- The nonzero elements of a group of registers from `d` on (R189). -/
def bmNonzero (nr d ww : Nat) (x : CoreData) : List Nat :=
  ((List.range nr).flatMap (fun j => velems ww (x.getV (d + j)))).filter (· ≠ 0)

/-- What a VST.BM accesses: the header, the mask and the values that it stores. -/
def vstBmScr (nr d : Nat) (w : QWord) (x : Core) : List (Nat × Nat) :=
  let ww := typeWidth w (vtypeCode w)
  [((lAddr w).toNat, bmVo (nr * (2048 / ww)) + bmSize (bmNonzero nr d ww x.d).length ww)]

def specVstBm (h : Hdr) (d a b : BitVec 5) (_c n : BitVec 2) : WordSpec :=
  let nr := bmCount n
  { lword h [2] with
    a := some a, b := some b, rd := vgroup d.toNat nr, uses := [0x005, 0x006, 0x007, 0x008], scr := fun _ w x => vstBmScr nr d.toNat w x
    check := fun _ _ w _ => (bmCheckIssue w).or (scrCheck 1 (lAddr w) 4 32)
    body := fun c _ w s =>
      let blk := (lAddr w).toNat
      let ww := typeWidth w (vtypeCode w)
      let e := nr * (2048 / ww)
      let vo := bmVo e
      onScratch c blk 4 (some 0x08) w s (fun s =>
        let x := (s.core c).d
        let cap := leNat (x.scrRead (blk + 2) 2)
        match bmRange blk (vo + bmSize cap ww) with
        | some t => .trap t w s
        | none => onScratch c blk (vo + bmSize cap ww) none w s (fun s =>
          let x := (s.core c).d
          let es := (List.range nr).flatMap (fun j => velems ww (x.getV (d.toNat + j)))
          let vals := es.filter (· ≠ 0)
          if vals.length > cap then .trap { runTrap 0x0C with addr := word blk, x0 := word vals.length, x1 := word cap } w s
          else
            let mask := (es.foldl (fun (p : Nat × Nat) v => (if v ≠ 0 then p.1 + pow2 p.2 else p.1, p.2 + 1)) (0, 0)).1
            let packed := (vals.foldl (fun (p : Nat × Nat) v => (p.1 + v * pow2 p.2, p.2 + ww)) (0, 0)).1
            .done (s.modData c (fun y =>
              let y := y.scrCover [(blk, 16 + e / 8), (blk + vo, bmSize vals.length ww)]
              let y := y.scrWrite (blk + 16) (leBytes (e / 8) mask)
              let y := y.scrWrite (blk + vo) (leBytes (bmSize vals.length ww) packed)
              y.scrWrite blk (bmHeader vals.length cap (vtypeCode w)))) 0 false)) }

/-- The header and mask of a block, checked (R190): the count and the mask, or the trap. -/
def bmRead (w : QWord) (x : CoreData) (blk e : Nat) : Except Trap (Nat × Nat) :=
  let b := x.scrRead blk 16
  let count := leNat (b.take 2)
  let cap := leNat ((b.drop 2).take 2)
  let mask := leNat (x.scrRead (blk + 16) (e / 8))
  if x.scrPoisoned blk (16 + e / 8) || !bmCheck b then .error { runTrap 0x09 with addr := word blk }
  else if leNat ((b.drop 4).take 1) ≠ vtypeCode w then .error { runTrap 0x02 with addr := word blk }
  else if count > cap || count ≠ popcount e mask then .error { runTrap 0x09 with addr := word blk }
  else .ok (count, mask)

/-- The elements of a mask and its values, in order. -/
def bmElems (mask ww : Nat) : Nat → Nat → Nat → List Nat
  | 0, _, _ => []
  | n + 1, i, vals =>
    if mask.testBit i then (vals % pow2 ww) :: bmElems mask ww n (i + 1) (vals >>> ww) else 0 :: bmElems mask ww n (i + 1) vals

/-- The block that a queued VLD.BM accesses, by the count that stands in its header. -/
def vldBmScr (nr : Nat) (w : QWord) (x : Core) : List (Nat × Nat) :=
  let blk := (lAddr w).toNat
  let ww := typeWidth w (vtypeCode w)
  [(blk, bmVo (nr * (2048 / ww)) + bmSize (leNat (x.d.scrRead blk 2)) ww)]

def specVldBm (h : Hdr) (d a b : BitVec 5) (_c n : BitVec 2) : WordSpec :=
  let nr := bmCount n
  { lword h [0] with
    a := some a, b := some b, wr := vgroup d.toNat nr, uses := [0x005, 0x006, 0x007, 0x008], scr := fun _ w x => vldBmScr nr w x
    check := fun _ _ w _ => bmCheckIssue w
    body := fun c _ w s =>
      let blk := (lAddr w).toNat
      let ww := typeWidth w (vtypeCode w)
      let nn := 2048 / ww
      let e := nr * nn
      let vo := bmVo e
      match bmRange blk vo with
      | some t => .trap t w s
      | none => onScratch c blk vo none w s (fun s =>
        match bmRead w (s.core c).d blk e with
        | .error t => .trap t w s
        | .ok (count, mask) =>
          match bmRange blk (vo + bmSize count ww) with
          | some t => .trap t w s
          | none => onScratch c blk (vo + bmSize count ww) none w s (fun s =>
            let x := (s.core c).d
            if x.scrPoisoned (blk + vo) (bmSize count ww) then .trap { runTrap 0x08 with addr := word (blk + vo) } w s
            else
              let es := bmElems mask ww e 0 (leNat (x.scrRead (blk + vo) (bmSize count ww)))
              .done (s.modData c (fun y => (List.range nr).foldl (fun (y : CoreData) j =>
                y.setV (d.toNat + j) (vofElems ww ((es.drop (j * nn)).take nn))) y)) 0 false)) }

/-! ### Copy commands (R191), completion rings (R193-R195) and generators (R196, R197) -/

/-- The fields of a copy command's length register. -/
def cpyLen (w : QWord) : Nat := wbits w.vb 23 0
def cpyGen (w : QWord) : Nat := wbits w.vb 27 24

/-- Do two ranges share a byte? -/
def overlaps (a n b m : Nat) : Bool := decide (a < b + m ∧ b < a + n)

/-- The issue checks of a copy command (R191): d holds the destination, a the source. -/
def cpyCheck (kind : CopyKind) (w : QWord) : Option Trap :=
  let n := cpyLen w
  let g := cpyGen w
  if wbits w.vb 63 28 ≠ 0 || g > 4 || n % 32 ≠ 0 then some (issueTrap 0x02)
  else
    let scr := fun (x : Word) => scrCheck 1 x n 32
    let glob := fun (x : Word) => if g = 0 && x.toNat % 32 ≠ 0 then some { issueTrap 0x03 with addr := x } else none
    match kind with
    | .inn => (scr w.vd).or (glob w.va)
    | .out => (scr w.va).or (glob w.vd)
    | .loc =>
      if g ≠ 0 then scr w.vd
      else ((scr w.vd).or (scr w.va)).or
        (if overlaps w.vd.toNat n w.va.toNat n then some (issueTrap 0x02) else none)

/-- Is a word of a strand one that issued before the core's present stop (01 R33)? -/
def Core.stopsNew (x : Core) (k seq : Nat) : Bool :=
  (x.csr.hnd || x.strands.any (fun t => t.2.st = .faulted)) && (k ≠ 3 || !x.csr.hnd || decide (seq < x.hndSeq))

/-- Does a ring carry nothing? -/
def ringQuiet (s : State) (r : Nat) : Bool := (s.ring r).slots.all (fun y => y.2.items.isEmpty)

/-- Is a CPY.OUT a bounded peer write (25 R438): its form, its page in the core's translation cache, the earlier accesses of its strand
performed, credit on its link, and the rings and the link that it crosses quiet? -/
def boundedWrite (s : State) (c k : Nat) (w : QWord) : Bool :=
  let x := s.core c
  let va := w.vd.toNat
  let n := cpyLen w
  cpyGen w = 0 && decide (1 ≤ n ∧ n ≤ 512) && va % 256 = 0 && va / 65536 = (va + n - 1) / 65536
    && (x.strand k).words.all (fun v => decide (w.seq ≤ v.seq)) && x.d.xfers.all (fun t => t.strand ≠ k) && !x.frozen s.cycle
    && (match tlbFind x.tlb x.csr.partition va with
      | none => false
      | some e => (match target (wbits e.leaf 47 16 * 65536 + va % 2 ^ e.bits) with
        | .peer idx _ =>
          let l := wbits (tget 0 s.pkg.peer idx) 24 20
          peerAllowed s x.csr.partition idx && (s.link l).wait.isEmpty && ringQuiet s (coreDie c * 12 + coreCluster c) && ringQuiet s (96 + l / 4)
            && (s.link l).credit 2 && Config.noSwitch idx
        | _ => false))

/-- 200 ns, in core cycles (25 R438: from a bounded peer write's issue to its link's endpoint). -/
def boundCycles : Nat := 360

/-- A copy command (R191): it is accepted once its hoop has a slot free, and then completes in its queue. Its transfer does not start
during the core's stop (R203). -/
def cpyWord (h : Hdr) (kind : CopyKind) (d a b : BitVec 5) (cls hp : BitVec 2) : WordSpec :=
  { engine := .l, hdr := h, a := some a, b := some b, d := some d, uses := [0x030 + hp.toNat]
    check := fun _ _ w _ => cpyCheck kind w
    body := fun c k w s =>
      let x := s.core c
      let hoop := x.d.hoop hp.toNat
      if (hoop.alloc - hoop.rd).toNat ≥ 16 then .wait w s
      else
        let g := cpyGen w
        let xf : Xfer := { strand := k, seq := w.seq, order := x.seq, hoop := hp.toNat, slot := hoop.alloc.toNat, kind := kind
                           dst := w.vd, src := w.va, len := cpyLen w, gen := g
                           cfg := if g = 0 then {} else (x.d.gen (g - 1)).cfg, cls := cls
                           stopped := x.stopsNew k w.seq
                           bound := if kind = .out && boundedWrite s c k w then some (w.at_ + boundCycles) else none }
        .done (s.modCore c (fun x => { x with
          seq := x.seq + 1
          d := { (x.d.setHoop hp.toNat { hoop with alloc := hoop.alloc + 1
                                                   slots := tput hoop.slots (hoop.alloc.toNat % 16) {} }) with
                 xfers := x.d.xfers ++ [xf] } })) 0 false }

def specCpyIn (h : Hdr) (d a b : BitVec 5) (cls hp : BitVec 2) : WordSpec := cpyWord h .inn d a b cls hp
def specCpyOut (h : Hdr) (d a b : BitVec 5) (cls hp : BitVec 2) : WordSpec := cpyWord h .out d a b cls hp
def specCpyLoc (h : Hdr) (d a b : BitVec 5) (cls hp : BitVec 2) : WordSpec := cpyWord h .loc d a b cls hp

/-- Is the generator of this copy's stream chunk `c` address (R196)? -/
def GenCfg.addr (g : GenCfg) (base : Word) (c : Nat) : Word :=
  let n := fun i => tget 1 g.count i
  let st := fun i => tget (0 : Int) g.stride i
  let idx := [c % n 0, c / n 0 % n 1, c / (n 0 * n 1) % n 2, c / (n 0 * n 1 * n 2) % n 3]
  base + BitVec.ofInt 64 ((idx.zip [st 0, st 1, st 2, st 3]).foldl (fun (t : Int) p => t + (p.1 : Int) * p.2) 0)

/-- The chunk size of a generator: 32 at dispatch. -/
def GenCfg.size (g : GenCfg) : Nat := if g.chunk = 0 then 32 else g.chunk

/-- AWF (R194): it waits for K filled slots and acquires their data. A failed slot's hoop and slot share the first extra word, and the
second holds the failing address: DESIGN CHOICE, log entry 36. -/
def specAwf (h : Hdr) (a : BitVec 5) (hp : BitVec 2) : WordSpec :=
  { engine := .l, hdr := h, a := some a, hold := .all
    check := fun _ _ w _ => if w.va.toNat > 16 then some (issueTrap 0x02) else none
    body := fun c _ w s =>
      let x := (s.core c).d.hoop hp.toNat
      if (x.wr - x.rd).toNat < w.va.toNat then .wait w s
      else
        let bad := (List.range w.va.toNat).findSome? (fun j =>
          let n := (x.rd + BitVec.ofNat 8 j).toNat
          let t := tget ({} : Slot) x.slots (n % 16)
          if t.code ≠ 0 then some (n, t) else none)
        match bad with
        | some (n, t) => .trap { runTrap t.code with addr := t.addr, x0 := word (n * 2 ^ 32 + hp.toNat), x1 := t.addr } w s
        | none => .done s 0 false }

/-- RLS (R195). -/
def specRls (h : Hdr) (a : BitVec 5) (hp : BitVec 2) : WordSpec :=
  { engine := .l, hdr := h, a := some a, uses := [0x030 + hp.toNat]
    check := fun _ _ w _ => if w.va.toNat > 16 then some (issueTrap 0x02) else none
    body := fun c _ w s =>
      let x := (s.core c).d.hoop hp.toNat
      if w.va.toNat > (x.wr - x.rd).toNat then .trap (runTrap 0x02) w s
      else .done (s.modData c (fun y => y.setHoop hp.toNat { x with rd := x.rd + w.va.setWidth 8 })) 0 false }

/-- The limits of AG.CFG's operand (R196). -/
def agOk (j : Nat) (x : Word) : Bool :=
  if j = 4 then wbits x 63 12 = 0 && wbits x 11 0 % 32 = 0 && wbits x 11 0 ≥ 32 && wbits x 11 0 ≤ 2048
  else wbits x 31 0 ≥ 1 && wbits x 31 0 ≤ 2 ^ 20 && wbits x 36 32 = 0

/-- The tokens of a generator that still wait for the end of an earlier stream (R197). -/
def tokensHeld (x : CoreData) (g : Nat) : List Nat :=
  (x.gen g).tokens.filter (fun t => x.xfers.any (fun f => f.gen = g + 1 && decide (f.order < t)))

/-- AG.CFG (R197): the streams already accepted keep their configuration, later ones see the new one. -/
def specAgCfg (h : Hdr) (a j : BitVec 5) (g : BitVec 2) : WordSpec :=
  { engine := .l, hdr := h, a := some a
    check := fun _ _ w _ => if agOk j.toNat w.va then none else some (issueTrap 0x02)
    body := fun c _ w s =>
      let x := s.core c
      let held := tokensHeld x.d g.toNat
      if held.length ≥ 4 then .wait w s
      else
        .done (s.modCore c (fun y => { y with
          seq := y.seq + 1
          d := y.d.setGen g.toNat {
            cfg := (let q := (y.d.gen g.toNat).cfg
                    if j = 4 then { q with chunk := wbits w.va 11 0 }
                    else { q with count := tput q.count j.toNat (wbits w.va 31 0)
                                  stride := tput q.stride j.toNat ((w.va >>> 32).setWidth 32).toInt })
            tokens := held ++ [y.seq] } })) 0 false }

/-! ### Fibres (R198-R202) -/

/-- Every position of a coordinate tile, checked (R199, R200). -/
def fibrePlaces (x : CoreData) (a : Nat) : Nat → Nat → Option Nat → Option (List Nat)
  | 0, _, _ => some []
  | n + 1, i, last =>
    let e := leNat (x.scrRead (a + 8 * i) 4)
    let p := bits e 9 0
    if bits e 31 10 ≠ 0 || (match last with
      | some l => decide (p ≤ l)
      | none => false) then none
    else (fibrePlaces x a n (i + 1) (some p)).map (p :: ·)

/-- The set positions of a mask, in ascending order. -/
def maskPlaces (mask n : Nat) : List Nat := (List.range n).filter (fun i => mask.testBit i)

/-- What a queued FOPEN accesses: a block's header and mask, or a directory entry and the tile that it locates. -/
def fopenScr (kind n : BitVec 2) (w : QWord) (x : Core) : List (Nat × Nat) :=
  let at_ := w.va.toNat
  if kind = 0 then [(at_, bmVo (bmCount n * (2048 / typeWidth w (vtypeCode w))))]
  else [(at_, 8), (leNat (x.d.scrRead at_ 4), 8 * leNat (x.d.scrRead (at_ + 4) 2))]

/-- FOPEN. A kind 1 directory entry must be 8-byte aligned: DESIGN CHOICE, log entry 60. -/
def specFopen (h : Hdr) (d a : BitVec 5) (n _c kind : BitVec 2) : WordSpec :=
  { lword h [0] with
    a := some a, wr := [.f d.toNat], uses := if kind = 0 then [0x005, 0x006, 0x007, 0x008] else []
    scr := fun _ w x => fopenScr kind n w x
    check := fun _ _ w _ =>
      if kind ≠ 0 then scrCheck 1 w.va 8 8
      else if !typeKnown w then some (issueTrap 0x02)
      else if w.va.toNat % 32 ≠ 0 then some { issueTrap 0x03 with addr := w.va } else none
    body := fun c _ w s =>
      let f := (s.core c).d.getF d.toNat
      let at_ := w.va.toNat
      if f.open_ then .trap (runTrap 0x02) w s
      else if kind = 0 then
        let ww := typeWidth w (vtypeCode w)
        let e := bmCount n * (2048 / ww)
        match bmRange at_ (bmVo e) with
        | some t => .trap t w s
        | none => onScratch c at_ (bmVo e) none w s (fun s =>
          match bmRead w (s.core c).d at_ e with
          | .error t => .trap t w s
          | .ok (count, mask) =>
            .done (s.modData c (fun y => y.setF d.toNat {
              open_ := true, kind := 0, fmt := BitVec.ofNat 8 (vtypeCode w), count := BitVec.ofNat 16 count
              vbase := BitVec.ofNat 32 (at_ + bmVo e), width := ww, places := maskPlaces mask e })) 0 false)
      else
        onScratch c at_ 8 (some 0x09) w s (fun s =>
          let e := leNat ((s.core c).d.scrRead at_ 8)
          let base := bits e 31 0
          let cnt := bits e 47 32
          if bits e 63 48 ≠ 0 || cnt > 1024 || base % 8 ≠ 0 then .trap { runTrap 0x09 with addr := w.va } w s
          else match bmRange base (8 * cnt) with
            | some t => .trap t w s
            | none => onScratch c base (8 * cnt) none w s (fun s =>
              let x := (s.core c).d
              if (List.range cnt).any (fun i => x.scrPoisoned (base + 8 * i) 4) then .trap { runTrap 0x09 with addr := word base } w s
              else match fibrePlaces x base cnt 0 none with
                | none => .trap { runTrap 0x09 with addr := word base } w s
                | some ps => .done (s.modData c (fun y => y.setF d.toNat {
                    open_ := true, kind := 1, fmt := 9, count := BitVec.ofNat 16 cnt, vbase := BitVec.ofNat 32 base
                    width := 32, places := ps })) 0 false)) }

/-- The mask position from which a bitmask walk searches next (R198). -/
def nextMpos (f : Fibre) (next : Nat) : Nat := if next = 0 then 0 else f.places.getD (next - 1) 0 + 1

/-- The first byte of the values that FADV delivers from a fibre, and the one after the last. -/
def fadvLo (f : Fibre) : Nat := f.vbase.toNat + (if f.kind = 0 then f.next.toNat * f.width / 8 else 8 * f.next.toNat)
def fadvHi (f : Fibre) (m : Nat) : Nat :=
  f.vbase.toNat + (if f.kind = 0 then ((f.next.toNat + m) * f.width + 7) / 8 else 8 * (f.next.toNat + m))

/-- The values that a FADV reads. -/
def fadvScr (n : Nat) (w : QWord) (x : Core) : List (Nat × Nat) :=
  let f := x.d.getF n
  let m := Nat.min w.vb.toNat (f.count.toNat - f.next.toNat)
  if !f.open_ || m = 0 then [] else [(fadvLo f, fadvHi f m - fadvLo f)]

/-- FADV. Of a 64-bit type a register has 32 elements: entries past the 32nd deliver their positions, and their values have no place
(DESIGN CHOICE, log entry 70). -/
def specFadv (h : Hdr) (d a b : BitVec 5) (_c : BitVec 2) : WordSpec :=
  { lword h [0] with
    b := some b, wr := [.v d.toNat, .v (d.toNat + 1), .f a.toNat], rd := [.f a.toNat], scr := fun _ w x => fadvScr a.toNat w x
    check := fun _ _ w _ => if w.vb.toNat > 64 then some (issueTrap 0x02) else none
    body := fun c _ w s =>
      let f := (s.core c).d.getF a.toNat
      let next := f.next.toNat
      let m := Nat.min w.vb.toNat (f.count.toNat - next)
      let ww := f.width
      let lo := fadvLo f
      let hi := fadvHi f m
      if !f.open_ then .trap (runTrap 0x02) w s
      else match bmRange lo (hi - lo) with
        | some t => .trap t w s
        | none => onScratch c lo (if m = 0 then 0 else hi - lo) (some 0x08) w s (fun s =>
          let x := (s.core c).d
          let val := fun (t : Nat) =>
            if f.kind = 0 then
              let bit := (next + t) * ww
              leNat (x.scrRead (f.vbase.toNat + bit / 8) ((ww + 7) / 8 + 1)) >>> (bit % 8) % pow2 ww
            else leNat (x.scrRead (f.vbase.toNat + 8 * (next + t) + 4) 4)
          let pos := fun (t : Nat) =>
            let p := f.places.getD (next + t) 0
            if f.kind = 0 then p else mortonRow p * 32 + mortonCol p
          let nn := 2048 / ww
          let vals := (List.range nn).map (fun t => if t < m then val t else 0)
          let poss := (List.range 64).map (fun t => if t < m then pos t else 0)
          .done (s.modData c (fun y =>
            ((y.setV d.toNat (vofElems ww vals)).setV (d.toNat + 1) (vofElems 32 poss)).setF a.toNat
              { f with next := BitVec.ofNat 16 (next + m)
                       mpos := if f.kind = 0 then BitVec.ofNat 16 (nextMpos f (next + m)) else f.mpos })) 0 false) }

def specFend (h : Hdr) (a : BitVec 5) : WordSpec :=
  { engine := .l, hdr := h, strands := [0], cqPush := true, rd := [.f a.toNat]
    body := fun c _ w s =>
      let f := (s.core c).d.getF a.toNat
      if !f.open_ then .trap (runTrap 0x02) w s else .done s 0 (f.next == f.count) }

def specFclose (h : Hdr) (a : BitVec 5) : WordSpec :=
  { engine := .l, hdr := h, strands := [0], wr := [.f a.toNat]
    body := fun c _ w s =>
      let f := (s.core c).d.getF a.toNat
      if !f.open_ then .trap (runTrap 0x02) w s
      else .done (s.modData c (·.setF a.toNat { f with open_ := false })) 0 false }

end Sys2Proof.Machine
end

