-- ==== Sys2Proof/Machine/Home.lean ====
section
/-! DEFINITION. Home slices and the memory they serve (10 R222-R225, R229, R233; 18 R337, R348-R357): which slice homes a physical
address, whether it can serve it now, and the load, store, atomic or cell operation that it performs as one step. -/

namespace Sys2Proof.Machine

/-! ### Atomics (10 R229) -/

/-- FP32 addition in RNE with the canonical NaN. -/
def fadd32 (m x : Word) : Word :=
  word (Fmt.fp32.round 0 0 (Val.add (Fmt.fp32.decode (m.toNat % 2 ^ 32)) (Fmt.fp32.decode (x.toNat % 2 ^ 32))).1).1

/-- new(m, x) by OP6 (10 R229). -/
def amoNew (op : Nat) (m x cmp : Word) : Word :=
  match op with
  | 0x05 => m + x
  | 0x06 => m &&& x
  | 0x07 => m ||| x
  | 0x08 => m ^^^ x
  | 0x09 => if m.slt x then m else x
  | 0x0A => if m.slt x then x else m
  | 0x0B => if m.ult x then m else x
  | 0x0C => if m.ult x then x else m
  | 0x0D => x
  | 0x0E => if m = cmp then x else m
  | _ => fadd32 m x

/-! ### What a home slice does -/

/-- A slice's answer: wait; fail with a code, after which memory is as the state says; or the value returned. -/
inductive Served
  | wait
  | fail (code : BitVec 8)
  | ok (s : State) (v : Word)

/-- Read `n` bytes at a home slice, with the line held (10 R224, R226). -/
def serveRead (s : State) (pa n : Nat) : Served :=
  match homeReady s pa with
  | none => .wait
  | some false => .fail 0x08
  | some true =>
    if !inCarve s pa then .ok s 0
    else if s.poisoned pa n then .fail 0x08
    else .ok (s.touch pa false) (word (s.memNat pa n))

/-- Write bytes at a home slice. A store never faults after its checks (10 R226), but where its stack is lost (18 R350). -/
def serveWrite (s : State) (pa : Nat) (bs : List Byte) : Served :=
  match homeReady s pa with
  | none => .wait
  | some false => .fail 0x08
  | some true => if !inCarve s pa then .ok s 0 else .ok ((s.touch pa true).memStore pa bs) 0

/-- An atomic at a home slice (10 R223, R229). -/
def serveAmo (s : State) (op pa n : Nat) (x cmp : Word) : Served :=
  match serveRead s pa n with
  | .wait => .wait
  | .fail e => .fail e
  | .ok s m => match serveWrite s pa (leBytes n (amoNew op m x cmp).toNat) with
    | .ok s _ => .ok s m
    | r => r

/-- The header of a versioned cell (18 R354): newest and oldest version. -/
def cellNewest (h : Word) : BitVec 32 := h.setWidth 32
def cellOldest (h : Word) : BitVec 32 := (h >>> 32).setWidth 32
def cellHeader (n o : BitVec 32) : Word := word (o.toNat * 2 ^ 32 + n.toNat)

/-- VERST, VERLD and VERRCL at the cell's home slice (18 R356); released storage reads zero and drops writes (18 R352). -/
def serveCell (s : State) (kind : ReqKind) (pa : Nat) (x : Word) : Served :=
  match serveRead s pa 8 with
  | .wait => .wait
  | .fail e => .fail e
  | .ok s hdr =>
    let n := cellNewest hdr
    let o := cellOldest hdr
    let slotAt := fun (v : BitVec 32) => pa + 8 + 8 * (v.toNat % 4)
    let put := fun (a : Nat) (v : Word) (s : State) => if inCarve s pa then (s.touch pa true).memStore a (leBytes 8 v.toNat) else s
    if s.poisoned pa 64 then .fail 0x08
    else if (n - o).toNat > 3 then .fail 0x05
    else match kind with
      | .verst =>
        if n - o = 3 then .wait
        else
          let n' := n + 1
          .ok (put pa (cellHeader n' o) (put (slotAt n') x s)) (zext n')
      | .verld =>
        let k := x.setWidth 32 - o
        if k.toInt < 0 then .fail 0x0F
        else if k.toNat > (n - o).toNat then .wait
        else .ok s (if inCarve s pa then word (s.memNat (slotAt (x.setWidth 32)) 8) else 0)
      | _ =>
        let k := x.setWidth 32 + 1 - o
        let o' := if k.toInt > 0 then o + BitVec.ofNat 32 (Nat.min k.toNat (n - o).toNat) else o
        .ok (if o' = o then s else put pa (cellHeader n o') s) (zext o')

/-- One request at its home slice (10 R223). -/
def serve (s : State) (kind : ReqKind) (pa size : Nat) (x cmp : Word) : Served :=
  match kind with
  | .load | .lay | .walk => serveRead s pa size
  | .store => serveWrite s pa (leBytes size x.toNat)
  | .amo op => serveAmo s op pa size x cmp
  | .verst | .verld | .verrcl => serveCell s kind pa x

/-! ### Physical byte strings, line by line: the crown, the central copy engine, the loader and copy transfers -/

/-- Read `n` bytes that lie in one page at their home slices. -/
def readBytes (s : State) (pa n : Nat) : Option (BitVec 8) × State × List Byte :=
  let ls := linesOf pa n
  if ls.any (fun l => homeReady s (l * 256) = some false) || s.poisoned pa n then (some 0x08, s, [])
  else if !inCarve s pa then (none, s, List.replicate n 0)
  else (none, ls.foldl (fun s l => s.touch (l * 256) false) s, memReadN s.mem pa n)

end Sys2Proof.Machine
end

