-- ==== Sys2Proof/Machine/Layered.lean ====
section
/-! DEFINITION. Layered tensors (19): handles, layer descriptors, and the sum of a tile (R359-R366), as the home slice makes it. -/

namespace Sys2Proof.Machine

/-- A handle (R359). -/
structure Handle where
  gen : BitVec 32
  tr : Nat
  tc : Nat
  count : Nat
  fmt : Bool
  rest : Nat
  base : Nat
  dir : Nat
  target : Nat
  ptrs : List Nat
  vbase : Nat
  deriving DecidableEq, Repr

/-- A 40-bit address field at a byte offset: bits [47:8] of the address. -/
def addr40 (b : List Byte) (off : Nat) : Nat := leNat ((b.drop off).take 5) * 256

def Handle.parse (b : List Byte) : Handle :=
  let f := leNat ((b.drop 8).take 1)
  { gen := BitVec.ofNat 32 (leNat (b.take 4)), tr := leNat ((b.drop 4).take 2), tc := leNat ((b.drop 6).take 2)
    count := f % 8, fmt := f.testBit 3, rest := f / 16
    base := addr40 b 9, dir := addr40 b 14, target := addr40 b 19
    ptrs := (List.range 7).map (fun i => addr40 b (24 + 5 * i)), vbase := addr40 b 59 }

def Handle.bytes (h : Handle) : List Byte :=
  leBytes 4 h.gen.toNat ++ leBytes 2 h.tr ++ leBytes 2 h.tc ++ leBytes 1 (h.rest * 16 + (if h.fmt then 8 else 0) + h.count)
  ++ leBytes 5 (h.base / 256) ++ leBytes 5 (h.dir / 256) ++ leBytes 5 (h.target / 256)
  ++ h.ptrs.flatMap (fun p => leBytes 5 (p / 256)) ++ leBytes 5 (h.vbase / 256)

/-- A malformed handle (R360). -/
def Handle.malformed (h : Handle) : Bool :=
  h.rest ≠ 0 || h.tr = 0 || h.tc = 0 || h.base % 2048 ≠ 0 || h.target % 2048 ≠ 0 || h.vbase % 2048 ≠ 0
  || (h.ptrs.drop h.count).any (· ≠ 0)

/-- The handle address of a kind-2 leaf (18 R342). -/
def leafHandle (l : Word) : Nat := wbits l 47 16 * 65536 + wbits l 63 54 * 64

/-- How the summation reads: which context and mode (R364), and the core whose shadow frames apply (16 R319). -/
structure SumCtx where
  q : Access
  core : Option Nat := none

/-- The answers of a summing read: none, it must wait; a fault code; or bytes. -/
abbrev SumRes (α : Type) := Except (Option (BitVec 8)) α

/-- Read `n` bytes at a virtual address, in one page; `bad`: the code of an uncorrectable error (R365). -/
def sumRead (s : State) (x : SumCtx) (bad : BitVec 8) (va n : Nat) : SumRes (List Byte) :=
  match translate s x.q va with
  | .fail e => .error (if e = walkWaits then none else some (if e = 0x04 then 0x04 else if e = 0x08 then bad else 0x05))
  | .ok pa leaf _ =>
    let pa := match x.core with
      | some c => if leafShadow leaf then shadowOf s c pa else pa
      | none => pa
    if bits pa 47 46 ≥ 2 || (match target pa with
      | .crown _ _ => true
      | _ => false) then .error (some 0x05)
    else if !rangeReady s pa n then .error none
    else match readBytes s pa n with
      | (some _, _, _) => .error (some bad)
      | (none, _, b) => .ok b

/-- An FP32 code summed and rounded (R365). -/
def addF32 (x : Nat) (v : Val) : Nat := (Fmt.fp32.round 0 0 (Val.add (Fmt.fp32.decode x) v).1).1

/-- The coordinate entries of a tile, with their checks (08 R199, R362): positions and values. -/
def coordEntries (s : State) (x : SumCtx) (addr : Nat) : Nat → Nat → Option Nat → SumRes (List (Nat × Nat))
  | 0, _, _ => .ok []
  | n + 1, i, last => do
    let b ← sumRead s x 0x09 (addr + 8 * i) 8
    let e := leNat b
    let p := bits e 9 0
    if bits e 31 10 ≠ 0 || (match last with
      | some l => decide (p ≤ l)
      | none => false) then .error (some 0x09)
    else
      let r ← coordEntries s x addr n (i + 1) (some p)
      .ok ((p, bits e 63 32) :: r)

/-- A matrix of BF16 values read row by row: `rows` rows of `n` elements, row `i` at `at_ i`. -/
def readBf16 (s : State) (x : SumCtx) (n : Nat) (at_ : Nat → Nat → Nat) : List Nat → SumRes (List (List Val))
  | [] => .ok []
  | i :: rest => do
    let row ← (List.range n).mapM (fun j => do
      let b ← sumRead s x 0x08 (at_ i j) 2
      .ok (Fmt.bf16.decode (leNat b)))
    let r ← readBf16 s x n at_ rest
    .ok (row :: r)

/-- One layer's contribution to a tile of 1,024 FP32 codes in row-major order (R365). -/
def addLayer (s : State) (x : SumCtx) (h : Handle) (ti tj : Nat) (ptr : Nat) (t : List Nat) : SumRes (List Nat) := do
  let d ← sumRead s x 0x09 ptr 64
  let kind := leNat (d.take 1)
  let b1 := leNat ((d.drop 1).take 1)
  let p0 := leNat ((d.drop 8).take 8)
  let p1 := leNat ((d.drop 16).take 8)
  if leNat ((d.drop 2).take 6) ≠ 0 || leNat (d.drop 24) ≠ 0 then .error (some 0x09)
  else if kind = 1 then
    if b1 ≠ 0 || p1 ≠ 0 || p0 % 8 ≠ 0 then .error (some 0x09)
    else
      let e ← sumRead s x 0x09 (p0 + 8 * morton ti tj) 8
      let e := leNat e
      if bits e 63 48 > 1024 then .error (some 0x0E)
      else if bits e 47 0 % 8 ≠ 0 then .error (some 0x09)
      else
        let es ← coordEntries s x (bits e 47 0) (bits e 63 48) 0 none
        .ok (es.foldl (fun t (en : Nat × Nat) =>
          let i := mortonRow en.1 * 32 + mortonCol en.1
          t.set i (addF32 (t.getD i 0) (Fmt.fp32.decode en.2))) t)
  else if kind = 2 then
    if p0 % 2 ≠ 0 || p1 % 2 ≠ 0 then .error (some 0x09)
    else if b1 > 16 then .error (some 0x0E)
    else if b1 = 0 then .ok t
    else
      let u ← readBf16 s x b1 (fun r q => p0 + 2 * ((32 * ti + r) * b1 + q)) (List.range 32)
      let v ← readBf16 s x b1 (fun c q => p1 + 2 * (q * (32 * h.tc) + 32 * tj + c)) (List.range 32)
      let ps := u.flatMap (fun ur => v.map (fun vc =>
        Fmt.fp32.decode (Fmt.fp32.round 0 0 (Val.sum (List.zipWith (fun a b => (Val.mul a b).1) ur vc)).1).1))
      .ok (List.zipWith addF32 t ps)
  else .error (some 0x09)

/-- The layers in list order. -/
def addLayers (s : State) (x : SumCtx) (h : Handle) (ti tj : Nat) : List Nat → List Nat → SumRes (List Nat)
  | [], t => .ok t
  | p :: ps, t => do
    let t ← addLayer s x h ti tj p t
    addLayers s x h ti tj ps t

/-- The base format (R359). -/
def Handle.format (h : Handle) : Fmt := if h.fmt then Fmt.fp16 else Fmt.bf16

/-- The address of a base tile (R360). -/
def baseTile (s : State) (x : SumCtx) (h : Handle) (t : Nat) : SumRes Nat :=
  if h.dir = 0 then .ok (h.base + t * 2048)
  else do
    let b ← sumRead s x 0x09 (h.dir + 8 * t) 8
    let e := leNat b
    if bits e 10 0 ≠ 0 || bits e 63 48 ≠ 0 then .error (some 0x09) else .ok e

/-- A tile summed over the first `k` layers of a handle (R365). -/
def sumTile (s : State) (x : SumCtx) (h : Handle) (k t : Nat) : SumRes (List Byte) := do
  let a ← baseTile s x h t
  let b ← sumRead s x 0x08 a 2048
  let f := h.format
  let x0 := (List.range 1024).map (fun i => (Fmt.fp32.round 0 0 (f.decode (leNat ((b.drop (2 * i)).take 2)))).1)
  let r ← addLayers s x h (mortonRow t) (mortonCol t) (h.ptrs.take k) x0
  .ok (r.flatMap (fun c => leBytes 2 (f.round 0 0 (Fmt.fp32.decode c)).1))

/-- The view of a kind-2 leaf at a virtual address (R363): the handle and the tile, or a fault code. -/
def viewTile (s : State) (x : SumCtx) (leaf : Word) (va : Nat) : SumRes (Handle × Nat) := do
  let b ← sumRead s x 0x09 (leafHandle leaf) 64
  let h := Handle.parse b
  if h.malformed || va < h.vbase then .error (some 0x04)
  else
    let t := (va - h.vbase) / 2048
    if mortonRow t ≥ h.tr || mortonCol t ≥ h.tc then .error (some 0x04)
    else if (va - h.vbase) % 2048 ≠ 0 then .error (some 0x05)
    else .ok (h, t)

/-- A tile read through a view by a copy transfer (R363-R365). -/
def viewRead (s : State) (x : SumCtx) (leaf : Word) (va : Nat) : SumRes (List Byte) := do
  let (h, t) ← viewTile s x leaf va
  sumTile s x h h.count t

end Sys2Proof.Machine
end

