-- ==== Sys2Proof/Machine/Shake.lean ====
section
/-! DEFINITION. SHAKE256 (14 R281, 17 R331, 26 R444-R446). The spec names it and does not define it: FIPS 202, PRESUMED. -/

namespace Sys2Proof.Machine

/-- The 25 lanes of Keccak-f[1600], lane x + 5y. -/
abbrev Keccak := List Word

def lane (a : Keccak) (i : Nat) : Word := a.getD i 0

/-- The rotation offsets, lane x + 5y. -/
def rhoOffsets : List Nat :=
  [0, 1, 62, 28, 27, 36, 44, 6, 55, 20, 3, 10, 43, 25, 39, 41, 45, 15, 21, 8, 18, 2, 61, 56, 14]

/-- The round constants. -/
def iotaConsts : List Word :=
  [0x0000000000000001#64, 0x0000000000008082#64, 0x800000000000808A#64, 0x8000000080008000#64,
   0x000000000000808B#64, 0x0000000080000001#64, 0x8000000080008081#64, 0x8000000000008009#64] ++
  [0x000000000000008A#64, 0x0000000000000088#64, 0x0000000080008009#64, 0x000000008000000A#64,
   0x000000008000808B#64, 0x800000000000008B#64, 0x8000000000008089#64, 0x8000000000008003#64] ++
  [0x8000000000008002#64, 0x8000000000000080#64, 0x000000000000800A#64, 0x800000008000000A#64,
   0x8000000080008081#64, 0x8000000000008080#64, 0x0000000080000001#64, 0x8000000080008008#64]

/-- One round: theta, rho and pi, chi, iota. -/
def keccakRound (a : Keccak) (rc : Word) : Keccak :=
  let c := (List.range 5).map (fun x => lane a x ^^^ lane a (x + 5) ^^^ lane a (x + 10) ^^^ lane a (x + 15) ^^^ lane a (x + 20))
  let d := (List.range 5).map (fun x => lane c ((x + 4) % 5) ^^^ (lane c ((x + 1) % 5)).rotateLeft 1)
  let t := (List.range 25).map (fun i => lane a i ^^^ lane d (i % 5))
  -- pi moves lane (x, y) to (y, 2x + 3y): target (X, Y) comes from x = (X + 3Y) mod 5, y = X
  let b := (List.range 25).map (fun i =>
    let X := i % 5
    let Y := i / 5
    let j := (X + 3 * Y) % 5 + 5 * X
    (lane t j).rotateLeft (rhoOffsets.getD j 0))
  let e := (List.range 25).map (fun i =>
    let r := i / 5 * 5
    lane b i ^^^ (~~~(lane b (r + (i + 1) % 5)) &&& lane b (r + (i % 5 + 2) % 5)))
  match e with
  | [] => []
  | h :: r => (h ^^^ rc) :: r

def keccakF (a : Keccak) : Keccak := iotaConsts.foldl keccakRound a

/-- Absorb one 136-byte block. -/
def absorb (a : Keccak) (blk : List Byte) : Keccak :=
  keccakF ((List.range 25).map (fun i => lane a i ^^^ (if i < 17 then word (leNat ((blk.drop (8 * i)).take 8)) else 0)))

/-- Absorb the whole message with SHAKE's padding. -/
def absorbAll : Nat → Keccak → List Byte → Keccak
  | 0, a, _ => a
  | n + 1, a, m =>
    if m.length < 136 then
      let pad := m ++ [0x1F#8] ++ List.replicate (135 - m.length) 0
      absorb a ((pad.take 135) ++ [(pad.getD 135 0) ||| 0x80#8])
    else absorbAll n (absorb a (m.take 136)) (m.drop 136)

/-- The first `n` ≤ 136 bytes of SHAKE256. -/
def shake256 (m : List Byte) (n : Nat) : List Byte :=
  ((absorbAll (m.length / 136 + 1) (List.replicate 25 0) m).flatMap (fun w => leBytes 8 w.toNat)).take n

/-- The seed of the identity key, and the public key's bytes (26 R445): the same on every boot of the part. -/
def identitySeed : List Byte := shake256 Config.uniqueSecret 64
def identityByte (off : Nat) : Byte := Config.identityByte identitySeed off

end Sys2Proof.Machine
end

