-- ==== Sys2Proof/Machine/Registers.lean ====
section
/-! DEFINITION. The crown register pages and the control window (18 R338-R340, R346, R351-R352; 16 R297; 22 R405, R412-R416; 23 R427;
26 R443-R447): reading and writing a register of 8 bytes, and what a write of each does. -/

namespace Sys2Proof.Machine

/-- The links and the control window work once the boot sequence has ended (26 R443). -/
def booted (f : State → State) (s : State) : State := if s.pkg.bootCode = 0 then f s else s

/-- Cycles until the next cap update, in units of 64: an update falls on every multiple of 2^21 cycles (26 R447). -/
def govNext (s : State) : Nat := (2 ^ 21 - s.cycle % 2 ^ 21) % 2 ^ 21 / 64

/-- gov.c (26 R447). -/
def govWord (s : State) (d c : Nat) : Word :=
  let g := tget {} (s.die d).gov c
  word (govNext s * 2 ^ 32 + g.held * 256 + g.cap)

/-- carve of a slice (18 R351). -/
def carveWord (x : Slice) : Word := word ((if x.carveErr then 128 else 0) + x.carve.toNat)

/-- time.st (22 R416). -/
def timeStWord (t : TimeState) : Word :=
  word (t.offset.toNat * 2 ^ 32 + t.dom.toNat * 2 ^ 16 + t.role.toNat * 8 + (if t.en then 4 else 0) + (if t.step then 2 else 0)
    + (if t.lock then 1 else 0))

/-- Eight bytes of a byte list from an offset; bytes past its end are zero. -/
def wordAt (l : List Byte) (off : Nat) : Word := word (leNat ((l.drop off).take 8))

/-- The value of a register of die `d`'s page; offsets that name no register read as zero (18 R340). -/
def crownGet (s : State) (d off : Nat) : Word :=
  let x := s.die d
  if off < 0x200 then tget 0 x.qtab (off / 8)
  else if off = 0x200 then zext x.crown.tibCtx
  else if off = 0x208 then x.crown.tibVa
  else if off = 0x210 then x.crown.tibLen
  else if off = 0x218 then wbool x.crown.tibGo
  else if 0x400 ≤ off ∧ off < 0x580 then carveWord (s.slice d ((off - 0x400) / 8))
  else if off = 0x600 then x.crown.ldObj
  else if off = 0x608 then wbool x.crown.ldGo
  else if off = 0x610 then
    word (x.crown.ldOff.toNat * 2 ^ 32 + (if x.crown.ldNote then 256 else 0) + x.crown.ldReason.toNat)
  else if 0x800 ≤ off ∧ off < 0x860 then govWord s d ((off - 0x800) / 8)
  else if off = 0xC00 then s.pkg.ctxBase
  else if off = 0xC08 then s.pkg.partBase
  else if 0x1000 ≤ off ∧ off < 0x1200 then tget 0 s.pkg.tree ((off - 0x1000) / 8)
  else if 0x2000 ≤ off ∧ off < 0x2600 then tget 0 s.pkg.peer ((off - 0x2000) / 8)
  else if 0x3400 ≤ off ∧ off < 0x3800 then
    (if off % 0x100 = 0x38 then zext (s.link (4 * d + (off - 0x3400) / 0x100)).f else 0)
  else if d ≠ 0 then 0
  else if off = 0x3000 then timeStWord s.time
  else if off = 0x3040 then zext s.pkg.devId
  else if 0x4000 ≤ off ∧ off < 0x4800 then word (leNat ((List.range 8).map (fun i => identityByte (off - 0x4000 + i))))
  else if 0x4800 ≤ off ∧ off < 0x4820 then wordAt s.pkg.nonce (off - 0x4800)
  else if off = 0x4820 then wbool s.pkg.repGo
  else if 0x5000 ≤ off ∧ off < 0x6000 then wordAt s.pkg.report (off - 0x5000)
  else 0

/-- A read clears time.st's step bit (22 R416). -/
def timeStRead (s : State) : State := { s with time := { s.time with step := false } }

/-- Read a register: its value and the state afterwards. -/
def crownRead (s : State) (d off : Nat) : Word × State :=
  (crownGet s d off, if d = 0 && off = 0x3000 then timeStRead s else s)

/-- A queue-table entry's bits: the interrupt, the descriptor address, the supervisor bit and the active bit (16 R297, R310,
22 R408). The first activation of any entry locks dev.id (26 R443). -/
def queueTableSet (d q : Nat) (x : Word) (s : State) : State :=
  let s := s.modDie d (fun y => { y with qtab := tput y.qtab q (x &&& 0xFFFFFFFFFFFFFFC3#64) })
  if x.getLsbD 0 then { s with pkg := { s.pkg with devLock := true } } else s

/-- Zero the bytes of a physical range, with any poison (18 R352). -/
def zeroRange (lo hi : Nat) (s : State) : State :=
  { s with mem := s.mem.filter (fun c => !decide (lo ≤ c.1 ∧ c.1 < hi))
           poison := s.poison.filter (fun l => !decide (lo ≤ l * 256 ∧ l * 256 < hi)) }

/-- The physical address of a slice's carve-out. -/
def carveBase (d n : Nat) : Nat := 2 ^ 46 + d * 2 ^ 36 + n * 2 ^ 23

/-- May a slice's carve-out change (18 R352)? -/
def carveFree (s : State) (d n : Nat) : Bool :=
  (s.die d).il.all (fun x => !x.2.active || !x.2.members.contains n || x.2.quiesced)

/-- At most `ways` lines of a set stay. -/
def trimSets (ways : Nat) (ls : Table Line) : Table Line :=
  ls.foldl (fun kept l => if (kept.filter (fun k => setOf k.1 = setOf l.1)).length < ways then kept ++ [l] else kept) []

/-- A write of a carve register (18 R352): refused, with err, or the carve-out grows or shrinks. -/
def carveSet (d n : Nat) (x : Word) (s : State) : State :=
  let mib := wbits x 3 0
  if mib > 7 || !carveFree s d n then s.modSlice d n (fun y => { y with carveErr := true })
  else
    let old := (s.slice d n).carve.toNat
    let lo := Nat.min old mib
    let hi := Nat.max old mib
    let s := zeroRange (carveBase d n + lo * 2 ^ 20) (carveBase d n + hi * 2 ^ 20) s
    let s := s.modSlice d n (fun y => { y with
      carve := BitVec.ofNat 3 mib, carveErr := false
      lines := if old < mib then trimSets (16 - 2 * mib) (y.lines.filter (fun l => !Config.inTakenWays s.free l.1)) else y.lines })
    if old < mib then s.takeFree else s

/-- The three registers of the translation-invalidation block and its go bit (18 R346); ignored while a request runs. -/
def tibSet (d off : Nat) (x : Word) (s : State) : State :=
  if (s.die d).crown.tibGo then s
  else s.modDie d (fun y => { y with crown :=
    if off = 0x200 then { y.crown with tibCtx := x.setWidth 16 }
    else if off = 0x208 then { y.crown with tibVa := x &&& 0x0000FFFFFFFF0000#64 }
    else if off = 0x210 then { y.crown with tibLen := x }
    else { y.crown with tibGo := x.getLsbD 0 } })

/-- The load block (23 R427); ignored while a load runs. -/
def loadSet (d off : Nat) (x : Word) (s : State) : State :=
  if (s.die d).crown.ldGo then s
  else s.modDie d (fun y => { y with crown :=
    if off = 0x600 then { y.crown with ldObj := x &&& 0x0000FFFFFFFFF000#64 }
    else { y.crown with ldGo := x.getLsbD 0 } })

/-- A table base register (18 R338, R339): a write with a set zero bit is ignored. -/
def baseSet (old x : Word) : Word := if x &&& 0xFFFF000000000FFF#64 = 0 then x else old

/-- time.st's writable fields (22 R416). -/
def timeStSet (x : Word) (t : TimeState) : TimeState :=
  { t with dom := if wbits x 23 16 ≤ 127 then BitVec.ofNat 8 (wbits x 23 16) else t.dom, en := x.getLsbD 2 }

/-- dev.id (26 R443): only the physical function writes it, and not once it is locked. -/
def devIdSet (x : Word) (s : State) : State :=
  if s.pkg.devLock then s else { s with pkg := { s.pkg with devId := x.setWidth 20 } }

/-- Replace eight bytes of a byte list. -/
def setWordAt (l : List Byte) (size off : Nat) (x : Word) : List Byte :=
  let l := l ++ List.replicate (size - l.length) 0
  l.take off ++ leBytes 8 x.toNat ++ l.drop (off + 8)

/-- Write a register of die `d`'s page; `pf`: the write is the physical function's. Read-only and empty offsets ignore it. -/
def crownWrite (d off : Nat) (x : Word) (pf : Bool) (s : State) : State :=
  if off < 0x200 then queueTableSet d (off / 8) x s
  else if 0x200 ≤ off ∧ off < 0x220 then tibSet d off x s
  else if 0x400 ≤ off ∧ off < 0x580 then carveSet d ((off - 0x400) / 8) x s
  else if off = 0x600 ∨ off = 0x608 then loadSet d off x s
  else if 0x1000 ≤ off ∧ off < 0x1200 then { s with pkg := { s.pkg with tree := tput s.pkg.tree ((off - 0x1000) / 8) x } }
  else if 0x2000 ≤ off ∧ off < 0x2600 then { s with pkg := { s.pkg with peer := tput s.pkg.peer ((off - 0x2000) / 8) x } }
  else if d ≠ 0 then s
  else if off = 0xC00 then { s with pkg := { s.pkg with ctxBase := baseSet s.pkg.ctxBase x } }
  else if off = 0xC08 then { s with pkg := { s.pkg with partBase := baseSet s.pkg.partBase x } }
  else if off = 0x3000 then { s with time := timeStSet x s.time }
  else if off = 0x3040 then (if pf then devIdSet x s else s)
  else if s.pkg.repGo || !pf then s
  else if 0x4800 ≤ off ∧ off < 0x4820 then { s with pkg := { s.pkg with nonce := setWordAt s.pkg.nonce 32 (off - 0x4800) x } }
  else if off = 0x4820 then { s with pkg := { s.pkg with repGo := x.getLsbD 0 } }
  else s

end Sys2Proof.Machine
end

