-- ==== Sys2Proof/Machine/Global.lean ====
section
/-! DEFINITION. Q words that access global memory: loads, stores, fences and atomics (10 R226-R229), write-back (R230), multicast
(R219), versioned cells (18 R355-R357), the layered-tensor words (19 R368-R371) and SUBMIT (16 R302). -/

namespace Sys2Proof.Machine

/-! ### Requests -/

/-- Update a word wherever it stands in a strand's queues. -/
def Strand.modAny (t : Strand) (seq : Nat) (f : QWord → QWord) : Strand :=
  { t with queues := t.queues.map (fun q => (q.1, q.2.map (fun w => if w.seq = seq then f w else w))) }

/-- Every word in the queues of a core, with its strand. -/
def Core.allWords (x : Core) : List (Nat × QWord) := x.strands.flatMap (fun t => t.2.words.map (fun w => (t.1, w)))

/-- Find a word in a strand's queues. -/
def Strand.findWord (t : Strand) (seq : Nat) : Option QWord := t.words.find? (fun w => w.seq = seq)

/-- A queued word finishes with its result. A word that moved to the trap shadow is finished there. -/
def finishWord (c k seq : Nat) (v : Word) (s : State) : State :=
  let f := fun (w : QWord) => { w with phase := .done, res := v, req := 0, paging := false, wants := [] }
  s.modCore c (fun x => { (x.modStrand k (·.modAny seq f)) with shadow := if k = 3 then x.shadow.modAny seq f else x.shadow })

/-- A queued word stops with a fault (01 R33); a deferred one leaves its queue (10 R226). In a freeze the core keeps its state, and the
failure waits for the end of it (05 R119). A word that a handler's entry has put aside waits for the resume, and then restarts. -/
def failWord (c k seq : Nat) (t : Trap) (s : State) : State :=
  let back := fun (w : QWord) => { w with phase := .queued, req := 0 }
  if (s.core c).frozen s.cycle then s.modCore c (fun x => { x with failHeld := x.failHeld ++ [(k, seq, t)] })
  else match ((s.core c).strand k).findWord seq with
  | none => if k = 3 then s.modCore c (fun x => { x with shadow := x.shadow.modAny seq back }) else s
  | some w =>
    let s := s.modCore c (fun x => x.modStrand k (fun y =>
      if t.cls = 4 then { y with queues := y.queues.map (fun q => (q.1, q.2.filter (fun v => v.seq != seq))) }
      else y.modAny seq back))
    takeFault c k t (encode w.i) w.pc (if t.cls = 4 then none else some seq) s

/-! ### Ordering waits -/

/-- Every earlier word of the strand has completed (10 R227). -/
def earlierDone (s : State) (c k seq : Nat) : Bool := ((s.core c).strand k).words.all (fun q => decide (seq ≤ q.seq))

/-- Every earlier copy transfer of the strand has filled its slot (10 R227). -/
def transfersDone (s : State) (c k seq : Nat) : Bool :=
  (s.core c).d.xfers.all (fun x => !(x.strand = k && decide (x.seq < seq)))

/-- Every earlier word of the strand's Q queue is finished (10 R227, R229). -/
def qDone (s : State) (c k seq : Nat) : Bool :=
  (((s.core c).strand k).queue .q).all (fun q => decide (seq ≤ q.seq) || q.phase = .done)

/-- A system-scope release waits for the acknowledgements of peer and host writes (10 R227); the host's one zero-length read brings (22
R407). `bit` notes that it is under way. -/
def onAcks (c : Nat) (system : Bool) (w : QWord) (s : State) (go : State → Run) : Run :=
  if system && peerPending s c then .begun w s
  else if system && hostPending s c then
    if w.req ≠ 0 then .begun w s
    else
      let (id, s) := sendHost (s.core c).csr.partition (some c) 0 0 false none 0 0 [] s
      .begun { w with req := id, bit := true } s
  else go s

/-- A release's wait over every queue and transfer (10 R227, R228), and at system scope for acknowledgements. -/
def onRelease (c k : Nat) (system : Bool) (w : QWord) (s : State) (go : State → Run) : Run :=
  if !earlierDone s c k w.seq || !transfersDone s c k w.seq then .begun w s else onAcks c system w s go

/-! ### Shadow frames (16 R319) -/

/-- The frames of a launch's pool that are in use. -/
def framesUsed (l : Launch) : List Nat := l.nodes.flatMap (fun n => n.frames.map (·.2))

/-- The physical 64 KiB frame of pool index `i`, if the pool's page translates. -/
def poolFrame (s : State) (l : Launch) (i : Nat) : Option Nat :=
  match translate s { ctx := l.ctx, sup := l.sup, write := true } (l.poolBase.toNat + 65536 * i) with
  | .ok pa _ _ => some (pa / 65536)
  | .fail _ => none

/-- The lowest free frame of a launch's pool. -/
def freeFrame (s : State) (l : Launch) : Option Nat :=
  (List.range l.poolLen).findSome? (fun i =>
    match poolFrame s l i with
    | some f => if (framesUsed l).contains f then none else some f
    | none => none)

/-- Update a node of a launch. -/
def State.modNode (s : State) (r : NodeRef) (f : Node → Node) : State :=
  s.modDie r.die (fun x => { x with launches := x.launches.map (fun l =>
    if l.stamp.toNat = r.launch then { l with nodes := l.nodes.mapIdx (fun i n => if i = r.node then f n else n) } else l) })

def launchOf (s : State) (r : NodeRef) : Option Launch := (s.die r.die).launches.find? (fun l => l.stamp.toNat = r.launch)

/-- The answer of a write of a core's node to a translated page: the address to write, or none where the pool has no free frame
(the node then ends aborted with 0x06), or a fault. -/
def shadowWrite (s : State) (c : Nat) (pa : Nat) (leaf : Word) : Except (Option (BitVec 8)) (Nat × State) :=
  if !replayNode s c then .ok (pa, s)
  else if !leafShadow leaf then .error (some 0x05)
  else match (s.core c).node with
    | none => .ok (pa, s)
    | some r => match nodeOf s r, launchOf s r with
      | some n, some l =>
        if n.frames.any (fun f => f.2 = pa / 65536) then .ok (pa, s)
        else match freeFrame s l with
          | none => .error none
          | some f =>
            let s := s.memStore (f * 65536) (memReadN s.mem (pa / 65536 * 65536) 65536)
            .ok (f * 65536 + pa % 65536, s.modNode r (fun n => { n with frames := n.frames ++ [(pa / 65536, f)] }))
      | _, _ => .ok (pa, s)

/-! ### The access words (R226-R229) -/

/-- What a global access word is. -/
structure GAcc where
  kind : ReqKind
  size : Nat
  ctxKind : Nat := 0
  write : Bool
  acq : Bool := false
  relQ : Bool := false
  relAll : Bool := false
  system : Bool := false

/-- Is the request a load or atomic, whose uncorrectable error is deferred (R226)? -/
def ReqKind.deferred : ReqKind → Bool
  | .load | .amo _ => true
  | _ => false

/-- The stop of a failed request. -/
def reqTrap (kind : ReqKind) (e : BitVec 8) (addr : Word) : Trap :=
  if kind.deferred && e = 0x08 then deferredTrap addr else { runTrap e with addr := addr }

/-- The address checks (R226, R229, 18 R340): the physical address, or a trap; a node whose pool is full ends. -/
def gCheck (c : Nat) (g : GAcc) (va : Word) (s : State) : Except (Option Trap) Nat × State :=
  let bad := fun (e : BitVec 8) => (Except.error (some { runTrap e with addr := va }), s)
  let amo := match g.kind with
    | .amo _ => true
    | _ => false
  if wbits va 63 48 ≠ 0 then bad 0x04
  else if va.toNat % g.size ≠ 0 then bad 0x03
  else if (amo || g.kind = .verst) && replayNode s c then bad 0x05
  else match coreXlat s c { coreAccess s c with write := g.write, kind := g.ctxKind } va.toNat with
    | (.fail e, s) => (.error (some { runTrap e with addr := va }), s)
    | (.ok pa leaf _, s) =>
      let bad := fun (e : BitVec 8) => (Except.error (some { runTrap e with addr := va }), s)
      match target pa, g.kind with
      | .crown _ _, .load => if (s.core c).csr.sup then (.ok pa, s) else bad 0x05
      | .crown _ _, .store => if (s.core c).csr.sup && !replayNode s c then (.ok pa, s) else bad 0x05
      | .crown _ _, _ => bad 0x05
      | .host _, .amo op => if op = 0x05 || op = 0x0D || op = 0x0E then (.ok pa, s) else bad 0x05
      | _, .store => match shadowWrite s c pa leaf with
        | .ok (pa, s) => (.ok pa, s)
        | .error (some e) => bad e
        | .error none => (.error none, s)
      | _, _ => (.ok pa, s)

/-- After a cell word has been performed: waiting VERLDs of the cell are answered and stalled VERSTs performed, in their order of
arrival (18 R357). -/
def answerCell (pa : Nat) : Nat → State → State
  | 0, s => s
  | n + 1, s =>
    let r := s.reqs.findSome? (fun q =>
      if q.pa = pa && q.since.isSome then
        match serve s q.kind q.pa q.size q.x q.cmp with
        | .ok s v => some (q, some (s, v), (0 : BitVec 8))
        | .fail e => some (q, none, e)
        | .wait => none
      else none)
    match r with
    | none => s
    | some (q, some (s, v), _) =>
      answerCell pa n (finishWord q.core q.strand q.seq v { s with reqs := s.reqs.filter (fun z => z.id != q.id) })
    | some (q, none, e) =>
      answerCell pa n (failWord q.core q.strand q.seq (reqTrap q.kind e (word q.pa)) { s with reqs := s.reqs.filter (fun z => z.id != q.id) })

/-- Is the request one of a cell word? -/
def ReqKind.cell : ReqKind → Bool
  | .verst | .verld | .verrcl => true
  | _ => false

/-- A request of a word enters its home slice or its injection buffer. -/
def gRequest (c k : Nat) (w : QWord) (g : GAcc) (pa : Nat) (x cmp : Word) (since : Option Nat) (s : State) : QWord × State :=
  let (id, s) := s.newReq
  let r : Req := { id := id, core := c, strand := k, seq := w.seq, kind := g.kind, pa := pa, size := g.size, x := x, cmp := cmp,
                   since := since, home := homeOf s pa }
  ({ w with req := id }, { s with reqs := s.reqs ++ [r] })

/-- Address a request's flit to a home slice; without one, it waits in the buffer (11 R236). -/
def Item.toHome (it : Item) (d : Nat) (h : Option (Nat × Nat)) : Item :=
  match h with
  | some h => { it with die := h.1, cluster := h.2 / 4, station := 16 + h.2 % 4 }
  | none => { it with die := d, station := 31 }

/-- The flit of a request (10 R207, R209), with its home as the domains have it now (11 R236). -/
def reqItem (s : State) (c pa id : Nat) : Item :=
  (s.core c).stamp s.cycle (Item.toHome { src := c, pkg := s.pkg.devId, die := 0, cluster := 0, station := 31, body := .req id, launch := 0 }
    (bits pa 38 36) (homeOf s pa))

/-- Is room left in a core's injection buffer (10 R217)? -/
def Core.injRoom (x : Core) : Bool := decide (x.inj.length + x.injRes + x.injRide < 8)

/-- Is an earlier request of the core to the line still to be sent to the line's home of now (10 R233)? -/
def lineMoved (s : State) (c pa : Nat) : Bool :=
  s.reqs.any (fun q => q.core = c && q.pa / 256 = pa / 256 && (q.bounced || q.home ≠ homeOf s pa))

/-- Send a request: its flit enters the injection buffer, and the home is chosen (11 R236). Without room for it, or while an earlier
request of the core to the line is on its way to another home, the word waits: one that has not begun keeps holding issue. -/
def sendReq (c k : Nat) (w : QWord) (g : GAcc) (pa : Nat) (x cmp : Word) (s : State) : Run :=
  if !(s.core c).injRoom || lineMoved s c pa then (if w.phase = .started then .begun w s else .wait w s)
  else
    let q := gRequest c k w g pa x cmp none s
    .begun q.1 (q.2.modCore c (fun y => { y with inj := y.inj ++ [reqItem s c pa s.reqNext] }))

/-- Perform or send an access whose checks and waits have ended. -/
def gPerform (c k : Nat) (g : GAcc) (w : QWord) (x cmp : Word) (addr : Word) (s : State) : Run :=
  let pa := w.idx
  match target pa with
  | .crown d off =>
    if g.kind = .store then .done (crownWrite d off x false s) 0 false
    else let r := crownRead s d off; .done r.2 r.1 false
  | .host off =>
    match g.kind with
    | .store => .done (sendHost (s.core c).csr.partition (some c) off g.size true none 0 0 (leBytes g.size x.toNat) s).2 0 false
    | .amo op =>
      let r := sendHost (s.core c).csr.partition none off g.size false (some op) x cmp [] s
      let q := gRequest c k w g pa x cmp none { r.2 with reqNext := r.1 }
      .begun q.1 q.2
    | _ =>
      let r := sendHost (s.core c).csr.partition none off g.size false none 0 0 [] s
      let q := gRequest c k w g pa x cmp none { r.2 with reqNext := r.1 }
      .begun q.1 q.2
  | .peer idx off =>
    let q := gRequest c k w g pa x cmp none s
    let m : LinkItem := match g.kind with
      | .store => .write off (leBytes g.size x.toNat)
      | .amo op => .atomic off g.size op x cmp
      | _ => .read off g.size
    if g.kind = .store then .done (sendPeer idx m q.2) 0 false else .begun q.1 (sendPeer idx m q.2)
  | _ =>
    if s.now && !lineMoved s c pa then
      match serve s g.kind pa g.size x cmp with
      | .ok s v => .done (if g.kind.cell then answerCell pa s.reqs.length s else s) v false
      | .fail e => .trap (reqTrap g.kind e addr) w s
      | .wait =>
        if g.kind.cell && homeReady s pa = some true then
          let q := gRequest c k w g pa x cmp (some s.cycle) s
          .begun q.1 q.2
        else sendReq c k w g pa x cmp s
    else sendReq c k w g pa x cmp s

/-- The body of a global access word: its checks when it begins, then its waits, then the access. -/
def gBody (g : GAcc) (va x cmp : QWord → Word) (c k : Nat) (w : QWord) (s : State) : Run :=
  let rest := fun (w : QWord) (s : State) =>
    if g.relQ then
      if !qDone s c k w.seq then .begun w s
      else onAcks c g.system w s (fun s => gPerform c k g w (x w) (cmp w) (va w) s)
    else if g.relAll then onRelease c k g.system w s (fun s => gPerform c k g w (x w) (cmp w) (va w) s)
    else gPerform c k g w (x w) (cmp w) (va w) s
  if w.phase = .started then rest w s
  else match gCheck c g (va w) s with
    | (.ok pa, s) => rest { w with idx := pa } s
    | (.error (some t), s) => xlatStop t w s
    | (.error none, s) => .wait w (s.modCore c (fun y => { y with ending := some 0x06 }))

/-- A Q word of X that accesses global memory. -/
def gWord (h : Hdr) (acq : Bool) (body : Nat → Nat → QWord → State → Run) : WordSpec :=
  { engine := .q, hdr := h, strands := [3], hold := if acq then .both else .begun, body := body }

def isSystem (e : BitVec 2) : Bool := e = 3
def hasAcq (o : BitVec 2) : Bool := o = 1 || o = 3
def hasRel (o : BitVec 2) : Bool := o = 2 || o = 3

def sumAddr (w : QWord) : Word := w.va + w.vb

def specLdg (h : Hdr) (d a b : BitVec 5) (_e o : BitVec 2) : WordSpec :=
  { gWord h (hasAcq o) (gBody { kind := .load, size := 8, write := false } sumAddr (fun _ => 0) (fun _ => 0)) with
    a := some a, b := some b, dst := some d }
def specStg (h : Hdr) (d a b : BitVec 5) (e o : BitVec 2) : WordSpec :=
  { gWord h false (gBody { kind := .store, size := 8, write := true, relQ := hasRel o, system := isSystem e } sumAddr (·.vd) (fun _ => 0)) with
    a := some a, b := some b, d := some d }
def specLda (h : Hdr) (d a b : BitVec 5) (_e : BitVec 2) : WordSpec :=
  { gWord h false (gBody { kind := .load, size := 8, write := false } sumAddr (fun _ => 0) (fun _ => 0)) with
    a := some a, b := some b, dst := some d, hold := .all }
def specStrl (h : Hdr) (d a b : BitVec 5) (e : BitVec 2) : WordSpec :=
  { gWord h false (gBody { kind := .store, size := 8, write := true, relAll := true, system := isSystem e } sumAddr (·.vd) (fun _ => 0)) with
    a := some a, b := some b, d := some d }

/-- Is a word a load or an atomic (R228)? -/
def isLoad : Instr → Bool
  | .ldg _ _ _ _ _ _ | .lda _ _ _ _ _ | .ldxD _ _ _ _ | .ldxW _ _ _ _ | .verld _ _ _ _ _ => true
  | .amoAdd _ _ _ _ _ _ | .amoAnd _ _ _ _ _ _ | .amoOr _ _ _ _ _ _ | .amoXor _ _ _ _ _ _ | .amoMin _ _ _ _ _ _ => true
  | .amoMax _ _ _ _ _ _ | .amoMinu _ _ _ _ _ _ | .amoMaxu _ _ _ _ _ _ | .amoSwap _ _ _ _ _ _ | .amoCas _ _ _ _ _ _ => true
  | .amoFadd _ _ _ _ _ _ => true
  | _ => false

/-- FENCE (R228): it holds every later word until its waits end. -/
def specFence (h : Hdr) (e o : BitVec 2) : WordSpec :=
  { engine := .q, hdr := h, strands := [3], hold := .all
    body := fun c k w s =>
      if hasAcq o && ((s.core c).strand k).words.any (fun q => decide (q.seq < w.seq) && isLoad q.i && q.phase ≠ .done)
      then .begun w s
      else if hasRel o then onRelease c k (isSystem e) w s (fun s => .done s 0 false)
      else .done s 0 false }

/-- An atomic (R229). -/
def amoWord (op size : Nat) (h : Hdr) (d a b : BitVec 5) (e o : BitVec 2) : WordSpec :=
  { gWord h (hasAcq o) (gBody { kind := .amo op, size := size, write := true, relQ := hasRel o, system := isSystem e } (·.va) (·.vb) (·.vd)) with
    a := some a, b := some b, dst := some d }

def specAmoAdd (h : Hdr) (d a b : BitVec 5) (e o : BitVec 2) : WordSpec := amoWord 0x05 8 h d a b e o
def specAmoAnd (h : Hdr) (d a b : BitVec 5) (e o : BitVec 2) : WordSpec := amoWord 0x06 8 h d a b e o
def specAmoOr (h : Hdr) (d a b : BitVec 5) (e o : BitVec 2) : WordSpec := amoWord 0x07 8 h d a b e o
def specAmoXor (h : Hdr) (d a b : BitVec 5) (e o : BitVec 2) : WordSpec := amoWord 0x08 8 h d a b e o
def specAmoMin (h : Hdr) (d a b : BitVec 5) (e o : BitVec 2) : WordSpec := amoWord 0x09 8 h d a b e o
def specAmoMax (h : Hdr) (d a b : BitVec 5) (e o : BitVec 2) : WordSpec := amoWord 0x0A 8 h d a b e o
def specAmoMinu (h : Hdr) (d a b : BitVec 5) (e o : BitVec 2) : WordSpec := amoWord 0x0B 8 h d a b e o
def specAmoMaxu (h : Hdr) (d a b : BitVec 5) (e o : BitVec 2) : WordSpec := amoWord 0x0C 8 h d a b e o
def specAmoSwap (h : Hdr) (d a b : BitVec 5) (e o : BitVec 2) : WordSpec := amoWord 0x0D 8 h d a b e o
def specAmoCas (h : Hdr) (d a b : BitVec 5) (e o : BitVec 2) : WordSpec := { amoWord 0x0E 8 h d a b e o with d := some d }
def specAmoFadd (h : Hdr) (d a b : BitVec 5) (e o : BitVec 2) : WordSpec := amoWord 0x0F 4 h d a b e o

/-! ### Versioned cells (18 R355-R357) -/

def cellWord (kind : ReqKind) (write rel : Bool) (h : Hdr) (d a b : BitVec 5) (e : BitVec 2) : WordSpec :=
  let g : GAcc := { kind := kind, size := 64, ctxKind := 1, write := write, relAll := rel, system := isSystem e }
  { gWord h false (fun c k w s =>
      if w.phase = .queued && kind ≠ .verst && wbits w.vb 63 32 ≠ 0 then .trap (runTrap 0x02) w s
      else gBody g (·.va) (·.vb) (fun _ => 0) c k w s) with
    a := some a, b := some b, dst := some d, hold := .all }

def specVerst (h : Hdr) (d a b : BitVec 5) (e : BitVec 2) : WordSpec := cellWord .verst true true h d a b e
def specVerld (h : Hdr) (d a b : BitVec 5) (e : BitVec 2) : WordSpec := cellWord .verld false false h d a b e
def specVerrcl (h : Hdr) (d a b : BitVec 5) (e : BitVec 2) : WordSpec := cellWord .verrcl true true h d a b e

/-! ### Write-back and invalidation (R230) -/

def wbWord (inval : Bool) (h : Hdr) (a b : BitVec 5) : WordSpec :=
  { engine := .q, hdr := h, strands := [3], a := some a, b := some b
    check := fun _ _ w _ =>
      if w.va.toNat % 256 ≠ 0 then some { issueTrap 0x03 with addr := w.va }
      else if w.vb.toNat % 256 ≠ 0 || w.vb.toNat > 2 ^ 32 then some (issueTrap 0x02) else none
    body := fun c _ w s =>
      if ((s.core c).d.wbOps.filter (fun o => !o.fin)).length ≥ 4 then .wait w s
      else .done (s.modData c (fun x => { x with wbOps := x.wbOps ++
        [{ order := w.seq, inval := inval, base := w.va, len := w.vb.toNat }] })) 0 false }

def specWbr (h : Hdr) (a b : BitVec 5) : WordSpec := wbWord false h a b
def specInvr (h : Hdr) (a b : BitVec 5) : WordSpec := wbWord true h a b

def specWbwait (h : Hdr) (d : BitVec 5) : WordSpec :=
  { engine := .q, hdr := h, strands := [3], dst := some d
    body := fun c _ w s =>
      let ops := (s.core c).d.wbOps.filter (fun o => decide (o.order < w.seq))
      if ops.any (fun o => !o.fin) then .wait w s
      else match ops.find? (fun o => o.code ≠ 0) with
        | some o => .trap { runTrap o.code with addr := o.addr } w s
        | none => .done (s.modData c (fun x => { x with wbCount := 0, wbOps := x.wbOps.filter (fun o => decide (w.seq ≤ o.order)) }))
            (s.core c).d.wbCount false }

/-! ### MCAST (R219, R220) -/

/-- The flit of core `i` of a multicast. -/
def mcastItem (c : Nat) (base payload : Word) (i : Nat) : Item :=
  { src := c, pkg := BitVec.ofNat 20 (wbits base 55 36), die := wbits base 26 24, cluster := wbits base 23 20, station := i
    body := .mcast payload (base.setWidth 16), launch := 0 }

/-- Put the remaining copies into the injection buffer while it has room: the next core, and the core's state. -/
def mcastFill (c cyc : Nat) (base payload m : Word) : Nat → Nat → Core → Nat × Core
  | 0, i, x => (i, x)
  | n + 1, i, x =>
    if i ≥ 16 then (i, x)
    else if !m.getLsbD i then mcastFill c cyc base payload m n (i + 1) x
    else if !x.injRoom then (i, x)
    else mcastFill c cyc base payload m n (i + 1)
      { x with inj := x.inj ++ [x.stamp cyc (mcastItem c base payload i)], mcOut := x.mcOut + 1 }

def specMcast (h : Hdr) (d a b : BitVec 5) : WordSpec :=
  { engine := .q, hdr := h, strands := [3], a := some a, b := some b, dst := some d, uses := [0x011], hold := .qOnly
    pre := fun c _ s => (s.core c).csr.mcastBase
    check := fun c _ w s =>
      let base := (s.core c).csr.mcastBase
      if wbits w.vb 63 16 ≠ 0 || wbits base 23 20 ≥ 12 then some (issueTrap 0x02)
      else if replayNode s c then some (issueTrap 0x05)
      else if w.vb = 0 then none
      else if !coreAllowed s (s.core c).csr.partition (BitVec.ofNat 20 (wbits base 55 36)) (wbits base 26 24) (wbits base 23 20)
      then some (issueTrap 0x07) else none
    body := fun c _ w s =>
      if w.vb = 0 then .done s 1 false
      else
        let x := s.core c
        let r := mcastFill c s.cycle w.res w.va w.vb 17 w.idx x
        if r.1 ≥ 16 && r.2.mcOut = 0 then .done (s.setCore c r.2) 0 false
        else .begun { w with idx := r.1 } (s.setCore c r.2) }

/-! ### Layered-tensor words (19 R368-R371) -/

/-- The checks on a handle (R368): its physical address and contents. -/
def handleCheck (c : Nat) (write : Bool) (va : Word) (s : State) : Except Trap (Nat × Handle) × State :=
  let bad := fun (e : BitVec 8) (s : State) => ((Except.error { runTrap e with addr := va } : Except Trap (Nat × Handle)), s)
  if wbits va 63 48 ≠ 0 then bad 0x04 s
  else if va.toNat % 64 ≠ 0 then bad 0x03 s
  else if write && replayNode s c then bad 0x05 s
  else match coreXlat s c { coreAccess s c with write := write } va.toNat with
    | (.fail e, s) => bad e s
    | (.ok pa _ _, s) =>
      if bits pa 47 46 ≥ 2 || (match target pa with
        | .crown _ _ => true
        | _ => false) then bad 0x05 s
      else match readBytes s pa 64 with
        | (some e, s, _) => bad e s
        | (none, s, b) =>
          let h := Handle.parse b
          if h.malformed then bad 0x02 s else (.ok (pa, h), s)

/-- Write a handle as one access. -/
def putHandle (pa : Nat) (h : Handle) (s : State) : State := writeBytes s pa h.bytes

/-- The handle at a physical address, now. -/
def handleAt (s : State) (pa : Nat) : Handle := Handle.parse (memReadN s.mem pa 64)

/-- A layered-tensor word: `issue` are its checks on the handle as it begins, `act` its step at the handle's home slice, where its request
has come to once its waits have ended (11 R236); `due`: it is there. -/
def layWord (write : Bool) (issue : QWord → Handle → Option (BitVec 8)) (fold rel : Bool)
    (act : Nat → QWord → Nat → Handle → State → Run) (h : Hdr) (d a : BitVec 5) : WordSpec :=
  let perform := fun c k (w : QWord) (s : State) =>
    if w.due = 1 || (s.now && rangeReady s w.idx 64) then act c { w with due := 0 } w.idx (handleAt s w.idx) s
    else sendReq c k w { kind := .lay, size := 64, write := write } w.idx 0 0 s
  let go := fun c k (w : QWord) (s : State) =>
    if fold && (tget {} s.folds w.idx).active then .begun { w with due := 0, phase := .started } s
    else if rel && w.due = 0 then onRelease c k false w s (fun s => perform c k w s)
    else perform c k w s
  { engine := .q, hdr := h, strands := [3], a := some a, dst := some d, hold := .all
    body := fun c k w s =>
      if w.phase = .started then go c k w s
      else match handleCheck c write w.va s with
        | (.error t, s) => xlatStop t w s
        | (.ok (pa, hd), s) => match issue w hd with
          | some e => .trap { runTrap e with addr := w.vb } w s
          | none => go c k { w with idx := pa } s }

def specLat (h : Hdr) (d a b : BitVec 5) : WordSpec :=
  { layWord true (fun w _ => if w.vb.toNat % 256 ≠ 0 then some 0x03 else none) false true (fun _ w pa hd s =>
      if hd.count = 7 then .trap { runTrap 0x0D with addr := w.va, x0 := zext hd.gen, x1 := 7 } w s
      else
        let hd' := { hd with ptrs := hd.ptrs.set hd.count (w.vb.toNat % 2 ^ 48), count := hd.count + 1, gen := hd.gen + 1 }
        .done (putHandle pa hd' s) (zext hd'.gen) false) h d a with b := some b }

def specLdt (h : Hdr) (d a b : BitVec 5) : WordSpec :=
  { layWord true (fun _ _ => none) true true (fun _ w pa hd s =>
      if w.vb.toNat ≥ hd.count then .trap (runTrap 0x02) w s
      else
        let hd' := { hd with ptrs := hd.ptrs.eraseIdx w.vb.toNat ++ [0], count := hd.count - 1, gen := hd.gen + 1 }
        .done (putHandle pa hd' s) (zext hd'.gen) false) h d a with b := some b }

/-- LFOLD's check of k and the target (R370). -/
def foldCheck (w : QWord) (hd : Handle) : Option (BitVec 8) :=
  if w.vb = 0 || w.vb.toNat > hd.count || hd.target = 0 then some 0x02 else none

def specLfold (h : Hdr) (d a b : BitVec 5) : WordSpec :=
  { layWord true foldCheck true true (fun c w pa hd s =>
      match foldCheck w hd with
      | some e => .trap (runTrap e) w s
      | none =>
        let x := s.core c
        .done { s with folds := tput s.folds pa { active := true, k := w.vb.toNat, snap := hd.bytes, ctx := x.csr.partition,
                                                  sup := x.csr.sup, die := coreDie c } } (zext hd.gen) false) h d a with b := some b }

def specLfwait (h : Hdr) (d a : BitVec 5) : WordSpec :=
  layWord false (fun _ _ => none) true false (fun _ _ pa hd s =>
    .done s (word (hd.gen.toNat * 2 ^ 32 + (tget {} s.folds pa).code.toNat)) false) h d a

def specLgen (h : Hdr) (d a : BitVec 5) : WordSpec :=
  layWord false (fun _ _ => none) false false (fun _ _ _ hd s => .done s (zext hd.gen) false) h d a

/-! ### What is asked of the host and of peers for others than a core's plain words (22 R407, R412) -/

/-- What has been asked of the host or of a peer for a reader. -/
def askedFor (s : State) (own : List Nat) (pa n : Nat) : Option Ask :=
  s.asks.find? (fun a => a.own = own && a.pa = pa && a.n = n && !a.write)

/-- Bytes of the host's or of a peer's memory: none where they have not come (22 R407, R412). -/
def askedBytes (s : State) (own : List Nat) (pa n : Nat) : SumRes (List Byte) :=
  match askedFor s own pa n with
  | some a => match a.ans with
    | some (true, b) => .ok b
    | some (false, _) => .error (some 0x08)
    | none => .error none
  | none => .error none

/-- Ask the host or a peer for bytes, or for an atomic's old value, unless it has been asked; memory of the package is asked for nothing. -/
def askAt (ctx : BitVec 16) (own : List Nat) (pa n : Nat) (op : Option (Nat × Word × Word)) (s : State) : State :=
  let note := fun (r : Nat × State) => { r.2 with asks := r.2.asks ++ [{ own := own, pa := pa, n := n, id := r.1 }] }
  if (askedFor s own pa n).isSome then s
  else match target pa with
    | .host off => note (match op with
      | none => sendHost ctx none off n false none 0 0 [] s
      | some (o, x, y) => sendHost ctx none off n false (some o) x y [] s)
    | .peer idx off =>
      let r := s.newReq
      note (r.1, sendPeer idx (match op with
        | none => .read off n
        | some (o, x, y) => .atomic off n o x y) r.2)
    | _ => s

/-- A reader has what it asked for: the answers are dropped. -/
def dropAsks (own : List Nat) (s : State) : State :=
  if s.asks.any (fun a => !a.write && a.own = own) then { s with asks := s.asks.filter (fun a => a.write || a.own ≠ own) } else s

/-! ### Packets and SUBMIT (16 R298, R302, R303, R310) -/

/-- A byte range of a packet is zero. -/
def zeroBytes (b : List Byte) (lo hi : Nat) : Bool := ((b.drop lo).take (hi - lo)).all (· = 0)

/-- The kinds and reserved bytes of a packet (16 R298, R303, R310). `b`: the packet's 64 bytes. -/
def packetOk (b : List Byte) : Bool :=
  let hd := leNat (b.take 8)
  bits hd 62 59 = 0 &&
  (match bits hd 55 48 with
   | 0x00 => zeroBytes b 8 64
   | 0x01 => zeroBytes b 32 46 && zeroBytes b 48 64
   | 0x02 | 0x03 => zeroBytes b 44 46 && zeroBytes b 48 64
   | 0x04 => zeroBytes b 48 64
   | 0x10 => zeroBytes b 18 20 && leNat ((b.drop 20).take 4) ≤ 1 && zeroBytes b 56 64
   | _ => false)

/-- S of a queue descriptor (16 R296). -/
def queueSize (lgs : Nat) : Nat := 2 ^ Nat.min lgs 16

/-- Translate every page of a ring (R302): the first failure. A register page is none (18 R340). -/
def ringCheck (c : Nat) (base : Nat) : Nat → Nat → State → Option (BitVec 8 × Nat) × State
  | 0, _, s => (none, s)
  | n + 1, i, s =>
    match coreXlat s c { coreAccess s c with write := true } (base / 65536 * 65536 + 65536 * i) with
    | (.fail e, s) => (some (e, base / 65536 * 65536 + 65536 * i), s)
    | (.ok pa _ _, s) => match target pa with
      | .crown _ _ => (some (0x05, base / 65536 * 65536 + 65536 * i), s)
      | _ => ringCheck c base n (i + 1) s

/-- The packet that SUBMIT publishes for index n (R302). -/
def submitBytes (c : Nat) (img : List Byte) (n : Word) : List Byte :=
  let hd := leNat (img.take 8)
  let kind := bits hd 55 48
  let body := if 1 ≤ kind && kind ≤ 4 then (img.drop 8).take 38 ++ leBytes 2 (c % 2048) ++ img.drop 48 else img.drop 8
  leBytes 8 (2 ^ 63 + bits hd 58 48 * 2 ^ 48 + n.toNat % 2 ^ 48) ++ body

/-- The packet goes to its slot, wherever that lies; a later release of the core covers what leaves the package (10 R227). -/
def submitPut (c pa : Nat) (b : List Byte) (s : State) : State :=
  match target pa with
  | .host off => (sendHost (s.core c).csr.partition (some c) off b.length true none 0 0 b s).2
  | .peer idx off =>
    let r := s.newReq
    sendPeer idx (.write off b) { r.2 with asks := r.2.asks ++ [{ own := [6, c], pa := pa, n := b.length, id := r.1, write := true }] }
  | .crown _ _ => s
  | _ => writeBytes s pa b

/-- SUBMIT has its index and room: it writes body and header. -/
def submitSlot (c base sz : Nat) (w : QWord) (s : State) : Run :=
  match coreXlat s c { coreAccess s c with write := true } (base + 64 * (w.res.toNat % sz)) with
  | (.ok pa _ _, s) =>
    if !rangeReady s pa 64 then .begun w s else .done (submitPut c pa (submitBytes c (w.buf.take 64) w.res) s) w.res false
  | (.fail e, s) => if e = walkWaits then .begun w s else .done s w.res false

/-- The last stage of SUBMIT: wait for room, then write body and header. `w.due` is the descriptor's physical address. -/
def submitPublish (c : Nat) (w : QWord) (s : State) : Run :=
  let sz := queueSize (s.memNat (w.due + 40) 1)
  if (w.res - word (s.memNat (w.due + 16) 8)).toNat ≥ sz then .begun w s
  else submitSlot c (s.memNat w.due 8 % 2 ^ 48) sz w s

/-- SUBMIT past its checks, with its descriptor in the host's or in a peer's memory: it claims, waits for room and publishes by requests (10
R229, 22 R407, R412). `w.buf` is the image and the descriptor as read; `w.idx` counts the stages: 0 before the claim, 1 the claim is on its
way, 2 claimed. -/
def submitAfar (c k : Nat) (w : QWord) (s : State) : Run :=
  let ctx := (s.core c).csr.partition
  let own := fun (n : Nat) => [6, c, w.seq, n]
  if w.idx = 0 then
    onRelease c k true w s (fun s => .begun { w with idx := 1 } (askAt ctx (own 1) (w.due + 8) 8 (some (0x05, 1, 0)) s))
  else if w.idx = 1 then
    match askedBytes s (own 1) (w.due + 8) 8 with
    | .error none => .begun w s
    | .error (some _) => .trap (deferredTrap (w.va + 8)) w (dropAsks (own 1) s)
    | .ok b => .begun { w with idx := 2, res := word (leNat b) } (dropAsks (own 1) s)
  else
    let db := w.buf.drop 64
    let sz := queueSize (leNat ((db.drop 40).take 1))
    match askedBytes s (own 2) (w.due + 16) 8 with
    | .error _ => .begun w (askAt ctx (own 2) (w.due + 16) 8 none s)
    | .ok b =>
      let s := dropAsks (own 2) s
      if (w.res - word (leNat b)).toNat ≥ sz then .begun w s else submitSlot c (leNat (db.take 8) % 2 ^ 48) sz w s

def submitBody (c k : Nat) (w : QWord) (s : State) : Run :=
  let claim := fun (w : QWord) (s : State) =>
    if bits w.due 47 46 ≥ 2 then submitAfar c k w s
    else if w.idx = 2 then submitPublish c w s
    else onRelease c k true w s (fun s =>
      match serveAmo s 0x05 (w.due + 8) 8 1 0 with
      | .wait => .begun w s
      | .fail _ => .trap (deferredTrap (w.va + 8)) w s
      | .ok s n => submitPublish c { w with idx := 2, res := n } s)
  if w.phase = .started then claim w s
  else
    let bad := fun (e : BitVec 8) (a : Word) (s : State) => xlatStop { runTrap e with addr := a } w s
    if w.va.toNat % 64 ≠ 0 then bad 0x03 w.va s
    else match scrCheck 2 w.vb 64 64 with
      | some t => .trap t w s
      | none => onScratch c w.vb.toNat 64 (some 0x08) w s (fun s =>
        let img := (s.core c).d.scrRead w.vb.toNat 64
        if !packetOk img then bad 0x02 w.vb s
        else if bits (leNat (img.take 8)) 55 48 = 4 &&
            !(tget {} (s.core c).csr.dom (leNat ((img.drop 45).take 1) % 4)).member then .trap { issueTrap 0x15 with addr := w.vb } w s
        else if replayNode s c then bad 0x05 w.va s
        else if wbits w.va 63 48 ≠ 0 then bad 0x04 w.va s
        else match coreXlat s c { coreAccess s c with write := true } w.va.toNat with
          | (.fail e, s) => bad e w.va s
          | (.ok pa _ _, s) =>
            let rings := fun (base lgs : Nat) (buf : List Byte) (s : State) =>
              let len := 64 * queueSize lgs
              match ringCheck c base ((base + len - 1) / 65536 - base / 65536 + 1) 0 s with
              | (some (e, a), s) => bad e (word a) s
              | (none, s) => claim { w with due := pa, buf := buf } s
            match target pa with
            | .crown _ _ => bad 0x05 w.va s
            | .host _ | .peer _ _ =>
              let own := [6, c, w.seq, 0]
              match askedBytes s own pa 64 with
              | .error none => .wait w (askAt (s.core c).csr.partition own pa 64 none s)
              | .error (some _) => .trap (deferredTrap w.va) w (dropAsks own s)
              | .ok b => rings (leNat (b.take 8) % 2 ^ 48) (leNat ((b.drop 40).take 1)) (img ++ b) (dropAsks own s)
            | _ =>
              if !rangeReady s pa 64 then .wait w s
              else if s.poisoned pa 64 then bad 0x08 w.va s
              else rings (s.memNat pa 8 % 2 ^ 48) (s.memNat (pa + 40) 1) img s)

/-- A SUBMIT that a freeze or a pre-emption meets before its claim restarts (R302). -/
def restartSubmit (w : QWord) : QWord :=
  match w.i with
  | .submit .. => if w.phase = .started && w.idx = 0 then { w with phase := .queued, req := 0, bit := false, due := 0, buf := [] } else w
  | _ => w

def specSubmit (h : Hdr) (d a b : BitVec 5) : WordSpec :=
  { engine := .q, hdr := h, strands := [3], a := some a, b := some b, dst := some d, hold := .both, scr := fun _ w _ => if w.buf.isEmpty then [(w.vb.toNat, 64)] else [], body := submitBody }

end Sys2Proof.Machine
end

