-- ==== Sys2Proof/Machine/Sync.lean ====
section
/-! DEFINITION. The sync network (12): DOMSET, the sync words and WFE; the roots, their verdicts, and what a delivery does at a
member. A signal in flight carries the cycle in which it takes effect (R241, R242). -/

namespace Sys2Proof.Machine

/-- The latency from a root to the members (R241). -/
def downLat (root : Nat) : Nat := if root < 8 then 14 else 54

/-- The scope root of a domain as its level gives it (R245): for the die that asks. -/
def levelRoot (d level : Nat) : Nat := if level ≤ 1 then d else 8

/-- Send a verdict from a root to the members. -/
def sendDown (root n : Nat) (m : SyncDown) (s : State) : State :=
  s.modSlot root n (fun x => { x with down := x.down ++ [(s.cycle + downLat root, m)] })

/-- The root's state of a core's domain at a level. -/
def domSlot (s : State) (c level : Nat) : SyncSlot :=
  s.slot (rootOf c level) (tget {} (s.core c).csr.dom level).slot.toNat

/-! ### Waiting words of a member -/

/-- The level of a BAR.W, RED, BRECV word. -/
def barLevel : Instr → Option Nat
  | .barW _ l => some l.toNat
  | _ => none
def redLevel : Instr → Option Nat
  | .red _ _ _ _ l => some l.toNat
  | _ => none
def brecvLevel : Instr → Option Nat
  | .brecv _ _ l => some l.toNat
  | _ => none
/-- The level of a sync word (R247). -/
def syncLevel : Instr → Option Nat
  | .barW _ l | .barA _ l | .barT _ _ l | .bcast _ _ l | .brecv _ _ l | .red _ _ _ _ l | .evt _ l => some l.toNat
  | _ => none
def isWfe : Instr → Bool
  | .wfe _ => true
  | _ => false

/-- The word of X that has sent its arrival or contribution, or waits, as `p` says. -/
def waitingWord (x : Core) (p : QWord → Bool) : Option QWord :=
  ((x.strand 3).words ++ x.shadow.words).find? (fun w => w.phase ≠ .done && p w)

def barWaiting (level : Nat) (w : QWord) : Bool := barLevel w.i = some level && w.idx = 1
def redWaiting (level : Nat) (w : QWord) : Bool := redLevel w.i = some level && w.idx = 1
def brecvWaiting (level : Nat) (w : QWord) : Bool := brecvLevel w.i = some level && w.phase = .started
/-- A sync word of a level that waits, for what it may be (R256). -/
def syncWaiting (level : Nat) (w : QWord) : Bool :=
  w.phase = .started && syncLevel w.i = some level
def wfeWaiting (w : QWord) : Bool := isWfe w.i && w.phase = .started

/-! ### Deliveries (R248, R250, R251, R253, R254) -/

/-- A WFE takes the latched events of this cycle: the latch is clear (R253). -/
def Core.tookEvent (x : Core) (cyc : Nat) : Core := { x with evt := false }.setMark cyc (fun m => { m with wfe := true })

/-- A delivery takes effect at a core. -/
def deliver (c : Nat) (m : Delivery) (s : State) : State :=
  let x := s.core c
  let stopAt := fun (p : QWord → Bool) (t : Trap) (s : State) => match waitingWord x p with
    | some w => failWord c 3 w.seq t s
    | none => s
  match m with
  | .release level epoch bad =>
    let s := s.modCore c (fun y => { y with
      pend := y.pend &&& ~~~(1#4 <<< level)
      csr := { y.csr with dom := tmod {} y.csr.dom level (fun d => { d with epoch := BitVec.ofNat 16 epoch }) } })
    match waitingWord x (barWaiting level) with
    | some w => if bad then failWord c 3 w.seq (waitTrap 0x15) s else finishWord c 3 w.seq 0 s
    | none => s
  | .result level v => match waitingWord x (redWaiting level) with
    | some w => finishWord c 3 w.seq v s
    | none => s
  | .bcast level v => s.modCore c (fun y => { y with latches := tmod [] y.latches level (· ++ [v]) })
  | .event =>
    if (x.markAt s.cycle).wfe then s                     -- merged with the event that the WFE of this cycle has taken (R253)
    else match waitingWord x wfeWaiting with
      | some w => finishWord c 3 w.seq 0 (s.modCore c (·.tookEvent s.cycle))
      | none => s.modCore c (fun y => { y with evt := true })
  | .broken level =>
    stopAt (syncWaiting level) (waitTrap 0x15) s
  | .incomplete level core =>
    stopAt (redWaiting level)
      { waitTrap 0x16 with x0 := word (core % 2048), x1 := zext (tget {} x.csr.dom level).slot } s

/-- Is a core frozen or pre-empted, so that deliveries wait (05 R119, R257)? -/
def coreHeld (s : State) (c : Nat) : Bool := (s.core c).frozen s.cycle || (s.core c).preempt

/-- Is a core a member, at a level, of the domain in a slot? -/
def memberOf (x : Core) (level slot : Nat) : Bool :=
  let d := tget {} x.csr.dom level
  d.member && d.slot.toNat = slot

/-- Add a delivery to the saved context of a pre-empted member (R257). -/
def holdSaved (c level slot : Nat) (m : Delivery) (s : State) : State :=
  { s with dies := s.dies.map (fun d => (d.1, { d.2 with launches := d.2.launches.map (fun l => { l with
      nodes := l.nodes.map (fun n => { n with saved := n.saved.map (fun y =>
        if y.1 = c && memberOf y.2 level slot then (y.1, { y.2 with held := y.2.held ++ [m] }) else y) }) }) })) }

/-- A delivery reaches a member: it acts, or it is held. -/
def deliverTo (level slot : Nat) (m : Delivery) (c : Nat) (s : State) : State :=
  if memberOf (s.core c) level slot then
    if coreHeld s c then s.modCore c (fun y => { y with held := y.held ++ [m] }) else deliver c m s
  else holdSaved c level slot m s

/-- Every held delivery of a core acts, in order. -/
def deliverHeld (c : Nat) (s : State) : State :=
  let l := (s.core c).held
  l.foldl (fun s m => deliver c m s) (s.modCore c (fun y => { y with held := [] }))

/-- A delivery reaches every member of a slot. -/
def deliverAll (root n : Nat) (m : Delivery) (s : State) : State :=
  let x := s.slot root n
  x.members.foldl (fun s c => deliverTo x.level n m c s) s

/-! ### Roots -/

/-- A package-root slot forwards a token over a link, whose boundary element serialises one in 16 cycles (22 R413, R414). -/
def sendToken (link n kind : Nat) (data : List Word) (s : State) : State :=
  s.modLink link (fun l =>
    let t := Nat.max s.cycle l.serial
    { l.put 0 (.token n kind t data) with serial := t + 16 })

/-- The tree entry of a level-3 slot (22 R413). -/
def treeEntry (s : State) (n : Nat) : Word := tget 0 s.pkg.tree (s.slot 8 n).tree.toNat
def treeRoot (e : Word) : Bool := e.getLsbD 5
def treeParent (e : Word) : Nat := wbits e 4 0
def treeChildren (e : Word) : List Nat := (List.range 32).filter (fun l => e.getLsbD (6 + l))

/-- The tokens' kinds: arrivals and releases (an arrival's data is 1 where every member of the subtree waits in BAR.W), broadcasts,
events, breaks, broadcast credit, a fault of a member that lacked a contribution, subtrees whose members all wait, and reductions by their
operation. -/
def tokBar : Nat := 0
def tokBcast : Nat := 1
def tokEvent : Nat := 2
def tokBroken : Nat := 3
def tokCredit : Nat := 4
def tokIncomplete : Nat := 5
def tokWait : Nat := 6
def tokRed (op : Nat) : Nat := 16 + op

/-- Send a token to every child package. -/
def toChildren (n kind : Nat) (data : List Word) (s : State) : State :=
  (treeChildren (treeEntry s n)).foldl (fun s l => sendToken l n kind data s) s

/-- Is a reduction in progress at a root: of a fabric domain, in this package or in one below it? -/
def reducing (s : State) (root n : Nat) : Bool :=
  let x := s.slot root n
  x.redOp.isSome || (x.level = 3 && (tget {} s.pkg.trees n).up.any (fun t => decide (16 ≤ t.2.1)))

/-- The domain breaks (R256): every member hears of it, and a fabric domain's neighbours in the tree. `inc`: that core has faulted without
a contribution; a reduction in progress is left incomplete by it (R254), and every member waiting in it hears so first. -/
def breakWith (inc : Option Nat) (root n : Nat) (s : State) : State :=
  let x := s.slot root n
  if x.broken then s
  else
    let left := if reducing s root n then inc else none
    let s := match left with
      | some c => sendDown root n (.incomplete c) s
      | none => s
    let s := sendDown root n .broken (s.modSlot root n (fun x => { x with
      broken := true
      redOp := if left.isSome then none else x.redOp
      contribs := if left.isSome then [] else x.contribs
      incomplete := x.incomplete ++ left.toList.filter (fun c => !x.incomplete.contains c) }))
    if x.level = 3 then
      let e := treeEntry s n
      let kind := if inc.isSome then tokIncomplete else tokBroken
      let data := (inc.map word).toList
      let s := toChildren n kind data s
      if treeRoot e then s else sendToken (treeParent e) n kind data s
    else s

def breakSlot (root n : Nat) (s : State) : State := breakWith none root n s

/-- The barrier's release at a root (R248). -/
def releaseSlot (root n : Nat) (s : State) : State :=
  let e := (s.slot root n).epoch + 1
  sendDown root n (.release e.toNat false) (s.modSlot root n (fun x => { x with arrived := [], epoch := e }))

/-- One reduction operation (R251). -/
def redOp (op : Nat) (x y : Word) : Word :=
  match op with
  | 0 => x + y
  | 1 => if x.slt y then x else y
  | 2 => if x.slt y then y else x
  | 3 => x &&& y
  | 4 => x ||| y
  | 5 => x ^^^ y
  | _ => fadd32 x y

/-- Insert by ascending key. -/
def insertBy (p : Nat × Word) : List (Nat × Word) → List (Nat × Word)
  | [] => [p]
  | q :: r => if p.1 < q.1 then p :: q :: r else q :: insertBy p r

/-- The result of a reduction over contributions in ascending key (R251): fadd starts from −0. -/
def reduce (op : Nat) (l : List (Nat × Word)) : Word :=
  let l := l.foldl (fun t p => insertBy p t) []
  if op = 6 then l.foldl (fun t p => fadd32 t p.2) 0x80000000#64
  else match l with
    | [] => 0
    | p :: r => r.foldl (fun t q => redOp op t q.2) p.2

/-- The reduction's result at a root. -/
def resultSlot (root n : Nat) (v : Word) (s : State) : State :=
  sendDown root n (.result v) (s.modSlot root n (fun x => { x with redOp := none, contribs := [] }))

/-- A package's own partial result as a token (22 R414): for fadd each package's result keeps its dev.id. -/
def redToken (s : State) (op : Nat) (l : List (Nat × Word)) : List Word :=
  if op = 6 then [zext s.pkg.devId <<< 32 ||| reduce op l] else [reduce op l]

/-- The final result from the tokens of all packages (22 R414). -/
def redFinal (op : Nat) (ts : List Word) : Word :=
  if op = 6 then reduce 6 (ts.map (fun t => (wbits t 51 32, word (wbits t 31 0))))
  else match ts with
    | [] => 0
    | t :: r => r.foldl (redOp op) t

/-- Combine tokens on their way up. -/
def redJoin (op : Nat) (ts : List Word) : List Word :=
  if op = 6 then ts else [redFinal op ts]

/-- The tokens of one kind that stand at the package root for a slot, from distinct child links. -/
def tokensOf (s : State) (n kind : Nat) : List (Nat × Nat × List Word) :=
  ((tget {} s.pkg.trees n).up).filter (fun t => t.2.1 = kind)

/-- Has every child package sent a token of this kind? -/
def childrenIn (s : State) (n kind : Nat) : Bool :=
  (treeChildren (treeEntry s n)).all (fun l => (tokensOf s n kind).any (fun t => t.1 = l))

/-- A barrier or reduction is over at a package root: the tokens that stood for it, and the notes of what went up, are gone; the members
that waited go on. -/
def dropTokens (n kind : Nat) (s : State) : State :=
  { s with pkg := { s.pkg with trees := tmod {} s.pkg.trees n (fun t =>
    { t with up := t.up.filter (fun u => u.2.1 ≠ kind && u.2.1 ≠ tokWait)
             sent := t.sent.filter (fun k => k ≠ kind && k ≠ tokWait) }) } }

/-- Note what has gone up the tree. -/
def noteSent (n : Nat) (ks : List Nat) (s : State) : State :=
  { s with pkg := { s.pkg with trees := tmod {} s.pkg.trees n (fun t => { t with sent := ks ++ t.sent }) } }

/-- The context of a member of a domain: the live core, or the one saved (R257). -/
def memberContext (s : State) (level slot c : Nat) : Core :=
  if memberOf (s.core c) level slot then s.core c
  else ((s.dies.findSome? (fun d => d.2.launches.findSome? (fun l => l.nodes.findSome? (fun n =>
    (n.saved.find? (fun y => y.1 = c && memberOf y.2 level slot)).map (·.2)))))).getD {}

/-- Does a member wait in BAR.W, having arrived; does it wait in RED, having contributed (R255)? -/
def inBar (s : State) (x : SyncSlot) (n c : Nat) : Bool :=
  x.arrived.contains c && (waitingWord (memberContext s x.level n c) (barWaiting x.level)).isSome
def inRed (x : SyncSlot) (c : Nat) : Bool := x.contribs.any (fun p => p.1 = c)

/-- The child packages of a slot at the package root. -/
def kidsOf (s : State) (n : Nat) : List Nat := if (s.slot 8 n).level = 3 then treeChildren (treeEntry s n) else []

/-- Has a child package sent a token that `p` takes? -/
def kidSent (s : State) (n l : Nat) (p : Nat × List Word → Bool) : Bool := (tget {} s.pkg.trees n).up.any (fun t => t.1 = l && p t.2)

/-- Does every member of a domain, of the packages below too, wait in BAR.W or RED (R255)? -/
def allWait (s : State) (root n : Nat) : Bool :=
  let x := s.slot root n
  !x.members.isEmpty && x.members.all (fun c => inBar s x n c || inRed x c)
    && (if root = 8 then kidsOf s n else []).all (fun l => kidSent s n l (fun t =>
      (t.1 = tokBar && t.2 = [1]) || t.1 = tokWait || decide (16 ≤ t.1)))

/-- Every member has arrived, or contributed, at a root. -/
def allArrived (x : SyncSlot) : Bool := x.members.all (fun c => x.arrived.contains c)
def allContributed (x : SyncSlot) : Bool := x.redOp.isSome && x.members.all (fun c => x.contribs.any (fun p => p.1 = c))

/-- A barrier that every member of this package has reached: it is released, or its token goes up the tree (22 R413). A level-3
domain waits for its child packages; `sent` notes what has gone up. -/
def tryBarrier (root n : Nat) (s : State) : State :=
  let x := s.slot root n
  if !allArrived x then s
  else if x.level < 3 then releaseSlot root n s
  else if !childrenIn s n tokBar || (tget {} s.pkg.trees n).sent.contains tokBar then s
  else
    let e := treeEntry s n
    if treeRoot e then releaseSlot root n (toChildren n tokBar [] (dropTokens n tokBar s))
    else if allWait s root n then noteSent n [tokBar, tokWait] (sendToken (treeParent e) n tokBar [1] s)
    else noteSent n [tokBar] (sendToken (treeParent e) n tokBar [] s)

def tryReduce (root n : Nat) (s : State) : State :=
  let x := s.slot root n
  match x.redOp with
  | none => s
  | some op =>
    if !allContributed x then s
    else if x.level < 3 then resultSlot root n (reduce op x.contribs) s
    else if !childrenIn s n (tokRed op) || (tget {} s.pkg.trees n).sent.contains (tokRed op) then s
    else
      let e := treeEntry s n
      let all := (tokensOf s n (tokRed op)).flatMap (fun t => t.2.2) ++ redToken s op x.contribs
      if treeRoot e then
        let v := redFinal op all
        resultSlot root n v (toChildren n (tokRed op) [v] (dropTokens n (tokRed op) s))
      else noteSent n [tokRed op] (sendToken (treeParent e) n (tokRed op) (redJoin op all) s)

/-- Who takes a broadcast from a root: the members of this package and, in a fabric domain, the child packages (their keys follow the
members'). -/
def takers (s : State) (root n : Nat) : List Nat :=
  let x := s.slot root n
  x.members ++ (if x.level = 3 then (treeChildren (treeEntry s n)).map (· + 65536) else [])

/-- Latch entries that one broadcast takes at each of its takers, and the most that any has taken. -/
def takeLatches (ts : List Nat) (used : Table Nat) : Table Nat := ts.foldl (fun u c => tput u c (tget 0 u c + 1)) used
def mostUsed (ts : List Nat) (used : Table Nat) : Nat := ts.foldl (fun m c => Nat.max m (tget 0 used c)) 0

/-- The broadcasts that wait at a root and find credit at every taker are delivered, one per cycle (R250). -/
def tryBcast (root n : Nat) : Nat → State → State
  | 0, s => s
  | f + 1, s =>
    let x := s.slot root n
    match x.waiting with
    | [] => s
    | (_, v) :: rest =>
      if decide (mostUsed (takers s root n) x.used < 8) then
        let last := x.down.foldl (fun t m => match m.2 with
          | .bcast _ => Nat.max t (m.1 + 1)
          | _ => t) 0
        let due := Nat.max (s.cycle + downLat root) last
        let s := s.modSlot root n (fun x => { x with
          waiting := rest
          used := takeLatches (takers s root n) x.used
          down := x.down ++ [(due, .bcast v)] })
        let s := if x.level = 3 then toChildren n tokBcast [v] s else s
        tryBcast root n f s
      else s

/-- Is the domain crossed (R255): every member waits, one at least has not arrived, and one at least has not contributed? In a fabric
domain the child packages' tokens stand for their members. -/
def crossed (s : State) (root n : Nat) : Bool :=
  let x := s.slot root n
  let kids := if root = 8 then kidsOf s n else []
  allWait s root n
    && (x.members.any (fun c => !x.arrived.contains c) || kids.any (fun l => !kidSent s n l (fun t => t.1 = tokBar)))
    && (x.members.any (fun c => !inRed x c) || kids.any (fun l => !kidSent s n l (fun t => decide (16 ≤ t.1))))

/-- A crossed domain breaks in the cycle in which it is crossed (R255). A package of a fabric tree that is not its root tells its parent
that its members all wait, where no token of the barrier or the reduction has said so. -/
def breakCrossed (root n : Nat) (s : State) : State :=
  let x := s.slot root n
  if !x.installed || x.broken then s
  else if x.level = 3 && !treeRoot (treeEntry s n) then
    if !allWait s root n || (tget {} s.pkg.trees n).sent.any (fun k => k = tokWait || decide (16 ≤ k)) then s
    else noteSent n [tokWait] (sendToken (treeParent (treeEntry s n)) n tokWait [] s)
  else if crossed s root n then breakSlot root n s
  else s

/-- Has a child package contributed to the reduction in progress with another operation (R251)? -/
def opDiffers (s : State) (n op : Nat) : Bool :=
  (tget {} s.pkg.trees n).up.any (fun t => decide (16 ≤ t.2.1) && t.2.1 ≠ tokRed op)

/-- An arrival, contribution, broadcast or event reaches the root (R248-R253). Broadcasts that wait for credit keep the order in which
they came (DESIGN CHOICE, log entry 71). -/
def countUp (root n : Nat) (m : SyncUp) (s : State) : State :=
  let x := s.slot root n
  match m with
  | .arrive c => if x.broken then s else s.modSlot root n (fun x => { x with arrived := x.arrived ++ [c] })
  | .contrib c op v =>
    if x.broken then s
    else match x.redOp with
      | none =>
        let s := s.modSlot root n (fun x => { x with redOp := some op, contribs := [(c, v)] })
        if opDiffers s n op && x.level = 3 then breakSlot root n s else s
      | some op' =>
        if op = op' then s.modSlot root n (fun x => { x with contribs := x.contribs ++ [(c, v)] }) else breakSlot root n s
  | .bcast c v =>
    if x.broken then s
    else if x.level = 3 && !treeRoot (treeEntry s n) then sendToken (treeParent (treeEntry s n)) n tokBcast [v] s
    else s.modSlot root n (fun x => { x with waiting := x.waiting ++ [(c, v)] })
  | .event c =>
    if x.broken then s
    else if x.level < 3 then sendDown root n (.event c) s
    else
      let data := [word (s.pkg.devId.toNat * 2 ^ 32 + c)]
      if treeRoot (treeEntry s n) then toChildren n tokEvent data (sendDown root n (.event c) s)
      else sendToken (treeParent (treeEntry s n)) n tokEvent data s
  | .fault _ | .credit _ => s

/-- Is the signal one of those that SYNC_ARRIVAL counts? -/
def arrivalKind : SyncUp → Bool
  | .fault _ | .credit _ => false
  | _ => true

/-- Signals in the order in which they count: broadcasts by their cycle, and those of one cycle by ascending core (R250). -/
def upKey (m : Nat × SyncUp) : Nat :=
  match m.2 with
  | .bcast c _ => m.1 * 65536 + c
  | _ => 0
def insertUp (m : Nat × SyncUp) : List (Nat × SyncUp) → List (Nat × SyncUp)
  | [] => [m]
  | q :: r => if upKey m < upKey q then m :: q :: r else q :: insertUp m r

/-- Has a signal reached a root that must act on it in this cycle? A domain that is not live holds all but a fault (R246, R254). -/
def SyncSlot.upDue (x : SyncSlot) (cyc : Nat) : Bool :=
  x.up.any (fun m => decide (m.1 ≤ cyc) && (x.installed || x.broken || (!x.members.isEmpty && !arrivalKind m.2)))

/-- SYNC_ARRIVAL: every signal that has reached the root by now is counted, those of one cycle together; a domain that is not
live holds them (R246), and a broken one drops them (R256). -/
def syncArrivalEv (root n : Nat) (s : State) : State :=
  let x := s.slot root n
  if !x.installed && !x.broken then s
  else
    let now := x.up.filter (fun m => decide (m.1 ≤ s.cycle) && arrivalKind m.2)
    if now.isEmpty then s
    else
      let s := s.modSlot root n (fun x => { x with up := x.up.filter (fun m => !(decide (m.1 ≤ s.cycle) && arrivalKind m.2)) })
      let s := (now.foldl (fun l m => insertUp m l) []).foldl (fun s m => countUp root n m.2 s) s
      let s := breakCrossed root n s
      if (s.slot root n).broken then s
      else tryBcast root n 8 (tryReduce root n (tryBarrier root n s))

/-- Entries come back to a root (R250): a broadcast that waited may go; a package of a fabric tree that is not its root passes up what
all of its takers have freed. -/
def giveCredit (root n : Nat) (back : List Nat) (s : State) : State :=
  let x := s.slot root n
  let ts := takers s root n
  let used := back.foldl (fun u c => tput u c (tget 0 u c - 1)) x.used
  let s := s.modSlot root n (fun x => { x with used := used })
  if x.broken then s
  else if x.level = 3 && !treeRoot (treeEntry s n) then
    (List.range (mostUsed ts x.used - mostUsed ts used)).foldl (fun s _ => sendToken (treeParent (treeEntry s n)) n tokCredit [] s) s
  else tryBcast root n 8 s

/-- BROADCAST_CREDIT_RETURN (R250). -/
def creditReturnEv (root n : Nat) (s : State) : State :=
  let x := s.slot root n
  let isC := fun (m : Nat × SyncUp) => decide (m.1 ≤ s.cycle) && (match m.2 with
    | .credit _ => true
    | _ => false)
  let back := x.up.filterMap (fun m => if isC m then (match m.2 with
    | .credit c => some c
    | _ => none) else none)
  if back.isEmpty then s
  else
    giveCredit root n back (s.modSlot root n (fun x => { x with up := x.up.filter (fun m => !isC m) }))

/-- SYNC_FAULT_SIGNAL (R254): reduction, barrier and domain, one that is not live yet too. In a fabric domain another package may have a
reduction in progress that lacks the faulting member, so every package hears of that core. -/
def faultSignalEv (root n : Nat) (s : State) : State :=
  let x := s.slot root n
  let isF := fun (m : Nat × SyncUp) => decide (m.1 ≤ s.cycle) && (match m.2 with
    | .fault _ => true
    | _ => false)
  let bad := x.up.filterMap (fun m => if isF m then (match m.2 with
    | .fault c => some c
    | _ => none) else none)
  if bad.isEmpty then s
  else
    let s := s.modSlot root n (fun x => { x with up := x.up.filter (fun m => !isF m) })
    if !x.installed && x.members.isEmpty then s
    else
      let lack := if reducing s root n || x.level = 3 then bad.filter (fun c => !x.contribs.any (fun p => p.1 = c)) else []
      breakWith (if lack.isEmpty then none else some (lack.foldl Nat.min (lack.headD 0))) root n
        (s.modSlot root n (fun x => { x with incomplete := x.incomplete ++ (if reducing s root n then lack else []) }))

/-- The signals to the members that are due, of the kinds that `p` takes, and the slot without them. -/
def takeDown (root n : Nat) (p : SyncDown → Bool) (s : State) : List SyncDown × State :=
  let x := s.slot root n
  let due := fun (m : Nat × SyncDown) => decide (m.1 ≤ s.cycle) && p m.2
  ((x.down.filter due).map (·.2), s.modSlot root n (fun x => { x with down := x.down.filter (fun m => !due m) }))

/-- Are verdicts due at the members' side that went out before a break: they take effect first? -/
def verdictsDue (s : State) (root n : Nat) : Bool :=
  (s.slot root n).down.any (fun m => decide (m.1 ≤ s.cycle) && (match m.2 with
    | .broken | .incomplete _ => false
    | _ => true))

/-- A signal takes effect at every member. -/
def downAct (root n : Nat) (s : State) (m : SyncDown) : State :=
  let x := s.slot root n
  match m with
  | .release e bad => deliverAll root n (.release x.level e bad) s
  | .result v => deliverAll root n (.result x.level v) s
  | .bcast v => deliverAll root n (.bcast x.level v) s
  | .event src => x.members.foldl (fun s c => if c = src then s else deliverTo x.level n .event c s) s
  | .broken => deliverAll root n (.broken x.level) s
  | .incomplete c => deliverAll root n (.incomplete x.level c) s

def downEv (root n : Nat) (p : SyncDown → Bool) (s : State) : State :=
  let r := takeDown root n p s
  r.1.foldl (downAct root n) r.2

/-- Merge the private SCATTER.ADD copies of the members, in ascending core (16 R309). -/
def addElems (type : Nat) (t c : List Byte) : List Byte :=
  let n := if type = 7 then 2 else 4
  (List.range (t.length / n)).flatMap (fun i =>
    let x := leNat ((t.drop (n * i)).take n)
    let y := leNat ((c.drop (n * i)).take n)
    let f := if type = 7 then Fmt.bf16 else Fmt.fp32
    leBytes n (if type = 4 then x + y else (f.round 0 0 (Val.add (f.decode x) (f.decode y)).1).1))

def mergeCopy (x : ScatterCopy) (s : State) : State :=
  x.rows.foldl (fun s r => writeBytes s r.1 (addElems x.type (memReadN s.mem r.1 r.2.length) r.2)) s

/-- Merge and drop the copies that `p` takes, in ascending issuer. -/
def mergeCopies (p : ScatterCopy → Bool) (s : State) : State :=
  let take := s.dies.flatMap (fun d => d.2.scatter.filter p)
  let ids := (take.map (·.issuer)).eraseDups.mergeSort (fun a b => decide (a ≤ b))
  let s := ids.foldl (fun s i => (take.filter (fun x => x.issuer = i)).foldl (fun s x => mergeCopy x s) s) s
  { s with dies := s.dies.map (fun d => (d.1, { d.2 with scatter := d.2.scatter.filter (fun x => !p x) })) }

def isRelease : SyncDown → Bool
  | .release _ _ => true
  | _ => false
def isResult : SyncDown → Bool
  | .result _ => true
  | _ => false
def isBcast : SyncDown → Bool
  | .bcast _ => true
  | _ => false
def isEvent : SyncDown → Bool
  | .event _ => true
  | _ => false
def isVerdict : SyncDown → Bool
  | .broken | .incomplete _ => true
  | _ => false

/-- BARRIER_RELEASE (R248): with it the members' SCATTER.ADD copies are merged (16 R309). -/
def barrierReleaseEv (root n : Nat) (s : State) : State :=
  let x := s.slot root n
  if x.down.any (fun m => decide (m.1 ≤ s.cycle) && isRelease m.2) then
    downEv root n isRelease (mergeCopies (fun y => y.level = x.level && x.members.any (fun c => c % 2048 = y.issuer)) s)
  else s

/-! ### Tree tokens at the package root (22 R413, R414) -/

/-- The core of this package that sent an event, from its token: one of another package is none of the members. -/
def eventSource (s : State) (v : Word) : Nat := if wbits v 51 32 = s.pkg.devId.toNat then wbits v 31 0 else 0xFFFFFFFF

/-- The oldest token that a link holds for a slot that is live, or broken; one for a slot that is not live yet waits, and holds back no
other slot's (12 R246). -/
def heldToken (s : State) (l : Link) : Option (Nat × Nat × Nat × Nat × List Word) :=
  l.hold.findSome? (fun x => match x.2 with
    | .token n kind b data => if (s.slot 8 n).installed || (s.slot 8 n).broken then some (x.1, n, kind, b, data) else none
    | _ => none)

/-- Does a link hold a token whose hold has ended (R414)? -/
def tokenDue (s : State) (l : Link) : Bool :=
  match heldToken s l with
  | some (t, _) => decide (t ≤ s.cycle)
  | none => false

/-- A token that its link has passed on reaches the package root of a level-3 slot; a broken domain drops it (R256). -/
def tokenIn (link n kind : Nat) (data : List Word) (s : State) : State :=
  let e := treeEntry s n
  if (s.slot 8 n).broken then s
  else if !treeRoot e && link = treeParent e then
    -- from the parent: a release, result, broadcast, event or break on its way down
    let s := if kind = tokBar || decide (16 ≤ kind) then dropTokens n kind s else s
    let s := if kind = tokBroken || kind = tokIncomplete then s else toChildren n kind data s
    if kind = tokBar then releaseSlot 8 n s
    else if kind = tokBcast then
      sendDown 8 n (.bcast (data.headD 0)) (s.modSlot 8 n (fun x => { x with used := takeLatches (takers s 8 n) x.used }))
    else if kind = tokEvent then sendDown 8 n (.event (eventSource s (data.headD 0))) s
    else if kind = tokBroken then breakSlot 8 n s
    else if kind = tokIncomplete then breakWith (some (data.headD 0).toNat) 8 n s
    else resultSlot 8 n (data.headD 0) s
  else if (treeChildren e).contains link then
    if kind = tokBcast then
      if treeRoot e then tryBcast 8 n 8 (s.modSlot 8 n (fun x => { x with waiting := x.waiting ++ [(0xFFFFFFFF, data.headD 0)] }))
      else sendToken (treeParent e) n tokBcast data s
    else if kind = tokEvent then
      if treeRoot e then toChildren n kind data (sendDown 8 n (.event (eventSource s (data.headD 0))) s)
      else sendToken (treeParent e) n kind data s
    else if kind = tokBroken then breakSlot 8 n s
    else if kind = tokIncomplete then breakWith (some (data.headD 0).toNat) 8 n s
    else if kind = tokCredit then giveCredit 8 n [link + 65536] s
    else
      let s := { s with pkg := { s.pkg with trees := tmod {} s.pkg.trees n (fun t => { t with up := t.up ++ [(link, kind, data)] }) } }
      if decide (16 ≤ kind) && ((s.slot 8 n).redOp.any (fun op => tokRed op ≠ kind) || opDiffers s n (kind - 16)) then breakSlot 8 n s
      else tryReduce 8 n (tryBarrier 8 n s)
  else breakSlot 8 n s                                   -- a token on a link the entry does not name

/-! ### The sync words (R247-R253) -/

/-- Is a core at a level no member, or its domain broken (R247)? -/
def domGone (s : State) (c level : Nat) : Bool := !(tget {} (s.core c).csr.dom level).member || (domSlot s c level).broken

/-- Must a sync word wait for its start: for the cycle after its issue, and the cycle after the end of the Q word before it (R247, R259)? -/
def syncEarly (s : State) (c : Nat) (w : QWord) : Bool :=
  w.phase = .queued && w.idx = 0 && (decide (s.cycle ≤ w.at_) || ((s.core c).markAt s.cycle).qDone)

/-- A sync word of X: membership and a live bit are checked at issue; it starts once every earlier Q word has completed, and traps then
if its domain has gone or broken meanwhile (R246, R256). One that waits again after a stop traps too, unless a verdict is on its way. -/
def syncWord (h : Hdr) (l : BitVec 2) (body : Nat → Nat → QWord → State → Run) : WordSpec :=
  { engine := .q, hdr := h, strands := [3], hold := .qOnly
    check := fun c _ _ s => if domGone s c l.toNat then some (issueTrap 0x15) else none
    body := fun c k w s =>
      if (((s.core c).strand k).queue .q).any (fun q => decide (q.seq < w.seq)) || syncEarly s c w then .wait w s
      else if w.phase = .queued && domGone s c l.toNat && (w.idx = 0 || (domSlot s c l.toNat).down.isEmpty) then
        .trap (waitTrap 0x15) w s
      else body c k w s }

/-- An arrival's release waits (R249); then the arrival is sent. -/
def sendArrival (c k level : Nat) (w : QWord) (s : State) (go : State → Run) : Run :=
  match onRelease c k (level = 3) w s (fun s => .done s 0 false) with
  | .done s _ _ =>
    go ((s.sendUp c level (.arrive c)).modCore c (fun y => { y with pend := y.pend ||| (1#4 <<< level) }))
  | r => r

def specBarW (h : Hdr) (l : BitVec 2) : WordSpec :=
  { syncWord h l (fun c k w s =>
      if w.idx = 1 then .begun w s
      else if (s.core c).pend.getLsbD l.toNat then .begun { w with idx := 1 } s
      else sendArrival c k l.toNat w s (fun s => .begun { w with idx := 1 } s)) with hold := .all }

/-- BAR.A. The pending bit is looked at when it issues (R248), and again when it starts: where an earlier word's arrival has set it
meanwhile, it stops there with 0x15 (DESIGN CHOICE, log entry 71). -/
def specBarA (h : Hdr) (l : BitVec 2) : WordSpec :=
  { syncWord h l (fun c k w s =>
      if (s.core c).pend.getLsbD l.toNat then .trap (waitTrap 0x15) w s
      else sendArrival c k l.toNat w s (fun s => .done s 0 false)) with
    check := fun c k w s =>
      if (s.core c).pend.getLsbD l.toNat then some (issueTrap 0x15)
      else (syncWord h l (fun _ _ _ s => .done s 0 false)).check c k w s }

def specBarT (h : Hdr) (d : BitVec 5) (l : BitVec 2) : WordSpec :=
  { syncWord h l (fun c _ _ s =>
      .done s (word ((if (s.core c).pend.getLsbD l.toNat then 2 ^ 63 else 0) + (tget {} (s.core c).csr.dom l.toNat).epoch.toNat)) false) with
    dst := some d }

def specBcast (h : Hdr) (a : BitVec 5) (l : BitVec 2) : WordSpec :=
  { syncWord h l (fun c _ w s => .done (s.sendUp c l.toNat (.bcast c w.va)) 0 false) with a := some a }

def specBrecv (h : Hdr) (d : BitVec 5) (l : BitVec 2) : WordSpec :=
  { syncWord h l (fun c _ w s =>
      match tget [] (s.core c).latches l.toNat with
      | [] => .begun w s
      | v :: r => .done ((s.modCore c (fun y => { y with latches := tput y.latches l.toNat r })).sendUp c l.toNat (.credit c)) v false) with
    dst := some d }

def specRed (h : Hdr) (d a b : BitVec 5) (l : BitVec 2) : WordSpec :=
  { syncWord h l (fun c _ w s =>
      if w.idx = 1 then .begun w s
      else .begun { w with idx := 1 } (s.sendUp c l.toNat (.contrib c b.toNat w.va))) with
    a := some a, dst := some d }

def specEvt (h : Hdr) (l : BitVec 2) : WordSpec :=
  syncWord h l (fun c _ _ s => .done (s.sendUp c l.toNat (.event c)) 0 false)

/-- WFE (R253). -/
def specWfe (h : Hdr) : WordSpec :=
  { engine := .y, hdr := h, strands := [3], hold := .qOnly
    body := fun c _ w s =>
      if (s.core c).evt then .done (s.modCore c (·.tookEvent s.cycle)) 0 false else .begun w s }

/-! ### DOMSET (R246) -/

/-- The fields of a domain descriptor. -/
structure DomDesc where
  slot : Nat
  level : Nat
  dies : Nat
  members : List Nat
  tree : Nat
  bad : Bool

def domDesc (d : Nat) (b : List Byte) : DomDesc :=
  let h := leNat (b.take 8)
  let mask := leNat ((b.drop 8).take 24)
  let t := leNat ((b.drop 32).take 8)
  let level := bits h 7 6
  { slot := bits h 5 0, level := level, dies := bits h 15 8, tree := t % 64
    members := (List.range 192).filterMap (fun i => if mask.testBit i then some (d * 256 + i) else none)
    bad := bits h 63 16 ≠ 0 || !zeroBytes b 40 64 || (if level = 3 then t ≥ 64 else t ≠ 0) }

/-- The invalid cases of an install (R246). -/
def domInvalid (d : Nat) (x : DomDesc) : Bool :=
  x.bad || x.members.isEmpty || !x.dies.testBit d || (x.level ≤ 1 && x.dies ≠ 2 ^ d)
  || (x.level = 0 && x.members.any (fun c => x.members.any (fun e => coreCluster c ≠ coreCluster e)))

/-- A domain as far as it is installed: its level, the dies it names, and the members of its installed parts by die. -/
structure DomView where
  level : Nat
  dies : Nat
  parts : List (Nat × List Nat)

/-- The part of a domain on a die, if it is installed. -/
def DomView.on (x : DomView) (d : Nat) : Option (List Nat) := (x.parts.find? (fun p => p.1 = d)).map (·.2)

/-- The parts of a level 2 or 3 domain on every die but one: it has the same slot on each (R243). -/
def partsBeside (s : State) (d n level : Nat) : List (Nat × List Nat) :=
  (List.range 8).filterMap (fun e => let x := s.slot e n; if e ≠ d && x.installed && x.level = level then some (e, x.members) else none)

/-- The domain of an installed slot of a die. -/
def domView (s : State) (d n : Nat) : DomView :=
  let x := s.slot d n
  { level := x.level, dies := x.dies.toNat, parts := (d, x.members) :: (if x.level ≥ 2 then partsBeside s d n x.level else []) }

/-- The domains with an installed part, of the whole package. -/
def allDomains (s : State) : List DomView :=
  s.sync.filterMap (fun y => if y.2.installed && decide (y.1 < 512) then some (domView s (y.1 / 64) (y.1 % 64)) else none)

/-- Nesting (R243) between two domains: where they share a core, the inner one's members are the outer one's on every die, and it spans
no die that the outer one does not. -/
def nestOk (a b : DomView) : Bool :=
  !(decide (a.level < b.level))
    || a.parts.all (fun p => (b.on p.1).all (fun m => p.2.all (fun c => !m.contains c)))
    || ((List.range 8).all (fun d => !a.dies.testBit d || b.dies.testBit d)
        && a.parts.all (fun p => (b.on p.1).all (fun m => p.2.all (fun c => m.contains c))))

/-- The conflict cases of an install (R246). -/
def domConflict (s : State) (d : Nat) (x : DomDesc) : Bool :=
  let all := allDomains s
  let new : DomView := { level := x.level, dies := x.dies, parts := (d, x.members) :: (if x.level ≥ 2 then partsBeside s d x.slot x.level else []) }
  let here := fun (y : DomView) => (y.on d).getD []
  (s.slot d x.slot).installed
  || all.any (fun y => y.level = x.level && (here y).any (fun c => x.members.contains c))
  || all.any (fun y => !nestOk y new || !nestOk new y)
  || (x.level ≥ 2 && x.members.any (fun c => !all.any (fun y => y.level = 1 && (here y).contains c)))

/-- Set dom.lN of members. -/
def setDoms (cs : List Nat) (level : Nat) (v : DomCsr) (s : State) : State :=
  cs.foldl (fun s c => s.modCsr c (fun r => { r with dom := tput r.dom level v })) s

/-- Clear dom.lN of the members of the domain in a slot, in the contexts saved too (R244, R257). -/
def clearDoms (cs : List Nat) (level slot : Nat) (s : State) : State :=
  let f := fun (x : Core) =>
    if memberOf x level slot then { x with csr := { x.csr with dom := tput x.csr.dom level {} } } else x
  let s := cs.foldl (fun s c => s.modCore c f) s
  { s with dies := s.dies.map (fun d => (d.1, { d.2 with launches := d.2.launches.map (fun l => { l with
      nodes := l.nodes.map (fun n => { n with saved := n.saved.map (fun y => if cs.contains y.1 then (y.1, f y.2) else y) }) }) })) }

/-- The package root's view of a slot after a die's part has changed (R246): it is live once every die named has installed it
with the same slot, level and dies; a mismatch breaks it, and the members of every part hear of it. -/
def joinPackage (n : Nat) (x : DomDesc) (s : State) : State :=
  let parts := (List.range 8).filterMap (fun d =>
    let p := s.slot d n
    if p.installed && p.level ≥ 2 then some (d, p) else none)
  let fresh := parts.length = 1
  let s := if fresh then s.modSlot 8 n (fun y => { up := y.up, level := x.level, dies := BitVec.ofNat 8 x.dies, tree := BitVec.ofNat 6 x.tree }) else s
  let s := s.modSlot 8 n (fun y => { y with members := parts.flatMap (fun p => p.2.members) })
  if parts.any (fun p => p.2.level ≠ x.level || p.2.dies.toNat ≠ x.dies) then breakSlot 8 n s
  else if (List.range 8).all (fun d => !x.dies.testBit d || parts.any (fun p => p.1 = d)) then
    s.modSlot 8 n (fun y => { y with installed := true })
  else s

def domInstall (d : Nat) (launch : Option NodeRef) (x : DomDesc) (s : State) : State :=
  let s := s.modSlot d x.slot (fun y => { up := if x.level ≤ 1 then y.up else [], installed := true, level := x.level,
                                          dies := BitVec.ofNat 8 x.dies, members := x.members, tree := BitVec.ofNat 6 x.tree, launch := launch })
  let s := setDoms x.members x.level { epoch := 0, member := true, slot := BitVec.ofNat 6 x.slot } s
  if x.level ≥ 2 then joinPackage x.slot x s else s

/-- Remove a die's part of a slot: its members' waiting words trap 0x15, and the slot is free (R246). -/
def domRemove (d n : Nat) (s : State) : State :=
  let x := s.slot d n
  let s := x.members.foldl (fun s c => deliverTo x.level n (.broken x.level) c s) s
  let s := clearDoms x.members x.level n s
  let s := s.modSlot d n (fun _ => {})
  if x.level ≥ 2 then
    let s := breakSlot 8 n s
    if (List.range 8).any (fun e => (s.slot e n).installed && (s.slot e n).level ≥ 2) then
      s.modSlot 8 n (fun y => { y with installed := false, members := y.members.filter (fun c => coreDie c ≠ d) })
    else
      let s := s.modSlot 8 n (fun _ => {})
      { s with pkg := { s.pkg with trees := tput s.pkg.trees n {} } }
  else s

/-- A Y word of X. -/
def yWord (h : Hdr) (sup : Bool) (body : Nat → Nat → QWord → State → Run) : WordSpec :=
  { engine := .y, hdr := h, strands := [3], sup := sup, hold := .qOnly, body := body }

/-- A request of a word for `n` bytes that another package or the host holds. -/
def askBytes (c k : Nat) (w : QWord) (pa n : Nat) (s : State) : QWord × State :=
  ({ w with req := s.reqNext },
   { s with reqNext := s.reqNext + 1
            reqs := s.reqs ++ [{ id := s.reqNext, core := c, strand := k, seq := w.seq, kind := .load, pa := pa, size := n, x := 0, cmp := 0 }] })

/-- The registers of a crown page, as bytes. -/
def crownBytes (d : Nat) : Nat → Nat → State → List Byte × State
  | 0, _, s => ([], s)
  | n + 1, off, s =>
    let r := crownRead s d off
    let t := crownBytes d n (off + 8) r.2
    (leBytes 8 r.1.toNat ++ t.1, t.2)

/-- A Y word reads `total` bytes from `base` as LDA reads them (10 R226), page by page into its buffer, and then goes on. Bytes of
the host or of a peer are asked for, and the word goes on when they have arrived; `bit` notes that they could not be had. An error in the
data is deferred, as LDA's is. -/
def fetchVirt (c k : Nat) (base : Word) (total : Nat) (x0 : Word) (go : QWord → State → Run) : Nat → QWord → State → Run
  | 0, w, s => .begun w s
  | f + 1, w, s =>
    if w.buf.length ≥ total then go w s
    else
      let va := (base + word w.buf.length).toNat
      let n := Nat.min (total - w.buf.length) (65536 - va % 65536)
      let bad := fun (e : BitVec 8) (s : State) =>
        Run.trap (if e = 0x08 then { deferredTrap (word va) with x1 := x0 } else { runTrap e with addr := word va, x0 := x0 })
          { w with buf := [], bit := false, idx := 0, due := 0 } s
      if w.bit then bad 0x08 s
      else if va ≥ 2 ^ 48 then bad 0x04 s
      else match coreXlat s c (coreAccess s c) va with
        | (.fail e, s) => if e = walkWaits then .wait w s else bad e s
        | (.ok pa _ _, s) =>
          match target pa with
          | .crown d off =>
            if !(s.core c).csr.sup then bad 0x05 s
            else
              let r := crownBytes d (n / 8) off s
              fetchVirt c k base total x0 go f { w with buf := w.buf ++ r.1 } r.2
          | .host off =>
            let n := Nat.min n (4096 - off % 4096)
            let id := s.reqNext
            let r := askBytes c k w pa n s
            .begun r.1 { (sendHost (s.core c).csr.partition none off n false none 0 0 [] { r.2 with reqNext := id }).2 with
                         reqNext := r.2.reqNext }
          | .peer idx off =>
            let n := Nat.min n (4096 - off % 4096)
            let r := askBytes c k w pa n s
            .begun r.1 (sendPeer idx (.read off n) r.2)
          | _ =>
            if !rangeReady s pa n then .begun w s
            else match readBytes s pa n with
              | (some e, s, _) => bad e s
              | (none, s, b) => fetchVirt c k base total x0 go f { w with buf := w.buf ++ b } s

/-- Is a word a DOMSET that removes, or one that installs? -/
def domsetKind : Instr → Option Bool
  | .domsetInstall _ _ _ => some false
  | .domsetRemove _ _ _ => some true
  | _ => none

/-- What a DOMSET does at its root, and its status (R246). -/
def domsetAct (c : Nat) (w : QWord) (s : State) : Word × State :=
  let die := coreDie c
  let x := domDesc die w.buf
  if domsetKind w.i = some true then
    let y := s.slot die x.slot
    if y.installed && y.level = x.level then (0, domRemove die x.slot s) else (2, s)
  else if domInvalid die x then (2, s)
  else if domConflict s die x then (3, s)
  else (0, domInstall die (s.core c).node x s)

/-- Must a DOMSET take effect in this cycle, and has not? -/
def domsetDue (s : State) (w : QWord) : Bool :=
  (domsetKind w.i).isSome && w.phase = .started && w.idx = 0 && w.due ≠ 0 && decide (w.due ≤ s.cycle)

def insertDue (p : Nat × QWord) : List (Nat × QWord) → List (Nat × QWord)
  | [] => [p]
  | q :: r => if p.2.due < q.2.due || (p.2.due = q.2.due && decide (p.1 < q.1)) then p :: q :: r else q :: insertDue p r

/-- The DOMSET words of a die that are due, in the order in which its root applies them: by their reads' return, then by core (R440). -/
def domsetsDue (die : Nat) (s : State) : List (Nat × QWord) :=
  (s.cores.flatMap (fun y => if coreDie y.1 = die then (((y.2.strand 3).queue .y).filter (domsetDue s)).map (fun w => (y.1, w)) else [])).foldl
    (fun l p => insertDue p l) []

/-- The root applies some of them: each keeps its status until its core takes it. -/
def applyDomsets (ws : List (Nat × QWord)) (s : State) : State :=
  ws.foldl (fun s p =>
    let r := domsetAct p.1 p.2 s
    r.2.modStrand p.1 3 (fun t => t.modWord .y p.2.seq (fun w => { w with idx := 1, res := r.1 }))) s

def domsetApply (die : Nat) (s : State) : State := applyDomsets (domsetsDue die s) s

/-- Those that come before a core's own. -/
def domsetsAhead (c : Nat) (w : QWord) (s : State) : List (Nat × QWord) :=
  (domsetsDue (coreDie c) s).filter (fun p => p.2.due < w.due || (p.2.due = w.due && decide (p.1 < c)))

/-- DOMSET: the descriptor is read, and 26 cycles later the change takes effect and d is written. -/
def domsetWord (h : Hdr) (d a : BitVec 5) : WordSpec :=
  { yWord h true (fun c k w s => fetchVirt c k w.va 64 0 (fun w s =>
      if w.due = 0 then .begun { w with due := s.cycle + 26 } s
      else if s.cycle < w.due then .begun w s
      else if w.idx = 1 then .done s w.res false
      else
        let r := domsetAct c w (applyDomsets (domsetsAhead c w s) s)
        .done r.2 r.1 false) 10 w s) with
    a := some a, dst := some d, uses := [0x013, 0x014, 0x015, 0x016]
    check := fun _ _ w _ => if w.va.toNat % 64 ≠ 0 then some { issueTrap 0x03 with addr := w.va } else none }

def specDomsetInstall (h : Hdr) (d a : BitVec 5) : WordSpec := domsetWord h d a
def specDomsetRemove (h : Hdr) (d a : BitVec 5) : WordSpec := domsetWord h d a

end Sys2Proof.Machine
end

