-- ==== Sys2Proof/Machine/Fabric.lean ====
section
/-! DEFINITION. Weave regions (13 R260-R267, 14 R276-R282, R287): configuration images and their checks, the signals of a configured
region, and what one region edge does. A region's number is die × 48 + 4 × cluster + region (14 R283). -/

namespace Sys2Proof.Machine

/-! ### The configuration image (14 R276-R280) -/

/-- A field of a header in bytes. -/
def Image.hdr (x : Image) (off n : Nat) : Nat := leNat ((x.header.drop off).take n)
def Image.frame (x : Image) (m : Nat) : Nat := (tget 0 x.frames m).toNat
def Image.portmap (x : Image) : Nat := x.hdr 14 2
def Image.swap (x : Image) : Nat := x.hdr 16 1
def Image.ident (x : Image) : Nat := x.hdr 32 8
def Image.gmask (x : Image) : Nat := x.hdr 64 64
def Image.rmask (x : Image) : Nat := x.hdr 128 8
def Image.wmask (x : Image) : Nat := x.hdr 136 4

/-- The 128 configuration bits of an element. -/
def Image.elem (x : Image) (e : Nat) : Nat := x.frame (e / 4) >>> (128 * (e % 4)) % 2 ^ 128
/-- The source identifier of a long line. -/
def Image.line (x : Image) (n : Nat) : Nat := x.frame (4096 + n / 16) >>> (32 * (n % 16)) % 2 ^ 32
/-- The source identifier of a sink. -/
def Image.sink (x : Image) (n : Nat) : Nat := x.frame (4608 + n / 16) >>> (32 * (n % 16)) % 2 ^ 32
/-- The shape of a RAM block. -/
def Image.shape (x : Image) (b : Nat) : Nat := bits (x.frame 5624) (3 * b + 2) (3 * b)
/-- Is a withy connected? -/
def Image.hasWithy (x : Image) (w : Nat) : Bool := (x.frame 5624).testBit (192 + w)

def elLut (c : Nat) : Nat := c % 2 ^ 64
def elSel (c j : Nat) : Nat := bits c (64 + 6 * j + 5) (64 + 6 * j)
def elMode (c i : Nat) : Nat := if i = 0 then bits c 101 100 else bits c 103 102
def elD (c i : Nat) : Bool := if i = 0 then c.testBit 105 else c.testBit 104
def elOut (c : Nat) : Nat := bits c 107 106
def elInit (c i : Nat) : Bool := c.testBit (108 + i)

/-! ### Signals -/

/-- The combinational nodes of a region: a look-up table's O, a carry output, an element output, a long line. -/
inductive Node_
  | o (e : Nat) | co (e : Nat) | out (e : Nat) | line (n : Nat)
  deriving DecidableEq, Repr

/-- What stands around a region at an edge: its registered state, and what the tiles' FIFOs offer its lanes. -/
structure Env where
  img : Image
  reg : Region
  egress : Nat → Option Beat
  ready : Nat → Bool

/-- The value of a source identifier whose node values are given (14 R279). -/
def srcVal (x : Env) (node : Node_ → Bool) (id : Nat) : Bool :=
  let i := id % 2 ^ 17
  match id / 2 ^ 28 with
  | 0 => i = 1
  | 1 => node (.out i)
  | 2 => (tget 0 x.reg.ramOut (i / 64)).getLsbD (i % 64)
  | 3 =>
    let es := (tget (⟨[]⟩ : Withy) x.reg.withies (i / 128)).entries
    let b := i % 128
    let h := es.headD (0, false)
    if b < 64 then h.1.getLsbD b else if b = 64 then h.2 else if b = 65 then !es.isEmpty else decide (es.length < 8)
  | 4 =>
    let k := i / 1024
    let b := i % 1024
    let e := x.egress k
    if b < 512 then (match e with
      | some t => t.data.getLsbD b
      | none => false)
    else if b = 512 then (match e with
      | some t => t.flag
      | none => false)
    else if b = 513 then e.isSome else x.ready k
  | _ => node (.line i)

/-- The value of a node (14 R278): with fuel for the length of a combinational path, which the structure check bounds. -/
def nodeVal (x : Env) : Nat → Node_ → Bool
  | 0, _ => false
  | f + 1, n =>
    let inp := fun (e j : Nat) =>
      let s := elSel (x.img.elem e) j
      if s < 32 then nodeVal x f (.out (e / 32 * 32 + s))
      else if s < 48 then nodeVal x f (.line (16 * (e / 32) + (s - 32)))
      else s == 49
    match n with
    | .o e => (elLut (x.img.elem e)).testBit ((List.range 6).foldl (fun t j => t + (if inp e j then 2 ^ j else 0)) 0)
    | .co e => if nodeVal x f (.o e) then (if e % 32 = 0 then false else nodeVal x f (.co (e - 1))) else inp e 0
    | .out e =>
      let o := elOut (x.img.elem e)
      if o = 0 then nodeVal x f (.o e)
      else if o = 1 then (nodeVal x f (.o e)) ^^ (if e % 32 = 0 then false else nodeVal x f (.co (e - 1)))
      else tget false x.reg.flops (2 * e + (o - 2))
    | .line l => srcVal x (nodeVal x f) (x.img.line l)

/-- The longest combinational path: every node once. -/
def pathFuel : Nat := 65536

/-- An element's input, its O and its S. -/
def elemIn (x : Env) (e j : Nat) : Bool :=
  let s := elSel (x.img.elem e) j
  if s < 32 then nodeVal x pathFuel (.out (e / 32 * 32 + s))
  else if s < 48 then nodeVal x pathFuel (.line (16 * (e / 32) + (s - 32)))
  else s == 49
def elemO (x : Env) (e : Nat) : Bool := nodeVal x pathFuel (.o e)
def elemS (x : Env) (e : Nat) : Bool := (elemO x e) ^^ (if e % 32 = 0 then false else nodeVal x pathFuel (.co (e - 1)))

/-- The value of a sink (14 R279): a sink whose select is 0 is tied to 0. -/
def sinkVal (x : Env) (n : Nat) : Bool := srcVal x (nodeVal x pathFuel) (x.img.sink n)

/-- A number from consecutive sinks. -/
def sinkNum (x : Env) (n w : Nat) : Nat := (List.range w).foldl (fun t i => if sinkVal x (n + i) then t + 2 ^ i else t) 0

/-! ### The structure check (14 R284) -/

/-- Does a look-up table's output depend on its input j? -/
def lutUses (lut j : Nat) : Bool := (List.range 64).any (fun i => lut.testBit i != lut.testBit (i ^^^ 2 ^ j))

/-- The combinational nodes that a source identifier reads. -/
def srcDeps (id : Nat) : List Node_ :=
  match id / 2 ^ 28 with
  | 1 => [.out (id % 2 ^ 17)]
  | 5 => [.line (id % 2 ^ 17)]
  | _ => []

def inDeps (x : Image) (e j : Nat) : List Node_ :=
  let s := elSel (x.elem e) j
  if s < 32 then [.out (e / 32 * 32 + s)] else if s < 48 then [.line (16 * (e / 32) + (s - 32))] else []

/-- The nodes that a node's value depends on. -/
def nodeDeps (x : Image) : Node_ → List Node_
  | .o e => (List.range 6).flatMap (fun j => if lutUses (elLut (x.elem e)) j then inDeps x e j else [])
  | .co e =>
    let lut := elLut (x.elem e)
    .o e :: ((if lut ≠ 0 && e % 32 ≠ 0 then [.co (e - 1)] else []) ++ (if lut ≠ 2 ^ 64 - 1 then inDeps x e 0 else []))
  | .out e =>
    let o := elOut (x.elem e)
    if o = 0 then [.o e] else if o = 1 then .o e :: (if e % 32 = 0 then [] else [.co (e - 1)]) else []
  | .line l => srcDeps (x.line l)

/-- Every node that the nodes of a list depend on, within `n` rounds. -/
def reachable (x : Image) : Nat → List Node_ → List Node_ → List Node_
  | 0, _, seen => seen
  | f + 1, front, seen =>
    let next := ((front.flatMap (nodeDeps x)).filter (fun n => !seen.contains n)).eraseDups
    if next.isEmpty then seen else reachable x f next (seen ++ next)

/-- Remove, round by round, the nodes that depend on none that remain; a cycle leaves some. -/
def acyclic (x : Image) : Nat → List Node_ → Bool
  | 0, l => l.isEmpty
  | f + 1, l =>
    if l.isEmpty then true
    else
      let l' := l.filter (fun n => (nodeDeps x n).any (fun m => l.contains m))
      if l'.length = l.length then false else acyclic x f l'

/-- The nodes of the configured elements and lines. -/
def rootNodes (x : Image) : List Node_ :=
  x.frames.flatMap (fun (f : Nat × BitVec 512) =>
    if f.1 < 4096 then (List.range 4).flatMap (fun i =>
      if x.elem (4 * f.1 + i) = 0 then [] else [Node_.out (4 * f.1 + i), .o (4 * f.1 + i), .co (4 * f.1 + i)])
    else if f.1 < 4608 then (List.range 16).map (fun i => Node_.line (16 * (f.1 - 4096) + i))
    else [])

/-- Is a source identifier allowed (14 R279)? -/
def srcOk (id : Nat) (route : Bool) : Bool :=
  let i := id % 2 ^ 17
  bits id 27 17 = 0 &&
  (match id / 2 ^ 28 with
   | 0 => i ≤ 1
   | 1 => i < 16384
   | 2 => i < 8192
   | 3 => i / 128 < 32 && i % 128 ≤ 66
   | 4 => i / 1024 < 8 && i % 1024 ≤ 514
   | 5 => !route && i < 8192
   | _ => false)

/-- Does a source depend combinationally on the ingress ready of lane k? -/
def readsReady (x : Image) (id k : Nat) : Bool :=
  let isReady := fun (s : Nat) => s / 2 ^ 28 = 4 && s % 2 ^ 17 = 1024 * k + 514
  isReady id || (let ns := reachable x pathFuel (srcDeps id) (srcDeps id)
                 ns.any (fun n => match n with
                   | .line l => isReady (x.line l)
                   | _ => false))

/-- The structure check (14 R284). -/
def structureOk (x : Image) : Bool :=
  x.frames.all (fun f =>
    let m := f.1
    if m < 4096 then (List.range 4).all (fun i =>
      let c := x.elem (4 * m + i)
      bits c 127 110 = 0 && (List.range 6).all (fun j => elSel c j ≤ 49))
    else if m < 4608 then (List.range 16).all (fun i => srcOk (x.line (16 * (m - 4096) + i)) true)
    else if m < 5624 then (List.range 16).all (fun i =>
      let n := 16 * (m - 4608) + i
      if n ≥ 16248 then x.sink n = 0 else srcOk (x.sink n) false)
    else if m = 5624 then (List.range 64).all (fun b => x.shape b ≤ 4) && x.frame 5624 / 2 ^ 224 = 0
    else true)
  && acyclic x pathFuel (reachable x pathFuel (rootNodes x) (rootNodes x))
  && (List.range 8).all (fun k => !readsReady x (x.sink (12128 + 515 * k + 513)) k)

/-- The header's own checks (14 R284, R277): status 5 where one fails. -/
def headFields (x : Image) : Bool :=
  let b := x.header
  x.hdr 0 4 = 0x31425657 && x.hdr 4 2 = 1 && x.hdr 6 1 = 1 && x.hdr 7 1 ≤ 5 && x.hdr 8 4 = 9721 && x.hdr 12 1 ≤ 7
  && zeroBytes b 13 14 && zeroBytes b 17 32 && zeroBytes b 40 64 && zeroBytes b 140 256

/-- The signature block's checks (14 R281, R284). -/
def sigFields (sig : List Byte) : Bool :=
  let l := leNat (sig.take 2)
  1 ≤ l && l ≤ 1534 && zeroBytes sig (2 + l) 1536

/-- An image's bytes as its parts: image with digest, and the signature block (14 R276, R281). -/
def parseImage (b : List Byte) : Image × List Byte :=
  let rec frames : Nat → Nat → List Byte → Table (BitVec 512)
    | 0, _, _ => []
    | n + 1, m, b =>
      let v := BitVec.ofNat 512 (leNat (b.take 64))
      if v = 0 then frames n (m + 1) (b.drop 64) else (m, v) :: frames n (m + 1) (b.drop 64)
  let hb := b.take 622400
  ({ header := b.take 256, frames := frames 9721 0 (b.drop 256), digest := BitVec.ofNat 512 (leNat (shake256 hb 64)) }, b.drop 622400)

/-- Authentication (14 R281). -/
def authentic (s : State) (x : Image) (sig : List Byte) : Bool :=
  match tget none (s.pkg.keys.map (fun p => (p.1, some p.2))) (x.hdr 12 1) with
  | none => false
  | some k => Config.falconVerify k x.digest ((sig.drop 2).take (leNat (sig.take 2)))

/-- The image's bytes again, for the digest recheck (14 R285). -/
def imageBytes (x : Image) : List Byte := x.header ++ (List.range 9721).flatMap (fun m => leBytes 64 (x.frame m))

/-! ### A configuration becomes live (14 R282) -/

/-- The flops with an initial 1. -/
def initFlops (x : Image) : Table Bool :=
  x.frames.flatMap (fun (f : Nat × BitVec 512) =>
    if f.1 < 4096 then (List.range 8).filterMap (fun i =>
      let e := 4 * f.1 + i / 2
      if elInit (x.elem e) (i % 2) then some (2 * e + i % 2, true) else none)
    else [])

/-- The RAM blocks' initial words, word a of block b at 512 b + a (14 R280). -/
def initRam (x : Image) : Table Word :=
  x.frames.flatMap (fun (f : Nat × BitVec 512) =>
    if f.1 ≥ 5625 then (List.range 8).filterMap (fun i =>
      let v := (f.2 >>> (64 * i)).setWidth 64
      if v = 0 then none else some (8 * (f.1 - 5625) + i, v))
    else [])

/-- The region's state when an image becomes live, frozen or running as `live` says. The read data of its RAM blocks starts at zero: DESIGN
CHOICE, log entry 75. -/
def Region.makeLive (r : Region) (x : Image) (live : Live) : Region :=
  { r with live := live, img := x, clk := BitVec.ofNat 3 (x.hdr 7 1), err := false, flops := initFlops x, ram := initRam x, ramOut := []
           withies := [], lanes := [], edge := none, lastEdge := none, swapAt := none }

/-! ### Wiring (13 R261) -/

/-- The core of region `rg`'s lane k, and the tile port. -/
def laneTile (rg k : Nat) : Nat × Nat :=
  let q := rg % 4
  let cl := rg / 4 % 12
  let die := rg / 48
  let j := k / 2
  if k % 2 = 0 then (die * 256 + cl * 16 + 4 * q + j, 0) else (die * 256 + cl * 16 + 4 * ((q + 1) % 4) + j, 1)

/-- The region of a core's tile port. -/
def portRegion (c p : Nat) : Nat :=
  let q := coreIdx c / 4
  coreDie c * 48 + coreCluster c * 4 + (if p = 0 then q else (q + 3) % 4)

/-- The keys of a tile's four FIFOs. -/
def inPort (p : Nat) : Nat := p
def outPort (p : Nat) : Nat := 2 + p

/-- Does a tile hold its ports low (13 R267, R274)? -/
def tileQuiet (x : Core) : Bool := x.preempt || (List.range 4).all (fun k => (x.strand k).st = .idle)

/-- Beats that the reader of a FIFO sees in cycle t, and the occupancy that its writer sees: a change of one side is seen on the other
from two cycles later on (13 R267). -/
def Port.visible (p : Port) (t : Nat) : List Beat := p.fifo.take (p.fifo.length - (p.enter.filter (fun e => decide (t < e + 2))).length)
def Port.occ (p : Port) (t : Nat) : Nat := p.fifo.length + (p.freed.filter (fun e => decide (t < e + 2))).length

/-- Enter and take a beat in a cycle. -/
def Port.put (p : Port) (t : Nat) (b : Beat) : Port := { p with fifo := p.fifo ++ [b], enter := p.enter ++ [t] }
def Port.pop (p : Port) (t : Nat) : Port :=
  match p.fifo with
  | [] => p
  | b :: r => { p with fifo := r, freed := p.freed ++ [t], beats := p.beats + 1, eosn := if b.flag then p.eosn + 1 else p.eosn }

/-- FIFO_CROSSING: changes made two cycles ago or more have crossed, and need no mark any more. -/
def Port.cross (p : Port) (t : Nat) : Port :=
  { p with enter := p.enter.filter (fun e => decide (t < e + 2)), freed := p.freed.filter (fun e => decide (t < e + 2)) }

/-! ### An edge (13 R260, R262-R265) -/

/-- The divider of a clock code (13 R263). -/
def divider (c : Nat) : Nat :=
  match c with
  | 0 => 2 | 1 => 3 | 2 => 4 | 3 => 5 | 4 => 6 | _ => 8

/-- The first edge of a clock at or after a cycle. -/
def edgeFrom (n t : Nat) : Nat := (t + n - 1) / n * n

/-- Is the region in the 64 cycles after its swap boundary (14 R285)? -/
def swapHold (s : State) (r : Region) : Bool :=
  match r.swapAt with
  | some e => decide (e < s.cycle)
  | none => false

/-- What stands around a region now; a pending swap's hold keeps every ready and valid low (14 R285). -/
def regionEnv (s : State) (rg : Nat) : Env :=
  let r := s.region rg
  let hold := swapHold s r
  let port := fun (k : Nat) (out : Bool) =>
    let t := laneTile rg k
    let x := s.core t.1
    if hold || tileQuiet x then none else some (x.d.port (if out then outPort t.2 else inPort t.2))
  { img := r.img, reg := r
    egress := fun k => match port k true with
      | some p => (p.visible s.cycle).head?
      | none => none
    ready := fun k => match port k false with
      | some p => decide (p.occ s.cycle < 16)
      | none => false }

/-- A region takes an edge in this cycle: running, at its clock, not past the last edge before a freeze, nor past a swap's hold. -/
def edgeDue (s : State) (r : Region) : Bool :=
  (r.live = .running || r.live = .pending) && s.cycle % divider r.clk.toNat = 0 &&
  (match r.lastEdge with
   | some e => decide (s.cycle ≤ e)
   | none => true) &&
  (match r.swapAt with
   | some e => decide (s.cycle ≤ e + 64)
   | none => true)

/-- The next value of a flop (13 R260, 14 R278). -/
def flopNext (x : Env) (e i : Nat) : Bool :=
  let c := x.img.elem e
  let d := if elD c i then elemS x e else elemO x e
  let q := tget false x.reg.flops (2 * e + i)
  let ctl := elemIn x e (5 - i)
  match elMode c i with
  | 0 => d
  | 1 => if ctl then d else q
  | 2 => if ctl then true else d
  | _ => if ctl then false else d

/-- One port of a RAM block: address, write data, write enable, enable. -/
def ramPort (x : Env) (b p : Nat) : Nat × Nat × Bool × Bool :=
  let n := 156 * b + 78 * p
  (sinkNum x n 12, sinkNum x (n + 12) 64, sinkVal x (n + 76), sinkVal x (n + 77))

/-- Width of a shape, and its depth. -/
def ramWidth (sh : Nat) : Nat := 128 >>> sh
def ramDepth (sh : Nat) : Nat := 256 <<< sh

/-- The updates of the flops and RAM blocks at an edge; an element whose bits are all zero has O = 0 in both flops. `fb`: which port's
write stands where both write one address, which the spec does not say. A port that writes reads the old word, and one that is not enabled
keeps its read data: DESIGN CHOICE, log entry 75. -/
def clockUpdates (x : Env) (fb : Bool) : Table Bool × Table Word × Table Word :=
  let es := x.img.frames.flatMap (fun f => if f.1 < 4096 then (List.range 4).map (fun i => 4 * f.1 + i) else [])
  let fl := es.flatMap (fun e => if x.img.elem e = 0 then [] else [(2 * e, flopNext x e 0), (2 * e + 1, flopNext x e 1)])
    ++ (x.reg.flops.filter (fun p => x.img.elem (p.1 / 2) = 0)).map (fun p => (p.1, false))
  let bs := (List.range 64).filter (fun b => x.img.shape b ≠ 0)
  let step := fun (acc : Table Word × Table Word) (b : Nat) =>
    let w := ramWidth (x.img.shape b)
    let at_ := fun (a : Nat) => let a := a % ramDepth (x.img.shape b); (512 * b + a * w / 64, a * w % 64)
    let ps := (if fb then [1, 0] else [0, 1]).map (fun p => (p, ramPort x b p))
    ps.foldl (fun (acc : Table Word × Table Word) q =>
      let (p, a, d, we, en) := q
      if !en then acc
      else
        let (k, sh) := at_ a
        let old := (tget 0 x.reg.ram k).toNat
        let out := tput acc.2 (2 * b + p) (word (old >>> sh % 2 ^ w))
        if we then
          let cur := (tget 0 acc.1 k).toNat
          let new := cur - (cur >>> sh % 2 ^ w) * 2 ^ sh + (d % 2 ^ w) * 2 ^ sh
          (tput acc.1 k (word new), out)
        else (acc.1, out)) acc
  let r := bs.foldl step (x.reg.ram, x.reg.ramOut)
  (fl, r.1, r.2)

/-- A withy's edge (13 R265). -/
def withyOp (x : Env) (w : Nat) : WithyOp :=
  let es := (tget {} x.reg.withies w).entries
  let n := 9984 + 67 * w
  { w := w, take := !es.isEmpty && sinkVal x (n + 66)
    put := if sinkVal x (n + 65) && decide (es.length < 8) then some (word (sinkNum x n 64), sinkVal x (n + 64)) else none }

/-- The region's ingress offer on lane k, and its egress ready. -/
def laneOffer (x : Env) (k : Nat) : Option Beat :=
  let n := 12128 + 515 * k
  if sinkVal x (n + 513) then some ⟨BitVec.ofNat 512 (sinkNum x n 512), sinkVal x (n + 512)⟩ else none
def laneReady (x : Env) (k : Nat) : Bool := sinkVal x (12128 + 515 * k + 514)

/-- The 0x12 stop of a W word (13 R275). -/
def portTrap (p : Nat) (out : Bool) (cause : Nat) : Trap :=
  { runTrap 0x12 with x0 := word p, x1 := word (cause + (if out then 256 else 0)) }

/-- The port and direction on which a W word may wait (13 R270, R271). -/
def wordPort : Instr → Option Nat
  | .wout _ t _ _ _ | .weos _ t => some (outPort t.toNat)
  | .win _ t _ _ _ => some (inPort t.toNat)
  | _ => none

/-- A cause is latched on a tile port, and a word that waits on the port traps in that cycle (13 R270); of a pre-empted core it traps
when it goes on. The first cause stays. -/
def latchCause (c pk cause : Nat) (s : State) : State :=
  let s := s.modData c (fun x => x.setPort pk (let p := x.port pk; if p.cause = 0 then { p with cause := BitVec.ofNat 4 cause } else p))
  if (s.core c).preempt then s
  else (List.range 4).foldl (fun s k =>
    match ((s.core c).strand k).words.find? (fun w => w.phase = .started && wordPort w.i = some pk) with
    | some w => failWord c k w.seq (portTrap (pk % 2) (pk ≥ 2) ((s.core c).d.port pk).cause.toNat) s
    | none => s) s

/-- A region offers beats on an ingress lane at an edge (13 R264): the lane's memory, the cause if it breaks the rules, and the beat
that transfers. -/
def laneIn (r : Lane) (offer : Option Beat) (ready : Bool) : Lane × Option Nat × Option Beat :=
  match offer with
  | none => ({ r with offer := none, dead := none }, if r.offer.isSome then some 2 else none, none)
  | some b =>
    if r.dead = some b then (r, none, none)
    else match r.offer with
      | some h =>
        if h ≠ b then ({ r with offer := none, dead := some b }, some 3, none)
        else if ready then ({ r with offer := none }, none, some b) else (r, none, none)
      | none => if ready then ({ r with dead := none }, none, some b) else ({ r with offer := some b, dead := none }, none, none)

/-- Sample an edge: everything it does is decided from the state before it. The causes it latches act at once. -/
def sampleEdge (rg : Nat) (s : State) : State :=
  let r := s.region rg
  if !edgeDue s r || (match r.edge with
    | some e => e.at_ = s.cycle
    | none => false) then s
  else
    let x := regionEnv s rg
    let hold := swapHold s r
    let u := clockUpdates x (s.freeVal.getLsbD 0)
    let ws := ((List.range 32).filter (fun w => r.img.hasWithy w)).map (withyOp x)
    let ins := (List.range 8).map (fun k =>
      (k, if hold then (tget {} r.lanes k, none, none) else laneIn (tget {} r.lanes k) (laneOffer x k) (x.ready k)))
    let eg := if hold then [] else (List.range 8).filterMap (fun k => match x.egress k with
      | some b => if laneReady x k then some (⟨k, true, b⟩ : LaneOp) else none
      | none => none)
    let lanes := ins.foldl (fun l p => if p.2.1 = tget {} l p.1 then l else tput l p.1 p.2.1) r.lanes
    let s := s.modRegion rg (fun r => { r with
      lanes := lanes
      edge := some { at_ := s.cycle, flops := u.1, ram := u.2.1, ramOut := u.2.2,
                     withies := ws.filter (fun o => o.take || o.put.isSome)
                     lanes := ins.filterMap (fun p => p.2.2.2.map (fun b => (⟨p.1, false, b⟩ : LaneOp))) ++ eg } })
    let s := s.takeFree
    ins.foldl (fun s p => match p.2.2.1 with
      | some cause => let t := laneTile rg p.1; latchCause t.1 (inPort t.2) cause s
      | none => s) s

/-- REGION_CLOCK_EDGE: the flops and RAM blocks of the sampled edge. -/
def clockEdgeEv (rg : Nat) (s : State) : State :=
  let s := sampleEdge rg s
  match (s.region rg).edge with
  | some e =>
    if e.at_ = s.cycle && e.clock then
      s.modRegion rg (fun r => { r with flops := e.flops.foldl (fun t p => tput t p.1 p.2) r.flops, ram := e.ram, ramOut := e.ramOut
                                        edge := some { e with clock := false } })
    else s
  | none => s

/-- WITHY_TRANSFER: one withy of the sampled edge. -/
def withyEv (rg w : Nat) (s : State) : State :=
  let s := sampleEdge rg s
  match (s.region rg).edge with
  | some e =>
    match (if e.at_ = s.cycle then e.withies.find? (fun o => o.w = w) else none) with
    | some o => s.modRegion rg (fun r => { r with
        withies := tmod {} r.withies w (fun x => { entries := (if o.take then x.entries.drop 1 else x.entries) ++ o.put.toList })
        edge := some { e with withies := e.withies.filter (fun p => p.w ≠ w) } })
    | none => s
  | none => s

/-- BEAT_TRANSFER: one lane and direction of the sampled edge. -/
def beatEv (rg k : Nat) (out : Bool) (s : State) : State :=
  let s := sampleEdge rg s
  match (s.region rg).edge with
  | some e =>
    match (if e.at_ = s.cycle then e.lanes.find? (fun o => o.k = k && o.egress = out) else none) with
    | some o =>
      let t := laneTile rg k
      let s := s.modRegion rg (fun r => { r with
        lanes := tmod {} r.lanes k (fun l => if out then { l with lastOut := some o.beat.flag } else { l with lastIn := some o.beat.flag })
        edge := some { e with lanes := e.lanes.filter (fun p => !(p.k = k && p.egress = out)) } })
      s.modData t.1 (fun d =>
        if out then d.setPort (outPort t.2) ((d.port (outPort t.2)).pop s.cycle)
        else d.setPort (inPort t.2) ((d.port (inPort t.2)).put s.cycle o.beat))
    | none => s
  | none => s

/-- FIFO_CROSSING. -/
def crossingEv (c pk : Nat) (s : State) : State := s.modData c (fun d => d.setPort pk ((d.port pk).cross s.cycle))

/-- Is an edge of a region, or a crossing, still to be made in this cycle? -/
def edgePending (s : State) (rg : Nat) : Bool :=
  let r := s.region rg
  edgeDue s r && (match r.edge with
    | some e => e.at_ ≠ s.cycle || e.clock || !e.withies.isEmpty || !e.lanes.isEmpty
    | none => true)

/-! ### Swaps, errors and status -/

/-- The boundary of a hot swap (14 R285). -/
def atBoundary (r : Region) : Bool :=
  (List.range 8).all (fun k =>
    let l := tget {} r.lanes k
    !(r.img.swap).testBit k ||
    ((!(r.img.portmap.testBit (2 * k)) || l.lastIn ≠ some false) && (!(r.img.portmap.testBit (2 * k + 1)) || l.lastOut ≠ some false)))

/-- Is this cycle's edge, made, the boundary of a pending swap? -/
def boundaryDue (s : State) (rg : Nat) : Bool :=
  let r := s.region rg
  r.live = .pending && r.swapAt.isNone && s.cycle % divider r.clk.toNat = 0 && !edgePending s rg && atBoundary r

/-- SWAP_BOUNDARY: the ports hold for 64 core cycles from an edge at the boundary. -/
def swapBoundaryEv (rg : Nat) (s : State) : State :=
  if boundaryDue s rg then s.modRegion rg (fun r => { r with swapAt := some s.cycle }) else s

/-- A region word that the manager holds completes with a status. -/
def finishRg (o : Option (Nat × Nat)) (v : Word) (s : State) : State :=
  match o with
  | some (c, seq) => finishWord c 3 seq v s
  | none => s

/-- Is this cycle the new plane's first edge after the 64 cycles of a swap's hold? -/
def exchangeDue (s : State) (r : Region) : Bool :=
  match r.swapAt with
  | some e => r.live = .pending && decide (e + 64 < s.cycle) && s.cycle % divider (r.stby.hdr 7 1) = 0
  | none => false

/-- PLANE_EXCHANGE: the new plane runs from its first edge after the 64 cycles, and the RGSWAP completes. -/
def planeExchangeEv (rg : Nat) (s : State) : State :=
  let r := s.region rg
  if exchangeDue s r then
    finishRg r.swapper 0 (s.modRegion rg (fun r =>
      { (r.makeLive r.stby .running) with standby := .staged, stby := r.img, swapper := none }))
  else s

/-- A pending swap is cancelled, and the region runs on (14 R285). -/
def cancelSwap (rg : Nat) (s : State) : State :=
  let r := s.region rg
  if r.live = .pending then
    finishRg r.swapper 3 (s.modRegion rg (fun r => { r with live := .running, swapper := none, swapAt := none }))
  else s

/-- Has a region made this cycle's edge, and does it have a RAM block that the edge may have read? -/
def edgeMade (s : State) (r : Region) (rg : Nat) : Bool :=
  (r.live = .running || r.live = .pending) && !edgePending s rg && (List.range 64).any (fun b => r.img.shape b ≠ 0) && (match r.edge with
    | some e => e.at_ = s.cycle
    | none => false)

/-- REGION_RAM_ERROR (13 R262), at an edge: a corrected error counts; an uncorrectable one freezes the region and latches cause 5. -/
def ramErrorEv (rg : Nat) (fatal : Bool) (s : State) : State :=
  let r := s.region rg
  if !edgeMade s r rg then s
  else if fatal then
    let s := (cancelSwap rg s).modRegion rg (fun r => { r with live := .frozen, err := true })
    (List.range 8).foldl (fun s k => let t := laneTile rg k
                                     latchCause t.1 (outPort t.2) 5 (latchCause t.1 (inPort t.2) 5 s)) s
  else s.modRegion rg (fun r => { r with ecount := Nat.min (r.ecount + 1) 0xFFFF })

def liveCode : Live → Nat
  | .blank => 0 | .running => 1 | .frozen => 2 | .pending => 3
def standbyCode : Standby → Nat
  | .empty => 0 | .loading => 1 | .staged => 2

/-- The region status word (14 R282). -/
def regionStatus (s : State) (rg : Nat) : Word :=
  let r := s.region rg
  word (r.ecount * 2 ^ 48 + (if r.live = .blank then 0 else r.img.swap) * 2 ^ 24 + (if (s.die (rg / 48)).wbPages.isSome then 2 ^ 11 else 0)
    + r.clk.toNat * 256 + (if r.err then 128 else 0) + standbyCode r.standby * 32 + liveCode r.live)

/-! ### The readout chain (14 R287) -/

def natBits (n w : Nat) : List Bool := (List.range w).map (fun i => n.testBit i)

/-- The masked groups, RAM blocks and withies of an image. -/
def maskedGroups (x : Image) : List Nat := (List.range 512).filter (fun g => x.gmask.testBit g)
def maskedRams (x : Image) : List Nat := (List.range 64).filter (fun b => x.rmask.testBit b)
def maskedWithies (x : Image) : List Nat := (List.range 32).filter (fun w => x.wmask.testBit w)

def withyBits (x : Withy) : List Bool :=
  natBits x.entries.length 56 ++ (List.range 8).flatMap (fun j =>
    let e := x.entries.getD j (0, false)
    natBits e.1.toNat 64 ++ [e.2])

/-- The chain of a region's live plane. -/
def chainOf (r : Region) : List Bool :=
  (maskedGroups r.img).flatMap (fun g => (List.range 64).map (fun i => tget false r.flops (64 * g + i)))
  ++ (maskedRams r.img).flatMap (fun b => (List.range 512).flatMap (fun a => natBits (tget 0 r.ram (512 * b + a)).toNat 64))
  ++ (maskedWithies r.img).flatMap (fun w => withyBits (tget {} r.withies w))

/-- Chunks of the chain of an image (14 R287). -/
def chainChunks (x : Image) : Nat :=
  (64 * (maskedGroups x).length + 32768 * (maskedRams x).length + 576 * (maskedWithies x).length + 63) / 64

def bitsNat (l : List Bool) : Nat := l.foldr (fun b n => 2 * n + b.toNat) 0

/-- A chain written back into the live plane. A withy occupancy above 8 counts as 8: DESIGN CHOICE, log entry 75. -/
def restoreChain (r : Region) (l : List Bool) : Region :=
  let gs := maskedGroups r.img
  let rs := maskedRams r.img
  let ws := maskedWithies r.img
  let (fl, l) := gs.foldl (fun (acc : Table Bool × List Bool) g =>
    ((List.range 64).foldl (fun t i => tput t (64 * g + i) (acc.2.getD i false)) acc.1, acc.2.drop 64)) (r.flops, l)
  let (ram, l) := rs.foldl (fun (acc : Table Word × List Bool) b =>
    ((List.range 512).foldl (fun t a => tput t (512 * b + a) (word (bitsNat ((acc.2.drop (64 * a)).take 64)))) acc.1, acc.2.drop 32768)) (r.ram, l)
  let (wi, _) := ws.foldl (fun (acc : Table Withy × List Bool) w =>
    let n := Nat.min (bitsNat (acc.2.take 4)) 8
    (tput acc.1 w { entries := (List.range n).map (fun j =>
      let e := (acc.2.drop (56 + 65 * j)).take 65
      (word (bitsNat (e.take 64)), e.getD 64 false)) }, acc.2.drop 576)) (r.withies, l)
  { r with flops := fl, ram := ram, withies := wi }

/-- A bit string as bytes, and back. -/
def chainBytes (l : List Bool) : List Byte := leBytes ((l.length + 63) / 64 * 8) (bitsNat l)

end Sys2Proof.Machine
end

