-- ==== Sys2Proof/Machine/Weave.lean ====
section
/-! DEFINITION. W words (13 R268-R275) and the region words RGLOAD, RGSWAP, RGFREEZE, RGREAD and RGCLK (14 R283-R291). -/

namespace Sys2Proof.Machine

/-! ### W words -/

/-- A W word of a strand. -/
def wWord (h : Hdr) (strand : Nat) (body : Nat → Nat → QWord → State → Run) : WordSpec :=
  { engine := .w, hdr := h, strands := [strand], body := body }

/-- The cause that a stop names: 1 on a port that is not bound and holds no other (R272, R275). -/
def Port.stopCause (p : Port) : Nat := if p.cause = 0 then 1 else p.cause.toNat

/-- The checks before any beat moves (R270): bound, and no latched cause. -/
def onPort (c pk : Nat) (w : QWord) (s : State) (go : QWord → Run) : Run :=
  let p := (s.core c).d.port pk
  if (w.phase = .queued && !p.bound) || p.cause ≠ 0 then .trap (portTrap (pk % 2) (pk ≥ 2) p.stopCause) w s
  else go w

/-- Enter the beats from index `w.idx` on, as far as there is room. -/
def woutGo (c pk : Nat) (beats : List Beat) : Nat → QWord → State → Run
  | 0, w, s => .begun w s
  | f + 1, w, s =>
    match beats[w.idx]? with
    | none => .done s 0 false
    | some b =>
      let p := (s.core c).d.port pk
      if p.occ s.cycle ≥ 16 then .begun w s
      else woutGo c pk beats f { w with idx := w.idx + 1 } (s.modData c (·.setPort pk (p.put s.cycle b)))

/-- The beats of WOUT (R270): `w.buf` holds vS as it was when the word started. -/
def woutBeats (buf : List Byte) (nb : Nat) (eos : Bool) : List Beat :=
  (List.range nb).map (fun j => ⟨BitVec.ofNat 512 (leNat ((buf.drop (64 * j)).take 64)), eos && decide (j + 1 = nb)⟩)

def specWout (h : Hdr) (t : BitVec 2) (v : BitVec 5) (e : BitVec 1) (n : BitVec 2) : WordSpec :=
  { wWord h 2 (fun c _ w s => onPort c (outPort t.toNat) w s (fun w =>
      let w := if w.buf.isEmpty then { w with buf := vBytes ((s.core c).d.getV v.toNat) } else w
      woutGo c (outPort t.toNat) (woutBeats w.buf (n.toNat + 1) (e = 1)) 6 w s)) with
    rd := [.v v.toNat] }

def specWeos (h : Hdr) (t : BitVec 2) : WordSpec :=
  wWord h 2 (fun c _ w s => onPort c (outPort t.toNat) w s (fun w => woutGo c (outPort t.toNat) [⟨0, true⟩] 2 w s))

/-- Is a WIN, or a WDRAIN in, of the other strand ahead on an in-port (R271)? In the cycle of its start a drain lets a WIN that may still
start in it go first; and once it has taken a beat, no WIN starts there in that cycle. -/
def inAhead (s : State) (c t : Nat) (drain : Bool) (due : Nat) : Bool :=
  (List.range 4).any (fun k => ((s.core c).strand k).words.any (fun w => match w.i with
    | .win _ u _ _ _ => drain && u.toNat = t
        && (w.phase = .started && decide (w.due ≤ due) || w.phase = .queued && due = s.cycle)
    | .wdrainIn _ u => !drain && u.toNat = t && w.phase = .started && decide (w.due < due)
    | _ => false))
  || (!drain && due = s.cycle && ((s.core c).markAt s.cycle).drained.contains t)

/-- Pop beats: `w.idx` of them so far, their bytes in `w.buf`. -/
def winGo (c t nb v : Nat) : Nat → QWord → State → Run
  | 0, w, s => .begun w s
  | f + 1, w, s =>
    let finish := fun (w : QWord) (ended : Bool) (s : State) =>
      Run.done (s.modData c (·.setV v (vOf w.buf))) 0 ended
    if w.idx ≥ nb then finish w false s
    else if inAhead s c t false w.due then .begun w s
    else
      let p := (s.core c).d.port (inPort t)
      match (p.visible s.cycle).head? with
      | none => .begun w s
      | some b =>
        let s := s.modData c (·.setPort (inPort t) (p.pop s.cycle))
        let w := { w with idx := w.idx + 1, buf := w.buf ++ leBytes 64 b.data.toNat }
        if b.flag then finish w true s else winGo c t nb v f w s

def specWin (h : Hdr) (t : BitVec 2) (v : BitVec 5) (q : BitVec 1) (n : BitVec 2) : WordSpec :=
  { wWord h 0 (fun c _ w s => onPort c (inPort t.toNat) w s (fun w =>
      if w.phase = .queued && ((s.core c).markAt s.cycle).drained.contains t.toNat then .wait w s
      else winGo c t.toNat (n.toNat + 1) v.toNat 6 (if w.phase = .queued then { w with due := s.cycle } else w) s)) with
    wr := [.v v.toNat], cqPush := q = 1 }

/-- WTEST's answer (R271). -/
def specWtest (h : Hdr) (t : BitVec 2) (r : BitVec 1) (n : BitVec 5) : WordSpec :=
  { wWord h 3 (fun c _ _ s =>
      let d := (s.core c).d
      .done s 0 (if r = 0 then decide (n.toNat ≤ ((d.port (inPort t.toNat)).visible s.cycle).length)
                 else decide (n.toNat + (d.port (outPort t.toNat)).occ s.cycle ≤ 16))) with cqPush := true }

/-- The port status word (R272). Its clk field is the region's clock code from reset on: DESIGN CHOICE, log entry 75. -/
def portStatus (s : State) (c t : Nat) (out : Bool) : Word :=
  let p := (s.core c).d.port (if out then outPort t else inPort t)
  word (p.beats.toNat * 2 ^ 48 + p.eosn.toNat * 2 ^ 32 + (s.region (portRegion c t)).clk.toNat * 2 ^ 20 + p.cause.toNat * 2 ^ 16
    + (if p.bound then 256 else 0) + (if out then p.occ s.cycle else (p.visible s.cycle).length))

/-- Clear a port's latched cause. -/
def clearCause (c pk : Nat) (s : State) : State := s.modData c (fun x => x.setPort pk { x.port pk with cause := 0 })

/-- WSTAT acts at its completion (R271). -/
def specWstat (h : Hdr) (t : BitVec 2) (d : BitVec 5) (r q : BitVec 1) : WordSpec :=
  { wWord h 3 (fun c _ _ s =>
      let pk := if r = 1 then outPort t.toNat else inPort t.toNat
      .done (if q = 1 then clearCause c pk s else s) (portStatus s c t.toNat (r = 1)) false) with
    dst := some d, late := true }

/-- A WDRAIN's check at its start: bound (R271). -/
def onBound (c pk : Nat) (w : QWord) (s : State) (go : QWord → Run) : Run :=
  let p := (s.core c).d.port pk
  if w.phase = .queued && !p.bound then .trap (portTrap (pk % 2) (pk ≥ 2) p.stopCause) w s
  else go (if w.phase = .queued then { w with due := s.cycle } else w)

/-- Discard beats up to the next flagged one. -/
def drainGo (c t : Nat) : Nat → QWord → State → Run
  | 0, w, s => .begun w s
  | f + 1, w, s =>
    let p := (s.core c).d.port (inPort t)
    match (if inAhead s c t true w.due then none else (p.visible s.cycle).head?) with
    | none => .begun w s
    | some b =>
      let s := s.modData c (·.setPort (inPort t) (p.pop s.cycle))
      let s := if w.due = s.cycle then s.modCore c (·.setMark s.cycle (fun m => { m with drained := t :: m.drained })) else s
      if b.flag then .done (clearCause c (inPort t) s) 0 false else drainGo c t f w s

def specWdrainIn (h : Hdr) (t : BitVec 2) : WordSpec :=
  wWord h 3 (fun c _ w s => onBound c (inPort t.toNat) w s (fun w => drainGo c t.toNat 17 w s))

def specWdrainOut (h : Hdr) (t : BitVec 2) : WordSpec :=
  wWord h 3 (fun c _ w s => onBound c (outPort t.toNat) w s (fun w =>
    if ((s.core c).d.port (outPort t.toNat)).occ s.cycle = 0 then .done (clearCause c (outPort t.toNat) s) 0 false else .begun w s))

/-! ### Region words -/

/-- The region that a region word names, of its core's die (14 R283). -/
def regionOf (i : Instr) : Option (BitVec 6) :=
  match i with
  | .rgload _ _ _ g | .rgswapHot _ _ g | .rgswapNow _ _ g | .rgfreezeFreeze _ _ g | .rgfreezeThaw _ _ g | .rgreadSave _ _ _ g
  | .rgreadFetch _ _ _ _ g | .rgreadRestore _ _ _ g | .rgreadStatus _ _ g | .rgclk _ _ _ g => some g
  | _ => none

/-- Is a word that has reached the region manager still there and unfinished? A pre-empted core's word that has not started is not. -/
def inLine (s : State) (o : Nat × Nat) : Bool :=
  let x := s.core o.1
  ((x.strand 3).words ++ x.shadow.words).any (fun w => w.seq = o.2 && (w.phase = .started || (w.phase = .queued && !x.preempt)))

/-- The words that have reached the manager for a region and are unfinished, in the order of their arrival (14 R289). -/
def rgLine (s : State) (rg : Nat) : List (Nat × Nat) := (s.region rg).line.filter (inLine s)

/-- Must a region word wait for its start: for the cycle after its issue, and the cycle after the end of the Y word before it (14 R283)? -/
def rgEarly (s : State) (c : Nat) (w : QWord) : Bool :=
  let x := s.core c
  w.phase = .queued && (decide (s.cycle ≤ w.res.toNat) || ((x.strand 3).queue .y).any (fun v => decide (v.seq < w.seq))
    || (x.markAt s.cycle).yDone)

/-- The region word of X that may start in this cycle (14 R283). -/
def rgReady (s : State) (c : Nat) : Option (QWord × Nat) :=
  let x := s.core c
  match (x.strand 3).queue .y with
  | w :: _ => match regionOf w.i with
    | some g => if w.phase = .queued && !rgEarly s c w && !heldByStop (x.strand 3) w && !x.frozen s.cycle && !preempting s c
        && !x.faultAbove s.cycle 3 && x.ending.isNone then some (w, coreDie c * 48 + g.toNat) else none
    | none => none
  | [] => none

/-- Does a core of a lower number have a word of the region that reaches the manager in this cycle, and has not been taken (14 R289)? -/
def lowerArrives (s : State) (c rg : Nat) : Bool :=
  s.cores.any (fun x => decide (x.1 < c) && (match rgReady s x.1 with
    | some (w, g) => g = rg && !(rgLine s rg).contains (x.1, w.seq)
    | none => false))

/-- Is a word one of the readout chain's (R287)? -/
def chainWord : Instr → Bool
  | .rgreadSave _ _ _ _ | .rgreadFetch _ _ _ _ _ | .rgreadRestore _ _ _ _ => true
  | _ => false

/-- Does another word of the die hold the chain buffers? -/
def chainBusy (s : State) (c seq : Nat) : Bool :=
  (List.range 48).any (fun g => (s.region (coreDie c * 48 + g)).line.any (fun o => o ≠ (c, seq) &&
    ((s.core o.1).strand 3).words.any (fun w => w.seq = o.2 && w.phase = .started && chainWord w.i)))

/-- A word leaves the region's line. -/
def leaveLine (rg c seq : Nat) (s : State) : State := s.modRegion rg (fun r => { r with line := r.line.filter (· ≠ (c, seq)) })

/-- A word reaches the region's manager. -/
def joinLine (rg c seq : Nat) (s : State) : State :=
  s.modRegion rg (fun r => { r with line := rgLine s rg ++ (if (rgLine s rg).contains (c, seq) then [] else [(c, seq)]) })

/-- The record of a region word's stop names rg (14 R291), in extra word 0; a deferred stop has its mark there (10 R226), and names it
in extra word 1. -/
def Trap.named (t : Trap) (g : BitVec 6) : Trap := if t.cls = 4 then { t with x1 := zext g } else { t with x0 := zext g }

/-- The region that a word names, if its fields are a region word's: E = 0b110 and OP6 0x0E to 0x12 (14 R283). -/
def rawRegion (w : BitVec 32) : Option (BitVec 6) :=
  if w.extractLsb' 29 3 = 6 && decide (0x0E ≤ (w.extractLsb' 19 6).toNat) && decide ((w.extractLsb' 19 6).toNat ≤ 0x12) then some (w.extractLsb' 0 6)
  else none

/-- A stop at issue, of the word w: a region word's record names its region (14 R291). -/
def Trap.ofWord (t : Trap) (w : BitVec 32) : Trap :=
  match rawRegion w with
  | some g => t.named g
  | none => t

/-- How a region word ends: it leaves the line where it is done or stops. -/
def settleRg (rg c seq : Nat) (g : BitVec 6) (r : Run) : Run :=
  match r with
  | .done s v b => .done (leaveLine rg c seq s) v b
  | .wait w s => .wait w s
  | .begun w s => .begun w s
  | .trap t w s => .trap (t.named g) { w with idx := 0, due := 0, buf := [] } (leaveLine rg c seq s)

/-- Is a word the next of its region's line (R289)? A freeze acts on a swap-pending region (R286), so it does not wait for the pending
RGSWAP (log entry 73). -/
def firstInLine (s : State) (rg c : Nat) (w : QWord) : Bool :=
  let r := s.region rg
  let mine := r.line.head? = some (c, w.seq)
  match w.i with
  | .rgfreezeFreeze _ _ _ => mine || (r.live = .pending && (r.line.filter (fun o => r.swapper ≠ some o)).head? = some (c, w.seq))
  | _ => mine

/-- A region word (R283, R289): it starts no earlier than the cycle after its issue, and runs once it is the first in the region's line.
An RGLOAD (`alone`) runs beside the others. -/
def rgWord (h : Hdr) (d : BitVec 5) (g : BitVec 6) (alone chain : Bool) (body : Nat → Nat → Nat → QWord → State → Run) : WordSpec :=
  { yWord h true (fun c k w s =>
      let rg := coreDie c * 48 + g.toNat
      if w.phase = .queued && (rgEarly s c w || lowerArrives s c rg) then .wait w s
      else if w.phase = .started || alone then settleRg rg c w.seq g (body rg c k w s)
      else
        let t := joinLine rg c w.seq s
        if !firstInLine t rg c w || (chain && chainBusy t c w.seq) then .wait w t
        else settleRg rg c w.seq g (body rg c k w t)) with
    dst := some d, pre := fun _ _ s => word s.cycle }

/-- An address of 64-byte alignment, checked at issue (R291). -/
def align64 (g : BitVec 6) (_c _k : Nat) (w : QWord) (_s : State) : Option Trap :=
  if w.va.toNat % 64 ≠ 0 then some ({ issueTrap 0x03 with addr := w.va }.named g) else none

/-- The bytes of an image (R276). -/
def imageSize : Nat := 623936

/-- The standby plane of a region. -/
def setStandby (rg : Nat) (p : Standby) (x : Image) (s : State) : State :=
  s.modRegion rg (fun r => { r with standby := p, stby := x })

/-- The last part of RGLOAD: the image is here, its signature block after its header. -/
def loadImage (rg : Nat) (w : QWord) (s : State) : Run :=
  let p := parseImage (w.buf.take 256 ++ w.buf.drop 1792 ++ (w.buf.drop 256).take 1536)
  if !authentic s p.1 p.2 then .trap (runTrap 0x13) w (setStandby rg .empty {} s)
  else if !structureOk p.1 then .done (setStandby rg .empty {} s) 6 false
  else .done (setStandby rg .staged p.1 s) 0 false

/-- A fault while the image is read leaves the standby empty. -/
def emptyOnTrap (rg : Nat) (r : Run) : Run :=
  match r with
  | .trap t w s => .trap t w (setStandby rg .empty {} s)
  | r => r

/-- RGLOAD (R284): the header, the signature block, and then the frames are read. -/
def specRgload (h : Hdr) (d a : BitVec 5) (g : BitVec 6) : WordSpec :=
  { rgWord h d g true false (fun rg c k w s =>
      let r := s.region rg
      if w.idx = 0 && (r.standby = .loading || r.live = .pending) then .done s 4 false
      else
        let w' := if w.idx = 0 then { w with idx := 1, due := s.cycle + 2500 } else w
        let s := if w.idx = 0 then setStandby rg .loading {} s else s
        emptyOnTrap rg (fetchVirt c k w.va 256 0 (fun w s =>
          fetchVirt c k (w.va + 622144) 1792 0 (fun w s =>
            if !(headFields { header := w.buf.take 256 } && sigFields ((w.buf.drop 256).take 1536)) then
              (if s.cycle < w.due then .begun w s else .done (setStandby rg .empty {} s) 5 false)
            else fetchVirt c k (w.va - 1536) imageSize 0 (fun w s =>
              if s.cycle < w.due then .begun w s else loadImage rg w s) 80000 w s) 80000 w s) 80000 w' s)) with
    a := some a, check := align64 g }

/-- The planes exchange, and the new live plane is frozen in its initial state (R285). -/
def exchange (rg : Nat) (s : State) : State :=
  s.modRegion rg (fun r => { (r.makeLive r.stby .frozen) with
    standby := if r.live = .blank then .empty else .staged
    stby := if r.live = .blank then {} else r.img })

def specRgswapNow (h : Hdr) (d : BitVec 5) (g : BitVec 6) : WordSpec :=
  rgWord h d g false false (fun rg _ _ _ s =>
    let r := s.region rg
    if !(r.live = .blank || r.live = .frozen) then .done s 1 false
    else if r.standby ≠ .staged then .done s 2 false
    else .done (exchange rg s) 0 false)

/-- Latch cause 4 on every bound port of a region (R285). -/
def latchBound (rg : Nat) (s : State) : State :=
  (List.range 8).foldl (fun s k =>
    let t := laneTile rg k
    let f := fun (s : State) (pk : Nat) => if ((s.core t.1).d.port pk).bound then latchCause t.1 pk 4 s else s
    f (f s (inPort t.2)) (outPort t.2)) s

def specRgswapHot (h : Hdr) (d : BitVec 5) (g : BitVec 6) : WordSpec :=
  rgWord h d g false false (fun rg c _ w s =>
    let r := s.region rg
    if w.idx = 1 then .begun w s
    else if r.live ≠ .running || r.img.swap = 0 then .done s 1 false
    else if r.standby ≠ .staged then .done s 2 false
    else if leNat (shake256 (imageBytes r.stby) 64) ≠ r.stby.digest.toNat then
      .trap (runTrap 0x13) w (latchBound rg (setStandby rg .empty {} s))
    else .begun { w with idx := 1 } (s.modRegion rg (fun r =>
      { r with live := .pending, swapAt := none, swapper := some (c, w.seq) })))

def specRgfreezeFreeze (h : Hdr) (d : BitVec 5) (g : BitVec 6) : WordSpec :=
  rgWord h d g false false (fun rg _ _ w s =>
    let r := s.region rg
    if w.idx = 1 then
      if s.cycle < w.due then .begun w s
      else .done (s.modRegion rg (fun r => { r with live := .frozen, edge := none })) 0 false
    else if !(r.live = .running || r.live = .pending) then .done s 1 false
    else
      let e := edgeFrom (divider r.clk.toNat) s.cycle
      .begun { w with idx := 1, due := e + 64 }
        ((cancelSwap rg s).modRegion rg (fun r => { r with live := .running, lastEdge := some e })))

def specRgfreezeThaw (h : Hdr) (d : BitVec 5) (g : BitVec 6) : WordSpec :=
  rgWord h d g false false (fun rg _ _ w s =>
    let r := s.region rg
    let n := divider r.clk.toNat
    if w.idx = 1 then
      if s.cycle < w.due then .begun w s
      else .done (s.modRegion rg (fun r => { r with live := .running, lastEdge := none })) 0 false
    else if r.live ≠ .frozen || r.err then .done s 1 false
    else .begun { w with idx := 1, due := edgeFrom n (s.cycle + 1) + 32 * n } s)

/-- Translate a range for writing, page by page (10 R226): the pieces, or the code and address that fail; none where the node's shadow pool
has no free frame (16 R319). -/
def writePieces (c : Nat) : Nat → Nat → Nat → State → Except (Option (BitVec 8 × Word)) (List (Nat × Nat)) × State
  | 0, _, _, s => (.ok [], s)
  | f + 1, va, n, s =>
    if n = 0 then (.ok [], s)
    else if va ≥ 2 ^ 48 then (.error (some (0x04, word va)), s)
    else
      let m := Nat.min n (65536 - va % 65536)
      match coreXlat s c { coreAccess s c with write := true } va with
      | (.fail e, s) => (.error (some (e, word va)), s)
      | (.ok pa leaf _, s) =>
        match shadowWrite s c pa leaf with
        | .error e => (.error (e.map (fun e => (e, word va))), s)
        | .ok (pa, s) => match writePieces c f (va + m) (n - m) s with
          | (.ok l, s) => (.ok ((pa, m) :: l), s)
          | (.error e, s) => (.error e, s)

/-- What a failed translation for writing does to a word: its trap, or the end of a node whose pool is exhausted (16 R319). -/
def writeFails (c : Nat) (e : Option (BitVec 8 × Word)) (w : QWord) (s : State) : Run :=
  match e with
  | some e => xlatStop { runTrap e.1 with addr := e.2 } w s
  | none => .wait w (s.modCore c (fun y => { y with ending := some 0x06 }))

/-- Write bytes wherever a physical address lies, as the supervisor's stores do (22 R407, R412; 18 R340). -/
def writeAny (p : BitVec 16) (pa : Nat) (bs : List Byte) (s : State) : State :=
  match target pa with
  | .crown d off => (List.range (bs.length / 8)).foldl (fun s i => crownWrite d (off + 8 * i) (wordAt bs (8 * i)) false s) s
  | _ => writeOut p pa bs s

def specRgreadSave (h : Hdr) (d a : BitVec 5) (g : BitVec 6) : WordSpec :=
  { rgWord h d g false true (fun rg c _ w s =>
      let r := s.region rg
      let die := coreDie c
      let n := chainChunks r.img
      let finish := fun (w : QWord) (s : State) =>
        match writePieces c 10 w.va.toNat (8 * n) s with
        | (.error e, s) => writeFails c e w s
        | (.ok l, s) => .done (s.modDie die (fun x => { x with outBuf := chainOf r, wbPages := some ((s.core c).csr.partition, l) })) 0 false
      if w.idx = 1 then (if s.cycle < w.due then .begun w s else finish w s)
      else if (s.die die).wbPages.isSome then .wait w s
      else if r.live ≠ .frozen then .done s 1 false
      else match writePieces c 10 w.va.toNat (8 * n) s with
        | (.error e, s) => writeFails c e w s
        | (.ok _, s) => if n ≤ 1 then finish w s else .begun { w with idx := 1, due := s.cycle + n - 1 } s) with
    a := some a, check := align64 g }

/-- Words from bytes. -/
def wordsOf (b : List Byte) : List Word := (List.range (b.length / 8)).map (fun i => wordAt b (8 * i))

def specRgreadFetch (h : Hdr) (d a : BitVec 5) (x : BitVec 1) (g : BitVec 6) : WordSpec :=
  { rgWord h d g false true (fun rg c k w s =>
      let r := s.region rg
      let die := coreDie c
      let n := chainChunks (if x = 1 then r.stby else r.img)
      if w.idx = 0 && (s.die die).wbPages.isSome then .wait w s
      else if w.idx = 0 && x = 0 && r.live = .blank then .done s 1 false
      else if w.idx = 0 && x = 1 && r.standby ≠ .staged then .done s 2 false
      else fetchVirt c k w.va (8 * n) 0 (fun w s =>
        .done (s.modDie die (fun y => { y with inBuf := wordsOf w.buf })) 0 false) 80000 { w with idx := 1 } s) with
    a := some a, check := align64 g }

def specRgreadRestore (h : Hdr) (d : BitVec 5) (x : BitVec 1) (g : BitVec 6) : WordSpec :=
  rgWord h d g false true (fun rg c _ w s =>
    let r := s.region rg
    let buf := (s.die (coreDie c)).inBuf
    let finish := fun (s : State) =>
      Run.done (s.modRegion rg (fun r => restoreChain r (buf.flatMap (fun v => natBits v.toNat 64)))) 0 false
    if w.idx = 1 then (if s.cycle < w.due then .begun w s else finish s)
    else if !(r.live = .frozen || r.live = .blank && x = 1) then .done s 1 false
    else if x = 1 && r.standby ≠ .staged then .done s 2 false
    else if buf.length ≠ chainChunks (if x = 1 then r.stby else r.img) then .done s 7 false
    else
      let s := if x = 1 then exchange rg s else s
      if buf.length ≤ 1 then finish s else .begun { w with idx := 1, due := s.cycle + buf.length - 1 } s)

def specRgreadStatus (h : Hdr) (d : BitVec 5) (g : BitVec 6) : WordSpec :=
  rgWord h d g false false (fun rg _ _ _ s => .done s (regionStatus s rg) false)

def specRgclk (h : Hdr) (d : BitVec 5) (cc : BitVec 3) (g : BitVec 6) : WordSpec :=
  rgWord h d g false false (fun rg _ _ _ s =>
    let r := s.region rg
    if !(r.live = .blank || r.live = .frozen) then .done s 1 false
    else .done (s.modRegion rg (fun r => { r with clk := cc })) 0 false)

/-- SAVE_WRITEBACK_DONE (R287): the out buffer's chunks are in memory, and wbp clears. -/
def writebackEv (d : Nat) (s : State) : State :=
  match (s.die d).wbPages with
  | none => s
  | some (ctx, l) =>
    if l.any (fun p => !rangeReady s p.1 p.2) then s
    else
      let bytes := chainBytes (s.die d).outBuf
      let r := l.foldl (fun (acc : State × List Byte) p => (writeAny ctx p.1 (acc.2.take p.2) acc.1, acc.2.drop p.2)) (s, bytes)
      r.1.modDie d (fun x => { x with wbPages := none })

/-- A Y word that must act in the very cycle in which it is due (12 R246, 14 R286, R287, R290, 17 R330); an RGLOAD takes at least
its 2,500 cycles (14 R284). -/
def yExact (i : Instr) : Bool :=
  match i with
  | .rgload _ _ _ _ => false
  | .domsetInstall _ _ _ | .domsetRemove _ _ _ | .yield _ _ => true
  | i => (regionOf i).isSome

end Sys2Proof.Machine
end

