-- ==== Sys2Proof/Machine/Transfer.lean ====
section
/-! DEFINITION. Copy transfers after their acceptance (08 R182, R191-R193, R203): when one starts, what one chunk does, and how its
slot fills. -/

namespace Sys2Proof.Machine

/-- Is a word one that accesses memory (R191), or a BAR.T, which may be an acquire of every later access (12 R249)? -/
def isAccess (i : Instr) : Bool :=
  isLoad i || (match i with
    | .stg _ _ _ _ _ _ | .strl _ _ _ _ _ | .stxD _ _ _ _ | .stxW _ _ _ _ | .verst _ _ _ _ _ | .verrcl _ _ _ _ _ => true
    | .lat _ _ _ _ | .ldt _ _ _ _ | .lfold _ _ _ _ | .lfwait _ _ _ | .lgen _ _ _ | .submit _ _ _ _ => true
    | .vld _ _ _ _ _ _ | .vldS _ _ _ _ _ _ | .vst _ _ _ _ _ _ | .vstS _ _ _ _ _ _ | .mld _ _ _ _ _ | .mldT _ _ _ _ _ _ => true
    | .vdefer .. | .vdrain .. | .ctxSave .. | .ctxLoad .. | .rgload .. | .rgreadSave .. | .rgreadFetch .. | .rgreadRestore .. => true
    | .domsetInstall .. | .domsetRemove .. | .hmsetSwitch .. | .barT .. => true
    | .mldU _ _ _ | .mst _ _ _ _ _ | .vldBm _ _ _ _ _ _ | .vstBm _ _ _ _ _ _ | .fopen _ _ _ _ _ _ | .fadv _ _ _ _ _ => true
    | _ => false)

/-- The transfer in a hoop's slot. -/
def xferAt (x : CoreData) (hoop slot : Nat) : Option Xfer := x.xfers.find? (fun f => f.hoop = hoop && f.slot % 16 = slot)

/-- Update a transfer, by its order of acceptance. -/
def modXfer (c order : Nat) (f : Xfer → Xfer) (s : State) : State :=
  s.modData c (fun x => { x with xfers := x.xfers.map (fun t => if t.order = order then f t else t) })

/-- A transfer ends at a failing chunk (R192); one whose walk must wait goes on later (18 R350). -/
def failXfer (c : Nat) (t : Xfer) (code : BitVec 8) (addr : Word) (s : State) : State :=
  if code = walkWaits then s
  else modXfer c t.order (fun t => { t with fail := code, failAddr := addr, buf := [], req := 0 }) s

/-- The size of the next chunk of a transfer, where its page is no layered view. -/
def Xfer.chunk (t : Xfer) : Nat := if t.gen = 0 then 32 else t.cfg.size

/-- The address of the generated (or linear global) side at the chunk that starts at byte `pos`. -/
def Xfer.far (t : Xfer) (base : Word) (pos : Nat) : Word :=
  if t.gen = 0 then base + word pos else t.cfg.addr base (pos / t.cfg.size)

/-- The scratch ranges and the global ranges that a transfer touches. -/
def Xfer.farRanges (t : Xfer) (base : Word) : List (Nat × Nat) :=
  if t.gen = 0 then [(base.toNat, t.len)]
  else (List.range (t.len / t.cfg.size)).map (fun i => ((t.cfg.addr base i).toNat, t.cfg.size))
def Xfer.scrRanges (t : Xfer) : List (Nat × Nat) :=
  match t.kind with
  | .inn => [(t.dst.toNat, t.len)]
  | .out => [(t.src.toNat, t.len)]
  | .loc => (t.dst.toNat, t.len) :: t.farRanges t.src
def Xfer.globRanges (t : Xfer) : List (Nat × Nat) :=
  match t.kind with
  | .inn => t.farRanges t.src
  | .out => t.farRanges t.dst
  | .loc => []

def rangesMeet (a b : List (Nat × Nat)) : Bool := a.any (fun p => b.any (fun q => overlaps p.1 p.2 q.1 q.2))

/-- Is a pair of alias classes checked (05 R113)? -/
def checkedPair (a b : BitVec 2) : Bool := a = 0 || b = 0 || a = b

/-- Must a transfer wait for an earlier one of its queue (R182)? -/
def waitsFor (t e : Xfer) : Bool :=
  e.strand = t.strand && decide (e.order < t.order) && checkedPair e.cls t.cls
    && (rangesMeet e.scrRanges t.scrRanges || rangesMeet e.globRanges t.globRanges)

/-- TRANSFER_START (R191): with a generator the length and the addresses are checked, and nothing is moved where they fail. -/
def transferStartEv (c hoop slot : Nat) (s : State) : State :=
  let x := s.core c
  match xferAt x.d hoop slot with
  | none => s
  | some t =>
    if t.started || x.frozen s.cycle || preempting s c || t.stopped then s
    else if (x.strand t.strand).words.any (fun w => decide (w.seq < t.seq) && w.phase ≠ .done && isAccess w.i) then s
    else if x.d.xfers.any (waitsFor t) then s
    else
      let s := modXfer c t.order (fun t => { t with started := true }) s
      let base := match t.kind with
        | .out => t.dst
        | _ => t.src
      if t.gen ≠ 0 && t.len ≠ 0 && (t.len % t.cfg.size ≠ 0 || base.toNat % 32 ≠ 0) then failXfer c t 0x03 base s else s

/-- A 32-byte piece of a CPY.IN's source: bytes, a failure, a request sent, or a wait. -/
inductive Piece
  | bytes (b : List Byte) (s : State)
  | fail (code : BitVec 8) (s : State)
  | sent (id : Nat) (s : State)
  | wait (s : State)

/-- Translate for a chunk: once for each of its pages (18 R347). -/
def pageXlat (c : Nat) (pages : List (Nat × Nat)) (va : Nat) (s : State) : Xlat × State :=
  match pages.find? (fun p => p.1 = va / 65536) with
  | some p => (.ok (p.2 * 65536 + va % 65536) 0 16, s)
  | none => coreXlat s c (coreAccess s c) va

/-- The page of an address joins the chunk's translations. -/
def addPage (pages : List (Nat × Nat)) (va pa : Nat) : List (Nat × Nat) :=
  if pages.any (fun p => p.1 = va / 65536) then pages else pages ++ [(va / 65536, pa / 65536)]

/-- Read a piece of global memory (R192). -/
def readPiece (c : Nat) (pages : List (Nat × Nat)) (va : Word) (s : State) : List (Nat × Nat) × Piece :=
  if wbits va 63 48 ≠ 0 then (pages, .fail 0x04 s)
  else match pageXlat c pages va.toNat s with
    | (.fail e, s) => (pages, .fail e s)
    | (.ok pa _ _, s) => (addPage pages va.toNat pa,
      match target pa with
      | .crown _ _ => .fail 0x05 s
      | .host off => let r := sendHost (s.core c).csr.partition none off 32 false none 0 0 [] s; .sent r.1 r.2
      | .peer idx off => let r := s.newReq; .sent r.1 (sendPeer idx (.read off 32) r.2)
      | _ =>
        if !rangeReady s pa 32 then .wait s
        else match readBytes s pa 32 with
          | (some e, s, _) => .fail e s
          | (none, s, b) => .bytes b s)

/-- The leaf of a layered view that a CPY.IN reads, if its address lies in one. -/
def viewLeaf (c : Nat) (va : Word) (s : State) : Option Word :=
  if wbits va 63 48 ≠ 0 then none
  else match coreXlat s c { coreAccess s c with kind := 2 } va.toNat with
    | (.ok _ leaf _, _) => some leaf
    | _ => none

/-- Fill a chunk's buffer with its source, piece by piece: done when it holds `n` bytes. -/
def gather (c : Nat) (t : Xfer) (n : Nat) : Nat → List (Nat × Nat) → List Byte → State → (Option (List Byte)) × State
  | 0, _, _, s => (none, s)
  | f + 1, pages, b, s =>
    if b.length ≥ n then (some b, s)
    else
      let va := t.far t.src t.pos + word b.length
      let r := readPiece c pages va s
      match r.2 with
      | .bytes m s => gather c t n f r.1 (b ++ m) s
      | .fail e s => (none, failXfer c t e va s)
      | .sent id s => (none, modXfer c t.order (fun t => { t with buf := b, req := id, pages := r.1 }) s)
      | .wait s => (none, modXfer c t.order (fun t => { t with buf := b, pages := r.1 }) s)

/-- A chunk's bytes arrive in scratch; a line that the transfer has now covered whole loses its mark (05 R117). -/
def landScratch (c : Nat) (t : Xfer) (b : List Byte) (s : State) : State :=
  modXfer c t.order (fun t => { t with pos := t.pos + b.length, buf := [], req := 0, pages := [] })
    (s.modData c (fun x => (x.scrWrite (t.dst.toNat + t.pos) b).scrCover [(t.dst.toNat, t.pos + b.length)]))

/-- Translate and check every piece of a CPY.OUT chunk: physical addresses, or the failing code and address. -/
def outPieces (c : Nat) (va : Word) : Nat → State → Except (BitVec 8 × Word) (List Nat) × State
  | 0, s => (.ok [], s)
  | n + 1, s =>
    let bad := fun (e : BitVec 8) (s : State) => ((Except.error (e, va) : Except (BitVec 8 × Word) (List Nat)), s)
    if wbits va 63 48 ≠ 0 then bad 0x04 s
    else match coreXlat s c { coreAccess s c with write := true } va.toNat with
      | (.fail e, s) => bad e s
      | (.ok pa leaf _, s) =>
        match target pa with
        | .crown _ _ => bad 0x05 s
        | _ => match shadowWrite s c pa leaf with
          | .error (some e) => bad e s
          | .error none => bad 0x06 (s.modCore c (fun y => { y with ending := some 0x06 }))
          | .ok (pa, s) => match outPieces c (va + 32) n s with
            | (.ok l, s) => (.ok (pa :: l), s)
            | r => r

/-- Send the pieces of a CPY.OUT chunk; a peer's writes are acknowledged. -/
def sendPieces (c : Nat) (t : Xfer) (s : State) : List (Nat × List Byte) → State
  | [] => s
  | (pa, b) :: r =>
    match target pa with
    | .host off => sendPieces c t (sendHost (s.core c).csr.partition (some c) off 32 true none 0 0 b s).2 r
    | .peer idx off =>
      let q := s.newReq
      sendPieces c t (modXfer c t.order (fun t => { t with acks := t.acks ++ [q.1] }) (sendPeer idx (.write off b) q.2)) r
    | _ => sendPieces c t (writeBytes s pa b) r

def outChunk (c : Nat) (t : Xfer) (n : Nat) (s : State) : State :=
  let va := t.far t.dst t.pos
  let at_ := t.src.toNat + t.pos
  match outPieces c va (n / 32) s with
  | (.error e, s) => failXfer c t e.1 e.2 s
  | (.ok pas, s) =>
    let x := (s.core c).d
    if x.scrPoisoned at_ n then failXfer c t 0x08 (word at_) s
    else if pas.any (fun pa => rangeLost s pa 32) then failXfer c t 0x08 va s
    else if pas.any (fun pa => !rangeReady s pa 32) then s
    else
      let b := x.scrRead at_ n
      sendPieces c t (modXfer c t.order (fun t => { t with pos := t.pos + n }) s)
        (pas.mapIdx (fun i pa => (pa, (b.drop (32 * i)).take 32)))

def inChunk (c : Nat) (t : Xfer) (n : Nat) (s : State) : State :=
  let va := t.far t.src t.pos
  match viewLeaf c va s with
  | some leaf =>
    if !(if t.gen = 0 then decide (t.pos + 2048 ≤ t.len) else decide (n = 2048)) then failXfer c t 0x05 va s
    else match viewRead s { q := coreAccess s c, core := some c } leaf va.toNat with
      | .error none => s
      | .error (some e) => failXfer c t e va s
      | .ok b => landScratch c t b s
  | none =>
    -- bytes that were asked for, if they have come
    if t.req ≠ 0 then
      match s.pkg.arrived.find? (fun a => a.1 = t.req) with
      | none => s
      | some a =>
        let s := { s with pkg := { s.pkg with arrived := s.pkg.arrived.filter (fun z => z.1 ≠ t.req) } }
        if !a.2.1 then failXfer c t 0x08 (va + word t.buf.length) s
        else
          let s := modXfer c t.order (fun y => { y with req := 0 }) s
          match gather c t n 65 t.pages (t.buf ++ a.2.2) s with
          | (some b, s) => landScratch c t b s
          | (none, s) => s
    else match gather c t n 65 t.pages t.buf s with
      | (some b, s) => landScratch c t b s
      | (none, s) => s

def locChunk (c : Nat) (t : Xfer) (n : Nat) (s : State) : State :=
  let va := t.far t.src t.pos
  if va.toNat + n > 0x80000 then failXfer c t 0x05 va s
  else
    let x := (s.core c).d
    let ps := x.absent va.toNat n
    if !ps.isEmpty then s.modData c (·.refill ps)
    else if x.scrPoisoned va.toNat n then failXfer c t 0x08 va s
    else landScratch c t (x.scrRead va.toNat n) s

/-- TRANSFER_CHUNK (R192): absent scratch pages are refilled first (05 R116). -/
def transferChunkEv (c hoop slot : Nat) (s : State) : State :=
  let x := s.core c
  match xferAt x.d hoop slot with
  | none => s
  | some t =>
    if !t.started || t.fail ≠ 0 || t.pos ≥ t.len || x.frozen s.cycle then s
    else
      let n := t.chunk
      let near := (match t.kind with
        | .out => t.src
        | _ => t.dst).toNat + t.pos
      let ps := x.d.absent near (match t.kind with
        | .inn => (if (viewLeaf c (t.far t.src t.pos) s).isSome then 2048 else n)
        | _ => n)
      if !ps.isEmpty then s.modData c (·.refill ps)
      else match t.kind with
        | .inn => inChunk c t n s
        | .out => outChunk c t n s
        | .loc => locChunk c t n s

/-- The write pointer advances over filled slots (R193). -/
def Hoop.advance : Nat → Hoop → Hoop
  | 0, h => h
  | n + 1, h =>
    if h.wr ≠ h.alloc && (tget ({} : Slot) h.slots (h.wr.toNat % 16)).filled then Hoop.advance n { h with wr := h.wr + 1 } else h

/-- SLOT_FILL (R193). -/
def slotFillEv (c hoop slot : Nat) (s : State) : State :=
  match xferAt (s.core c).d hoop slot with
  | none => s
  | some t =>
    if !t.started || !(t.fail ≠ 0 || decide (t.pos ≥ t.len)) || !t.acks.isEmpty || (s.core c).frozen s.cycle then s
    else s.modData c (fun x =>
      let h := x.hoop hoop
      let h := { h with slots := tput h.slots slot { filled := true, code := t.fail, addr := t.failAddr } }
      { (x.setHoop hoop (h.advance 16)) with xfers := x.xfers.filter (fun f => f.order ≠ t.order) })

end Sys2Proof.Machine
end

