-- ==== Sys2Proof/Machine/Crown.lean ====
section
/-! DEFINITION. The crown's view of launches (16 R310-R319, 17 R324, R330): graphs, priorities, the ready pool, placements,
time-division tables, completion and abort of nodes and launches. -/

namespace Sys2Proof.Machine

/-! ### Memory as the crown, the central copy engine and the loader reach it -/

/-- A failed translation of theirs: none where its walk must wait (18 R350). -/
def xlatError (e : BitVec 8) : Option (BitVec 8) := if e = walkWaits then none else some e

/-- Read a range of virtual memory, page by page: none where a line, or an answer of the host or of a peer, must be waited for. A register
page is not read here (18 R340). -/
def virtRead (s : State) (q : Access) : Nat → Nat → Nat → SumRes (List Byte)
  | 0, _, _ => .ok []
  | f + 1, va, n =>
    if n = 0 then .ok []
    else
      let m := Nat.min n (65536 - va % 65536)
      match translate s q va with
      | .fail e => .error (xlatError e)
      | .ok pa _ _ =>
        match target pa with
        | .crown _ _ => .error (some 0x05)
        | .host _ | .peer _ _ => do
          let b ← askedBytes s q.own pa m
          let r ← virtRead s q f (va + m) (n - m)
          .ok (b ++ r)
        | _ =>
          if !rangeReady s pa m then .error none
          else match readBytes s pa m with
            | (some e, _, _) => .error (some e)
            | (none, _, b) => do
              let r ← virtRead s q f (va + m) (n - m)
              .ok (b ++ r)

/-- Ask the host and the peers for the parts of a range that lie with them and have not been asked for. -/
def askRange (q : Access) : Nat → Nat → Nat → State → State
  | 0, _, _, s => s
  | f + 1, va, n, s =>
    if n = 0 then s
    else
      let m := Nat.min n (65536 - va % 65536)
      match translate s q va with
      | .fail _ => s
      | .ok pa _ _ => askRange q f (va + m) (n - m) (askAt q.ctx q.own pa m none s)

/-- The pieces of a range of virtual memory to write, page by page; a register page fails with 0x05 (18 R340), a lost stack with 0x08. -/
def virtPieces (s : State) (q : Access) : Nat → Nat → Nat → SumRes (List (Nat × Nat))
  | 0, _, _ => .ok []
  | f + 1, va, n =>
    if n = 0 then .ok []
    else
      let m := Nat.min n (65536 - va % 65536)
      match translate s { q with write := true } va with
      | .fail e => .error (xlatError e)
      | .ok pa _ _ =>
        match target pa with
        | .crown _ _ => .error (some 0x05)
        | _ =>
          if rangeLost s pa m then .error (some 0x08)
          else if !rangeReady s pa m then .error none
          else do
            let r ← virtPieces s q f (va + m) (n - m)
            .ok ((pa, m) :: r)

/-- Write bytes that lie in one page, wherever their address leads: where the writer has a release to come, what goes to the host or to a
peer is noted for it (16 R301, 22 R407). -/
def writeFor (q : Access) (pa : Nat) (bs : List Byte) (s : State) : State :=
  if q.own.isEmpty then writeOut q.ctx pa bs s
  else match target pa with
    | .host off => (sendHost q.ctx none off bs.length true none 0 0 bs s q.own).2
    | .peer idx off =>
      let r := s.newReq
      sendPeer idx (.write off bs) { r.2 with asks := r.2.asks ++ [{ own := q.own, pa := pa, n := bs.length, id := r.1, write := true }] }
    | _ => writeOut q.ctx pa bs s

/-- Write a range of virtual memory; nothing is written where a page fails. -/
def virtWrite (s : State) (q : Access) (va : Nat) (bs : List Byte) : SumRes State := do
  let ps ← virtPieces s q (bs.length / 65536 + 2) va bs.length
  .ok (ps.foldl (fun (acc : State × List Byte) p => (writeFor q p.1 (acc.2.take p.2) acc.1, acc.2.drop p.2)) (s, bs)).1

/-- Has every write of a writer to a peer been acknowledged, and to the host covered by a completion (10 R227, 22 R407)? -/
def peersDone (s : State) (own : List Nat) : Bool := !s.asks.any (fun a => a.write && a.own = own)
def hostDone (s : State) (own : List Nat) : Bool := !s.pkg.hostReqs.any (fun r => r.write && r.own = own)

/-- The one zero-length read that covers a writer's posted writes (22 R407). -/
def flushHost (ctx : BitVec 16) (own : List Nat) (s : State) : State :=
  if s.pkg.hostReqs.any (fun r => !r.write && r.size = 0 && r.own = own) then s
  else (sendHost ctx none 0 0 false none 0 0 [] s own).2

/-! ### Graphs (R310, R311) -/

def NodeKind.leaf : NodeKind → Bool
  | .tile | .weave => true
  | _ => false

/-- Node `i` of a launch. -/
def Launch.node (l : Launch) (i : Nat) : Node := l.nodes.getD i {}

/-- Has the node finished? -/
def Node.ended (n : Node) : Bool := n.st = .done || n.st = .aborted

/-- The children of a controller. -/
def Node.children (n : Node) : List Nat := (List.range n.count).map (· + n.first)

/-- The leaves below a node, itself included. -/
def Launch.leaves (l : Launch) : Nat → Nat → List Nat
  | 0, _ => []
  | f + 1, i =>
    let n := l.node i
    if n.kind.leaf then [i] else n.children.flatMap (l.leaves f)

/-- Enough fuel for a path of a graph. -/
def Launch.depth (l : Launch) : Nat := l.nodes.length + 1

/-- The ancestors of a node, nearest first. -/
def Launch.ancestors (l : Launch) : Nat → Nat → List Nat
  | 0, _ => []
  | f + 1, i =>
    let p := (l.node i).parent
    if p = 0xFFFF then [] else p :: l.ancestors f p

/-- The outermost STREAM above a node: its leaves are placed together (R314). -/
def Launch.stream (l : Launch) (i : Nat) : Option Nat :=
  ((l.ancestors l.depth i).reverse).find? (fun a => (l.node a).kind = .stream)

/-- The STREAM whose tile leaves a weave leaf serves (R311): the nearest one above it that has any. -/
def Launch.weaveStream (l : Launch) (i : Nat) : Option Nat :=
  (l.ancestors l.depth i).find? (fun a => (l.node a).kind = .stream && (l.leaves l.depth a).any (fun j => (l.node j).kind = .tile))

/-- Is a node done (R311)? -/
def Launch.isDone (l : Launch) : Nat → Nat → Bool
  | 0, _ => false
  | f + 1, i =>
    let n := l.node i
    match n.kind with
    | .seq | .pipe => n.children.all (l.isDone f)
    | .stream => (l.leaves l.depth i).all (fun j => (l.node j).kind = .weave || (l.node j).st = .done)
    | _ => n.st = .done

/-- Has every leaf below a node been dispatched? -/
def Launch.dispatched (l : Launch) (i : Nat) : Bool :=
  (l.leaves l.depth i).all (fun j => match (l.node j).st with
    | .waiting | .ready | .reserved | .placed => false
    | _ => true)

/-- May a node start, as its ancestors' rules have it (R311)? -/
def Launch.mayStart (l : Launch) : Nat → Nat → Bool
  | 0, _ => false
  | f + 1, i =>
    let p := (l.node i).parent
    if p = 0xFFFF then true
    else
      let c := l.node p
      match c.kind with
      | .seq => l.mayStart f p && (i = c.first || (l.isDone l.depth (i - 1) && l.mayStart f (i - 1)))
      | .pipe => l.mayStart f p && (i = c.first || (l.dispatched (i - 1) && l.mayStart f (i - 1)))
      | _ => l.mayStart f p

/-- Does a leaf's parent's rule let it start (R311)? -/
def Launch.leafMayStart (l : Launch) (i : Nat) : Bool := l.mayStart l.depth i

/-! ### Priorities (R312, R313) -/

/-- Every node of the package: its place and its record. -/
def allNodes (s : State) : List (NodeRef × Launch × Node) :=
  s.dies.flatMap (fun d => d.2.launches.flatMap (fun l => l.nodes.mapIdx (fun i n => (⟨d.1, l.stamp.toNat, i⟩, l, n))))

/-- Must `v` be done before `w` can start, in one launch: siblings of a SEQ on the paths to the root? -/
def Launch.before (l : Launch) (v w : Nat) : Bool :=
  (v :: l.ancestors l.depth v).any (fun a => (w :: l.ancestors l.depth w).any (fun b =>
    let p := (l.node a).parent
    p = (l.node b).parent && p ≠ 0xFFFF && (l.node p).kind = .seq && decide (a < b)))

/-- Do two virtual addresses, each in its own context, lead to one word of memory? -/
def sameWord (s : State) (c : BitVec 16) (a : Word) (e : BitVec 16) (b : Word) : Bool :=
  match walk s c a.toNat, walk s e b.toNat with
  | .ok p _ _, .ok q _ _ => p = q
  | _, _ => c = e && a = b

/-- Does node `w` wait on node `v` (R312): by the graph, or by its operand word, whose address is `v`'s done address? -/
def waitsOn (s : State) (v w : NodeRef × Launch × Node) : Bool :=
  w.2.2.st = .waiting &&
  ((v.1.die = w.1.die && v.1.launch = w.1.launch && v.2.1.before v.1.node w.1.node)
   || (w.2.2.opAddr ≠ 0 && (v.2.2 :: (v.2.1.ancestors v.2.1.depth v.1.node).map v.2.1.node).any (fun n =>
     n.done ≠ 0 && sameWord s v.2.1.ctx n.done w.2.1.ctx w.2.2.opAddr)))

/-- The effective priority of a node: fuel for chains of waiting. -/
def effPrio (s : State) : Nat → NodeRef → Nat
  | 0, r => (match nodeOf s r with
    | some n => n.own
    | none => 0)
  | f + 1, r =>
    match (allNodes s).find? (fun x => x.1 = r) with
    | none => 0
    | some v => ((allNodes s).filter (waitsOn s v)).foldl (fun p w => Nat.max p (effPrio s f w.1)) v.2.2.own

/-- Chains longer than this add nothing: priorities are 0 to 3. -/
def prioFuel (s : State) : Nat := (allNodes s).length

/-! ### Placements (R310, R314) -/

/-- The cores of a tile node. -/
def Node.cores_ (n : Node) : List Nat :=
  if n.kind = .tile then
    (List.range 12).flatMap (fun c => if n.clusters.getLsbD c then
      (List.range 16).filterMap (fun k => if n.cores.getLsbD k then some (n.die * 256 + c * 16 + k) else none) else [])
  else []

/-- The regions of a weave node. -/
def Node.regions_ (n : Node) : List Nat :=
  if n.kind = .weave then
    (List.range 12).flatMap (fun c => if n.clusters.getLsbD c then
      (List.range 4).filterMap (fun k => if n.regions.getLsbD k then some (n.die * 48 + c * 4 + k) else none) else [])
  else []

/-- The nodes that are placed with a node: its STREAM's leaves, or itself. -/
def groupOf (s : State) (r : NodeRef) : List NodeRef :=
  match launchOf s r with
  | some l => match l.stream r.node with
    | some a => (l.leaves l.depth a).map (fun i => { r with node := i })
    | none => [r]
  | none => []

/-- Does a node hold its cores and regions? -/
def NodeState.occupies : NodeState → Bool
  | .reserved | .placed | .running | .saving | .resuming => true
  | _ => false

/-- The nodes that hold a core or region of a node's placement. -/
def occupants (s : State) (n : Node) : List (NodeRef × Launch × Node) :=
  (allNodes s).filter (fun x => x.2.2.st.occupies &&
    (x.2.2.cores_.any (fun c => n.cores_.contains c) || x.2.2.regions_.any (fun g => n.regions_.contains g)))

/-- Is a node's placement wholly idle: every core's strands in state 0, or in state 6 with the context saved, every region blank? -/
def placeIdle (s : State) (n : Node) : Bool :=
  (occupants s n).isEmpty
  && n.cores_.all (fun c => (s.core c).record.isNone &&
      (List.range 4).all (fun k => ((s.core c).strand k).st = .idle || ((s.core c).strand k).st = .preempted))
  && n.regions_.all (fun g => (s.region g).live = .blank)

/-! ### Time-division tables (10 R210-R213) -/

/-- The pairs (slot, frame cycle) that a table occupies. -/
def tableOcc (t : Table (BitVec 96)) : List (Nat × Nat) :=
  t.flatMap (fun m => (List.range 96).flatMap (fun f =>
    if m.2.getLsbD f then (List.range 24).map (fun i => ((f + 96 - m.1) % 24, (f + i) % 96)) else []))

/-- R211's check of several masks together. -/
def tablesFit (ts : List (Table (BitVec 96))) : Bool :=
  let o := ts.flatMap tableOcc
  o.length = o.eraseDups.length

/-- The tables installed on a cluster of a die. -/
def clusterTables (s : State) (d c : Nat) : List (Nat × Table (BitVec 96)) :=
  (s.die d).tables.filterMap (fun t => if t.1 = c then some t.2 else none)

/-- The clusters of a node. -/
def Node.clusterList (n : Node) : List Nat := (List.range 12).filter (fun c => n.clusters.getLsbD c)

/-- Would a launch's table conflict on a node's clusters (10 R212) with those installed there, or with those of launches of which a node is
about to be placed there (`coming`)? -/
def tableFits (s : State) (stamp : Nat) (t : Table (BitVec 96)) (n : Node) (coming : Nat → List (Table (BitVec 96)) := fun _ => []) : Bool :=
  n.clusterList.all (fun c => tablesFit (t :: ((clusterTables s n.die c).filter (fun x => x.1 ≠ stamp)).map (·.2) ++ coming c))

/-- Install a launch's table on a node's clusters: once for each launch and cluster. -/
def installTable (stamp : Nat) (t : Table (BitVec 96)) (n : Node) (s : State) : State :=
  if t.isEmpty then s
  else n.clusterList.foldl (fun s c => s.modDie n.die (fun d =>
    if d.tables.any (fun x => x.1 = c && x.2.1 = stamp) then d else { d with tables := d.tables ++ [(c, stamp, t)] })) s

/-- Remove the tables of launches of which no node is placed on the cluster (10 R212). -/
def sweepTables (s : State) : State :=
  let live := (allNodes s).filter (fun x => x.2.2.st.occupies)
  { s with dies := s.dies.map (fun d => (d.1, { d.2 with tables := d.2.tables.filter (fun t =>
      live.any (fun x => x.1.launch = t.2.1 && x.2.2.die = d.1 && x.2.2.clusterList.contains t.1)) })) }

/-! ### The ready pool (R312-R314) -/

/-- R313's keys in turn; nodes of two queues that tie in all of them stand in the order in which their launches began. -/
def poolKey (s : State) (x : NodeRef × Launch × Node) : List Nat :=
  [3 - Nat.min 3 (effPrio s (prioFuel s) x.1), x.2.2.readyAt, x.2.1.seqno.toNat, x.1.node, x.1.launch]

/-- Does one list of keys come before another, the first difference deciding? -/
def keyLe : List Nat → List Nat → Bool
  | a :: x, b :: y => decide (a < b) || (a = b && keyLe x y)
  | _, _ => true

def insertKey (k : List Nat) (r : NodeRef × Launch × Node) :
    List (List Nat × (NodeRef × Launch × Node)) → List (List Nat × (NodeRef × Launch × Node))
  | [] => [(k, r)]
  | x :: rest => if keyLe k x.1 then (k, r) :: x :: rest else x :: insertKey k r rest

/-- The nodes of a die's crown in a state, in pool order. -/
def poolOf (s : State) (d : Nat) (p : NodeState → Bool) : List (NodeRef × Launch × Node) :=
  (((allNodes s).filter (fun x => x.1.die = d && p x.2.2.st)).foldl (fun l x => insertKey (poolKey s x) x l) []).map (·.2)

/-- A node with its STREAM group as one unit: every leaf is in the pool. -/
def groupReady (s : State) (r : NodeRef) (p : NodeState → Bool) : Bool :=
  (groupOf s r).all (fun g => match nodeOf s g with
    | some n => p n.st
    | none => false)

/-! ### Pre-emption's decision (R315) -/

/-- Set the state of a node. -/
def setNode (r : NodeRef) (st : NodeState) (s : State) : State := s.modNode r (fun n => { n with st := st })

/-- The crown decides to pre-empt nodes: the signal reaches their cores 12 cycles later (17 R332). One leaf of a STREAM takes every
leaf of it. -/
def decidePreempt (rs : List NodeRef) (s : State) : State :=
  ((rs.flatMap (groupOf s)).eraseDups).foldl (fun s r => match nodeOf s r with
    | some n => if n.st = .running then s.modNode r (fun n => { n with st := .saving, fireAt := none, ctxDue := s.cycle + 12, victims := [] }) else s
    | none => s) s

/-- Node `p` pre-empts the nodes `rs`: it is placed once their contexts are saved, so none of them comes before it (R315). -/
def decideFor (p : NodeRef) (rs : List NodeRef) (s : State) : State :=
  (decidePreempt rs s).modNode p (fun n => { n with victims := (rs.flatMap (groupOf s)).eraseDups })

/-- Must a pool node wait for one that has pre-empted it: until the contexts of all the victims are saved (R315)? -/
def heldFor (s : State) (r : NodeRef) : Bool :=
  (allNodes s).any (fun x => (x.2.2.st = .ready || x.2.2.st = .saved) && x.2.1.abort.isNone && x.2.2.victims.contains r
    && x.2.2.victims.any (fun v => (nodeOf s v).any (fun n => n.st = .saving)))

/-- The node for which a core's node yields (17 R330): the first in pool order that includes one of its cores and has at least its
effective priority. -/
def yieldsTo (s : State) (r : NodeRef) : Option NodeRef :=
  match nodeOf s r with
  | none => none
  | some n =>
    ((((allNodes s).filter (fun x => (x.2.2.st = .ready || x.2.2.st = .saved) && x.2.1.abort.isNone
      && x.2.2.cores_.any (fun c => n.cores_.contains c)
      && decide (effPrio s (prioFuel s) r ≤ effPrio s (prioFuel s) x.1))).foldl (fun l x => insertKey (poolKey s x) x l) []).head?).map (·.2.1)

/-! ### Permits (26 R447, R448) -/

/-- Does a core hold a permit? It returns it: the governor's count falls. -/
def returnPermit (c : Nat) (s : State) : State :=
  if (s.core c).csr.permHeld then
    (s.modDie (coreDie c) (fun d => { d with gov := tmod {} d.gov (coreCluster c) (fun g => { g with held := g.held - 1 }) })).modCsr c
      (fun r => { r with permHeld := false })
  else s

/-- A request of `req` cycles (R448). -/
def permitAsk (c req : Nat) (s : State) : State :=
  let d := coreDie c
  let cl := coreCluster c
  let g := tget {} (s.die d).gov cl
  if req = 0 then
    (returnPermit c s).modCsr c (fun r => { r with permHeld := false, permDenied := false, permRetry := 0, permLeft := 0 })
  else if (s.core c).csr.permHeld || g.held < g.cap then
    let s := if (s.core c).csr.permHeld then s
      else s.modDie d (fun x => { x with gov := tmod {} x.gov cl (fun g => { g with held := g.held + 1 }) })
    s.modCsr c (fun r => { r with permHeld := true, permDenied := false, permRetry := 0, permLeft := BitVec.ofNat 32 req })
  else s.modCsr c (fun r => { r with permDenied := true, permRetry := BitVec.ofNat 16 (Nat.min (govNext s) 0xFFFF) })

/-! ### Ends of nodes and launches (R316, R317, R319) -/

/-- A word's access rights for a launch. -/
def Launch.access (l : Launch) : Access := { ctx := l.ctx, sup := l.sup }

/-- How the crown and the rewriter read for a launch, and what its ended nodes have left with the host and with peers. -/
def Launch.reads (l : Launch) : Access := { l.access with own := [2, l.stamp.toNat] }

/-- Can a done address be written now: no walk, and no line, must be waited for (18 R350)? -/
def doneReady (s : State) (l : Launch) (addr : Word) : Bool :=
  addr = 0 || wbits addr 63 48 ≠ 0 || (match translate s { l.access with write := true } addr.toNat with
    | .fail e => e ≠ walkWaits
    | .ok pa _ _ => rangeReady s pa 8)

/-- Write a done address: the code of the failure, if it fails. A register page is no place for it (18 R340). -/
def writeDone (l : Launch) (addr v : Word) (s : State) : Option (BitVec 8) × State :=
  if addr = 0 then (none, s)
  else if wbits addr 63 48 ≠ 0 then (some 0x04, s)
  else match translate s { l.access with write := true } addr.toNat with
    | .fail e => (some e, s)
    | .ok pa _ _ => match target pa with
      | .crown _ _ => (some 0x05, s)
      | _ => if rangeLost s pa 8 then (some 0x08, s) else (none, writeOut l.ctx pa (leBytes 8 v.toNat) s)

/-- Replace the originals of a node's shadow pages by its frames, in one step (R319). -/
def commitFrames (r : NodeRef) (s : State) : State :=
  match nodeOf s r with
  | none => s
  | some n =>
    let s := n.frames.foldl (fun s f => s.memStore (f.1 * 65536) (memReadN s.mem (f.2 * 65536) 65536)) s
    s.modNode r (fun n => { n with frames := [] })

/-- What a core's node has sent to the host and to peers without an acknowledgement yet is its launch's from now on: the launch's record
covers it (R301). -/
def leaveWrites (stamp c : Nat) (s : State) : State :=
  let own := [2, stamp]
  let peer := fun (q : Req) => q.core = c && q.kind = .store && (match target q.pa with | .peer _ _ => true | _ => false)
  { s with
    pkg := { s.pkg with hostReqs := s.pkg.hostReqs.map (fun r => if r.write && r.core == some c then { r with core := none, own := own } else r) }
    asks := s.asks.map (fun a => if a.write && a.own = [6, c] then { a with own := own } else a)
      ++ (s.reqs.filter peer).map (fun q => { own := own, pa := q.pa, n := q.size, id := q.id, write := true })
      ++ (s.core c).d.xfers.flatMap (fun t => t.acks.map (fun i => { own := own, pa := t.dst.toNat, n := 32, id := i, write := true })) }

/-- The one zero-length read that covers a core's posted host writes (22 R407). -/
def flushCore (c : Nat) (s : State) : State :=
  if !hostPending s c || s.pkg.hostReqs.any (fun r => !r.write && r.size = 0 && r.core == some c) then s
  else (sendHost (s.core c).csr.partition (some c) 0 0 false none 0 0 [] s).2

/-- Are the writes of a node's cores to the host and to peers acknowledged (R316: its done write is a release at system scope)? -/
def coresCovered (s : State) (n : Node) : Bool := n.cores_.all (fun c => !hostPending s c && !peerPending s c)

/-- The cores of a node that still hold it go idle: their permits return, their words, requests and transfers are gone (R316). -/
def freeCores (r : NodeRef) (n : Node) (s : State) : State :=
  (n.cores_.filter (fun c => (s.core c).node = some r)).foldl (fun s c =>
    let s := leaveWrites r.launch c (returnPermit c s)
    let s := { s with reqs := s.reqs.filter (fun q => q.core ≠ c) }
    s.modCore c (fun x => { x with
      strands := x.strands.map (fun t => (t.1, { t.2 with st := .idle, queues := [], stop := none, stopSeq := none, loop := none })),
      shadow := {}, node := none, ending := none, preempt := false, stuck := none
      inj := x.inj.filter (fun i => match i.body with
        | .req _ => false
        | _ => true)
      injRes := 0, mcOut := 0, cqRes := 0, d := { x.d with xfers := [] } })) s

/-- A port pair is bound while a weave operator of its launch stands on the region it leads to (13 R267). A pre-empted tile's ports stay
as they were until it resumes (R274). -/
def bindPorts (s : State) : State :=
  let ops := (allNodes s).filter (fun x => x.2.2.kind = .weave && (x.2.2.st = .running || x.2.2.st = .placed || x.2.2.st = .saving))
  let cs := s.cores.map (·.1)
  cs.foldl (fun s c =>
    [0, 1].foldl (fun s p =>
      if (s.core c).preempt then s
      else
      let g := portRegion c p
      let b := match (s.core c).node with
        | some r => ops.any (fun x => x.1.launch = r.launch && x.1.die = r.die && x.2.2.regions_.contains g)
        | none => false
      [inPort p, outPort p].foldl (fun s pk =>
        let was := ((s.core c).d.port pk).bound
        if was = b then s
        else
          let s := s.modData c (fun x => x.setPort pk { x.port pk with bound := b })
          if was then latchCause c pk 1 s else s) s) s) s

/-- Empty the live planes of a weave node's regions. -/
def blankRegions (n : Node) (s : State) : State :=
  n.regions_.foldl (fun s g => (cancelSwap g s).modRegion g (fun r => { r with live := .blank, img := {}, flops := [], ram := [], ramOut := []
                                                                               withies := [], lanes := [], edge := none, err := false })) s

/-- Remove a launch's domains, with every die's part (12 R246). -/
def dropDomains (d stamp : Nat) (s : State) : State :=
  (List.range 8).foldl (fun s e => (List.range 64).foldl (fun s n =>
    match (s.slot e n).launch with
    | some r => if r.die = d && r.launch = stamp then domRemove e n s else s
    | none => s) s) s

/-- A leaf has finished: its cores and regions are free. -/
def releaseNode (r : NodeRef) (s : State) : State :=
  match nodeOf s r with
  | none => s
  | some n => bindPorts (sweepTables (blankRegions n (freeCores r n s)))

/-- A launch's result goes to its packet. -/
def setResult (d stamp : Nat) (code : BitVec 8) (bad : Bool) (s : State) : State :=
  s.modDie d (fun x => { x with packets := x.packets.map (fun p =>
    if p.launch = some stamp && p.result.isNone then { p with result := some (code, bad) } else p) })

/-- A launch ends when node 0 is done, or when it has aborted and none of its nodes runs any more (R317). -/
def finishLaunch (d stamp : Nat) (s : State) : State :=
  match (s.die d).launches.find? (fun l => l.stamp.toNat = stamp) with
  | none => s
  | some l =>
    let busy := l.nodes.any (fun n => n.st.occupies || n.st = .saved)
    match l.abort with
    | some e => if busy then s else dropDomains d stamp (setResult d stamp e true s)
    | none => if l.isDone l.depth 0 && !busy then dropDomains d stamp (setResult d stamp 0 false s) else s

/-- Write the done address of a node that has not completed: 2 | (code << 8). -/
def writeAborted (l : Launch) (n : Node) (code : BitVec 8) (s : State) : State :=
  (writeDone l n.done (word (2 + code.toNat * 256)) s).2

/-- A launch aborts (R316), by a fault of node `by_` if a node's: nothing further is dispatched, its running nodes end, and every node of
it that has not completed has its done address written with the code of the first abort. Of two nodes that abort in one cycle the one of
the lower index is the first (R317): what the other has written of the code is written anew. -/
def abortLaunch (d stamp : Nat) (code : BitVec 8) (s : State) (by_ : Option Nat := none) : State :=
  match (s.die d).launches.find? (fun l => l.stamp.toNat = stamp) with
  | none => s
  | some l =>
    let sooner := match l.abort, l.abortBy, by_ with
      | none, _, _ => true
      | some _, some (t, m), some n => t = s.cycle && decide (n < m)
      | _, _, _ => false
    let first := if sooner then code else l.abort.getD code
    let again := sooner && l.abort.isSome
    let s := s.modDie d (fun x => { x with launches := x.launches.map (fun y =>
      if y.stamp.toNat = stamp then
        { y with abort := some first
                 abortBy := if sooner then by_.map (fun n => (s.cycle, n)) else y.abortBy
                 swept := if again then y.swept else y.swept ++ (List.range y.nodes.length).filter (fun i => !(y.node i).ended) } else y) })
    let s := l.nodes.mapIdx (fun i n => (i, n)) |>.foldl (fun s p =>
      let r : NodeRef := ⟨d, stamp, p.1⟩
      let n := p.2
      if n.ended then (if again && l.swept.contains p.1 && n.st = .aborted then writeAborted l n first s else s)
      else if n.kind = .tile && (n.st = .running || n.st = .saving) then
        n.cores_.foldl (fun s c => s.modCore c (fun x => { x with ending := some (x.ending.getD first) })) s
      else
        -- controllers, leaves not yet dispatched, weave leaves and saved nodes end at once
        let s := writeAborted l n first s
        let s := s.modNode r (fun n => { n with frames := [], saved := [] })
        if n.kind = .tile || n.st.occupies then releaseNode r (setNode r .aborted s) else setNode r .aborted s) s
    finishLaunch d stamp s

/-- A node ends aborted-with-fault (R316). -/
def abortNode (r : NodeRef) (code : BitVec 8) (s : State) : State :=
  match nodeOf s r, launchOf s r with
  | some n, some l =>
    let first := l.abort.getD code
    let s := writeAborted l n (if l.abort.isSome then first else code) s
    let s := s.modNode r (fun n => { n with frames := [], saved := [], st := .aborted, code := code })
    let s := freeCores r n s
    let s := bindPorts (sweepTables (if n.st.occupies then blankRegions n s else s))
    abortLaunch r.die r.launch code s (some r.node)
  | _, _ => s

/-- The tile leaves of a STREAM have finished: its weave leaves are done, and their planes are emptied (R311); one whose done address cannot
be written ends aborted (R316). -/
def finishWeave (r : NodeRef) (s : State) : State :=
  match launchOf s r with
  | none => s
  | some l => (List.range l.nodes.length).foldl (fun s i =>
      let w : NodeRef := { r with node := i }
      match l.weaveStream i with
      | some a =>
        if (l.node i).kind = .weave && (l.node i).st.occupies && l.isDone l.depth a && doneReady s l (l.node i).done
            && (nodeOf s w).any (fun n => !n.ended) then
          (match writeDone l (l.node i).done 1 s with
           | (none, s) => releaseNode w (setNode w .done s)
           | (some e, s) => abortNode w e s)
        else s
      | none => s) s

/-- Controllers whose children are done, and that may start themselves, are done; their done addresses are written. -/
def settle (d stamp : Nat) (s : State) : State :=
  match (s.die d).launches.find? (fun l => l.stamp.toNat = stamp) with
  | none => s
  | some l =>
    if l.abort.isSome then s
    else (l.nodes.mapIdx (fun i n => (i, n))).foldl (fun s p =>
      if p.2.kind.leaf || p.2.ended || !(l.isDone l.depth p.1) || !(l.mayStart l.depth p.1) || !doneReady s l p.2.done
          || (nodeOf s ⟨d, stamp, p.1⟩).any (·.ended) then s
      else match writeDone l p.2.done 1 s with
        | (some e, s) => abortNode ⟨d, stamp, p.1⟩ e s
        | (none, s) => setNode ⟨d, stamp, p.1⟩ .done s) s

/-- How the crown reads a leaf's operand word. -/
def operandAccess (l : Launch) (n : Node) : Access := { l.access with own := [3, l.stamp.toNat, n.opAddr.toNat] }

/-- A leaf's operand word against its target (R311): none, the read must wait. A register is read for a supervisor launch only (18 R340). -/
def operandMet (s : State) (l : Launch) (n : Node) : SumRes Bool :=
  if n.opAddr = 0 then .ok true
  else if wbits n.opAddr 63 48 ≠ 0 then .error (some 0x04)
  else match translate s l.access n.opAddr.toNat with
    | .fail e => .error (xlatError e)
    | .ok pa _ _ => match target pa with
      | .crown d off => if l.sup then .ok (decide (n.opTarget.toNat ≤ (crownGet s d off).toNat)) else .error (some 0x05)
      | _ => do
        let b ← virtRead s (operandAccess l n) 2 n.opAddr.toNat 8
        .ok (decide (n.opTarget.toNat ≤ leNat b))

/-- Done writes that had to wait are made (18 R350). -/
def settleDie (d : Nat) (s : State) : State :=
  ((s.die d).launches.map (fun l => l.stamp.toNat)).foldl (fun s n => finishLaunch d n (settle d n (finishWeave ⟨d, n, 0⟩ s))) s

/-- The waiting leaves that may start and whose operand words are met become ready (R311). A word of the host's or of a peer's memory is
asked for anew each time. -/
def wakeLeaves (d : Nat) (s : State) : State :=
  ((s.die d).launches.map (fun l => l.stamp.toNat)).foldl (fun s stamp =>
    match (s.die d).launches.find? (fun l => l.stamp.toNat = stamp) with
    | none => s
    | some l =>
      (l.nodes.mapIdx (fun i n => (i, n))).foldl (fun s p =>
        let live := match (s.die d).launches.find? (fun l => l.stamp.toNat = stamp) with
          | some l => l.abort.isNone
          | none => false
        if !live || !p.2.kind.leaf || p.2.st ≠ .waiting || !(l.leafMayStart p.1) then s
        else
          let q := operandAccess l p.2
          match operandMet s l p.2 with
          | .error none => askRange q 2 p.2.opAddr.toNat 8 s
          | .error (some e) => abortLaunch d stamp e (dropAsks q.own s)
          | .ok b =>
            let s := dropAsks q.own s
            if b then s.modNode ⟨d, stamp, p.1⟩ (fun n => { n with st := .ready, readyAt := s.cycle, ageFrom := s.cycle }) else s) s) s

/-- The crown looks at what waits: done writes, then operand words (R311). -/
def wake (d : Nat) (s : State) : State := wakeLeaves d (settleDie d s)

/-- Can a node complete now: its done write, a release at system scope, can be made (R316)? -/
def canComplete (s : State) (r : NodeRef) (n : Node) : Bool :=
  coresCovered s n && (match launchOf s r with
    | some l => doneReady s l n.done
    | none => true)

/-- A node completes (R316): frames commit, the done address is written, its cores go idle. -/
def completeNode (r : NodeRef) (s : State) : State :=
  match nodeOf s r, launchOf s r with
  | some n, some l =>
    let s := commitFrames r s
    match writeDone l n.done (word (1 + n.code.toNat * 256)) s with
    | (some e, s) => abortNode r e s
    | (none, s) =>
      let s := freeCores r n (setNode r .done s)
      let s := settle r.die r.launch (bindPorts (sweepTables (finishWeave r s)))
      wake r.die (finishLaunch r.die r.launch s)
  | _, _ => s

end Sys2Proof.Machine
end

