-- ==== Sys2Proof/Machine/System.lean ====
section
/-! DEFINITION. Y words (17 R326-R335, 06 R147, 10 R231-R232, 22 R418-R419), HALT, and the token words (05 R112). -/

namespace Sys2Proof.Machine

/-! ### HALT, TRAP, TRET, YIELD (17 R326-R330) -/

/-- HALT (R329): it issues once every earlier word of the strand has completed, and halts the strand when it retires (01 R32); in the
handler it traps 0x01. One that retires after its core has stopped leaves state 5 to the resume, which then halts the strand: DESIGN CHOICE,
log entry 55. -/
def specHalt (h : Hdr) : WordSpec :=
  { engine := .y, hdr := h, noCover := true, noLoop := true, hold := .all, late := true
    ready := fun c k _ s => if (s.strand c k).drained then none else some .hold
    check := fun c k _ s => if k = 3 && (s.core c).csr.hnd then some (issueTrap 0x01) else none
    body := fun c k _ s => .done (s.modStrand c k (fun t => if t.active then { t with st := .halted } else { t with prior := .halted })) 0 false }

/-- TRAP (R328). -/
def specTrap (h : Hdr) (code : BitVec 8) : WordSpec :=
  { yWord h false (fun c k w s =>
      if !earlierDone s c k w.seq then .wait w s
      else .trap { code := 0x00, cls := 5, x0 := zext code } w s) with hold := .all }

/-- TRET (R326). -/
def tretWord (h : Hdr) (abort : Bool) : WordSpec :=
  { yWord h true (fun c k w s =>
      if !earlierDone s c k w.seq then .wait w s
      else
        let s := if abort then s else match (s.core c).node with
          | some r => if deferredStop (s.core c) then s else s.modNode r (fun n => { n with code := (s.core c).lastCode })
          | none => s
        .done (tret abort c s) 0 false) with
    hold := .all
    check := fun c _ _ s => if (s.core c).csr.hnd then none else some (issueTrap 0x01) }

def specTretResume (h : Hdr) : WordSpec := tretWord h false
def specTretAbort (h : Hdr) : WordSpec := tretWord h true

/-- Does a core's node run? -/
def nodeRuns (s : State) (c : Nat) : Bool :=
  match (s.core c).node with
  | some r => !(s.core c).preempt && (match nodeOf s r with
    | some n => n.st = .running
    | none => false)
  | none => false

/-- YIELD (R330): the crown decides 26 cycles after issue; a node that yields is pre-empted, and d := 1 is written on resume
(`idx` 1: it has yielded). -/
def specYield (h : Hdr) (d : BitVec 5) : WordSpec :=
  { yWord h false (fun c _ w s =>
      if w.idx = 1 then (if nodeRuns s c then .done s 1 false else .begun w s)
      else if s.cycle < w.res.toNat + 26 then .begun { w with due := w.res.toNat + 26 } s
      else match (s.core c).node with
        | some r => (match yieldsTo s r with
          | some p => .begun { w with idx := 1, due := 0 } (decideFor p [r] s)
          | none => .done s 0 false)
        | none => .done s 0 false) with
    dst := some d, pre := fun _ _ s => word s.cycle }

/-! ### Permits and time -/

/-- MPERM (06 R147): PERMIT_DECISION answers it 26 cycles after its issue; one that a pre-emption has sent back (`bit`) asks anew. -/
def specMperm (h : Hdr) (d a : BitVec 5) : WordSpec :=
  { yWord h false (fun _ _ w s => .begun { w with due := (if w.bit then s.cycle else w.res.toNat) + 26 } s) with
    a := some a, dst := some d, uses := [0x01E], pre := fun _ _ s => word s.cycle
    check := fun _ _ w _ => if wbits w.va 63 32 ≠ 0 then some (issueTrap 0x02) else none }

/-- Is a word an MPERM, a WUT? -/
def isMperm : Instr → Bool
  | .mperm _ _ _ => true
  | _ => false
def isWut : Instr → Bool
  | .wut _ _ => true
  | _ => false

/-- The MPERM of a core whose decision is due; a freeze or a pre-emption holds it (05 R119, R147). -/
def mpermDue (s : State) (c : Nat) : Option QWord :=
  if (s.core c).frozen s.cycle || (s.core c).preempt then none
  else (((s.core c).strand 3).queue .y ++ (s.core c).shadow.queue .y).find? (fun w => isMperm w.i && w.phase = .started && decide (w.due ≤ s.cycle))

/-- PERMIT_DECISION (R147, 26 R448): requests of one cycle in ascending core.id. -/
def permitDecisionEv (c : Nat) (s : State) : State :=
  match mpermDue s c with
  | none => s
  | some w =>
    if (List.range (coreIdx c)).any (fun k => (mpermDue s (c - coreIdx c + k)).isSome) then s
    else
      let s := permitAsk c (wbits w.va 31 0) s
      finishWord c 3 w.seq (permitWord (s.core c).csr) s

/-- time.lo now (22 R415). -/
def timeLo (s : State) : Nat := s.time.count.toNat / 2 ^ 32

/-- The cycle two after the crossing: the strand issues nothing before it, and its next word in it (22 R418). -/
def wutPause (c k : Nat) (s : State) : State := s.modStrand c k (fun t => { t with pauseEnd := s.cycle + 2, issueAt := some (s.cycle + 2) })

/-- WUT (22 R418): crossed in its issue cycle, or when WUT_CROSSING says so. -/
def specWut (h : Hdr) (a : BitVec 5) : WordSpec :=
  { yWord h false (fun _ _ w s => if w.va.toNat ≤ w.res.toNat then .done s 0 false else .begun w s) with
    a := some a, hold := .fin, pre := fun _ _ s => word (timeLo s)
    take := fun c k w s =>
      if w.va.toNat ≤ timeLo s then wutPause c k s else s.modStrand c k (fun t => { t with pauseEnd := 0 }) }

/-- The waiting WUT of a core whose T has come: it waits from its issue on, also in a freeze (05 R119). -/
def wutDue (s : State) (c : Nat) : Option QWord :=
  if (s.core c).preempt then none
  else (((s.core c).strand 3).queue .y).find? (fun w => isWut w.i && w.phase ≠ .done && decide (w.res.toNat < w.va.toNat)
    && decide (w.va.toNat ≤ timeLo s))

/-- WUT_CROSSING (22 R418). -/
def wutCrossingEv (c : Nat) (s : State) : State :=
  match wutDue s c with
  | some w => finishWord c 3 w.seq 0 (wutPause c 3 s)
  | none => s

/-- RDTIME (22 R419): it samples the count in its issue cycle. -/
def specRdtime (h : Hdr) (d : BitVec 5) (sel : BitVec 1) : WordSpec :=
  { yWord h false (fun _ _ w s => .done s w.res false) with
    dst := some d
    ready := fun c k _ s => if (s.strand c k).drained then none else some .hold
    pre := fun _ _ s => if sel = 0 then word (timeLo s) else word (s.time.count.toNat / 2 ^ 16) }

/-! ### Token words (05 R112) -/

def tkCheck (w : QWord) : Option Trap := if w.va.toNat > 15 then some (issueTrap 0x02) else none

def specTkpush (h : Hdr) (a b : BitVec 5) : WordSpec :=
  { engine := .q, hdr := h, a := some a, check := fun _ _ w _ => tkCheck w, tokens := fun w => (b.toNat, w.va.toNat)
    body := fun c k w s => if earlierDone s c k w.seq then .done s 0 false else .wait w s }

def specTkpop (h : Hdr) (a b : BitVec 5) : WordSpec :=
  { engine := .q, hdr := h, a := some a, check := fun _ _ w _ => tkCheck w
    ready := fun c k w s =>
      let need := w.va.toNat + (if h.pop.toNat = b.toNat then 1 else 0)
      if w.va.toNat > 15 || decide (need ≤ (s.core c).tokens (dist k b.toNat) k) then none else some .tok
    take := fun c k w s => s.modCore c (fun x =>
      if w.va = 0 then x else x.setTokens (dist k b.toNat) k (x.tokens (dist k b.toNat) k - w.va.toNat))
    body := fun _ _ _ s => .done s 0 false }

def specTkcnt (h : Hdr) (d b : BitVec 5) : WordSpec :=
  { engine := .q, hdr := h, dst := some d, late := true
    body := fun c k _ s => .done s (word ((s.core c).tokens (dist k b.toNat) k)) false }

/-! ### HMSET (10 R231, R232) -/

/-- The domain that a descriptor gives, or none where a field is invalid. -/
def ilDesc (b : List Byte) : Option IlDomain :=
  let h := leNat (b.take 8)
  let nb := bits h 2 0
  let base := bits h 15 8
  let limit := bits h 23 16
  let ms := (List.range (2 ^ nb)).map (fun i => (b.getD (8 + i) 0).toNat)
  let masks := (List.range 4).map (fun i => word (leNat ((b.drop (24 + 8 * i)).take 8)))
  if !h.testBit 3 then some {}
  else if nb > 4 || bits h 7 4 ≠ 0 || bits h 63 24 ≠ 0 || base > 63 || limit ≤ base || limit > 64
      || ms.any (· > 47) || ms.eraseDups.length ≠ ms.length || !zeroBytes b (8 + 2 ^ nb) 24 || !zeroBytes b 56 64
      || masks.any (fun m => m &&& 0xFFFF0000000000FF#64 ≠ 0) || (masks.drop nb).any (· ≠ 0) then none
  else some { active := true, base := base, limit := limit, members := ms, masks := masks }

/-- Does a new domain share a member or a range with another active one? -/
def ilConflict (x : Die) (n : Nat) (d : IlDomain) : Bool :=
  d.active && x.il.any (fun p => p.1 ≠ n && p.2.active &&
    (p.2.members.any (fun m => d.members.contains m) || (decide (p.2.base < d.limit) && decide (d.base < p.2.limit))))

/-- Lines whose home has changed leave their old slices, written back first (R232). -/
def dropMoved (die : Nat) (old : List Nat) (s : State) : State :=
  old.foldl (fun s n => s.modSlice die n (fun x => { x with
    lines := x.lines.filter (fun l => homeOf s (l.1 * 256) = some (die, n)) })) s

/-- Requests that stand in a slice that no longer homes them are bounced (R233). -/
def bounceMoved (die : Nat) (s : State) : State :=
  (List.range 48).foldl (fun s n =>
    let q := (s.slice die n).queue
    let away := fun (i : Item) => match i.body with
      | .req id => (match s.reqs.find? (fun r => r.id = id) with
        | some r => homeOf s r.pa ≠ some (die, n)
        | none => false)
      | _ => false
    let out := q.filterMap (fun i => if away i then (match i.body with
      | .req id => some id
      | _ => none) else none)
    if out.isEmpty then s
    else
      let s := s.modSlice die n (fun x => { x with queue := x.queue.filter (fun i => !away i) })
      let s := { s with reqs := s.reqs.map (fun (r : Req) => if out.contains r.id then { r with bounced := true, code := 0x19 } else r) }
      s.modDie die (fun d => { d with rehome := d.rehome + out.length })) s

/-- HMSET's words: field a is read at issue by every operation. -/
def hmset (h : Hdr) (d a : BitVec 5) (check : QWord → Option Trap) (body : Nat → Nat → QWord → State → Run) : WordSpec :=
  { yWord h true body with a := some a, dst := some d, check := fun _ _ w _ => check w }

def setIl (die n : Nat) (f : IlDomain → IlDomain) (s : State) : State := s.modDie die (fun x => { x with il := tmod {} x.il n f })

def specHmsetQuiesce (h : Hdr) (d a : BitVec 5) (m : BitVec 4) : WordSpec :=
  hmset h d a (fun _ => none) (fun c _ _ s => .done (setIl (coreDie c) m.toNat (fun x => { x with quiesced := true }) s) 0 false)

def specHmsetResume (h : Hdr) (d a : BitVec 5) (m : BitVec 4) : WordSpec :=
  hmset h d a (fun _ => none) (fun c _ _ s => .done (setIl (coreDie c) m.toNat (fun x => { x with quiesced := false }) s) 0 false)

def specHmsetSwitch (h : Hdr) (d a : BitVec 5) (m : BitVec 4) : WordSpec :=
  hmset h d a (fun w => if w.va.toNat % 64 ≠ 0 then some { issueTrap 0x03 with addr := w.va } else none) (fun c k w s =>
    let die := coreDie c
    if !(tget {} (s.die die).il m.toNat).quiesced then .done s 1 false
    else fetchVirt c k w.va 64 0 (fun w s =>
      match ilDesc w.buf with
      | none => .done s 2 false
      | some x =>
        if ilConflict (s.die die) m.toNat x then .done s 3 false
        else
          let old := (tget {} (s.die die).il m.toNat).members
          let s := setIl die m.toNat (fun _ => { x with quiesced := true }) s
          .done (bounceMoved die (dropMoved die old s)) 0 false) 10 w s)

/-! ### The context image (17 R331) -/

def stateCode : StrandState → Nat
  | .idle => 0 | .running => 1 | .blocked => 2 | .halted => 3 | .frozen => 4 | .faulted => 5 | .preempted => 6

def stateOf (n : Nat) (old : StrandState) : StrandState :=
  match n with
  | 0 => .idle | 1 => .running | 2 => .blocked | 3 => .halted | 4 => .frozen | 5 => .faulted | 6 => .preempted | _ => old

/-- Word `j` of a strand block. -/
def strandWord (cycle : Nat) (t : Strand) (j : Nat) : Word :=
  let l := t.loop.getD t.loopMem
  if j = 0 then word (stateCode t.prior * 2 ^ 36 + stateCode t.st * 2 ^ 32 + t.pc.toNat)
  else if j ≤ 27 then tget 0 t.regs j
  else if j = 28 then t.lc
  else if j = 29 then
    word (t.stagep.toNat * 256 + t.rotBase.toNat * 16 + (if t.latch then 2 else 0) + (if t.loop.isSome then 1 else 0))
  else if j = 30 then word (l.pass * 2 ^ 32 + l.start * 2 ^ 16 + l.len * 16 + l.stages)
  else if j = 31 then zext t.vtype
  else if j = 32 then zext t.fmtA
  else if j = 33 then zext t.fmtB
  else if j = 34 then zext t.fmtC
  else if j = 35 then zext t.flags
  else if j = 36 then zext t.trapen
  else if j = 37 then zext t.round
  else if j = 38 then zext t.srSeed
  else if j = 39 then zext t.g
  else if j = 40 then word (t.prio.toNat * 2 ^ 16 + (t.pauseEnd - cycle) % 512)
  else 0

/-- Write word `j` of a strand block; `keep`: the state codes stay. A field whose values R81, R88 and R92 limit keeps its own where the
written one is not allowed. The trip count follows from lc and the pass (03 R76). A pc past the section is stored, and its fetch traps:
DESIGN CHOICE, log entry 74. -/
def setStrandWord (keep : Bool) (cycle : Nat) (j : Nat) (v : Word) (t : Strand) : Strand :=
  if j = 0 then
    let t := { t with pc := v.setWidth 32 &&& 0xFFFFFFFC#32 }
    if keep then t else { t with st := stateOf (wbits v 34 32) t.st, prior := stateOf (wbits v 38 36) t.prior }
  else if j ≤ 27 then t.setReg j v
  else if j = 28 then { t with lc := v }
  else if j = 29 then
    let t := { t with stagep := BitVec.ofNat 8 (wbits v 15 8), rotBase := if wbits v 7 4 < 12 then BitVec.ofNat 4 (wbits v 7 4) else t.rotBase, latch := v.getLsbD 1 }
    { t with loop := if v.getLsbD 0 then some (t.loop.getD t.loopMem) else none, loopMem := t.loop.getD t.loopMem }
  else if j = 30 then
    let l : LoopState := { stages := wbits v 3 0, len := wbits v 13 4, start := wbits v 27 16, pass := wbits v 63 32
                           trips := t.lc.toNat + wbits v 63 32 + 1 - wbits v 3 0 }
    { t with loopMem := l, loop := t.loop.map (fun _ => l) }
  else if j = 31 then { t with vtype := vtypeWrite t.vtype v }
  else if j = 32 then { t with fmtA := fmtWrite t.fmtA v }
  else if j = 33 then { t with fmtB := fmtWrite t.fmtB v }
  else if j = 34 then { t with fmtC := fmtWrite t.fmtC v }
  else if j = 35 then { t with flags := v.setWidth 9 }
  else if j = 36 then { t with trapen := v.setWidth 9 }
  else if j = 37 then { t with round := if wbits v 2 0 ≤ 4 then v.setWidth 3 else t.round }
  else if j = 38 then { t with srSeed := v.setWidth 16 }
  else if j = 39 then { t with g := v.setWidth 16 }
  else if j = 40 then { t with pauseEnd := if wbits v 8 0 = 0 then 0 else cycle + wbits v 8 0, prio := BitVec.ofNat 2 (wbits v 17 16) }
  else t

/-- A delivery of the sync network that a core holds, as two words: its kind with its level, epoch or core, and its value. -/
def Delivery.code : Delivery → Word
  | .release l e bad => word (1 + l * 8 + (if bad then 32 else 0) + e * 64)
  | .result l _ => word (2 + l * 8)
  | .bcast l _ => word (3 + l * 8)
  | .event => 4
  | .broken l => word (5 + l * 8)
  | .incomplete l c => word (6 + l * 8 + c * 64)
def Delivery.value : Delivery → Word
  | .result _ v | .bcast _ v => v
  | _ => 0
def Delivery.setCode (v : Word) (m : Delivery) : Delivery :=
  let l := wbits v 4 3
  match wbits v 2 0 with
  | 1 => .release l (wbits v 21 6) (v.getLsbD 5)
  | 2 => .result l m.value
  | 3 => .bcast l m.value
  | 4 => .event
  | 5 => .broken l
  | 6 => .incomplete l (wbits v 16 6)
  | _ => m
def Delivery.setValue (v : Word) : Delivery → Delivery
  | .result l _ => .result l v
  | .bcast l _ => .bcast l v
  | m => m

/-- Bits [64 i + 63 : 64 i] of a long register, and their replacement. -/
def longGet {n : Nat} (x : BitVec n) (i : Nat) : Word := (x >>> (64 * i)).setWidth 64
def longSet {n : Nat} (x : BitVec n) (i : Nat) (v : Word) : BitVec n :=
  (x &&& ~~~((BitVec.allOnes 64).setWidth n <<< (64 * i))) ||| (v.setWidth n <<< (64 * i))

/-- A fibre register (08 R198). -/
def Fibre.word (f : Fibre) : BitVec 256 :=
  BitVec.ofNat 256 (f.vbase.toNat * 2 ^ 64 + f.count.toNat * 2 ^ 48 + f.next.toNat * 2 ^ 32 + f.mpos.toNat * 2 ^ 16
    + f.fmt.toNat * 2 ^ 8 + f.kind % 2 * 2 + (if f.open_ then 1 else 0))

/-- A fibre register written by its fields. -/
def Fibre.ofWord (f : Fibre) (x : BitVec 256) : Fibre :=
  { f with vbase := BitVec.ofNat 32 (bits x.toNat 95 64), count := BitVec.ofNat 16 (bits x.toNat 63 48)
           next := BitVec.ofNat 16 (bits x.toNat 47 32), mpos := BitVec.ofNat 16 (bits x.toNat 31 16)
           fmt := BitVec.ofNat 8 (bits x.toNat 15 8), kind := bits x.toNat 1 1, open_ := x.getLsbD 0 }

/-- The CSRs of core scope that a core block holds. -/
def coreBlockCsrs : List Nat :=
  [0x003, 0x004, 0x009, 0x00E, 0x010, 0x011, 0x012, 0x013, 0x014, 0x015, 0x016, 0x017, 0x018, 0x01E, 0x01F, 0x020, 0x021, 0x022, 0x100, 0x101]

/-- Item `i` of a core block (R331): k0-k7 and f0-f3 by their words, the lend mask in bits [3:0] (05 R108), the sequence counter, the
permit's remaining count, the token channels, hoop pointers and slots, the CSRs, the data queues, cq, the receive queue, the run queue,
the pending arrivals and the event latch, the window unit, the port counters; the reservations of the data queues, the latched broadcasts
and the deliveries held (12 R257), the injection buffer (10 R209), the generators with their tokens (08 R196, R197), and how far the words
of the engine queues are. -/
def coreItem (s : State) (c : Nat) (x : Core) (i : Nat) : Word :=
  if i < 32 then longGet (x.d.getK (i / 4)) (i % 4)
  else if i < 48 then longGet (x.d.getF ((i - 32) / 4)).word (i % 4)
  else if i = 48 then zext x.d.lend
  else if i = 49 then zext x.d.mseq
  else if i = 50 then zext x.csr.permLeft
  else if i < 67 then word (tget 0 x.tok (i - 51))
  else if i < 71 then
    let h := x.d.hoop (i - 67)
    word (h.alloc.toNat * 2 ^ 16 + h.wr.toNat * 2 ^ 8 + h.rd.toNat)
  else if i < 135 then
    let t := tget ({} : Slot) (x.d.hoop ((i - 71) / 16)).slots ((i - 71) % 16)
    word ((if t.filled then 256 else 0) + t.code.toNat)
  else if i < 155 then csrGet (s.setCore c x) c 3 (coreBlockCsrs.getD (i - 135) 0)
  else if i < 283 then (match (tget [] x.dq ((i - 155) / 8))[(i - 155) % 8]? with
    | some e => e.val.getD 0
    | none => 0)
  else if i = 283 then word (x.cq.foldr (fun b n => 2 * n + (if b then 1 else 0)) 0 + x.cq.length * 256 + x.cqRes * 65536)
  else if i < 316 then x.recv.getD (i - 284) 0
  else if i < 324 then x.d.runq.getD (i - 316) 0
  else if i = 324 then word (x.pend.toNat + (if x.evt then 16 else 0))
  else if i = 325 then x.d.win.a
  else if i = 326 then x.d.win.b
  else if i = 327 then winStatus x.d.win
  else if i < 332 then
    let p := x.d.port (i - 328)
    word (p.beats.toNat * 2 ^ 16 + p.eosn.toNat * 2 ^ 8 + p.cause.toNat)
  else if i < 348 then
    let q := tget [] x.dq (i - 332)
    word (q.length * 256 + (q.zipIdx).foldl (fun n e => n + (if e.1.val.isNone then 2 ^ e.2 else 0)) 0)
  else if i < 380 then (tget [] x.latches ((i - 348) / 8)).getD ((i - 348) % 8) 0
  else if i = 380 then word ((List.range 4).foldl (fun n l => n + (tget [] x.latches l).length * 16 ^ l) 0)
  else if i < 397 then (x.held[i - 381]?.map Delivery.code).getD 0
  else if i < 413 then (x.held[i - 397]?.map Delivery.value).getD 0
  else if i = 413 then word (x.held.length * 256 + x.injRes * 16 + x.inj.length)
  else if i < 422 then (x.inj[i - 414]?.map (fun t => t.header s.reqs)).getD 0
  else if i < 430 then (x.inj[i - 422]?.map Item.value).getD 0
  else if i < 482 then
    let g := x.d.gen ((i - 430) / 13)
    let j := (i - 430) % 13
    if j < 4 then word (tget 1 g.cfg.count j)
    else if j < 8 then BitVec.ofInt 64 (tget 0 g.cfg.stride (j - 4))
    else if j = 8 then word (g.cfg.chunk * 16 + g.tokens.length)
    else word (g.tokens.getD (j - 9) 0)
  else word ((x.allWords[i - 482]?.map (fun w => w.2.idx)).getD 0)

/-- A list of the length `n`: cut, or filled with `d`. -/
def fitTo {α : Type} (n : Nat) (d : α) (l : List α) : List α := l.take n ++ List.replicate (n - l.length) d

/-- A CSR of core scope in a core block, written: reserved bits stay zero, and no word changes the mode (R320). -/
def setCsrItem (n : Nat) (v : Word) (r : CoreCsr) : CoreCsr :=
  let dom := fun (l : Nat) => { r with dom := tput r.dom l { epoch := BitVec.ofNat 16 (wbits v 31 16), member := v.getLsbD 15, slot := v.setWidth 6 } }
  match n with
  | 0x003 => { r with ntiles := v }
  | 0x004 => { r with args := v }
  | 0x009 => { r with accMode := v.setWidth 48 }
  | 0x00E => { r with cqOwner := v.setWidth 2 }
  | 0x010 => { r with sendto := v &&& 0x03FFFFF007FFFFFF#64 }
  | 0x011 => { r with mcastBase := v &&& 0x00FFFFF007F0FFFF#64 }
  | 0x012 => { r with partition := v.setWidth 16 }
  | 0x013 => dom 0
  | 0x014 => dom 1
  | 0x015 => dom 2
  | 0x016 => dom 3
  | 0x017 => { r with dqBase := BitVec.ofNat 13 (wbits v 18 6) }
  | 0x018 => { r with dqCap := v.setWidth 12 }
  | 0x01E => { r with permHeld := v.getLsbD 63, permDenied := v.getLsbD 62, permRetry := BitVec.ofNat 16 (wbits v 47 32), permLeft := v.setWidth 32 }
  | 0x01F => { r with frzCount := BitVec.ofNat 16 (wbits v 31 16), frzScope := v.getLsbD 0 }
  | 0x020 => { r with nodeId := v }
  | 0x021 => { r with prio := v.setWidth 2 }
  | 0x022 => { r with faultPtr := v &&& 0x0000FFFFFFFFFFC0#64 }
  | 0x100 => { r with hnd := v.getLsbD 1 }
  | 0x101 => { r with tvec := v.setWidth 14 &&& 0x3FFD#14 }
  | _ => r

/-- Write item `i` of a core block (R335), and nothing else. -/
def setCoreItem (i : Nat) (v : Word) (x : Core) : Core :=
  if i < 32 then { x with d := x.d.setK (i / 4) (longSet (x.d.getK (i / 4)) (i % 4) v) }
  else if i < 48 then
    let n := (i - 32) / 4
    { x with d := x.d.setF n ((x.d.getF n).ofWord (longSet (x.d.getF n).word (i % 4) v)) }
  else if i = 48 then { x with d := { x.d with lend := v.setWidth 4 } }
  else if i = 49 then { x with d := { x.d with mseq := v.setWidth 32 } }
  else if i = 50 then { x with csr := { x.csr with permLeft := v.setWidth 32 } }
  else if i < 67 then { x with tok := tput x.tok (i - 51) (wbits v 3 0) }
  else if i < 71 then
    { x with d := x.d.setHoop (i - 67) { x.d.hoop (i - 67) with
      alloc := BitVec.ofNat 8 (wbits v 23 16), wr := BitVec.ofNat 8 (wbits v 15 8), rd := v.setWidth 8 } }
  else if i < 135 then
    let n := (i - 71) / 16
    let h := x.d.hoop n
    { x with d := x.d.setHoop n { h with slots := tmod {} h.slots ((i - 71) % 16) (fun t => { t with filled := v.getLsbD 8, code := v.setWidth 8 }) } }
  else if i < 155 then { x with csr := setCsrItem (coreBlockCsrs.getD (i - 135) 0) v x.csr }
  else if i < 283 then
    { x with dq := tmod [] x.dq ((i - 155) / 8) (fun q => q.mapIdx (fun n e =>
      if n = (i - 155) % 8 && e.val.isSome then { e with val := some v } else e)) }
  else if i = 283 then { x with cq := (List.range (Nat.min 8 (wbits v 15 8))).map (fun n => v.getLsbD n), cqRes := wbits v 23 16 }
  else if i < 316 then { x with recv := x.recv.mapIdx (fun n y => if n = i - 284 then v else y) }
  else if i < 324 then { x with d := { x.d with runq := x.d.runq.mapIdx (fun n y => if n = i - 316 then v else y) } }
  else if i = 324 then { x with pend := v.setWidth 4, evt := v.getLsbD 4 }
  else if i = 325 then { x with d := { x.d with win := { x.d.win with a := v } } }
  else if i = 326 then { x with d := { x.d with win := { x.d.win with b := v } } }
  else if i = 327 then { x with d := { x.d with win := { x.d.win with pos := wbits v 63 32, fin := v.getLsbD 1, cfg := v.getLsbD 0 } } }
  else if i < 332 then
    { x with d := x.d.setPort (i - 328) { x.d.port (i - 328) with
      beats := BitVec.ofNat 16 (wbits v 31 16), eosn := BitVec.ofNat 8 (wbits v 15 8), cause := v.setWidth 4 } }
  else if i < 348 then
    { x with dq := tmod [] x.dq (i - 332) (fun q => (fitTo (Nat.min 8 (wbits v 11 8)) ⟨0, some 0⟩ q).mapIdx (fun n e =>
      { e with val := if v.getLsbD n then none else some (e.val.getD 0) })) }
  else if i < 380 then
    { x with latches := tmod [] x.latches ((i - 348) / 8) (fun l => l.mapIdx (fun n y => if n = (i - 348) % 8 then v else y)) }
  else if i = 380 then
    { x with latches := (List.range 4).foldl (fun t l => tmod [] t l (fitTo (Nat.min 8 (wbits v (4 * l + 3) (4 * l))) 0)) x.latches }
  else if i < 397 then { x with held := x.held.mapIdx (fun n y => if n = i - 381 then y.setCode v else y) }
  else if i < 413 then { x with held := x.held.mapIdx (fun n y => if n = i - 397 then y.setValue v else y) }
  else if i = 413 then { x with held := x.held.take (wbits v 15 8), injRes := wbits v 7 4, inj := x.inj.take (wbits v 3 0) }
  else if i < 422 then { x with inj := x.inj.mapIdx (fun n y => if n = i - 414 then y.setHeader v else y) }
  else if i < 430 then { x with inj := x.inj.mapIdx (fun n y => if n = i - 422 then y.setValue v else y) }
  else if i < 482 then
    let n := (i - 430) / 13
    let j := (i - 430) % 13
    let g := x.d.gen n
    let g := if j < 4 then { g with cfg := { g.cfg with count := tput g.cfg.count j v.toNat } }
      else if j < 8 then { g with cfg := { g.cfg with stride := tput g.cfg.stride (j - 4) v.toInt } }
      else if j = 8 then { g with cfg := { g.cfg with chunk := wbits v 15 4 }, tokens := fitTo (Nat.min 4 (wbits v 3 0)) 0 g.tokens }
      else { g with tokens := g.tokens.mapIdx (fun m y => if m = j - 9 then v.toNat else y) }
    { x with d := { x.d with gens := tput x.d.gens n g } }
  else match x.allWords[i - 482]? with
    | some w => x.modStrand w.1 (·.modAny w.2.seq (fun y => { y with idx := v.toNat }))
    | none => x

/-- Item `i` of the side state at 0x8000 (R331): the scale set, line poison and non-finite flag of m0-m7, and the tags of both copies, row
poison, mismatch latch and last product of a0-a3. -/
def sideItem (x : CoreData) (i : Nat) : Word :=
  if i < 296 then
    let t := x.getM (i / 37)
    if i % 37 < 36 then longGet t.scale (i % 37) else word (t.poison.toNat * 2 + (if t.nonfinite then 1 else 0))
  else if i < 564 then
    let a := x.getA ((i - 296) / 67)
    let j := (i - 296) % 67
    if j < 64 then
      let e := if j < 32 then a.e0 else a.e1
      word ((List.range 32).foldl (fun n m => n + (tget {} e (j % 32 * 32 + m)).tag.toNat * 4 ^ m) 0)
    else if j = 64 then zext a.poison
    else if j = 65 then word (match a.mismatch with
      | some q => 2 ^ 32 + q.toNat
      | none => 0)
    else zext a.last
  else 0

/-- Write item `i` of the side state, and nothing else (R335). -/
def setSideItem (i : Nat) (v : Word) (x : CoreData) : CoreData :=
  if i < 296 then
    let t := x.getM (i / 37)
    x.setM (i / 37) (if i % 37 < 36 then { t with scale := longSet t.scale (i % 37) v }
      else { t with poison := BitVec.ofNat 32 (wbits v 32 1), nonfinite := v.getLsbD 0 })
  else if i < 564 then
    let n := (i - 296) / 67
    let a := x.getA n
    let j := (i - 296) % 67
    let tags := fun (e : Table AccElem) => (List.range 32).foldl (fun e m =>
      tmod {} e (j % 32 * 32 + m) (fun y => { y with tag := BitVec.ofNat 2 (v.toNat / 4 ^ m) })) e
    x.setA n (if j < 32 then { a with e0 := tags a.e0 }
      else if j < 64 then { a with e1 := tags a.e1 }
      else if j = 64 then { a with poison := v.setWidth 32 }
      else if j = 65 then { a with mismatch := if v.getLsbD 32 then some (v.setWidth 32) else none }
      else { a with last := v.setWidth 32 })
  else x

/-- A word of the engine queues' area is written (R335): the scalar value that it holds of a queued word. -/
def setQueueItem (i : Nat) (v : Word) (x : Core) : Core :=
  match x.allWords[i / 3]? with
  | some w => x.modStrand w.1 (·.modAny w.2.seq (fun y =>
      if i % 3 = 0 then { y with va := v } else if i % 3 = 1 then { y with vb := v } else { y with vd := v }))
  | none => x

/-- The position of the image's check word. -/
def checkWord : Nat := 7683

/-- Word `i` of a core's image, but for its check; none in the area of the engine queues, whose contents R331 names and does not place, until
a WRST has written the word. -/
def imageWord (s : State) (c : Nat) (x : Core) (i : Nat) : Option Word :=
  if i < 512 then some (strandWord s.cycle (x.strand (i / 128)) (i % 128))
  else if i < 1536 then some (longGet (x.d.getV ((i - 512) / 32)) ((i - 512) % 32))
  else if i < 2048 then some (coreItem s c x (Config.coreBlockItem (i - 1536)))
  else if i < 4096 then some (longGet (x.d.getM ((i - 2048) / 256)).data ((i - 2048) % 256))
  else if i < 5120 then some (sideItem x.d (Config.sideItem (i - 4096)))
  else if i < 7168 then (x.raw.find? (fun p => p.1 = i)).map (·.2)
  else if i < 7680 then
    let j := i - 7168
    some (match (x.d.port (j / 128)).fifo[j % 128 / 8]? with
      | some b => longGet b.data (j % 8)
      | none => 0)
  else if i < 7808 then
    some (if i = 7680 then 0x58464354 else if i = 7681 then x.csr.nodeId else if i = 7682 then word (c % 2048) else 0)
  else if i < 7936 then some (strandWord s.cycle x.shadow (i - 7808))
  else if i < 8192 then some 0
  else if i < 16384 then some (word (leNat (memReadN x.d.win.held (Config.heldItem (i - 8192)) 8)))
  else
    let j := i - 16384
    let a := x.d.getA (j / 4096)
    let e := tget ({} : AccElem) (if j % 4096 < 2048 then a.e0 else a.e1) (j % 2048 / 2)
    some (longGet e.bits (j % 2))

/-- Every word of an image, whose unplaced words are the free values from `base` on. -/
def imageWords (s : State) (c : Nat) (x : Core) (base : Nat) : List Word :=
  (List.range 32768).map (fun i => (imageWord s c x i).getD (Config.freeWord (base + i)))

/-- The check of an image (R331): the low 64 bits of SHAKE256 over every other byte. -/
def imageCheck (ws : List Word) : Word :=
  let b := (ws.take checkWord ++ ws.drop (checkWord + 1)).flatMap (fun v => leBytes 8 v.toNat)
  word (leNat (shake256 b 8))

/-- A core's image. -/
def imageOf (s : State) (c : Nat) (x : Core) (base : Nat) : List Word :=
  let ws := imageWords s c x base
  ws.set checkWord (imageCheck ws)

/-- Write word `i` of a core's image, and nothing else (R335). -/
def setImageWord (keep : Bool) (cycle i : Nat) (v : Word) (x : Core) : Core :=
  if i < 512 then x.modStrand (i / 128) (setStrandWord keep cycle (i % 128) v)
  else if i < 1536 then
    let r := (i - 512) / 32
    { x with d := x.d.setV r (longSet (x.d.getV r) ((i - 512) % 32) v) }
  else if i < 2048 then setCoreItem (Config.coreBlockItem (i - 1536)) v x
  else if i < 4096 then
    let r := (i - 2048) / 256
    { x with d := x.d.setM r { x.d.getM r with data := longSet (x.d.getM r).data ((i - 2048) % 256) v } }
  else if i < 5120 then { x with d := setSideItem (Config.sideItem (i - 4096)) v x.d }
  else if i < 7168 then
    let y := setQueueItem (Config.queueItem (i - 5120)) v x
    { y with raw := tput y.raw i v }
  else if i < 7680 then
    let j := i - 7168
    let p := x.d.port (j / 128)
    { x with d := x.d.setPort (j / 128) { p with fifo := p.fifo.mapIdx (fun n b =>
        if n = j % 128 / 8 then { b with data := longSet b.data (j % 8) v } else b) } }
  else if i < 7808 then (if i = 7681 then { x with csr := { x.csr with nodeId := v } } else x)
  else if i < 7936 then { x with shadow := setStrandWord keep cycle (i - 7808) v x.shadow }
  else if i < 8192 then x
  else if i < 16384 then
    { x with d := { x.d with win := { x.d.win with held := memWriteN x.d.win.held (Config.heldItem (i - 8192)) (leBytes 8 v.toNat) } } }
  else
    let j := i - 16384
    let n := j / 4096
    let a := x.d.getA n
    let f := fun (t : Table AccElem) => tmod {} t (j % 2048 / 2) (fun e => { e with bits := longSet e.bits (j % 2) v })
    { x with d := x.d.setA n (if j % 4096 < 2048 then { a with e0 := f a.e0 } else { a with e1 := f a.e1 }) }

/-! ### RDST, WRST, CTX.SAVE, CTX.LOAD (17 R335) -/

/-- The target core of a word. -/
def targetCore (c : Nat) (n : BitVec 8) : Nat := coreDie c * 256 + n.toNat

def coreIdle (x : Core) : Bool := (List.range 4).all (fun k => (x.strand k).st = .idle)
/-- Stopped under R33, with no handler running. -/
def coreStopped (x : Core) : Bool :=
  !x.csr.hnd && (List.range 4).all (fun k => (x.strand k).st = .faulted || (x.strand k).st = .halted)
    && (List.range 4).any (fun k => (x.strand k).st = .faulted)
def corePreempted (x : Core) : Bool := (List.range 4).all (fun k => (x.strand k).st = .preempted)

/-- Change a target core: with it the saved context of the node that it still holds, if it is pre-empted. -/
def modTarget (t : Nat) (f : Core → Core) (s : State) : State :=
  let s := s.modCore t f
  match (s.core t).node with
  | some r => if corePreempted (s.core t) then
      s.modNode r (fun n => { n with saved := n.saved.map (fun y => if y.1 = t then (t, f y.2) else y) }) else s
  | none => s

def specRdst (h : Hdr) (d a : BitVec 5) (n : BitVec 8) : WordSpec :=
  { yWord h true (fun c _ w s =>
      let t := targetCore c n
      let i := w.va.toNat
      if i = checkWord then .done { s with free := s.free + 32768 } (imageCheck (imageWords s t (s.core t) s.free)) false
      else match imageWord s t (s.core t) i with
        | some v => .done s v false
        | none => .done s.takeFree s.freeVal false) with
    a := some a, dst := some d, check := fun _ _ w _ => if w.va.toNat ≥ 32768 then some (issueTrap 0x02) else none }

def specWrst (h : Hdr) (d a : BitVec 5) (n : BitVec 8) : WordSpec :=
  { yWord h true (fun c _ w s =>
      let t := targetCore c n
      let i := w.va.toNat
      let x := s.core t
      let ok := if t = c then x.csr.hnd && !(decide (384 ≤ i) && decide (i < 512)) else coreIdle x || coreStopped x || corePreempted x
      if !ok then .trap (runTrap 0x02) w s
      else .done (modTarget t (setImageWord false s.cycle i w.vd) s) 0 false) with
    a := some a, d := some d, check := fun _ _ w _ => if w.va.toNat ≥ 32768 then some (issueTrap 0x02) else none }

/-- 4 KiB alignment of an image's address. -/
def align4k (_c _k : Nat) (w : QWord) (_s : State) : Option Trap :=
  if w.va.toNat % 4096 ≠ 0 then some { issueTrap 0x03 with addr := w.va } else none

/-- Write pieces of one byte string, wherever they lie. -/
def writeAll (ctx : BitVec 16) (ps : List (Nat × Nat)) (bs : List Byte) (s : State) : State :=
  (ps.foldl (fun (acc : State × List Byte) p => (writeAny ctx p.1 (acc.2.take p.2) acc.1, acc.2.drop p.2)) (s, bs)).1

def specCtxSave (h : Hdr) (d a : BitVec 5) (n : BitVec 8) : WordSpec :=
  { yWord h true (fun c k w s =>
      let t := targetCore c n
      let x := s.core t
      if !(coreStopped x || corePreempted x) then .done s 1 false
      else match writePieces c 10 w.va.toNat 262144 s with
        | (.error e, s) => writeFails c e w s
        | (.ok ps, s) =>
          if ps.any (fun p => !rangeReady s p.1 p.2) then .begun w s
          else onRelease c k false w s (fun s =>
            let bs := (imageOf s t x s.free).flatMap (fun v => leBytes 8 v.toNat)
            .done { (writeAll (s.core c).csr.partition ps bs s) with free := s.free + 32768, images := s.images ++ [(s.free, x)] } 0 false)) with
    a := some a, dst := some d, check := align4k }

/-- Install an image (R335): its words; the engine queues come from the saved core whose unplaced words these are. The mode stays (R320),
and so does the core's own count of corrections (05 R118). -/
def installImage (s : State) (t : Nat) (ws : List Word) (x : Core) : Core :=
  let same := fun (e : Nat × Core) => (List.range 32768).all (fun i =>
    (imageWord s t e.2 i).isSome || decide (ws.getD i 0 = Config.freeWord (e.1 + i)))
  let found := s.images.find? same
  let z := match found with
    | none => x
    | some (_, y) =>
      { x with strands := (List.range 4).map (fun k => (k, { y.strand k with st := (x.strand k).st, prior := (x.strand k).prior }))
               csr := y.csr
               d := { y.d with scratch := x.d.scratch, scrBad := x.d.scrBad, pages := x.d.pages, refills := x.d.refills }
               dq := y.dq, cq := y.cq, cqRes := y.cqRes, recv := y.recv, inj := y.inj, injRes := y.injRes, tok := y.tok
               pend := y.pend, latches := y.latches, evt := y.evt, held := y.held, shadow := y.shadow, raw := y.raw, seq := Nat.max x.seq y.seq }
  let z := (List.range 32768).foldl (fun y i =>
    if ((imageWord s t y i).isSome || found.isNone) && decide (i ≠ checkWord) then setImageWord true s.cycle i (ws.getD i 0) y else y) z
  { z with csr := { z.csr with sup := x.csr.sup, frzCount := x.csr.frzCount } }

def specCtxLoad (h : Hdr) (d a : BitVec 5) (n : BitVec 8) : WordSpec :=
  { yWord h true (fun c k w s =>
      let t := targetCore c n
      if !(coreStopped (s.core t) || corePreempted (s.core t)) then .done s 1 false
      else fetchVirt c k w.va 262144 0 (fun w s =>
        let ws := wordsOf w.buf
        if ws.getD 7680 0 ≠ 0x58464354 || ws.getD checkWord 0 ≠ imageCheck ws then .done s 2 false
        else .done (modTarget t (installImage s t ws) s) 0 false) 40000 w s) with
    a := some a, dst := some d, check := align4k }

end Sys2Proof.Machine
end

