-- ==== Sys2Proof/Machine/Spec.lean ====
section
/-! DEFINITION. The meaning that belongs to each instruction word, by its constructor: a queued word finds its meaning here when
its engine runs it (01 R27-R31). -/

namespace Sys2Proof.Machine

/-- An event is no instruction word: no queue holds one. -/
def specEvent : WordSpec := { engine := .x, hint := true, body := fun _ _ _ s => .done s 0 false }

/-- The meaning of an instruction word. -/
def specOf : Instr → WordSpec
  | .addi h d a i => specAddi h d a i
  | .andi h d a i => specAndi h d a i
  | .ori h d a i => specOri h d a i
  | .xori h d a i => specXori h d a i
  | .slli h d a i => specSlli h d a i
  | .srli h d a i => specSrli h d a i
  | .srai h d a i => specSrai h d a i
  | .slti h d a i => specSlti h d a i
  | .sltiu h d a i => specSltiu h d a i
  | .ldxD h d a i => specLdxD h d a i
  | .ldxW h d a i => specLdxW h d a i
  | .stxD h d a i => specStxD h d a i
  | .stxW h d a i => specStxW h d a i
  | .csrr h d i => specCsrr h d i
  | .csrw h a i => specCsrw h a i
  | .csrx h d a i => specCsrx h d a i
  | .li h d i => specLi h d i
  | .lsh h d i => specLsh h d i
  | .auipc h d i => specAuipc h d i
  | .setlc h i => specSetlc h i
  | .beqz h a f => specBeqz h a f
  | .bnez h a f => specBnez h a f
  | .bcq h f => specBcq h f
  | .bncq h f => specBncq h f
  | .blc h f => specBlc h f
  | .jal h d f => specJal h d f
  | .add h d a b => specAdd h d a b
  | .sub h d a b => specSub h d a b
  | .and h d a b => specAnd h d a b
  | .or h d a b => specOr h d a b
  | .xor h d a b => specXor h d a b
  | .sll h d a b => specSll h d a b
  | .srl h d a b => specSrl h d a b
  | .sra h d a b => specSra h d a b
  | .slt h d a b => specSlt h d a b
  | .sltu h d a b => specSltu h d a b
  | .min h d a b => specMin h d a b
  | .max h d a b => specMax h d a b
  | .minu h d a b => specMinu h d a b
  | .maxu h d a b => specMaxu h d a b
  | .mul h d a b => specMul h d a b
  | .mulh h d a b => specMulh h d a b
  | .mulhu h d a b => specMulhu h d a b
  | .div h d a b => specDiv h d a b
  | .divu h d a b => specDivu h d a b
  | .rem h d a b => specRem h d a b
  | .remu h d a b => specRemu h d a b
  | .clz h d a => specClz h d a
  | .ctz h d a => specCtz h d a
  | .popc h d a => specPopc h d a
  | .sextB h d a => specSextB h d a
  | .sextH h d a => specSextH h d a
  | .sextW h d a => specSextW h d a
  | .zextW h d a => specZextW h d a
  | .jalr h d a => specJalr h d a
  | .setlcS h a => specSetlcS h a
  | .rdlc h d => specRdlc h d
  | .cmovz h d a b => specCmovz h d a b
  | .cmovnz h d a b => specCmovnz h d a b
  | .ifq h n => specIfq h n
  | .elseq h n => specElseq h n
  | .stgStage h n => specStgStage h n
  | .loopp h s l => specLoopp h s l
  | .setrb h a => specSetrb h a
  | .addSh1 h d a b => specAddSh1 h d a b
  | .addSh2 h d a b => specAddSh2 h d a b
  | .addSh3 h d a b => specAddSh3 h d a b
  | .addSh4 h d a b => specAddSh4 h d a b
  | .taddr h d a b => specTaddr h d a b
  | .vadd h d a b k => specVadd h d a b k
  | .vsub h d a b k => specVsub h d a b k
  | .vmul h d a b k => specVmul h d a b k
  | .vfma h d a b k => specVfma h d a b k
  | .vfms h d a b k => specVfms h d a b k
  | .vmin h d a b k => specVmin h d a b k
  | .vmax h d a b k => specVmax h d a b k
  | .vabs h d a k => specVabs h d a k
  | .vneg h d a k => specVneg h d a k
  | .vrcp h d a k => specVrcp h d a k
  | .vrsq h d a k => specVrsq h d a k
  | .vexp2 h d a k => specVexp2 h d a k
  | .vlog2 h d a k => specVlog2 h d a k
  | .vand h d a b k => specVand h d a b k
  | .vor h d a b k => specVor h d a b k
  | .vxor h d a b k => specVxor h d a b k
  | .vnot h d a k => specVnot h d a k
  | .vshl h d a b k => specVshl h d a b k
  | .vshr h d a b k => specVshr h d a b k
  | .vsra h d a b k => specVsra h d a b k
  | .vshli h d a i k => specVshli h d a i k
  | .vshri h d a i k => specVshri h d a i k
  | .vcmpEq h d a b k => specVcmpEq h d a b k
  | .vcmpNe h d a b k => specVcmpNe h d a b k
  | .vcmpLt h d a b k => specVcmpLt h d a b k
  | .vcmpLe h d a b k => specVcmpLe h d a b k
  | .vcmpUn h d a b k => specVcmpUn h d a b k
  | .vcqAny h a k => specVcqAny h a k
  | .vcqAll h a k => specVcqAll h a k
  | .vsel h d a b k => specVsel h d a b k
  | .vmov h d a k => specVmov h d a k
  | .vbcast h d a k => specVbcast h d a k
  | .vext h d a b => specVext h d a b
  | .vins h d a b => specVins h d a b
  | .viota h d k => specViota h d k
  | .vcvt h d a i k => specVcvt h d a i k
  | .vpack h d a i => specVpack h d a i
  | .vunpack h d a i => specVunpack h d a i
  | .vperm h d a b k => specVperm h d a b k
  | .vshuf h d a i k => specVshuf h d a i k
  | .vslide h d a b k => specVslide h d a b k
  | .vredSum h d a k => specVredSum h d a k
  | .vredMin h d a k => specVredMin h d a k
  | .vredMax h d a k => specVredMax h d a k
  | .vscan h d a k => specVscan h d a k
  | .vcompress h d a k => specVcompress h d a k
  | .vexpand h d a k => specVexpand h d a k
  | .vprune h d a i k => specVprune h d a i k
  | .vquant h d a b k => specVquant h d a b k
  | .vscale h d a b k => specVscale h d a b k
  | .vdefer h a n hh k => specVdefer h a n hh k
  | .vdrain h d n hh k => specVdrain h d n hh k
  | .vtype h d a s => specVtype h d a s
  | .kand h d a b => specKand h d a b
  | .kor h d a b => specKor h d a b
  | .kxor h d a b => specKxor h d a b
  | .knot h d a => specKnot h d a
  | .kpopc h d a => specKpopc h d a
  | .kfirst h d a => specKfirst h d a
  | .kmov h d a => specKmov h d a
  | .vclamp h d a b k => specVclamp h d a b k
  | .vdot h d a b k => specVdot h d a b k
  | .mma h c a b z m t x y r => specMma h c a b z m t x y r
  | .mrun h c a b z m t n r => specMrun h c a b z m t n r
  | .mzero h c => specMzero h c
  | .mdrain h c y d z => specMdrain h c y d z
  | .mdrainV h c y v z => specMdrainV h c y v z
  | .mloada h c y v => specMloada h c y v
  | .mscale h d v => specMscale h d v
  | .mcfg h m a b r => specMcfg h m a b r
  | .mlend h b => specMlend h b
  | .mret h b => specMret h b
  | .mtrans h s d w => specMtrans h s d w
  | .mchk h c => specMchk h c
  | .mprobe h s d => specMprobe h s d
  | .mprobeAcc h c d => specMprobeAcc h c d
  | .vld h d a b c z => specVld h d a b c z
  | .vldS h d a b c hh => specVldS h d a b c hh
  | .vst h d a b c z => specVst h d a b c z
  | .vstS h d a b c hh => specVstS h d a b c hh
  | .mld h d a b c => specMld h d a b c
  | .mldT h d a b c w => specMldT h d a b c w
  | .mldU h d c => specMldU h d c
  | .mst h d a b c => specMst h d a b c
  | .vldBm h d a b c n => specVldBm h d a b c n
  | .vstBm h d a b c n => specVstBm h d a b c n
  | .cpyIn h d a b c hh => specCpyIn h d a b c hh
  | .cpyOut h d a b c hh => specCpyOut h d a b c hh
  | .cpyLoc h d a b c hh => specCpyLoc h d a b c hh
  | .awf h a hh => specAwf h a hh
  | .rls h a hh => specRls h a hh
  | .agCfg h a j g => specAgCfg h a j g
  | .winCfg h a b => specWinCfg h a b
  | .fopen h d a n c k => specFopen h d a n c k
  | .fadv h d a b c => specFadv h d a b c
  | .fend h a => specFend h a
  | .fclose h a => specFclose h a
  | .ldg h d a b e o => specLdg h d a b e o
  | .stg h d a b e o => specStg h d a b e o
  | .lda h d a b e => specLda h d a b e
  | .strl h d a b e => specStrl h d a b e
  | .fence h e o => specFence h e o
  | .amoAdd h d a b e o => specAmoAdd h d a b e o
  | .amoAnd h d a b e o => specAmoAnd h d a b e o
  | .amoOr h d a b e o => specAmoOr h d a b e o
  | .amoXor h d a b e o => specAmoXor h d a b e o
  | .amoMin h d a b e o => specAmoMin h d a b e o
  | .amoMax h d a b e o => specAmoMax h d a b e o
  | .amoMinu h d a b e o => specAmoMinu h d a b e o
  | .amoMaxu h d a b e o => specAmoMaxu h d a b e o
  | .amoSwap h d a b e o => specAmoSwap h d a b e o
  | .amoCas h d a b e o => specAmoCas h d a b e o
  | .amoFadd h d a b e o => specAmoFadd h d a b e o
  | .verst h d a b e => specVerst h d a b e
  | .verld h d a b e => specVerld h d a b e
  | .verrcl h d a b e => specVerrcl h d a b e
  | .barW h l => specBarW h l
  | .barA h l => specBarA h l
  | .barT h d l => specBarT h d l
  | .bcast h a l => specBcast h a l
  | .brecv h d l => specBrecv h d l
  | .red h d a b l => specRed h d a b l
  | .evt h l => specEvt h l
  | .submit h d a b => specSubmit h d a b
  | .mcast h d a b => specMcast h d a b
  | .wbr h a b => specWbr h a b
  | .invr h a b => specInvr h a b
  | .wbwait h d => specWbwait h d
  | .lat h d a b => specLat h d a b
  | .ldt h d a b => specLdt h d a b
  | .lfold h d a b => specLfold h d a b
  | .lfwait h d a => specLfwait h d a
  | .lgen h d a => specLgen h d a
  | .tkpush h a b => specTkpush h a b
  | .tkpop h a b => specTkpop h a b
  | .tkcnt h d b => specTkcnt h d b
  | .trap h c => specTrap h c
  | .tretResume h => specTretResume h
  | .tretAbort h => specTretAbort h
  | .halt h => specHalt h
  | .yield h d => specYield h d
  | .wfe h => specWfe h
  | .wut h a => specWut h a
  | .rdtime h d s => specRdtime h d s
  | .mperm h d a => specMperm h d a
  | .rdst h d a c => specRdst h d a c
  | .wrst h d a c => specWrst h d a c
  | .ctxSave h d a c => specCtxSave h d a c
  | .ctxLoad h d a c => specCtxLoad h d a c
  | .domsetInstall h d a => specDomsetInstall h d a
  | .domsetRemove h d a => specDomsetRemove h d a
  | .hmsetQuiesce h d a m => specHmsetQuiesce h d a m
  | .hmsetSwitch h d a m => specHmsetSwitch h d a m
  | .hmsetResume h d a m => specHmsetResume h d a m
  | .rgload h d a g => specRgload h d a g
  | .rgswapHot h d g => specRgswapHot h d g
  | .rgswapNow h d g => specRgswapNow h d g
  | .rgfreezeFreeze h d g => specRgfreezeFreeze h d g
  | .rgfreezeThaw h d g => specRgfreezeThaw h d g
  | .rgreadSave h d a g => specRgreadSave h d a g
  | .rgreadFetch h d a x g => specRgreadFetch h d a x g
  | .rgreadRestore h d x g => specRgreadRestore h d x g
  | .rgreadStatus h d g => specRgreadStatus h d g
  | .rgclk h d c g => specRgclk h d c g
  | .wout h t v e n => specWout h t v e n
  | .win h t v c n => specWin h t v c n
  | .weos h t => specWeos h t
  | .wtest h t r n => specWtest h t r n
  | .wstat h t d r c => specWstat h t d r c
  | .wdrainIn h t => specWdrainIn h t
  | .wdrainOut h t => specWdrainOut h t
  | .prefG _ _ _ _ => specPrefG
  | .prefS _ _ _ _ => specPrefS
  | .prio _ _ _ i => specPrio i
  | .pause _ _ _ i => specPause i
  | .engineWordStart _ _ _ => specEvent
  | .wordRetire _ _ _ => specEvent
  | .deadlockDetect _ => specEvent
  | .correctableError _ => specEvent
  | .freezeBegin _ => specEvent
  | .freezeEnd _ => specEvent
  | .pageRefillComplete _ _ _ _ => specEvent
  | .pauseEnd _ _ => specEvent
  | .accumulatorWriteback _ => specEvent
  | .permitDecision _ => specEvent
  | .transferStart _ _ _ => specEvent
  | .transferChunk _ _ _ => specEvent
  | .slotFill _ _ _ => specEvent
  | .flitInject _ _ => specEvent
  | .flitOffer _ _ => specEvent
  | .sliceAccess _ _ => specEvent
  | .rehomeResend _ _ => specEvent
  | .sliceMissFill _ _ _ => specEvent
  | .translationWalkDone _ _ => specEvent
  | .wbrInvrFinish _ => specEvent
  | .verstStallTimeout _ => specEvent
  | .foldTile _ => specEvent
  | .foldSwap _ => specEvent
  | .invalidationRequest _ => specEvent
  | .invalidationDone _ => specEvent
  | .carveWrite _ _ _ => specEvent
  | .loadGo _ => specEvent
  | .loadComplete _ => specEvent
  | .queueTableWrite _ _ _ => specEvent
  | .devIdWrite _ => specEvent
  | .registerWrite _ _ _ => specEvent
  | .packetAccept _ _ => specEvent
  | .copyPacketRow _ _ => specEvent
  | .completionRecordWrite _ _ => specEvent
  | .operandWordPoll _ => specEvent
  | .priorityAging _ _ _ => specEvent
  | .textRewrite _ _ _ => specEvent
  | .nodePlace _ => specEvent
  | .dispatch _ _ _ => specEvent
  | .preemptDecision _ _ _ => specEvent
  | .preemptSignal _ _ _ => specEvent
  | .contextSaved _ _ _ => specEvent
  | .nodeResume _ _ _ => specEvent
  | .haltTreeFire _ _ _ => specEvent
  | .syncArrival _ _ => specEvent
  | .barrierRelease _ _ => specEvent
  | .reductionResult _ _ => specEvent
  | .broadcastDelivery _ _ => specEvent
  | .broadcastCreditReturn _ _ => specEvent
  | .eventDelivery _ _ => specEvent
  | .syncFaultSignal _ _ => specEvent
  | .brokenVerdict _ _ => specEvent
  | .beatTransfer _ _ _ => specEvent
  | .fifoCrossing _ _ => specEvent
  | .withyTransfer _ _ => specEvent
  | .regionRamError _ _ => specEvent
  | .swapBoundary _ => specEvent
  | .planeExchange _ => specEvent
  | .saveWritebackDone _ => specEvent
  | .wutCrossing _ => specEvent
  | .hostWrite _ _ _ _ _ => specEvent
  | .hostRead _ _ _ _ => specEvent
  | .hostAtomicop _ _ _ _ _ _ _ => specEvent
  | .linkBeatArrival _ _ _ _ => specEvent
  | .treeTokenForward _ _ => specEvent
  | .ptpMessage _ _ _ => specEvent
  | .syncInterval _ _ _ => specEvent
  | .governorCapUpdate _ _ _ => specEvent
  | .thermalHold _ => specEvent
  | .thermalShutdown => specEvent
  | .patrolScrub _ _ => specEvent
  | .packageReset _ => specEvent
  | .dieReset _ => specEvent
  | .stackReset _ _ => specEvent
  | .linkReset _ _ => specEvent
  | .reportRequest _ => specEvent
  | .reportReady => specEvent
  | .regionClockEdge _ => specEvent
  | .hostCompletion _ _ _ => specEvent
  | .hostCompletionTimeout _ => specEvent
  | .msixVectorUnmask _ _ => specEvent
  | .timeStRead => specEvent
  | .ptpParentLoss => specEvent

end Sys2Proof.Machine
end

