-- ==== Sys2Proof/Machine/Issue.lean ====
section
/-! DEFINITION. Issue: the checks of 02 R46 and R456, the blocking conditions of 01 R29 and 05 R109, what a word takes when it
issues, where the pc goes (03 R73-R80), the start of a queued word, its run and its retirement (01 R27). -/

namespace Sys2Proof.Machine

/-! ### What a word names -/

/-- The physical register of a scalar field, where it names s1 to s27. -/
def scalarOf (rot : BitVec 4) (f : Option (BitVec 5)) : Option Nat :=
  match f with
  | none => none
  | some r => if r = 0 || r.toNat ≥ 28 then none else some (physReg rot r.toNat)

/-- Does a scalar field go through the rotation mapping (03 R78)? -/
def rotated (f : Option (BitVec 5)) : Bool :=
  match f with
  | none => false
  | some r => 16 ≤ r.toNat && r.toNat < 28

/-- The CSRs that a word uses (03 R82): those it names, rot.base, sendto and cq.owner where its fields need them, and cq.count where it
pushes cq. -/
def usesCsr (p : WordSpec) : List Nat :=
  p.uses ++ p.csr.toList
    ++ (if rotated p.a || rotated p.b || rotated p.d || rotated p.dst then [0x019] else [])
    ++ (if readsNet p || p.dst == some 28#5 then [0x010] else [])
    ++ (if p.cqPop then [0x00E] else []) ++ (if p.cqPush then [0x00F] else [])

/-- Is a register recorded in the dependency table (05 R109)? -/
def Reg.recorded : Reg → Bool
  | .k n => n ≠ 0
  | _ => true

/-- Does a register hold a word at its issue? Words wait for an accumulator in the M queue, at their start: R130, whose worked sequence
issues MZERO, MMA and MCHK of one accumulator in successive cycles. -/
def Reg.atIssue : Reg → Bool
  | .a _ => false
  | _ => true

/-- Has a word read its registers already? WOUT reads vS when it starts (13 R270). -/
def hasRead (w : QWord) : Bool :=
  match w.i with
  | .wout .. => !w.buf.isEmpty
  | _ => false

/-- The registers that a queued word still reads, and those it writes. -/
def readsOf (w : QWord) : List Reg := if hasRead w then [] else (specOf w.i).rd ++ (specOf w.i).rdw w
def writesOf (w : QWord) : List Reg := (specOf w.i).wr ++ (specOf w.i).wrw w

/-- Pending writes, or reads, of a register (05 R109): the words that have not finished with it. -/
def pendingOn (x : Core) (f : QWord → List Reg) (r : Reg) : Nat :=
  (x.allWords.filter (fun w => w.2.phase ≠ .done && (f w.2).contains r)).length

/-- Pending writes of a scalar register of a strand. -/
def pendingScalar (t : Strand) (p : Nat) : Nat := (t.words.filter (fun w => w.dst = .reg p)).length

/-- Does a word wait in the dependency table for a scalar register: read after write, or a full count (05 R109)? -/
def scalarWait (t : Strand) (p : WordSpec) : Bool :=
  [p.a, p.b, p.d].any (fun f => match scalarOf t.rotBase f with
    | some n => pendingScalar t n ≠ 0
    | none => false)
  || (match scalarOf t.rotBase p.dst with
    | some n => decide (pendingScalar t n ≥ 7)
    | none => false)

/-- Does a word that issues as `w` wait in the dependency table for a register of the shared files: read after write, write after
read, or a full count (05 R109)? -/
def registerWait (x : Core) (w : QWord) : Bool :=
  (readsOf w).any (fun r => r.recorded && ((r.atIssue && pendingOn x writesOf r ≠ 0) || decide (pendingOn x readsOf r ≥ 7)))
  || (writesOf w).any (fun r => r.recorded && ((r.atIssue && pendingOn x readsOf r ≠ 0) || decide (pendingOn x writesOf r ≥ 7)))

/-- Does a CSR wait hold the word (03 R82)? -/
def csrWait (t : Strand) (p : WordSpec) : Bool :=
  (match p.csr with
   | some n => t.words.any (fun w => (usesCsr (specOf w.i)).contains n)
   | none => false)
  || (usesCsr p).any (fun n => t.words.any (fun w => (specOf w.i).csrW && (specOf w.i).csr == some n))

/-- Does an earlier word of the strand still have to write the owner of q0 or cq, which the checks of 02 R46 row 8 read (03 R82)? -/
def ownerWait (t : Strand) (p : WordSpec) : Bool :=
  ((if readsNet p || p.dst == some 28#5 then [0x010] else []) ++ (if p.cqPop then [0x00E] else [])).any (fun n =>
    t.words.any (fun w => (specOf w.i).csrW && (specOf w.i).csr == some n))

/-- Does an earlier word hold the strand (01 R29)? -/
def holdWait (t : Strand) : Bool :=
  t.words.any (fun w => match (specOf w.i).hold with
    | .all => true
    | .fin => w.phase ≠ .done
    | .begun => w.phase = .queued
    | .both => w.phase = .queued
    | _ => false)

/-- Do two ranges share a byte? -/
def rangeMeets (p q : Nat × Nat) : Bool := decide (p.1 < q.1 + q.2 ∧ q.1 < p.1 + p.2)

/-- Does one of the words of a queue still have to access a byte of the ranges? What a word accesses may follow from what the words before
it in its queue will have done: they are run ahead, on a copy of the state in which no page is absent. -/
def queueMeets (c k : Nat) (rs : List (Nat × Nat)) : List QWord → State → Bool
  | [], _ => false
  | v :: r, s =>
    let p := specOf v.i
    if v.phase = .done then queueMeets c k rs r s
    else (p.scr k v (s.core c)).any (fun q => rs.any (rangeMeets q)) || queueMeets c k rs r (match p.body c k v s with
      | .done t _ _ => t
      | _ => s)

/-- LDX and STX issue only once the earlier scratch accesses of the strand in other queues that overlap them have been performed (03
R65). -/
def scratchWait (c k : Nat) (p : WordSpec) (w : QWord) (s : State) : Bool :=
  let rs := p.scr k w (s.core c)
  p.engine = .x && !rs.isEmpty && [Engine.l, .v, .q].any (fun e =>
    let q := (s.strand c k).queue e
    !q.isEmpty && queueMeets c k rs q (s.modData c (fun d => { d with pages := [] })))

/-- The vector registers that a word names. -/
def vectorsOf (p : WordSpec) : List Nat :=
  (p.rd ++ p.wr).filterMap (fun r => match r with
    | .v n => some n
    | _ => none)

/-- Does a word other than an M word name a register of a lent bank (05 R108)? -/
def namesLent (x : Core) (p : WordSpec) : Bool :=
  p.engine ≠ .m && (vectorsOf p).any (fun n => (lendAfter x).getLsbD (n / 8))

/-- Does it name a register of a bank whose MRET has not completed (05 R108)? -/
def pendingReturn (x : Core) (p : WordSpec) : Bool :=
  p.engine ≠ .m && ((x.strand 1).queue .m).any (fun w => match isMret w.i with
    | some b => (vectorsOf p).any (fun n => n / 8 = b)
    | none => false)

/-! ### Traps (02 R46, R456, 03 R74, R80) -/

/-- Is a word's profile missing (23 R420)? -/
def profileOff (x : Core) (e : Engine) : Bool :=
  match e with
  | .v => !x.profile.getLsbD 0
  | .m => !x.profile.getLsbD 1
  | .w => !x.profile.getLsbD 2
  | _ => false

/-- The body words after the word at pc in the active loop. -/
def bodyLeft (t : Strand) (pc : BitVec 32) : Nat :=
  match t.loop with
  | none => 0
  | some l => l.start + l.len - 1 - pc.toNat / 4

/-- Rows 2, 4 and 5, and the traps of covered positions and loop bodies: nullified words meet these too. -/
def earlyTrap (x : Core) (k : Nat) (p : WordSpec) : Option Trap :=
  let t := x.strand k
  if profileOff x p.engine || !p.strands.contains k then some (issueTrap 0x01)
  else if p.sup && !x.csr.sup then some (issueTrap 0x17)
  else if (p.noCover && t.cover ≠ 0) || (p.noLoop && inBody t t.pc) then some (issueTrap 0x01)
  else if inBody t t.pc && decide (bodyLeft t t.pc < p.covers) then some (issueTrap 0x02)
  else none

/-- Is the word at the pc nullified by its coverage or its stage (03 R73, R76)? The stage marker never is. -/
def nullified (t : Strand) (p : WordSpec) : Bool :=
  (t.cover ≠ 0 && t.coverNull) || (inBody t t.pc && !p.marker && !t.stagep.getLsbD t.stage)

/-- Rows 6 to 8, and the checks that need no operand. -/
def lateTrap (s : State) (c k : Nat) (i : Instr) (p : WordSpec) : Option Trap :=
  let x := s.core c
  if !i.wf then some (issueTrap 0x02)
  else if readsNet p && decide (wbits x.csr.sendto 57 56 ≠ k) then some (issueTrap 0x02)
  else if p.cqPop && x.csr.cqOwner.toNat ≠ k then some (issueTrap 0x02)
  else if namesLent x p then some (issueTrap 0x02)
  else if (match p.csr with | some n => !csrKnown n | none => false) then some (issueTrap 0x02)
  else if p.dst ≠ some 28#5 then none
  else if decide (wbits x.csr.sendto 23 20 ≥ 12) then some (issueTrap 0x02)
  else if replayNode s c then some (issueTrap 0x05)
  else if !pkgAllowed s x.csr.partition (BitVec.ofNat 20 (wbits x.csr.sendto 55 36)) then some (issueTrap 0x07)
  else none

/-- Everything that blocks the word besides its sources (01 R29). -/
def blocksOf (x : Core) (k : Nat) (p : WordSpec) : List Block :=
  let t := x.strand k
  (if t.words.any (fun w => w.paging) then [.page] else [])
  ++ (if holdWait t || csrWait t p || pendingReturn x p then [.hold] else [])
  ++ (if scalarWait t p then [.pending] else [])
  ++ (if (t.queue p.engine).length ≥ 16 then [.engine] else [])
  ++ (if !tokenReady k p.hdr x then [.tok] else [])
  ++ (if (p.cqPop && x.cq.isEmpty) || (p.cqPush && decide (x.cq.length + x.cqRes ≥ 8)) then [.cq] else [])
  ++ (dstRoom k (dstOf k t.rotBase p.dst) x).toList

/-- The first of these. -/
def blockOf (x : Core) (k : Nat) (p : WordSpec) : Option Block := (blocksOf x k p).head?

/-- A transfer's target check (01 R15). -/
def jumpTrap (j : Option Word) : Option Trap :=
  match j with
  | none => none
  | some a => if a.toNat % 4 ≠ 0 then some (issueTrap 0x03) else if a.toNat ≥ 0x4000 then some (issueTrap 0x05) else none

/-- The queued form of a word that issues now. -/
def makeWord (x : Core) (k : Nat) (i : Instr) (p : WordSpec) (va vb vd : Word) : QWord :=
  let t := x.strand k
  { seq := x.seq, i := i, pc := t.pc, va := va, vb := vb, vd := vd, dst := dstOf k t.rotBase p.dst, vtype := t.vtype
    fmtA := t.fmtA, fmtB := t.fmtB, fmtC := t.fmtC, round := t.round, trapen := t.trapen, sendto := x.csr.sendto
    bit := if p.cqPop then x.cq.headD false else false }

/-- The word with what it samples in its issue cycle. -/
def newWord (c k : Nat) (i : Instr) (p : WordSpec) (va vb vd : Word) (s : State) : QWord :=
  { makeWord (s.core c) k i p va vb vd with res := p.pre c k s, at_ := s.cycle }

/-- What issuing comes to. -/
inductive Gate
  | idle
  | stop (t : Trap)
  | skip
  | block (b : Block)
  | go (w : QWord) (y : Core)

/-- What blocks the word once its sources are read: registers of the shared files, scratch accesses before it, and its own condition. -/
def lateBlocks (c k : Nat) (p : WordSpec) (w : QWord) (s : State) : List Block :=
  (if registerWait (s.core c) w then [.pending] else [])
  ++ (if scratchWait c k p w s then [.hold] else [])
  ++ (p.ready c k w s).toList

/-- Does a source register hold an uncorrectable error (05 R124)? -/
def badSource (t : Strand) (p : WordSpec) : Bool :=
  !t.bad.isEmpty && [p.a, p.b, p.d].any (fun f => match scalarOf t.rotBase f with
    | some n => t.bad.contains n
    | none => false)

/-- The checks and conditions after the sources are read. -/
def gateOperands (c k : Nat) (p : WordSpec) (w : QWord) (y : Core) (s : State) : Gate :=
  if badSource (s.strand c k) p then .stop (issueTrap 0x08)
  else match p.check c k w s with
  | some t => .stop t
  | none => match jumpTrap (p.jump w (s.strand c k)) with
    | some t => .stop t
    | none => match (lateBlocks c k p w s).head? with
      | some b => .block b
      | none => .go w y

/-- A word without scalar sources meets its own checks before it can block (02 R46). -/
def ownTrap (c k : Nat) (i : Instr) (p : WordSpec) (s : State) : Option Trap :=
  if p.a.isNone && p.b.isNone && p.d.isNone then p.check c k (newWord c k i p 0 0 0 s) s else none

/-- A word that is not nullified, after rows 1 to 5. Where a check reads a CSR that an earlier word of the strand still has to write, the
word waits for that write before it meets the check (03 R82): the owners of row 8 first, the other CSRs before the word's own checks. -/
def gateWord (c k : Nat) (i : Instr) (p : WordSpec) (s : State) : Gate :=
  let x := s.core c
  if i.wf && ownerWait (x.strand k) p then .block .hold
  else match lateTrap s c k i p with
  | some t => .stop t
  | none => match (if csrWait (x.strand k) p then none else ownTrap c k i p s) with
    | some t => .stop t
    | none => match blockOf x k p with
      | some b => .block b
      | none => match popSrcs k p x with
        | none => .block (srcBlock k p x)
        | some (va, vb, vd, y) =>
          gateOperands c k p (newWord c k i p va vb vd s) y s

/-- The gate of issue (02 R46, 01 R29). A hint word meets no check (02 R48). -/
def gate (c k : Nat) (i : Instr) (p : WordSpec) (s : State) : Gate :=
  let x := s.core c
  let t := x.strand k
  if !t.active then .idle
  else if decide (s.cycle < t.pauseEnd) then .block .pause
  else if p.hint then (if nullified t p then .skip else .go (makeWord x k i p 0 0 0) x)
  else match earlyTrap x k p with
    | some t => .stop t
    | none => if nullified t p then .skip else gateWord c k i p s

/-! ### The program counter and loops (03 R73-R80) -/

/-- The end of a pass (03 R76). -/
def Strand.endPass (t : Strand) (l : LoopState) : Strand :=
  let t := { t with rotBase := BitVec.ofNat 4 ((t.rotBase.toNat + 11) % 12), lc := t.lc - 1, stage := 0 }
  if l.pass + 1 < l.trips + l.stages - 1 then
    { t with loop := some { l with pass := l.pass + 1 }, stagep := stagePreds l.trips (l.pass + 1), pc := BitVec.ofNat 32 (4 * l.start) }
  else { t with loop := none, loopMem := { l with pass := l.pass + 1 }, stagep := 0, pc := BitVec.ofNat 32 (4 * (l.start + l.len)) }

/-- The pc after the word at `pc`: a transfer's target, the next pass, or the next word. -/
def Strand.advance (t : Strand) (pc : BitVec 32) (target : Option Word) : Strand :=
  match target with
  | some a => { t with pc := a.setWidth 32 }
  | none => match t.loop with
    | none => { t with pc := pc + 4 }
    | some l => if pc.toNat / 4 + 1 = l.start + l.len then t.endPass l else { t with pc := pc + 4 }

/-- A word takes its slot: a covered one counts down (03 R73). -/
def Strand.slot (t : Strand) : Strand :=
  { t with st := .running, reason := none, issueAt := none, cover := t.cover - 1, coverNull := t.coverNull && decide (1 < t.cover) }

/-- A nullified word: it only takes its slot; a nullified IFQ or ELSEQ nullifies what it covers (03 R74). -/
def skipWord (p : WordSpec) (t : Strand) : Strand :=
  let u := t.slot
  (if p.covers = 0 then u else { u with cover := p.covers, coverNull := true }).advance t.pc none

/-! ### Start, run, retirement (01 R27, R33) -/

/-- Do two words meet in a register that one of them writes? Products forward their accumulator (06 R130). -/
def regsMeet (v w : QWord) : Bool :=
  let product := fun (i : Instr) => (match i with | .mma .. => true | .mrun .. => true | _ => false)
  let skip := product v.i && product w.i
  let look := fun (r : Reg) => match r with | .a _ => !skip | .k n => n ≠ 0 | _ => true
  (writesOf v).any (fun r => look r && ((readsOf w).contains r || (writesOf w).contains r))
    || (readsOf v).any (fun r => look r && (writesOf w).contains r)

/-- Words that draw from the strand's stochastic generator do so in issue order (04 R99). -/
def drawsBefore (t : Strand) (w : QWord) (e : Engine) : Bool :=
  (e = .m || e = .v) && w.round = 4 &&
    [Engine.m, Engine.v].any (fun f => (t.queue f).any (fun v => v.round = 4 && v.phase = .queued && decide (v.seq < w.seq)))

/-- Has every earlier user of the bank that MLEND or MRET names finished (05 R108, 06 R145)? -/
def bankFree (x : Core) (w : QWord) : Bool :=
  match (specOf w.i).bankWait with
  | none => true
  | some (b, onlyM) => x.allWords.all (fun v => decide (w.seq ≤ v.2.seq) || v.2.phase = .done
      || (onlyM && (specOf v.2.i).engine ≠ .m)
      || !(readsOf v.2 ++ writesOf v.2).any (fun r => match r with | .v n => n / 8 = b | _ => false))

/-- Does a word release: may it wait, begun, before its access (11 R236)? -/
def releases : Instr → Bool
  | .stg .. | .strl .. | .verst .. | .verrcl .. | .lat .. | .ldt .. | .lfold .. | .submit .. => true
  | .amoAdd .. | .amoAnd .. | .amoOr .. | .amoXor .. | .amoMin .. | .amoMax .. | .amoMinu .. | .amoMaxu .. | .amoSwap .. | .amoCas .. => true
  | .amoFadd .. => true
  | _ => false

/-- Does a begun word still wait to be performed or sent: the Q queue starts its words in order (10, before R226)? `bit`: it flushes the
host's writes. -/
def unsent (w : QWord) : Bool := w.phase = .started && (w.req = 0 || w.bit) && releases w.i

/-- Is a word a BAR.T? -/
def isBarT : Instr → Bool
  | .barT .. => true
  | _ => false

/-- May a word start now, as far as the words before it let it (01 R27, R29, 05 R110)? A W word waits for those before it to finish (13
R268); an access waits for an earlier BAR.T, which may be an acquire (12 R249). -/
def startReady (x : Core) (k : Nat) (e : Engine) (w : QWord) : Bool :=
  let t := x.strand k
  !heldByStop t w && !w.stopped
  && (t.queue e).all (fun v => decide (w.seq ≤ v.seq) || (v.phase ≠ .queued && !unsent v && (match (specOf v.i).hold with
      | .qOnly => false
      | .both => false
      | .all => false
      | _ => e ≠ .w || v.phase = .done)))
  && x.allWords.all (fun v => decide (w.seq ≤ v.2.seq) || v.2.phase = .done || !regsMeet v.2 w)
  && !drawsBefore t w e && bankFree x w
  && !(isAccess w.i && t.words.any (fun v => decide (v.seq < w.seq) && isBarT v.i && v.phase ≠ .done))

/-- The word that the copy unit would take from a strand: its oldest queued one, if it may start and would not wait (08 R181). -/
def nextL (c k : Nat) (s : State) : Option QWord :=
  let x := s.core c
  match ((x.strand k).queue .l).find? (fun w => w.phase = .queued) with
  | some w =>
    if !startReady x k .l w then none
    else match (specOf w.i).body c k w s with
      | .wait _ _ => none
      | _ => some w
  | none => none

/-- Is it a strand's turn for the engine that several strands share: highest weight, then round robin (08 R181, 02 R49)? -/
def turnOf (c k : Nat) (e : Engine) (s : State) : Bool :=
  let x := s.core c
  e ≠ .l || (List.range 4).all (fun j => j = k || (nextL c j s).isNone ||
    decide ((x.strand j).prio.toNat < (x.strand k).prio.toNat) ||
    ((x.strand j).prio = (x.strand k).prio && decide ((k + 3 - x.d.lLast) % 4 < (j + 3 - x.d.lLast) % 4)))

/-- A strand is served by the copy unit (08 R181). -/
def serveStrand (c k : Nat) (e : Engine) (s : State) : State := if e = .l then s.modData c (fun d => { d with lLast := k }) else s

/-- The file and number of a register, as `regBad` lists it. -/
def Reg.key : Reg → Nat × Nat
  | .v n => (0, n) | .k n => (1, n) | .m n => (2, n) | .a n => (3, n) | .f n => (4, n)

/-- The registers that a finished word has written lose their errors (05 R124). -/
def mendRun (c : Nat) (w : QWord) (r : Run) : Run :=
  match r with
  | .done s v b => .done (s.modData c (fun d => { d with regBad := d.regBad.filter (fun r => !((writesOf w).map Reg.key).contains r) })) v b
  | r => r

/-- A word's body, run: a register that it reads and that holds an uncorrectable error traps 0x08 first (05 R124), and those that it
writes lose their errors. -/
def runBody (c k : Nat) (p : WordSpec) (w : QWord) (s : State) : Run :=
  let bad := (s.core c).d.regBad
  if bad.isEmpty then p.body c k w s
  else if (readsOf w).any (fun r => bad.contains r.key) then .trap (runTrap 0x08) w s
  else mendRun c w (p.body c k w s)

/-! ### Racing accesses (05 R113, R114) -/

/-- Is a word a synchronous access of the copy unit: does it store, and its alias class? -/
def aliasOf : Instr → Option (Bool × BitVec 2)
  | .vld _ _ _ _ c _ | .vldS _ _ _ _ c _ | .mld _ _ _ _ c | .mldT _ _ _ _ c _ | .mldU _ _ c => some (false, c)
  | .vldBm _ _ _ _ c _ | .fopen _ _ _ _ c _ | .fadv _ _ _ _ c => some (false, c)
  | .vst _ _ _ _ c _ | .vstS _ _ _ _ c _ | .mst _ _ _ _ c | .vstBm _ _ _ _ c _ => some (true, c)
  | _ => none

/-- The words behind a word in its queue that form an unchecked pair with it, with whether they store. -/
def rivals (x : Core) (k : Nat) (w : QWord) : List (Bool × QWord) :=
  match aliasOf w.i with
  | none => []
  | some (_, a) => ((x.strand k).queue .l).filterMap (fun v => match aliasOf v.i with
    | some (st, b) => if decide (w.seq < v.seq) && v.phase = .queued && !checkedPair a b then some (st, v) else none
    | none => none)

/-- The bytes that the accesses of two words share. -/
def shared (p q : List (Nat × Nat)) : List Nat :=
  p.flatMap (fun r => ((List.range r.2).map (· + r.1)).filter (fun a => q.any (fun z => decide (z.1 ≤ a ∧ a < z.1 + z.2))))

/-- Does a word of the copy unit race, with an earlier store or with a later word? -/
def racing (x : Core) (k : Nat) (p : WordSpec) (w : QWord) : Bool := p.engine = .l && (!w.race.isEmpty || !(rivals x k w).isEmpty)

/-- Each byte takes the racing value, or keeps its own: a free choice for each (05 R114). -/
def raceBytes (free : Nat) (es : List (Nat × Byte)) (m : Memory) : Memory :=
  (es.zipIdx).foldl (fun m e => if (Config.freeWord (free + e.2)).getLsbD 0 then memWrite m e.1.1 e.1.2 else m) m

/-- What stands at the shared bytes once a word has run on its own. -/
def racedBytes (c k : Nat) (p : WordSpec) (w : QWord) (at_ : List Nat) (s : State) : List (Nat × Byte) :=
  match p.body c k w s with
  | .done t _ _ => at_.map (fun a => (a, memRead (t.core c).d.scratch a))
  | _ => []

/-- A racing word runs. A load may find the bytes of a store behind it, or those from before a store that was ahead of it; a store may
leave the bytes of one that was ahead of it, and races the words behind it. -/
def raceRun (c k : Nat) (p : WordSpec) (w : QWord) (s : State) : Run :=
  let x := s.core c
  let mine := p.scr k w x
  let near := rivals x k w
  let meet := fun (v : QWord) => shared mine ((specOf v.i).scr k v x)
  if (aliasOf w.i).any (·.1) then
    match runBody c k p w s with
    | .done t v b =>
      let t := (t.modData c (fun d => { d with scratch := raceBytes t.free w.race d.scratch }))
      let new := (t.core c).d.scratch
      let note := fun (v : QWord) => match near.find? (fun r => r.2.seq = v.seq) with
        | some r => { v with race := v.race ++ (meet v).map (fun a => (a, memRead (if r.1 then new else x.d.scratch) a)) }
        | none => v
      .done ({ t.modStrand c k (fun u => u.setQueue .l ((u.queue .l).map note)) with free := t.free + w.race.length }) v b
    | r => r
  else
    let es := w.race ++ near.flatMap (fun r => if r.1 then racedBytes c k (specOf r.2.i) r.2 (meet r.2) s else [])
    let back := fun (t : State) => { t.modData c (fun d => { d with scratch := x.d.scratch }) with free := t.free + es.length }
    match runBody c k p w (s.modData c (fun d => { d with scratch := raceBytes s.free es d.scratch })) with
    | .done t v b => .done (back t) v b
    | .wait w t => .wait w (back t)
    | .begun w t => .begun w (back t)
    | .trap e w t => .trap e w (back t)

/-- A word runs for the engine that serves its strand; one that waits is not served. -/
def serveRun (c k : Nat) (p : WordSpec) (w : QWord) (s : State) : Run :=
  let t := serveStrand c k p.engine s
  match (if racing (s.core c) k p w then raceRun c k p w t else runBody c k p w t) with
  | .wait w t => .wait w (if p.engine = .l then t.modData c (fun d => { d with lLast := (s.core c).d.lLast }) else t)
  | r => r

/-- May a finished word retire: room for its tokens, and no earlier writer of its scalar left (05 R110, R111)? -/
def retireReady (x : Core) (k : Nat) (p : WordSpec) (w : QWord) : Bool :=
  tokenRoom k p.hdr (p.tokens w) x && (x.strand k).words.all (fun v => decide (w.seq ≤ v.seq) || (match w.dst with
    | .reg n => n = 0 || v.dst ≠ .reg n
    | _ => true))

/-- The place of a retirement in a cycle's order: ascending strand, then ascending E field (01 R25, 03 R83, 05 R111). -/
def retireKey (k : Nat) (e : Engine) : Nat := k * 8 + engNum e

/-- Has no retirement of a later place come before in this cycle? -/
def Core.mayRetire (x : Core) (cyc k : Nat) (e : Engine) : Bool := decide ((x.markAt cyc).last ≤ retireKey k e)

/-- A word's retirement: its result, its condition bit, its tokens (01 R19, R23, R24, 05 R111). -/
def complete (c k : Nat) (p : WordSpec) (w : QWord) (res : Word) (bit : Bool) (s : State) : State :=
  s.modCore c (fun x =>
    let x := writeDst c k s.cycle w.seq w.sendto w.dst res x
    let x := if p.cqPush then { x with cq := x.cq ++ [bit], cqRes := x.cqRes - 1 } else x
    (pushTokens k p.hdr (p.tokens w) x).setMark s.cycle (fun m =>
      { m with closed := true
               last := Nat.max m.last (retireKey k p.engine)
               yDone := m.yDone || (p.engine = .y && k = 3)
               qDone := m.qDone || (p.engine = .q && k = 3) }))

/-- Put a word into its engine queue. -/
def enqueue (c k : Nat) (e : Engine) (w : QWord) (s : State) : State :=
  s.modStrand c k (fun t => t.setQueue e (t.queue e ++ [w]))

/-- The faulting of a queued word (01 R33, 17 R323): a user trap's word completes first, a deferred failure's is gone. -/
def stopWord (c k : Nat) (t : Trap) (w : QWord) (put : QWord → State → State) (gone : State → State) (s : State) : State :=
  if t.cls = 5 then takeFault c k t (encode w.i) w.pc none (put { w with phase := .done } s)
  else if t.cls = 4 then takeFault c k t (encode w.i) w.pc none (gone s)
  else takeFault c k t (encode w.i) w.pc (some w.seq) (put { w with phase := .queued, req := 0 } s)

/-- What is left to do of a word that issues and runs in one step. -/
def settleNow (c k : Nat) (p : WordSpec) (w : QWord) (r : Run) : State :=
  match r with
  | .done s res bit =>
    if retireReady (s.core c) k p w then complete c k p w res bit s
    else enqueue c k p.engine { w with phase := .done, res := res, bit := bit } s
  | .wait w s => enqueue c k p.engine w s
  | .begun w s => enqueue c k p.engine { w with phase := .started } s
  | .trap t w s => stopWord c k t w (enqueue c k p.engine) id s

/-- Put a changed word back in its place; CTX and TRET may have moved X's block (17 R326). -/
def putWord (c k : Nat) (e : Engine) (w : QWord) (s : State) : State :=
  s.modStrand c k (fun t => t.modWord e w.seq (fun _ => w))

/-- What is left to do of a queued word that has run. -/
def settleQueued (c k : Nat) (e : Engine) (w : QWord) (r : Run) : State :=
  match r with
  | .done s res bit => putWord c k e { w with phase := .done, res := res, bit := bit, req := 0, paging := false } s
  | .wait w s => putWord c k e w s
  | .begun w s => putWord c k e { w with phase := .started, paging := false } s
  | .trap t w s => stopWord c k t w (putWord c k e) (fun s => s.modStrand c k (fun t => t.dropWord e w.seq)) s

/-- What a word takes when it issues: tokens, queue entries, reservations, its number, its slot, its own effects at issue. -/
def launch (c k : Nat) (p : WordSpec) (w : QWord) (y : Core) (s : State) : State :=
  let old := s.strand c k
  let y := popToken k p.hdr y
  let y := { y with cq := if p.cqPop then y.cq.tail else y.cq, cqRes := if p.cqPush then y.cqRes + 1 else y.cqRes }
  let y := reserve k w.seq w.dst y
  let y := { y with seq := y.seq + 1 }
  let s := s.setCore c ((y.modStrand k (·.slot)).setMark s.cycle (fun m => { m with issued := k + 1 }))
  (p.take c k w s).modStrand c k (fun t => t.advance w.pc (p.jump w old))

/-- Is the word of X after a WUT to issue in this cycle, and has not had its turn (22 R418)? Until then no word of the core completes in it,
and its ring station takes nothing (05 R110). -/
def issueDue (s : State) (c : Nat) : Bool :=
  let x := s.core c
  (x.strand 3).issueAt = some s.cycle && (x.strand 3).active && !x.frozen s.cycle && !preempting s c && x.ending.isNone && x.mayIssue s.cycle 3

/-- Issue of a word that passes the gate: at once where the step asks for it and its queue and the words before it let it. -/
def issueGo (c k : Nat) (p : WordSpec) (w : QWord) (y : Core) (s : State) : State :=
  let s := launch c k p w y s
  let x := s.core c
  if s.now && !issueDue s c && ((x.strand k).queue p.engine).isEmpty && startReady x k p.engine w && turnOf c k p.engine s
      && (!p.late || retireReady x k p w) then
    settleNow c k p w (serveRun c k p w s)
  else enqueue c k p.engine w s

/-- A strand has had its turn in this cycle. -/
def turned (c k : Nat) (s : State) : State := s.modCore c (fun x => x.setMark s.cycle (fun m => { m with issued := k + 1 }))

/-- A hint: its slot and its own effect (02 R48, R49). -/
def issueHint (c k : Nat) (p : WordSpec) (w : QWord) (s : State) : State :=
  let s := turned c k (s.modStrand c k (·.slot))
  (p.take c k w s).modStrand c k (fun t => t.advance w.pc none)

/-- The word of the strand that State.cur names issues (01 R26-R29): it stops, is nullified, blocks, or goes. -/
def issueWord (i : Instr) (p : WordSpec) (s : State) : State :=
  let c := s.cur.1
  let k := s.cur.2
  match gate c k i p s with
  | .idle => s
  | .stop t => takeFault c k (t.ofWord (encode i)) (encode i) (s.strand c k).pc none s
  | .skip => turned c k (s.modStrand c k (skipWord p))
  | .block b => s.modStrand c k (fun t => { t with st := .blocked, reason := some b, issueAt := none })
  | .go w y => if p.hint then issueHint c k p w s else issueGo c k p w y s

/-! ### Engine events (01 R27, R31) -/

/-- Engines whose started words are looked at again: Q, W and Y. -/
def polled (e : Engine) : Bool := e = .q || e = .w || e = .y

/-- A started word goes on where it can. A W word stops at a beat boundary while its strand is stopped or its core pre-empted (13 R274). -/
def continueWord (c k : Nat) (e : Engine) (s : State) : State :=
  let x := s.core c
  if !polled e || (e = .w && ((x.strand k).st = .faulted || preempting s c)) then s
  else match ((x.strand k).queue e).find? (fun w => w.phase = .started && w.req = 0) with
    | some w => settleQueued c k e w (serveRun c k (specOf w.i) w s)
    | none => s

/-- The first queued word of an engine queue starts where it may; in a core whose node ends, a start that would wait is withdrawn
(17 R324), and in a pre-empted one nothing new starts (17 R332). A late word acts at its retirement. -/
def startWord (c k : Nat) (e : Engine) (s : State) : State :=
  let x := s.core c
  match ((x.strand k).queue e).find? (fun w => w.phase = .queued) with
  | none => s
  | some w =>
    let p := specOf w.i
    if preempting s c || !(startReady x k e w && turnOf c k e s) then s
    else if p.late then putWord c k e { w with phase := .done } s
      else match serveRun c k p w s with
        | .wait w t => if x.ending.isSome then s else settleQueued c k e w (.wait w t)
        | r => settleQueued c k e w r

/-- ENGINE_WORD_START (01 R27): an engine goes on with what it has begun, and takes the next word of a strand's queue. In a freeze the
engines stand; a DOMSET that is due takes effect at its root all the same (12 R246, R440). -/
def engineStartEv (c k : Nat) (e : Engine) (s : State) : State :=
  if (s.core c).frozen s.cycle then (if e = .y && k = 3 then domsetApply (coreDie c) s else s)
  else if (s.core c).faultAbove s.cycle k then s else startWord c k e (continueWord c k e s)

/-- Words that complete in the very cycle in which they finish (12 R246, R248, R251, R253, 06 R147, 14 R285, R286, R290). -/
def exactRetire : Instr → Bool
  | .barW .. | .red .. | .wfe .. | .mperm .. | .domsetInstall .. | .domsetRemove .. => true
  | i => (regionOf i).isSome

/-- May a BAR.W or RED of X still have to retire in this cycle: it is done and has room, or a verdict of the sync network is due? -/
def exactBefore (s : State) (c : Nat) : Bool :=
  let x := s.core c
  s.sync.any (fun y => y.2.down.any (fun m => decide (m.1 ≤ s.cycle))) || (match (x.strand 3).queue .q with
    | [] => false
    | w :: _ => exactRetire w.i && w.phase = .done && decide (w.at_ ≤ s.cycle) && retireReady x 3 (specOf w.i) w)

/-- May the oldest word of an engine queue retire now (05 R110, R111, R119)? X's W and Y words come after its Q words. -/
def retirable (s : State) (c k : Nat) (e : Engine) : Bool :=
  let x := s.core c
  match (x.strand k).queue e with
  | [] => false
  | w :: _ => !x.frozen s.cycle && !issueDue s c && !x.faultAbove s.cycle k && w.phase = .done && decide (w.at_ ≤ s.cycle)
      && retireReady x k (specOf w.i) w && (exactRetire w.i || x.mayRetire s.cycle k e)
      && !(k = 3 && (e = .w || e = .y) && exactBefore s c)

/-- WORD_RETIRE (01 R31): the oldest word of an engine queue, finished, completes. -/
def retireEv (c k : Nat) (e : Engine) (s : State) : State :=
  let x := s.core c
  match (x.strand k).queue e with
  | [] => s
  | w :: _ =>
    let p := specOf w.i
    if !retirable s c k e then s
    else if p.late then
      match p.body c k w s with
      | .done s res bit => complete c k p w res bit (s.modStrand c k (fun t => t.dropWord e w.seq))
      | .wait _ s => s
      | .begun _ s => s
      | .trap t w s => stopWord c k t w (putWord c k e) id s
    else complete c k p w w.res w.bit (s.modStrand c k (fun t => t.dropWord e w.seq))

/-- ACCUMULATOR_WRITEBACK (06 R130): the oldest started product writes its accumulator. -/
def writebackAccEv (c : Nat) (s : State) : State :=
  let x := s.core c
  if x.frozen s.cycle || x.faultAbove s.cycle 1 then s
  else match ((x.strand 1).queue .m).find? (fun w => w.phase = .started) with
    | none => s
    | some w => match mulOf w.i x.d with
      | none => s
      | some m =>
        settleQueued c 1 .m w (if x.d.regBad.isEmpty then mulWrite c 1 m w s else mendRun c w (mulWrite c 1 m w s))

/-- Does a started word wait for a party outside its core: a cell, an event, a due time? An abort withdraws such a word, as 18 R357
withdraws a waiting cell word (DEDUCED, log entry 3). -/
def outsideWait (s : State) (w : QWord) : Bool :=
  match w.i with
  | .verst .. | .verld .. | .verrcl .. => s.reqs.any (fun q => q.id = w.req && q.since.isSome)
  | .wfe .. | .wut .. | .mperm .. => true
  | .yield .. => w.idx = 1
  | _ => false

/-- Has a stopped core no word left that can go on, and no transfer that has started (01 R33, 08 R203)? -/
def coreDrained (c : Nat) (s : State) : Bool :=
  let x := s.core c
  x.d.xfers.all (fun f => !f.started) && x.strands.all (fun (k, t) =>
    [Engine.x, .l, .m, .v, .q, .w, .y].all (fun e => (t.queue e).all (fun w =>
      match w.phase with
      | .done => !retireReady x k (specOf w.i) w
      | .started => outsideWait s w || e = .w || polled e && w.req = 0 && (match (specOf w.i).body c k w s with
        | .wait _ _ => true
        | _ => false)
      | .queued => preempting s c || !startReady x k e w || (match (specOf w.i).body c k w s with
        | .wait _ _ => true
        | _ => false))))

end Sys2Proof.Machine
end

