-- ==== Sys2Proof/Machine/Fetch.lean ====
section
/-! DEFINITION. Fetching the word at a strand's pc (01 R14, R15, 02 R46 row 1), what a word that is not an instruction does, the
core cycle, and placing a word for the next step. -/

namespace Sys2Proof.Machine

/-- The word at a strand's pc: the strand's own section of code memory, 0x4000 bytes (01 R14). -/
def codeWord (x : Core) (k : Nat) (pc : BitVec 32) : BitVec 32 :=
  let a := k * 0x4000 + pc.toNat
  wordOfBytes (memRead x.code a) (memRead x.code (a + 1)) (memRead x.code (a + 2)) (memRead x.code (a + 3))

/-- What the fetch of a strand comes to: nothing to run, with the state it leaves, or an instruction. -/
inductive Fetched
  | rest (s : State)
  | word (i : Instr)

/-- A word that is not an instruction (02 R46 rows 2 to 6); an unassigned hint is a NOP (R48), as PAUSE 0 is. -/
def rejected (c k : Nat) (w : BitVec 32) (r : Reject) (s : State) : Fetched :=
  let x := s.core c
  let t := x.strand k
  match r with
  | .hint => .word (.pause (hdrOf w) 0 0 0)
  | .unassigned => .rest (takeFault c k (issueTrap 0x01) w t.pc none s)
  | .reserved _ => .rest (takeFault c k ((issueTrap 0x01).ofWord w) w t.pc none s)
  | .operand near => match earlyTrap x k (specOf near) with
    | some e => .rest (takeFault c k (e.ofWord w) w t.pc none s)
    | none =>
      if nullified t (specOf near) then .rest (turned c k (s.modStrand c k (skipWord (specOf near))))
      else .rest (takeFault c k ((issueTrap 0x02).ofWord w) w t.pc none s)

/-- Has the word at the end of the section issued and not yet retired (01 R15)? -/
def lastWordQueued (t : Strand) : Bool := t.words.any (fun w => w.pc = 0x3FFC)

/-- Fetch for a strand's turn: an inactive strand does nothing, nor does any in a freeze (05 R119), from a pre-emption's signal on (17
R332), in a core whose node ends (R326), or when its turn in this cycle is over (01 R26, 05 R110); a paused one waits (02 R49); a pc past
the section traps 0x05 with the word zero once the section's last word has retired (01 R15); an uncorrectable error in the word traps 0x08.
-/
def fetch (c k : Nat) (s : State) : Fetched :=
  let x := s.core c
  let t := x.strand k
  if !(decide (c / 256 < 8 ∧ c / 16 % 16 < 12 ∧ k < 4)) || !t.active || x.frozen s.cycle || preempting s c || x.ending.isSome
      || !x.mayIssue s.cycle k then .rest s
  else if decide (s.cycle < t.pauseEnd) then .rest (s.modStrand c k (fun t => { t with st := .blocked, reason := some .pause }))
  else if t.pc.toNat ≥ 0x4000 then
    if lastWordQueued t then .rest (s.modStrand c k (fun t => { t with st := .blocked, reason := some .hold, issueAt := none }))
    else .rest (takeFault c k (issueTrap 0x05) 0 t.pc none s)
  else
    let w := codeWord x k t.pc
    if x.codeBad.contains (k * 0x1000 + t.pc.toNat / 4) then .rest (takeFault c k (issueTrap 0x08) w t.pc none s)
    else match decode w with
      | .ok i => .word i
      | .error r => rejected c k w r s

/-- Everything that blocks an active strand at the word at its pc; none where that word would issue or stop (01 R29, 05 R122). -/
def strandBlocks (s : State) (c k : Nat) : Option (List Block) :=
  let x := s.core c
  let t := x.strand k
  if decide (s.cycle < t.pauseEnd) then some [.pause]
  else if t.pc.toNat ≥ 0x4000 then (if lastWordQueued t then some [.hold] else none)
  else match decode (codeWord x k t.pc) with
    | .ok i =>
      let p := specOf i
      (match gate c k i p s with
       | .block _ => some (blocksOf x k p ++ srcBlocks k p x ++ (match popSrcs k p x with
         | some (va, vb, vd, _) => lateBlocks c k p (newWord c k i p va vb vd s) s
         | none => []))
       | _ => none)
    | .error _ => none

/-- The strand to which a placed word belongs. -/
def homeStrand (i : Option Instr) : Nat :=
  match i with
  | some i => (specOf i).strands.headD 0
  | none => 0

/-- A core on which the word runs next: strand `k` of core 0 is running at pc 0 with the word there, and every
profile (23 R420). -/
def placeWord (k : Nat) (bytes : List Byte) (x : Core) : Core :=
  { (x.modStrand k (fun t => { t with st := .running, pc := 0 })) with
    code := memWriteN x.code (k * 0x4000) bytes, profile := 7 }

end Sys2Proof.Machine
end

