-- ==== Sys2Proof/Machine/Rename.lean ====
section
/-! DEFINITION. The rewriter's changes to a word (23 R430-R432): scalar registers through the register map, and every strand distance
through the map of strands. -/

namespace Sys2Proof.Machine

/-- How the text of a source strand is rewritten: the strand's number, the target of each strand, the register map, and the object's
profile mask. -/
structure Rename where
  own : Nat
  target : List Nat
  map : List Nat
  mask : Nat

/-- The target of a strand. -/
def Rename.pi (m : Rename) (k : Nat) : Nat := m.target.getD (k % 4) (k % 4)

/-- A strand distance (R430): 0 stays 0. -/
def Rename.far (m : Rename) (n : Nat) : Nat := if n = 0 then 0 else (m.pi (m.own + n) + 4 - m.pi m.own) % 4

/-- A scalar name: s1 to s27 through the map, q1 to q3 as distances (R430, R431). -/
def Rename.reg (m : Rename) (r : BitVec 5) : BitVec 5 :=
  if r = 0 || r = 28 then r
  else if r.toNat < 28 then BitVec.ofNat 5 (m.map.getD r.toNat r.toNat)
  else BitVec.ofNat 5 (28 + m.far (r.toNat - 28))

/-- The strand distance of a token word (R430); a value that the word traps on stays. -/
def Rename.dist (m : Rename) (b : BitVec 5) : BitVec 5 := if 1 ≤ b.toNat ∧ b.toNat ≤ 3 then BitVec.ofNat 5 (m.far b.toNat) else b

/-- The K push and K pop values (R430). -/
def Rename.hdr (m : Rename) (h : Hdr) : Hdr := ⟨BitVec.ofNat 2 (m.far h.push.toNat), BitVec.ofNat 2 (m.far h.pop.toNat)⟩

/-- The rewritten instruction; hint words stay as they are. -/
def Rename.instr (rn : Rename) (i : Instr) : Instr :=
  match i with
  | .addi h d a i => .addi (rn.hdr h) (rn.reg d) (rn.reg a) i
  | .andi h d a i => .andi (rn.hdr h) (rn.reg d) (rn.reg a) i
  | .ori h d a i => .ori (rn.hdr h) (rn.reg d) (rn.reg a) i
  | .xori h d a i => .xori (rn.hdr h) (rn.reg d) (rn.reg a) i
  | .slli h d a i => .slli (rn.hdr h) (rn.reg d) (rn.reg a) i
  | .srli h d a i => .srli (rn.hdr h) (rn.reg d) (rn.reg a) i
  | .srai h d a i => .srai (rn.hdr h) (rn.reg d) (rn.reg a) i
  | .slti h d a i => .slti (rn.hdr h) (rn.reg d) (rn.reg a) i
  | .sltiu h d a i => .sltiu (rn.hdr h) (rn.reg d) (rn.reg a) i
  | .ldxD h d a i => .ldxD (rn.hdr h) (rn.reg d) (rn.reg a) i
  | .ldxW h d a i => .ldxW (rn.hdr h) (rn.reg d) (rn.reg a) i
  | .stxD h d a i => .stxD (rn.hdr h) (rn.reg d) (rn.reg a) i
  | .stxW h d a i => .stxW (rn.hdr h) (rn.reg d) (rn.reg a) i
  | .csrr h d i => .csrr (rn.hdr h) (rn.reg d) i
  | .csrw h a i => .csrw (rn.hdr h) (rn.reg a) i
  | .csrx h d a i => .csrx (rn.hdr h) (rn.reg d) (rn.reg a) i
  | .li h d i => .li (rn.hdr h) (rn.reg d) i
  | .lsh h d i => .lsh (rn.hdr h) (rn.reg d) i
  | .auipc h d i => .auipc (rn.hdr h) (rn.reg d) i
  | .setlc h i => .setlc (rn.hdr h) i
  | .beqz h a f => .beqz (rn.hdr h) (rn.reg a) f
  | .bnez h a f => .bnez (rn.hdr h) (rn.reg a) f
  | .bcq h f => .bcq (rn.hdr h) f
  | .bncq h f => .bncq (rn.hdr h) f
  | .blc h f => .blc (rn.hdr h) f
  | .jal h d f => .jal (rn.hdr h) (rn.reg d) f
  | .add h d a b => .add (rn.hdr h) (rn.reg d) (rn.reg a) (rn.reg b)
  | .sub h d a b => .sub (rn.hdr h) (rn.reg d) (rn.reg a) (rn.reg b)
  | .and h d a b => .and (rn.hdr h) (rn.reg d) (rn.reg a) (rn.reg b)
  | .or h d a b => .or (rn.hdr h) (rn.reg d) (rn.reg a) (rn.reg b)
  | .xor h d a b => .xor (rn.hdr h) (rn.reg d) (rn.reg a) (rn.reg b)
  | .sll h d a b => .sll (rn.hdr h) (rn.reg d) (rn.reg a) (rn.reg b)
  | .srl h d a b => .srl (rn.hdr h) (rn.reg d) (rn.reg a) (rn.reg b)
  | .sra h d a b => .sra (rn.hdr h) (rn.reg d) (rn.reg a) (rn.reg b)
  | .slt h d a b => .slt (rn.hdr h) (rn.reg d) (rn.reg a) (rn.reg b)
  | .sltu h d a b => .sltu (rn.hdr h) (rn.reg d) (rn.reg a) (rn.reg b)
  | .min h d a b => .min (rn.hdr h) (rn.reg d) (rn.reg a) (rn.reg b)
  | .max h d a b => .max (rn.hdr h) (rn.reg d) (rn.reg a) (rn.reg b)
  | .minu h d a b => .minu (rn.hdr h) (rn.reg d) (rn.reg a) (rn.reg b)
  | .maxu h d a b => .maxu (rn.hdr h) (rn.reg d) (rn.reg a) (rn.reg b)
  | .mul h d a b => .mul (rn.hdr h) (rn.reg d) (rn.reg a) (rn.reg b)
  | .mulh h d a b => .mulh (rn.hdr h) (rn.reg d) (rn.reg a) (rn.reg b)
  | .mulhu h d a b => .mulhu (rn.hdr h) (rn.reg d) (rn.reg a) (rn.reg b)
  | .div h d a b => .div (rn.hdr h) (rn.reg d) (rn.reg a) (rn.reg b)
  | .divu h d a b => .divu (rn.hdr h) (rn.reg d) (rn.reg a) (rn.reg b)
  | .rem h d a b => .rem (rn.hdr h) (rn.reg d) (rn.reg a) (rn.reg b)
  | .remu h d a b => .remu (rn.hdr h) (rn.reg d) (rn.reg a) (rn.reg b)
  | .clz h d a => .clz (rn.hdr h) (rn.reg d) (rn.reg a)
  | .ctz h d a => .ctz (rn.hdr h) (rn.reg d) (rn.reg a)
  | .popc h d a => .popc (rn.hdr h) (rn.reg d) (rn.reg a)
  | .sextB h d a => .sextB (rn.hdr h) (rn.reg d) (rn.reg a)
  | .sextH h d a => .sextH (rn.hdr h) (rn.reg d) (rn.reg a)
  | .sextW h d a => .sextW (rn.hdr h) (rn.reg d) (rn.reg a)
  | .zextW h d a => .zextW (rn.hdr h) (rn.reg d) (rn.reg a)
  | .jalr h d a => .jalr (rn.hdr h) (rn.reg d) (rn.reg a)
  | .setlcS h a => .setlcS (rn.hdr h) (rn.reg a)
  | .rdlc h d => .rdlc (rn.hdr h) (rn.reg d)
  | .cmovz h d a b => .cmovz (rn.hdr h) (rn.reg d) (rn.reg a) (rn.reg b)
  | .cmovnz h d a b => .cmovnz (rn.hdr h) (rn.reg d) (rn.reg a) (rn.reg b)
  | .ifq h n => .ifq (rn.hdr h) n
  | .elseq h n => .elseq (rn.hdr h) n
  | .stgStage h n => .stgStage (rn.hdr h) n
  | .loopp h sf l => .loopp (rn.hdr h) sf l
  | .setrb h a => .setrb (rn.hdr h) (rn.reg a)
  | .addSh1 h d a b => .addSh1 (rn.hdr h) (rn.reg d) (rn.reg a) (rn.reg b)
  | .addSh2 h d a b => .addSh2 (rn.hdr h) (rn.reg d) (rn.reg a) (rn.reg b)
  | .addSh3 h d a b => .addSh3 (rn.hdr h) (rn.reg d) (rn.reg a) (rn.reg b)
  | .addSh4 h d a b => .addSh4 (rn.hdr h) (rn.reg d) (rn.reg a) (rn.reg b)
  | .taddr h d a b => .taddr (rn.hdr h) (rn.reg d) (rn.reg a) (rn.reg b)
  | .vadd h d a b k => .vadd (rn.hdr h) d a b k
  | .vsub h d a b k => .vsub (rn.hdr h) d a b k
  | .vmul h d a b k => .vmul (rn.hdr h) d a b k
  | .vfma h d a b k => .vfma (rn.hdr h) d a b k
  | .vfms h d a b k => .vfms (rn.hdr h) d a b k
  | .vmin h d a b k => .vmin (rn.hdr h) d a b k
  | .vmax h d a b k => .vmax (rn.hdr h) d a b k
  | .vabs h d a k => .vabs (rn.hdr h) d a k
  | .vneg h d a k => .vneg (rn.hdr h) d a k
  | .vrcp h d a k => .vrcp (rn.hdr h) d a k
  | .vrsq h d a k => .vrsq (rn.hdr h) d a k
  | .vexp2 h d a k => .vexp2 (rn.hdr h) d a k
  | .vlog2 h d a k => .vlog2 (rn.hdr h) d a k
  | .vand h d a b k => .vand (rn.hdr h) d a b k
  | .vor h d a b k => .vor (rn.hdr h) d a b k
  | .vxor h d a b k => .vxor (rn.hdr h) d a b k
  | .vnot h d a k => .vnot (rn.hdr h) d a k
  | .vshl h d a b k => .vshl (rn.hdr h) d a b k
  | .vshr h d a b k => .vshr (rn.hdr h) d a b k
  | .vsra h d a b k => .vsra (rn.hdr h) d a b k
  | .vshli h d a i k => .vshli (rn.hdr h) d a i k
  | .vshri h d a i k => .vshri (rn.hdr h) d a i k
  | .vcmpEq h d a b k => .vcmpEq (rn.hdr h) d a b k
  | .vcmpNe h d a b k => .vcmpNe (rn.hdr h) d a b k
  | .vcmpLt h d a b k => .vcmpLt (rn.hdr h) d a b k
  | .vcmpLe h d a b k => .vcmpLe (rn.hdr h) d a b k
  | .vcmpUn h d a b k => .vcmpUn (rn.hdr h) d a b k
  | .vcqAny h a k => .vcqAny (rn.hdr h) a k
  | .vcqAll h a k => .vcqAll (rn.hdr h) a k
  | .vsel h d a b k => .vsel (rn.hdr h) d a b k
  | .vmov h d a k => .vmov (rn.hdr h) d a k
  | .vbcast h d a k => .vbcast (rn.hdr h) d (rn.reg a) k
  | .vext h d a b => .vext (rn.hdr h) (rn.reg d) a (rn.reg b)
  | .vins h d a b => .vins (rn.hdr h) d (rn.reg a) (rn.reg b)
  | .viota h d k => .viota (rn.hdr h) d k
  | .vcvt h d a i k => .vcvt (rn.hdr h) d a i k
  | .vpack h d a i => .vpack (rn.hdr h) d a i
  | .vunpack h d a i => .vunpack (rn.hdr h) d a i
  | .vperm h d a b k => .vperm (rn.hdr h) d a b k
  | .vshuf h d a i k => .vshuf (rn.hdr h) d a i k
  | .vslide h d a b k => .vslide (rn.hdr h) d a (rn.reg b) k
  | .vredSum h d a k => .vredSum (rn.hdr h) d a k
  | .vredMin h d a k => .vredMin (rn.hdr h) d a k
  | .vredMax h d a k => .vredMax (rn.hdr h) d a k
  | .vscan h d a k => .vscan (rn.hdr h) d a k
  | .vcompress h d a k => .vcompress (rn.hdr h) d a k
  | .vexpand h d a k => .vexpand (rn.hdr h) d a k
  | .vprune h d a i k => .vprune (rn.hdr h) d a i k
  | .vquant h d a b k => .vquant (rn.hdr h) d a (rn.reg b) k
  | .vscale h d a b k => .vscale (rn.hdr h) d a b k
  | .vdefer h a n hh k => .vdefer (rn.hdr h) a n hh k
  | .vdrain h d n hh k => .vdrain (rn.hdr h) d n hh k
  | .vtype h d a sf => .vtype (rn.hdr h) d a sf
  | .kand h d a b => .kand (rn.hdr h) d a b
  | .kor h d a b => .kor (rn.hdr h) d a b
  | .kxor h d a b => .kxor (rn.hdr h) d a b
  | .knot h d a => .knot (rn.hdr h) d a
  | .kpopc h d a => .kpopc (rn.hdr h) (rn.reg d) a
  | .kfirst h d a => .kfirst (rn.hdr h) (rn.reg d) a
  | .kmov h d a => .kmov (rn.hdr h) d a
  | .vclamp h d a b k => .vclamp (rn.hdr h) d a b k
  | .vdot h d a b k => .vdot (rn.hdr h) d a b k
  | .mma h c a b z m t x y r => .mma (rn.hdr h) c a b z m t x y r
  | .mrun h c a b z m t n r => .mrun (rn.hdr h) c a b z m t n r
  | .mzero h c => .mzero (rn.hdr h) c
  | .mdrain h c y d z => .mdrain (rn.hdr h) c y d z
  | .mdrainV h c y v z => .mdrainV (rn.hdr h) c y v z
  | .mloada h c y v => .mloada (rn.hdr h) c y v
  | .mscale h d v => .mscale (rn.hdr h) d v
  | .mcfg h m a b r => .mcfg (rn.hdr h) m a b r
  | .mlend h b => .mlend (rn.hdr h) b
  | .mret h b => .mret (rn.hdr h) b
  | .mtrans h sf d w => .mtrans (rn.hdr h) sf d w
  | .mchk h c => .mchk (rn.hdr h) c
  | .mprobe h sf d => .mprobe (rn.hdr h) sf (rn.reg d)
  | .mprobeAcc h c d => .mprobeAcc (rn.hdr h) c (rn.reg d)
  | .vld h d a b c z => .vld (rn.hdr h) d (rn.reg a) (rn.reg b) c z
  | .vldS h d a b c hh => .vldS (rn.hdr h) d (rn.reg a) (rn.reg b) c hh
  | .vst h d a b c z => .vst (rn.hdr h) d (rn.reg a) (rn.reg b) c z
  | .vstS h d a b c hh => .vstS (rn.hdr h) d (rn.reg a) (rn.reg b) c hh
  | .mld h d a b c => .mld (rn.hdr h) d (rn.reg a) (rn.reg b) c
  | .mldT h d a b c w => .mldT (rn.hdr h) d (rn.reg a) (rn.reg b) c w
  | .mldU h d c => .mldU (rn.hdr h) d c
  | .mst h d a b c => .mst (rn.hdr h) d (rn.reg a) (rn.reg b) c
  | .vldBm h d a b c n => .vldBm (rn.hdr h) d (rn.reg a) (rn.reg b) c n
  | .vstBm h d a b c n => .vstBm (rn.hdr h) d (rn.reg a) (rn.reg b) c n
  | .cpyIn h d a b c hh => .cpyIn (rn.hdr h) (rn.reg d) (rn.reg a) (rn.reg b) c hh
  | .cpyOut h d a b c hh => .cpyOut (rn.hdr h) (rn.reg d) (rn.reg a) (rn.reg b) c hh
  | .cpyLoc h d a b c hh => .cpyLoc (rn.hdr h) (rn.reg d) (rn.reg a) (rn.reg b) c hh
  | .awf h a hh => .awf (rn.hdr h) (rn.reg a) hh
  | .rls h a hh => .rls (rn.hdr h) (rn.reg a) hh
  | .agCfg h a j g => .agCfg (rn.hdr h) (rn.reg a) j g
  | .winCfg h a b => .winCfg (rn.hdr h) (rn.reg a) (rn.reg b)
  | .fopen h d a n c k => .fopen (rn.hdr h) d (rn.reg a) n c k
  | .fadv h d a b c => .fadv (rn.hdr h) d a (rn.reg b) c
  | .fend h a => .fend (rn.hdr h) a
  | .fclose h a => .fclose (rn.hdr h) a
  | .ldg h d a b e o => .ldg (rn.hdr h) (rn.reg d) (rn.reg a) (rn.reg b) e o
  | .stg h d a b e o => .stg (rn.hdr h) (rn.reg d) (rn.reg a) (rn.reg b) e o
  | .lda h d a b e => .lda (rn.hdr h) (rn.reg d) (rn.reg a) (rn.reg b) e
  | .strl h d a b e => .strl (rn.hdr h) (rn.reg d) (rn.reg a) (rn.reg b) e
  | .fence h e o => .fence (rn.hdr h) e o
  | .amoAdd h d a b e o => .amoAdd (rn.hdr h) (rn.reg d) (rn.reg a) (rn.reg b) e o
  | .amoAnd h d a b e o => .amoAnd (rn.hdr h) (rn.reg d) (rn.reg a) (rn.reg b) e o
  | .amoOr h d a b e o => .amoOr (rn.hdr h) (rn.reg d) (rn.reg a) (rn.reg b) e o
  | .amoXor h d a b e o => .amoXor (rn.hdr h) (rn.reg d) (rn.reg a) (rn.reg b) e o
  | .amoMin h d a b e o => .amoMin (rn.hdr h) (rn.reg d) (rn.reg a) (rn.reg b) e o
  | .amoMax h d a b e o => .amoMax (rn.hdr h) (rn.reg d) (rn.reg a) (rn.reg b) e o
  | .amoMinu h d a b e o => .amoMinu (rn.hdr h) (rn.reg d) (rn.reg a) (rn.reg b) e o
  | .amoMaxu h d a b e o => .amoMaxu (rn.hdr h) (rn.reg d) (rn.reg a) (rn.reg b) e o
  | .amoSwap h d a b e o => .amoSwap (rn.hdr h) (rn.reg d) (rn.reg a) (rn.reg b) e o
  | .amoCas h d a b e o => .amoCas (rn.hdr h) (rn.reg d) (rn.reg a) (rn.reg b) e o
  | .amoFadd h d a b e o => .amoFadd (rn.hdr h) (rn.reg d) (rn.reg a) (rn.reg b) e o
  | .verst h d a b e => .verst (rn.hdr h) (rn.reg d) (rn.reg a) (rn.reg b) e
  | .verld h d a b e => .verld (rn.hdr h) (rn.reg d) (rn.reg a) (rn.reg b) e
  | .verrcl h d a b e => .verrcl (rn.hdr h) (rn.reg d) (rn.reg a) (rn.reg b) e
  | .barW h l => .barW (rn.hdr h) l
  | .barA h l => .barA (rn.hdr h) l
  | .barT h d l => .barT (rn.hdr h) (rn.reg d) l
  | .bcast h a l => .bcast (rn.hdr h) (rn.reg a) l
  | .brecv h d l => .brecv (rn.hdr h) (rn.reg d) l
  | .red h d a b l => .red (rn.hdr h) (rn.reg d) (rn.reg a) b l
  | .evt h l => .evt (rn.hdr h) l
  | .submit h d a b => .submit (rn.hdr h) (rn.reg d) (rn.reg a) (rn.reg b)
  | .mcast h d a b => .mcast (rn.hdr h) (rn.reg d) (rn.reg a) (rn.reg b)
  | .wbr h a b => .wbr (rn.hdr h) (rn.reg a) (rn.reg b)
  | .invr h a b => .invr (rn.hdr h) (rn.reg a) (rn.reg b)
  | .wbwait h d => .wbwait (rn.hdr h) (rn.reg d)
  | .lat h d a b => .lat (rn.hdr h) (rn.reg d) (rn.reg a) (rn.reg b)
  | .ldt h d a b => .ldt (rn.hdr h) (rn.reg d) (rn.reg a) (rn.reg b)
  | .lfold h d a b => .lfold (rn.hdr h) (rn.reg d) (rn.reg a) (rn.reg b)
  | .lfwait h d a => .lfwait (rn.hdr h) (rn.reg d) (rn.reg a)
  | .lgen h d a => .lgen (rn.hdr h) (rn.reg d) (rn.reg a)
  | .tkpush h a b => .tkpush (rn.hdr h) (rn.reg a) (rn.dist b)
  | .tkpop h a b => .tkpop (rn.hdr h) (rn.reg a) (rn.dist b)
  | .tkcnt h d b => .tkcnt (rn.hdr h) (rn.reg d) (rn.dist b)
  | .trap h c => .trap (rn.hdr h) c
  | .tretResume h => .tretResume (rn.hdr h)
  | .tretAbort h => .tretAbort (rn.hdr h)
  | .halt h => .halt (rn.hdr h)
  | .yield h d => .yield (rn.hdr h) (rn.reg d)
  | .wfe h => .wfe (rn.hdr h)
  | .wut h a => .wut (rn.hdr h) (rn.reg a)
  | .rdtime h d sf => .rdtime (rn.hdr h) (rn.reg d) sf
  | .mperm h d a => .mperm (rn.hdr h) (rn.reg d) (rn.reg a)
  | .rdst h d a c => .rdst (rn.hdr h) (rn.reg d) (rn.reg a) c
  | .wrst h d a c => .wrst (rn.hdr h) (rn.reg d) (rn.reg a) c
  | .ctxSave h d a c => .ctxSave (rn.hdr h) (rn.reg d) (rn.reg a) c
  | .ctxLoad h d a c => .ctxLoad (rn.hdr h) (rn.reg d) (rn.reg a) c
  | .domsetInstall h d a => .domsetInstall (rn.hdr h) (rn.reg d) (rn.reg a)
  | .domsetRemove h d a => .domsetRemove (rn.hdr h) (rn.reg d) (rn.reg a)
  | .hmsetQuiesce h d a m => .hmsetQuiesce (rn.hdr h) (rn.reg d) (rn.reg a) m
  | .hmsetSwitch h d a m => .hmsetSwitch (rn.hdr h) (rn.reg d) (rn.reg a) m
  | .hmsetResume h d a m => .hmsetResume (rn.hdr h) (rn.reg d) (rn.reg a) m
  | .rgload h d a g => .rgload (rn.hdr h) (rn.reg d) (rn.reg a) g
  | .rgswapHot h d g => .rgswapHot (rn.hdr h) (rn.reg d) g
  | .rgswapNow h d g => .rgswapNow (rn.hdr h) (rn.reg d) g
  | .rgfreezeFreeze h d g => .rgfreezeFreeze (rn.hdr h) (rn.reg d) g
  | .rgfreezeThaw h d g => .rgfreezeThaw (rn.hdr h) (rn.reg d) g
  | .rgreadSave h d a g => .rgreadSave (rn.hdr h) (rn.reg d) (rn.reg a) g
  | .rgreadFetch h d a x g => .rgreadFetch (rn.hdr h) (rn.reg d) (rn.reg a) x g
  | .rgreadRestore h d x g => .rgreadRestore (rn.hdr h) (rn.reg d) x g
  | .rgreadStatus h d g => .rgreadStatus (rn.hdr h) (rn.reg d) g
  | .rgclk h d c g => .rgclk (rn.hdr h) (rn.reg d) c g
  | .wout h t v e n => .wout (rn.hdr h) t v e n
  | .win h t v c n => .win (rn.hdr h) t v c n
  | .weos h t => .weos (rn.hdr h) t
  | .wtest h t r n => .wtest (rn.hdr h) t r n
  | .wstat h t d r c => .wstat (rn.hdr h) t (rn.reg d) r c
  | .wdrainIn h t => .wdrainIn (rn.hdr h) t
  | .wdrainOut h t => .wdrainOut (rn.hdr h) t
  | i => i

/-- Is a word one of a profile that the mask does not hold (R420)? It counts as unassigned. -/
def Rename.lacks (m : Rename) (w : BitVec 32) : Bool :=
  match (fld w 29 3).toNat with
  | 2 => !m.mask.testBit 1
  | 3 => !m.mask.testBit 0
  | 5 => !m.mask.testBit 2
  | _ => false

/-- The rewritten word (R430). A word without an assigned opcode stays as it is; one with a set reserved bit, or an operand code that its
own rule traps, keeps those bits. -/
def Rename.word (m : Rename) (w : BitVec 32) : BitVec 32 :=
  if m.lacks w then w else match decode w with
  | .ok i => if (m.instr i).isWord && fld w 29 3 ≠ 7 then encode (m.instr i) else w
  | .error (.reserved i) | .error (.operand i) => encode (m.instr i) ||| (w &&& ~~~ encode i)
  | .error _ => w

end Sys2Proof.Machine
end

