-- ==== Sys2Proof/Machine/Loader.lean ====
section
/-! DEFINITION. Code objects (23 R421-R434): the loader's checks and its relocations, and the text that the rewriter writes. -/

namespace Sys2Proof.Machine

/-- A failed step: its reason, and the offset of the failing item (R427, R428). -/
abbrev LoadRes (α : Type) := Except (Nat × Nat) α

/-- The little-endian number of `n` bytes at an offset of the object. -/
def objNat (b : List Byte) (off n : Nat) : Nat := leNat ((b.drop off).take n)

/-- Require a condition of a step. -/
def need (reason off : Nat) (c : Bool) : LoadRes Unit := if c then .ok () else .error (reason, off)

/-- The object's header (R421). -/
structure ObjHeader where
  mask : Nat
  nsec : Nat
  nnode : Nat
  secOff : Nat
  nodeOff : Nat
  noteOff : Nat
  noteLen : Nat
  tdmOff : Nat
  total : Nat
  deriving DecidableEq, Repr

def objHeader (b : List Byte) : ObjHeader :=
  { mask := objNat b 6 1, nsec := objNat b 8 2, nnode := objNat b 10 2, secOff := objNat b 16 4, nodeOff := objNat b 24 4
    noteOff := objNat b 32 4, noteLen := objNat b 36 4, tdmOff := objNat b 40 4, total := objNat b 48 4 }

/-- Step 2: magic, version, zero bytes and lengths. -/
def headerOk (b : List Byte) : Bool :=
  let h := objHeader b
  objNat b 0 4 = 0x31464F43 && objNat b 4 2 = 1 && objNat b 12 4 = 0
  && objNat b 20 4 = 0 && objNat b 28 4 = 0 && objNat b 44 4 = 0 && objNat b 52 4 = 0 && objNat b 57 7 = 0
  && decide (1 ≤ h.nsec ∧ h.nsec ≤ 255) && decide (h.nnode ≤ 4096)
  && h.secOff % 32 = 0 && h.nodeOff % 64 = 0 && h.noteOff % 8 = 0 && h.tdmOff % 8 = 0
  && (h.nodeOff = 0) == (h.nnode = 0)
  && decide (64 ≤ h.total) && decide (h.secOff + 32 * h.nsec ≤ h.total) && decide (h.nodeOff + 96 * h.nnode ≤ h.total)
  && decide (h.noteOff + h.noteLen ≤ h.total) && (h.tdmOff = 0 || decide (h.tdmOff + 288 ≤ h.total))

/-- A section entry (R422). -/
structure Section where
  type : Nat
  strand : Nat
  map : Nat
  off : Nat
  size : Nat
  base : Nat
  align : Nat
  deriving DecidableEq, Repr

def objSection (b : List Byte) (h : ObjHeader) (i : Nat) : Section :=
  let o := h.secOff + 32 * i
  { type := objNat b o 1, strand := objNat b (o + 1) 1, map := objNat b (o + 2) 2, off := objNat b (o + 8) 8, size := objNat b (o + 16) 4
    base := objNat b (o + 20) 4, align := objNat b (o + 24) 1 }

def objSections (b : List Byte) (h : ObjHeader) : List Section := (List.range h.nsec).map (objSection b h)

def Section.isCode (x : Section) : Bool := decide (1 ≤ x.type ∧ x.type ≤ 4)

/-- One section entry's own rules. -/
def sectionOk (b : List Byte) (h : ObjHeader) (i : Nat) : Bool :=
  let x := objSection b h i
  let o := h.secOff + 32 * i
  decide (1 ≤ x.type ∧ x.type ≤ 8) && objNat b (o + 4) 4 = 0 && objNat b (o + 25) 7 = 0
  && decide (x.align ≤ 12) && x.off % 2 ^ x.align = 0 && decide (x.off + x.size ≤ h.total)
  && (if x.isCode then decide (x.strand ≤ 3) && decide (x.size ≤ 0x4000) && x.size % 4 = 0 else x.strand = 0 && x.map = 0)
  && (if x.type = 5 then decide (x.base + x.size ≤ 0x80000) else x.base = 0)

/-- Do two ranges share a byte? -/
def rangesShare (a n b m : Nat) : Bool := decide (a < b + m ∧ b < a + n ∧ n ≠ 0 ∧ m ≠ 0)

/-- Two sections together. -/
def sectionPairOk (x y : Section) : Bool :=
  !rangesShare x.off x.size y.off y.size
  && !(x.isCode && y.isCode && (x.type = y.type || x.strand = y.strand))
  && !(x.type = 5 && y.type = 5 && rangesShare x.base x.size y.base y.size)

/-- A code section's register map (R431): the identity where it names none. -/
def objMap (b : List Byte) (x : Section) : List Nat :=
  if x.map = 0 then List.range 28 else (List.range 28).map (fun n => objNat b (x.map + n) 1)

/-- A register map's conditions (R431, R432). -/
def mapOk (b : List Byte) (h : ObjHeader) (x : Section) : Bool :=
  let m := objMap b x
  x.map = 0 || (x.map % 4 = 0 && decide (x.map + 28 ≤ h.total) && m.headD 0 = 0
    && (m.drop 1).all (fun n => decide (1 ≤ n ∧ n ≤ 27)) && (m.eraseDups).length = 28
    && (List.range 12).any (fun k => (List.range 12).all (fun j => m.getD (16 + j) 0 = 16 + (j + k) % 12)))

/-- Step 4: every section alone, then every pair, then the maps. -/
def sectionsOk (b : List Byte) (h : ObjHeader) : LoadRes Unit := do
  let l := List.range h.nsec
  let _ ← l.mapM (fun i => need 3 (h.secOff + 32 * i) (sectionOk b h i))
  let _ ← l.mapM (fun i => need 3 (h.secOff + 32 * i) ((List.range i).all (fun j => sectionPairOk (objSection b h j) (objSection b h i))))
  .ok ()
def mapsOk (b : List Byte) (h : ObjHeader) : LoadRes Unit := do
  let _ ← (List.range h.nsec).mapM (fun i => need 10 (objSection b h i).map (!(objSection b h i).isCode || mapOk b h (objSection b h i)))
  .ok ()

/-- The register maps that an object's code sections name, where they lie inside it. -/
def objMaps (b : List Byte) (h : ObjHeader) : List (Nat × Nat) :=
  ((objSections b h).filter (fun x => x.isCode && x.map ≠ 0 && decide (x.map + 28 ≤ h.total))).map (fun x => (x.map, 28))

/-- An entry offset of a record's offsets word. -/
def entryOf (w k : Nat) : Nat := bits w (14 * k + 13) (14 * k)

/-- Step 5 (R424): offsets inside the section of their target strand, or 0x3FFF. -/
def nodesOk (b : List Byte) (h : ObjHeader) : LoadRes Unit := do
  let _ ← (List.range h.nnode).mapM (fun i =>
    let o := h.nodeOff + 96 * i
    let w := objNat b o 8
    need 5 o (w / 2 ^ 56 = 0 && ((b.drop (o + 8)).take 24).all (· = 0) && (List.range 4).all (fun k =>
      entryOf w k = 0x3FFF || (entryOf w k % 4 = 0 && (objSections b h).any (fun x => x.isCode && x.strand = k && decide (entryOf w k < x.size))))))
  .ok ()

/-- One note (R426): the offset of the next, and whether it is reported. -/
def noteOk (b : List Byte) (stop o : Nat) : LoadRes (Nat × Bool) := do
  let w := objNat b o 8
  let type := bits w 15 0
  let flags := bits w 17 16
  let n := bits w 31 24
  let v := objNat b (o + 8) 8
  need 7 o (decide (o + 8 + 8 * n ≤ stop) && bits w 23 18 = 0 && bits w 63 32 = 0 && flags ≠ 3)
  need 7 o (type ≠ 2 || n = 0 || (decide (bits v 7 0 ≤ 2) && decide (bits v 15 8 ≤ 2) && decide (bits v 23 16 ≤ 1) && bits v 63 24 = 0))
  need 7 o (type = 1 || type = 2 || flags ≠ 2)
  .ok (o + 8 + 8 * n, type ≠ 1 && type ≠ 2 && flags = 0)

/-- Step 6 (R426): the notes from an offset to the end of their area. -/
def notesOk (b : List Byte) (stop : Nat) : Nat → Nat → LoadRes Unit
  | 0, _ => .ok ()
  | f + 1, o =>
    if o ≥ stop then .ok ()
    else do
      let r ← noteOk b stop o
      notesOk b stop f r.1

/-- Was a note raised: one that is skipped and reported, ahead of the first that fails (R426, R427)? -/
def noteRaised (b : List Byte) (stop : Nat) : Nat → Nat → Bool
  | 0, _ => false
  | f + 1, o =>
    if o ≥ stop then false
    else match noteOk b stop o with
      | .error _ => false
      | .ok r => r.2 || noteRaised b stop f r.1

/-- The injection masks of the object: twelve bytes for each station, in station order. -/
def objTable (b : List Byte) (h : ObjHeader) : Table (BitVec 96) :=
  if h.tdmOff = 0 then []
  else (List.range 24).filterMap (fun j =>
    let m := BitVec.ofNat 96 (objNat b (h.tdmOff + 12 * j) 12)
    if m = 0 then none else some (j, m))

/-- Step 7 (10 R211). -/
def tdmOk (b : List Byte) (h : ObjHeader) : Bool :=
  let t := objTable b h
  t.all (fun m => decide (m.1 < 21)) && tablesFit [t]

/-! ### Step 8: the dataflow form (R433, R434) -/

structure FlowEdge where
  src : Nat
  dst : Nat
  p : Nat
  c : Nat
  d : Nat
  b : Nat
  deriving DecidableEq, Repr

/-- One firing of an actor: each input edge loses c tokens, then each output edge gains p; none if an edge leaves its bounds. -/
def fire (es : List FlowEdge) (a : Nat) (t : List Nat) : Option (List Nat) :=
  let u := List.zipWith (fun (e : FlowEdge) n => if e.dst = a then (if n < e.c then none else some (n - e.c)) else some n) es t
  if u.any (·.isNone) then none
  else
    let v := List.zipWith (fun (e : FlowEdge) n => if e.src = a then n + e.p else n) es (u.map (·.getD 0))
    if (List.zipWith (fun (e : FlowEdge) n => decide (n ≤ e.b)) es v).all id then some v else none

/-- Spread the lowest label over each connected component. -/
def labels (es : List FlowEdge) : Nat → List Nat → List Nat
  | 0, l => l
  | n + 1, l => labels es n (es.foldl (fun l e =>
      let m := Nat.min (l.getD e.src 0) (l.getD e.dst 0)
      (l.set e.src m).set e.dst m) l)

def flowOk (b : List Byte) (h : ObjHeader) (x : Section) : Bool :=
  let w := objNat b x.off 8
  let na := bits w 7 0
  let ne := bits w 23 8
  let nf := bits w 47 32
  let actors := (List.range na).map (fun i => objNat b (x.off + 8 + 8 * i) 8)
  let eo := x.off + 8 + 8 * na
  let es := (List.range ne).map (fun i =>
    let o := eo + 16 * i
    ({ src := objNat b o 1, dst := objNat b (o + 1) 1, p := objNat b (o + 2) 2, c := objNat b (o + 4) 2, d := objNat b (o + 8) 4
       b := objNat b (o + 12) 4 } : FlowEdge))
  let sched := (List.range nf).map (fun i => objNat b (eo + 16 * ne + i) 1)
  let fires := (List.range na).map (fun a => (sched.filter (· = a)).length)
  let lab := labels es na (List.range na)
  decide (1 ≤ na ∧ na ≤ 64) && decide (ne ≤ 256) && decide (1 ≤ nf) && bits w 31 24 = 0 && bits w 63 48 = 0
  && decide (8 + 8 * na + 16 * ne + nf ≤ x.size) && actors.all (fun n => decide (n < h.nnode))
  && es.all (fun e => decide (e.src < na ∧ e.dst < na ∧ 1 ≤ e.p ∧ e.p ≤ 4096 ∧ 1 ≤ e.c ∧ e.c ≤ 4096 ∧ e.d ≤ e.b))
  && (List.range ne).all (fun i => objNat b (eo + 16 * i + 6) 2 = 0)
  && sched.all (fun a => decide (a < na))
  && es.all (fun e => fires.getD e.src 0 * e.p = fires.getD e.dst 0 * e.c)
  && (List.range na).all (fun r => ((List.range na).filter (fun a => lab.getD a 0 = r)).isEmpty ||
      ((List.range na).filter (fun a => lab.getD a 0 = r)).foldl (fun g a => Nat.gcd g (fires.getD a 0)) 0 = 1)
  && fires.all (fun n => decide (1 ≤ n))
  && sched.foldl (fun t a => t.bind (fire es a)) (some (es.map (·.d))) == some (es.map (·.d))

/-! ### Step 9: relocations (R423) -/

/-- A relocation: the site's section (none: the node table), its offset in the object, and the value. -/
structure Reloc where
  site : Option Nat
  off : Nat
  value : Word
  deriving DecidableEq, Repr

/-- The relocations of a section, checked. -/
def relocsOf (b : List Byte) (h : ObjHeader) (object : Nat) (x : Section) : LoadRes (List Reloc) :=
  (List.range (x.size / 16)).mapM (fun i => do
    let o := x.off + 16 * i
    let w := objNat b o 8
    let si := bits w 7 0
    let yi := bits w 15 8
    let so := bits w 63 32
    let site := objSection b h si
    let sym := objSection b h yi
    need 4 o (bits w 31 16 = 0 && so % 8 = 0 && decide (yi < h.nsec) && sym.type = 6
      && (if si = 0xFF then decide (so + 8 ≤ 96 * h.nnode)
          else decide (si < h.nsec) && (site.type = 5 || site.type = 6) && decide (so + 8 ≤ site.size)))
    .ok { site := if si = 0xFF then none else some si
          off := (if si = 0xFF then h.nodeOff else site.off) + so
          value := word (object + sym.off) + word (objNat b (o + 8) 8) })

def relocations (b : List Byte) (h : ObjHeader) (object : Nat) : LoadRes (List Reloc) := do
  let l ← (objSections b h).mapM (fun x =>
    if x.type = 7 then (do
      need 4 x.off (x.size % 16 = 0)
      relocsOf b h object x)
    else .ok [])
  .ok l.flatten

/-- Is a relocation's site a scratch section, patched as the section is written to scratch (R428, R429)? -/
def Reloc.inScratch (b : List Byte) (h : ObjHeader) (r : Reloc) : Bool :=
  match r.site with
  | some i => (objSection b h i).type = 5
  | none => false

/-! ### Reading an object, part by part -/

/-- Read a range of virtual memory. -/
def objRead (s : State) (q : Access) (a n : Nat) : SumRes (List Byte) := virtRead s q (n / 65536 + 2) a n

/-- Bytes laid over a byte string from an offset on; a gap is zero. -/
def overlay (b : List Byte) (off : Nat) (bs : List Byte) : List Byte :=
  (b ++ List.replicate (off - b.length) 0).take off ++ bs ++ b.drop (off + bs.length)

/-- Read one part of an object, an offset and a length, into a copy of it. -/
def objPart (s : State) (q : Access) (object : Nat) (b : List Byte) (p : Nat × Nat) : SumRes (List Byte) :=
  if p.2 = 0 then .ok b
  else do
    let r ← objRead s q (object + p.1) p.2
    .ok (overlay b p.1 r)

def objParts (s : State) (q : Access) (object : Nat) (ps : List (Nat × Nat)) (b : List Byte) : SumRes (List Byte) :=
  ps.foldlM (objPart s q object) b

/-- The place of the section table. -/
def ObjHeader.table (h : ObjHeader) : Nat × Nat := (h.secOff, 32 * h.nsec)

/-- Read an object's header and section table, and then the parts that they name. -/
def objWith (s : State) (q : Access) (object : Nat) (parts : List Byte → ObjHeader → List (Nat × Nat)) : SumRes (List Byte) := do
  let b ← objParts s q object [(0, 64)] []
  let b ← objParts s q object [(objHeader b).table] b
  objParts s q object (parts b (objHeader b)) b

/-- Ask the host and the peers for parts of an object that lie with them. -/
def askParts (q : Access) (object : Nat) (ps : List (Nat × Nat)) (s : State) : State :=
  ps.foldl (fun s p => askRange q (p.2 / 65536 + 2) (object + p.1) p.2 s) s

/-- Ask for what a read of an object needs next. -/
def askObject (q : Access) (object : Nat) (parts : List Byte → ObjHeader → List (Nat × Nat)) (s : State) : State :=
  match objParts s q object [(0, 64)] [] with
  | .error _ => askParts q object [(0, 64)] s
  | .ok b => match objParts s q object [(objHeader b).table] b with
    | .error _ => askParts q object [(objHeader b).table] s
    | .ok b => askParts q object (parts b (objHeader b)) s

/-! ### The load block (R427, R428): the loader translates in context 0, in supervisor mode -/

def loaderAccess : Access := { ctx := 0, sup := true }

/-- The loader of a die, as a reader. -/
def loaderOf (d : Nat) : Access := { loaderAccess with own := [4, d] }

/-- A step of a load: it waits (none), or fails with a reason and the offset of the failing item. -/
abbrev LoadRun (α : Type) := Except (Option (Nat × Nat)) α

/-- A check as a step. -/
def loadStep {α : Type} (r : LoadRes α) : LoadRun α :=
  match r with
  | .ok x => .ok x
  | .error e => .error (some e)

/-- Read parts of the object, one after the other: reason 9 at the part that fails. -/
def loadRead (s : State) (q : Access) (a : Nat) : List (Nat × Nat) → List Byte → LoadRun (List Byte)
  | [], b => .ok b
  | p :: ps, b =>
    match objPart s q a b p with
    | .ok b => loadRead s q a ps b
    | .error none => .error none
    | .error (some _) => .error (some (9, p.1))

/-- The sections of some types. -/
def objOfType (b : List Byte) (h : ObjHeader) (p : Nat → Bool) : List (Nat × Nat) :=
  ((objSections b h).filter (fun x => p x.type)).map (fun x => (x.off, x.size))

/-- Steps 2 to 5 (R428), each on what it reads. The device has the three profiles (01 R12); a set bit of the mask field above them names one
that it lacks. -/
def loadHead (s : State) (q : Access) (a : Nat) : LoadRun (List Byte) := do
  let b ← loadRead s q a [(0, 64)] []
  let h := objHeader b
  loadStep (need 1 0 (headerOk (b.take 56 ++ [0] ++ b.drop 57)))
  loadStep (need 2 6 (objNat b 6 2 / 8 = 0))
  let b ← loadRead s q a [h.table] b
  loadStep (sectionsOk b h)
  let b ← loadRead s q a (objMaps b h) b
  loadStep (mapsOk b h)
  let b ← loadRead s q a [(h.nodeOff, 96 * h.nnode)] b
  loadStep (nodesOk b h)
  .ok b

/-- The note area. -/
def ObjHeader.notes (h : ObjHeader) : Nat × Nat := (h.noteOff, h.noteLen)

/-- Was a note raised (R426, R427)? -/
def objNote (b : List Byte) : Bool :=
  let h := objHeader b
  noteRaised b (h.noteOff + h.noteLen) (h.noteLen / 8 + 1) h.noteOff

/-- Steps 6 to 9 (R428), once the notes are read: the relocations to apply. -/
def loadTail (s : State) (q : Access) (a : Nat) (b : List Byte) : LoadRun (List Reloc) := do
  let h := objHeader b
  loadStep (notesOk b (h.noteOff + h.noteLen) (h.noteLen / 8 + 1) h.noteOff)
  let b ← loadRead s q a [(h.tdmOff, if h.tdmOff = 0 then 0 else 288)] b
  loadStep (need 6 h.tdmOff (tdmOk b h))
  let b ← (objSections b h).foldlM (fun b x => if x.type ≠ 8 then .ok b else do
    let b ← loadRead s q a [(x.off, x.size)] b
    loadStep (need 8 x.off (flowOk b h x))
    .ok b) b
  let b ← loadRead s q a (objOfType b h (· = 7)) b
  let l ← loadStep (relocations b h a)
  .ok (l.filter (fun x => !x.inScratch b h))

/-- The end of a load: its reason, note and offset; go falls. -/
def endLoad (d reason : Nat) (note : Bool) (off : Nat) (s : State) : State :=
  (dropAsks (loaderOf d).own s).modDie d (fun y => { y with crown := { y.crown with
    ldGo := false, ldRun := false, ldReason := BitVec.ofNat 8 reason, ldNote := note, ldOff := BitVec.ofNat 32 off } })

/-- Write the load stamp. -/
def putStamp (d v : Nat) (s : State) : SumRes State :=
  virtWrite s loaderAccess ((s.die d).crown.ldObj.toNat + 56) (leBytes 8 v)

/-- LOAD_GO (R427, R428 step 1): a write of go by the physical function, and the swap of the stamp's 8 bytes from 0 to 2. -/
def loadGoEv (d : Nat) (s : State) : State :=
  let s := s.modDie d (fun y => { y with crown := { y.crown with ldGo := true } })
  if (s.die d).crown.ldRun then s
  else match objRead s (loaderOf d) ((s.die d).crown.ldObj.toNat + 56) 8 with
    | .error none => askParts (loaderOf d) (s.die d).crown.ldObj.toNat [(56, 8)] s
    | .error (some _) => endLoad d 9 false 0 s
    | .ok b =>
      if leNat b ≠ 0 then endLoad d 11 false 0 s
      else match putStamp d 2 s with
        | .error none => s
        | .error (some _) => endLoad d 9 false 0 s
        | .ok s => (dropAsks (loaderOf d).own s).modDie d (fun y => { y with crown := { y.crown with ldRun := true } })

/-- A failed load leaves the stamp at 0, and reports a note that it has raised (R426, R427). -/
def failLoad (d reason : Nat) (note : Bool) (off : Nat) (s : State) : State :=
  match putStamp d 0 s with
  | .ok s => endLoad d reason note off s
  | .error _ => endLoad d reason note off s

/-- Apply relocations to global data and node records. -/
def applyRelocs (object : Nat) (l : List Reloc) (s : State) : SumRes State :=
  l.foldlM (fun s r => virtWrite s loaderAccess (object + r.off) (leBytes 8 r.value.toNat)) s

/-- What names an object's text in a code memory: the object's physical address. -/
def objTag (s : State) (q : Access) (object : Nat) : Option Word :=
  match translate s q object with
  | .ok pa _ _ => some (word pa)
  | .fail _ => none

/-- An object that has been loaded anew: no code memory counts as holding its text (R429). -/
def forgetText (tag : Option Word) (s : State) : State :=
  if tag.isSome && s.cores.any (fun x => x.2.textTag = tag) then
    { s with cores := s.cores.map (fun x => (x.1, if x.2.textTag = tag then { x.2 with textTag := none } else x.2)) }
  else s

/-- The parts that a load reads besides header and section table. -/
def loadParts (b : List Byte) (h : ObjHeader) : List (Nat × Nat) :=
  objMaps b h ++ [(h.nodeOff, 96 * h.nnode), h.notes, (h.tdmOff, if h.tdmOff = 0 then 0 else 288)] ++ objOfType b h (fun n => n = 7 || n = 8)

/-- LOAD_COMPLETE (R428): steps 2 to 10. -/
def loadCompleteEv (d : Nat) (s : State) : State :=
  let a := (s.die d).crown.ldObj.toNat
  let q := loaderOf d
  if !(s.die d).crown.ldRun then s
  else match loadHead s q a with
    | .error none => askObject q a loadParts s
    | .error (some e) => failLoad d e.1 false e.2 s
    | .ok b => match loadRead s q a [(objHeader b).notes] b with
      | .error none => askObject q a loadParts s
      | .error (some e) => failLoad d e.1 false e.2 s
      | .ok b => match loadTail s q a b with
        | .error none => askObject q a loadParts s
        | .error (some e) => failLoad d e.1 (objNote b) e.2 s
        | .ok l => match applyRelocs a l s with
          | .error none => s
          | .error (some _) => failLoad d 9 (objNote b) 0 s
          | .ok v => match putStamp d 1 v with
            | .error none => s
            | .error (some _) => failLoad d 9 (objNote b) 0 s
            | .ok t => forgetText (objTag s q a) (endLoad d 0 (objNote b) 0 t)

/-! ### The rewriter (R429-R432) -/

/-- The targets of the four strands (R430). -/
def strandTargets (l : List Section) : List Nat :=
  (List.range 4).map (fun k => match l.find? (fun x => x.type = k + 1) with
    | some x => x.strand
    | none => k)

/-- The words of a byte string. -/
def rewriteBytes (rn : Rename) : Nat → List Byte → List Byte
  | 0, _ => []
  | n + 1, b => leBytes 4 (rn.word (BitVec.ofNat 32 (leNat (b.take 4)))).toNat ++ rewriteBytes rn n (b.drop 4)

/-- The code memory that an object's text fills: bytes that it does not supply are zero (02 R47). -/
def objText (b : List Byte) (h : ObjHeader) : Memory :=
  let l := objSections b h
  (l.filter (·.isCode)).foldl (fun m x =>
    memWriteN m (x.strand * 0x4000) (rewriteBytes ⟨x.type - 1, strandTargets l, objMap b x, h.mask⟩ (x.size / 4) ((b.drop x.off).take x.size))) []

/-- The register map of a target strand, for the argument words (R431). -/
def argMap (b : List Byte) (h : ObjHeader) (k : Nat) : List Nat :=
  match (objSections b h).find? (fun x => x.isCode && x.strand = k) with
  | some x => objMap b x
  | none => List.range 28

/-- A scratch section's bytes, relocated (R429). -/
def scratchBytes (b : List Byte) (l : List Reloc) (i : Nat) (x : Section) : List Byte :=
  let c := (b.drop x.off).take x.size
  l.foldl (fun c r => if r.site = some i then c.take (r.off - x.off) ++ leBytes 8 r.value.toNat ++ c.drop (r.off - x.off + 8) else c) c

/-- The parts of an object that its text comes from, and those that its scratch sections come from (R429). -/
def codeParts (b : List Byte) (h : ObjHeader) : List (Nat × Nat) := objOfType b h (fun n => decide (1 ≤ n ∧ n ≤ 4)) ++ objMaps b h
def scratchParts (b : List Byte) (h : ObjHeader) : List (Nat × Nat) := objOfType b h (fun n => n = 5 || n = 7)

/-- Write an object's scratch sections into a core. -/
def writeScratch (b : List Byte) (h : ObjHeader) (object : Nat) (x : CoreData) : CoreData :=
  match relocations b h object with
  | .error _ => x
  | .ok l => ((objSections b h).mapIdx (fun i y => (i, y))).foldl (fun x p =>
      if p.2.type = 5 then x.scrWrite p.2.base (scratchBytes b l p.1 p.2) else x) x

end Sys2Proof.Machine
end

