-- ==== Sys2Proof/Machine/Packets.lean ====
section
/-! DEFINITION. Work queues and their packets (16 R296-R309, R317): acceptance, the start of launches, the central copy engine, and
completion records with their interrupts (22 R408). A queue table names a descriptor by its physical address; the addresses in it and in
packets are virtual in the queue's partition context. -/

namespace Sys2Proof.Machine

/-! ### Descriptors (R296, R297) -/

/-- A queue's descriptor as it stands in memory. -/
structure QueueDesc where
  pa : Nat
  ring : Nat
  wi : Nat
  stamp : Nat
  comp : Nat
  cri : Nat
  size : Nat
  prio : Nat
  ctx : BitVec 16
  deriving DecidableEq, Repr

/-- The descriptor's address of a queue-table entry. -/
def descAddr (e : Word) : Nat := wbits e 47 6 * 64

def readDesc (s : State) (pa : Nat) : QueueDesc :=
  { pa := pa, ring := s.memNat pa 8 % 2 ^ 48, wi := s.memNat (pa + 8) 8, stamp := s.memNat (pa + 16) 8, comp := s.memNat (pa + 24) 8 % 2 ^ 48
    cri := s.memNat (pa + 32) 8, size := queueSize (s.memNat (pa + 40) 1), prio := s.memNat (pa + 41) 1 % 4
    ctx := BitVec.ofNat 16 (s.memNat (pa + 42) 2) }

/-- Is a descriptor valid (R297)? -/
def descOk (s : State) (pa : Nat) : Bool :=
  let l := s.memNat (pa + 40) 1
  let base := fun (o : Nat) => s.memNat (pa + o) 8 % 64 = 0 && s.memNat (pa + o) 8 / 2 ^ 48 = 0
  decide (4 ≤ l ∧ l ≤ 16) && base 0 && base 24 && s.memNat (pa + 41) 1 / 4 = 0 && s.memNat (pa + 44) 20 = 0

/-- How the crown reaches a queue's ring and records. -/
def QueueDesc.access (q : QueueDesc) : Access := { ctx := q.ctx, sup := true }

def Packet.kind (p : Packet) : Nat := wbits p.header 55 48
/-- A packet's queue: the descriptor that its entry named when it was accepted. -/
def Packet.queue (p : Packet) : Nat := descAddr p.tab
/-- How what a packet's work reads, or writes to the host or to a peer, is noted (R301). -/
def Packet.own (p : Packet) (d : Nat) : List Nat := [1, d, p.id]
def Packet.strict (p : Packet) : Bool := p.header.getLsbD 58
def Packet.fence (p : Packet) : Bool := p.header.getLsbD 57
def Packet.irq (p : Packet) : Bool := p.header.getLsbD 56
def Packet.isCopy (p : Packet) : Bool := decide (1 ≤ p.kind ∧ p.kind ≤ 4)
/-- A field of the packet, counted from its header. -/
def Packet.field (p : Packet) (off n : Nat) : Nat := leNat ((p.body.drop (off - 8)).take n)

/-- Update the packet of a number of its die. -/
def modPacket (d id : Nat) (f : Packet → Packet) (s : State) : State :=
  s.modDie d (fun x => { x with packets := x.packets.map (fun p => if p.id = id then f p else p) })

/-! ### Launches (R310) -/

def parseNode (prio : Nat) (b : List Byte) : Node :=
  let k := objNat b 0 1
  { kind := match k % 8 with | 0 => .seq | 1 => .pipe | 2 => .stream | 3 => .tile | _ => .weave
    replay := k.testBit 3, own := if k.testBit 6 then bits k 5 4 else prio, parent := objNat b 2 2, first := objNat b 4 2, count := objNat b 6 2
    done := word (objNat b 8 8), arg := word (objNat b 16 8), entries := word (objNat b 24 8), tiles := BitVec.ofNat 32 (objNat b 32 4)
    die := objNat b 36 1, regions := BitVec.ofNat 4 (objNat b 37 1), clusters := BitVec.ofNat 12 (objNat b 38 2)
    cores := BitVec.ofNat 16 (objNat b 40 2), opAddr := word (objNat b 48 8), opTarget := word (objNat b 56 8) }

/-- A record's own rules. -/
def recordOk (b : List Byte) : Bool :=
  decide (objNat b 0 1 % 8 ≤ 4) && objNat b 0 1 / 128 = 0 && objNat b 1 1 = 0 && objNat b 8 1 % 8 = 0 && objNat b 31 1 = 0
  && decide (objNat b 36 1 < 8) && decide (objNat b 37 1 < 16) && decide (objNat b 38 2 < 4096) && zeroBytes b 42 48
  && (decide (objNat b 0 1 % 8 ≤ 2) || (objNat b 4 2 = 0 && objNat b 6 2 = 0))

/-- The graph as a whole. -/
def graphOk (l : List Node) : Bool :=
  let g : Launch := { nodes := l }
  let inRange := fun (c : Node) i => !c.kind.leaf && decide (c.first ≤ i ∧ i < c.first + c.count)
  (l.mapIdx (fun i n => (i, n))).all (fun x =>
    (x.2.kind.leaf || decide (x.2.first + x.2.count ≤ l.length))
    && (if x.1 = 0 then x.2.parent = 0xFFFF && !l.any (fun c => inRange c 0)
        else decide (x.2.parent < l.length) && inRange (g.node x.2.parent) x.1 && (l.filter (fun c => inRange c x.1)).length = 1)
    && !inRange x.2 x.1
    && (g.ancestors g.depth x.1).all (fun a => !inRange x.2 a)
    && (g.ancestors g.depth x.1).length ≠ g.depth)

/-- The result of a packet. -/
def endPacket (d id : Nat) (code : BitVec 8) (bad : Bool) (s : State) : State :=
  modPacket d id (fun p => if p.result.isNone then { p with result := some (code, bad), begun := true } else p) s

/-- A LAUNCH starts: its flags, graph and node records are read and checked (R310, R455); its leaves that may start become ready. -/
def startLaunch (d : Nat) (p : Packet) (s : State) : State :=
  let q : Access := { ctx := p.ctx, sup := p.field 20 4 % 2 = 1, own := p.own d }
  let fail := fun (e : BitVec 8) => endPacket d p.id e true (dropAsks q.own s)
  let prio := (readDesc s p.queue).prio
  let count := p.field 16 2
  let graph := p.field 8 8
  if q.sup && !p.tab.getLsbD 1 then fail 0x17
  else if count = 0 || graph % 64 ≠ 0 || decide (p.field 48 8 > 2 ^ 24) then fail 0x02
  else if !rangeReady s (partAddr s p.ctx) 64 then s
  else if rangeLost s (partAddr s p.ctx) 64 || s.poisoned (partAddr s p.ctx) 64 then fail 0x08
  else if !partOk s p.ctx then fail 0x02
  else if graph ≥ 2 ^ 48 then fail 0x04
  else match objRead s q graph (64 * count) with
    | .error none => askParts q graph [(0, 64 * count)] s
    | .error (some e) => fail e
    | .ok b =>
      let recs := (List.range count).map (fun i => (b.drop (64 * i)).take 64)
      let nodes := recs.map (parseNode prio)
      if !recs.all recordOk || !graphOk nodes then fail 0x02
      else
        let stamp := s.launchNext + 1
        let l : Launch := {
          entry := p.entry, stamp := word stamp, seqno := BitVec.ofNat 48 (wbits p.header 47 0), ctx := p.ctx, sup := q.sup, graph := word graph
          object := word (p.field 24 8), faultArea := word (p.field 32 8), poolBase := word (p.field 40 8), poolLen := p.field 48 8
          prio := prio, nodes := nodes }
        let s := { dropAsks q.own s with launchNext := stamp }
        let s := s.modDie d (fun x => { x with launches := x.launches ++ [l] })
        let s := modPacket d p.id (fun p => { p with launch := some stamp, begun := true }) s
        finishLaunch d stamp (wake d (settle d stamp s))

/-! ### The central copy engine (R303-R309) -/

/-- Are a copy packet's operands within their limits (R303)? -/
def copyOk (p : Packet) : Bool :=
  if p.kind = 1 then decide (p.field 24 8 ≤ 2 ^ 40)
  else
    p.field 16 8 % 4 = 0 && decide (p.field 24 4 ≤ 2 ^ 24) && p.field 28 4 % 32 = 0 && decide (32 ≤ p.field 28 4 ∧ p.field 28 4 ≤ 65536)
    && (if p.kind = 4 then (p.field 44 1 = 4 || p.field 44 1 = 7 || p.field 44 1 = 9) && decide (p.field 45 1 ≤ 3)
        else p.field 44 1 = 0 && p.field 45 1 = 0)

/-- The rows of a copy packet; COPY moves its bytes in rows of 256. -/
def Packet.rowBytes (p : Packet) : Nat := if p.kind = 1 then 256 else p.field 28 4
def Packet.rows (p : Packet) : Nat := if p.kind = 1 then (p.field 24 8 + 255) / 256 else p.field 24 4

/-- How a copy packet reaches memory (R303): in the queue's partition context, in user mode. -/
def Packet.access (p : Packet) (d : Nat) : Access := { ctx := p.ctx, sup := false, own := p.own d }

/-- Merge the private copies of the host's SCATTER.ADD packet that a die runs (R309). -/
def mergeHost (d : Nat) (ctx : BitVec 16) (s : State) : State :=
  let mine := fun (x : ScatterCopy) => x.issuer = 0xFFFF && x.ctx = ctx
  (((s.die d).scatter.filter mine).foldl (fun s x => mergeCopy x s) s).modDie d (fun x => { x with scatter := x.scatter.filter (fun y => !mine y) })

/-- A copy packet ends; a host's private additions are merged then (R309), and rows that it scattered bar lower issuers (R308). -/
def endCopy (d : Nat) (p : Packet) (code : BitVec 8) (bad : Bool) (s : State) : State :=
  let s := endPacket d p.id code bad (dropAsks (p.own d) s)
  let s := if p.kind = 4 && p.issuer = 0xFFFF then mergeHost d p.ctx s else s
  if p.kind ≠ 3 then s
  else { s with dies := s.dies.map (fun x => (x.1, { x.2 with packets := x.2.packets.map (fun r =>
    if r.kind = 3 && r.begun && r.result.isNone && r.row ≠ 0 && decide (r.issuer.toNat < p.issuer.toNat) then { r with barred := r.barred ++ p.wrote } else r) })) }

/-- The physical address of a virtual one. -/
def physOf (s : State) (q : Access) (va : Nat) : Option Nat :=
  match translate s q va with
  | .ok pa _ _ => some pa
  | .fail _ => none

/-- May a SCATTER write a row: no overlapping packet of a higher issuer has (R308)? -/
def mayScatter (s : State) (p : Packet) (row : Nat) : Bool :=
  !p.barred.contains row && s.dies.all (fun x => x.2.packets.all (fun r =>
    !(r.kind = 3 && r.begun && r.result.isNone && decide (p.issuer.toNat < r.issuer.toNat) && r.wrote.contains row)))

/-- Add a row to its issuer's private copy (R309): each piece starts at zero. -/
def addCopy (d : Nat) (p : Packet) (pa : Nat) (bs : List Byte) (s : State) : State :=
  let mine := fun (x : ScatterCopy) => x.issuer = p.issuer.toNat && x.level = p.field 45 1 && x.type = p.field 44 1 && x.ctx = p.ctx
  let t := p.field 44 1
  let put := fun (x : ScatterCopy) =>
    if x.rows.any (fun r => r.1 = pa && r.2.length = bs.length) then
      { x with rows := x.rows.map (fun r => if r.1 = pa && r.2.length = bs.length then (pa, addElems t r.2 bs) else r) }
    else { x with rows := x.rows ++ [(pa, addElems t (List.replicate bs.length 0) bs)] }
  s.modDie d (fun x =>
    if x.scatter.any mine then { x with scatter := x.scatter.map (fun y => if mine y then put y else y) }
    else { x with scatter := x.scatter ++ [put { issuer := p.issuer.toNat, level := p.field 45 1, type := t, ctx := p.ctx, rows := [] }] })

/-- Row `j` of a copy packet: where it moves, or that nothing moves. -/
def moveRow (d : Nat) (p : Packet) (s : State) : SumRes State := do
  let q := p.access d
  let n := p.rowBytes
  let j := p.row
  let va := fun (base off : Nat) => (base + off) % 2 ^ 64
  let done := fun (s : State) => modPacket d p.id (fun p => { p with row := j + 1 }) (dropAsks q.own s)
  let far := fun (a n : Nat) => if a + n > 2 ^ 48 then (Except.error (some 0x04) : SumRes Unit) else .ok ()
  if p.kind = 1 then
    let m := Nat.min n (p.field 24 8 - 256 * j)
    far (va (p.field 8 8) (256 * j)) m
    far (va (p.field 16 8) (256 * j)) m
    let b ← objRead s q (va (p.field 8 8) (256 * j)) m
    let s ← virtWrite s q (va (p.field 16 8) (256 * j)) b
    .ok (done s)
  else
    far (va (p.field 16 8) (4 * j)) 4
    let ix ← objRead s q (va (p.field 16 8) (4 * j)) 4
    let i := leNat ix
    let row := va (p.field 8 8) (i * n)
    let dense := va (p.field 32 8) (j * n)
    if i = 0xFFFFFFFF then .ok (done s)
    else if i ≥ p.field 40 4 then
      if p.strict then .error (some 0x11)
      else
        let s := modPacket d p.id (fun p => { p with oob := true }) s
        if p.kind = 2 then
          far dense n
          let s ← virtWrite s q dense (List.replicate n 0)
          .ok (done s)
        else .ok (done s)
    else
      far row n
      far dense n
      if p.kind = 2 then
        let b ← objRead s q row n
        let s ← virtWrite s q dense b
        .ok (done s)
      else
        let b ← objRead s q dense n
        let ps ← virtPieces s q (n / 65536 + 2) row n
        if p.kind = 4 then
          .ok (done (ps.foldl (fun (a : State × List Byte) x => (addCopy d p x.1 (a.2.take x.2) a.1, a.2.drop x.2)) (s, b)).1)
        else
          let key := (physOf s { q with write := true } row).getD 0
          if mayScatter s p key then
            let s ← virtWrite s q row b
            .ok (modPacket d p.id (fun p => { p with wrote := key :: p.wrote }) (done s))
          else .ok (done s)

/-- The ranges that row `j` reads, as far as its index is known: what lies with the host or a peer is asked for. -/
def rowReads (s : State) (d : Nat) (p : Packet) : List (Nat × Nat) :=
  let va := fun (base off : Nat) => (base + off) % 2 ^ 64
  let j := p.row
  if p.kind = 1 then [(va (p.field 8 8) (256 * j), Nat.min 256 (p.field 24 8 - 256 * j))]
  else (va (p.field 16 8) (4 * j), 4) :: (match objRead s (p.access d) (va (p.field 16 8) (4 * j)) 4 with
    | .ok ix => [if p.kind = 2 then (va (p.field 8 8) (leNat ix * p.rowBytes), p.rowBytes) else (va (p.field 32 8) (j * p.rowBytes), p.rowBytes)]
    | .error _ => [])

/-- How many packets the central copy engine of a die has begun and not ended (R304). -/
def copiesBegun (x : Die) : Nat := (x.packets.filter (fun p => p.isCopy && p.begun && p.result.isNone)).length

/-- The packets that the central copy engine of a die runs: up to four, in acceptance order (R304). -/
def runningCopies (x : Die) : List Packet := (x.packets.filter (fun p => p.isCopy && p.begun && p.result.isNone)).take 4

/-! ### Acceptance and records (R300, R301) -/

/-- Is every earlier packet of the queue past its record, as a fence asks (R298)? -/
def fenceOk (x : Die) (p : Packet) : Bool :=
  !p.fence || ((x.packets.find? (fun r => r.queue = p.queue)).map (·.id)) = some p.id

/-- Does a SCATTER.ADD wait for an earlier one of its issuer: they run in acceptance order (R309)? -/
def addWaits (x : Die) (p : Packet) : Bool :=
  p.kind = 4 && (x.packets.takeWhile (fun r => r.id ≠ p.id)).any (fun r => r.kind = 4 && r.issuer = p.issuer && r.result.isNone)

/-- A packet starts; a copy packet, once the engine has room for it. -/
def startPacket (d : Nat) (p : Packet) (s : State) : State :=
  if p.begun || p.result.isSome || !fenceOk (s.die d) p then s
  else if !packetOk (leBytes 8 p.header.toNat ++ p.body) then endPacket d p.id 0x02 true s
  else if p.kind = 0 then endPacket d p.id 0 false s
  else if p.kind = 0x10 then startLaunch d p s
  else if !copyOk p then endPacket d p.id 0x02 true s
  else
    if p.rows = 0 then endPacket d p.id 0 false s
    else if copiesBegun (s.die d) ≥ 4 || addWaits (s.die d) p then s
    else modPacket d p.id (fun p => { p with begun := true }) s

/-- Every packet that may start does, in acceptance order. -/
def startPackets (d : Nat) (s : State) : State := (s.die d).packets.foldl (fun s p => startPacket d p s) s

/-- COPY_PACKET_ROW (R304-R309): the next row of one of them; a fault ends the packet at that row. A packet that ends makes room for the
next. -/
def copyRowEv (d k : Nat) (s : State) : State :=
  match (runningCopies (s.die d))[k]? with
  | none => s
  | some p =>
    if p.row ≥ p.rows then startPackets d (endCopy d p 0 false s)
    else match moveRow d p s with
      | .error none => askParts (p.access d) 0 (rowReads s d p) s
      | .error (some e) => startPackets d (endCopy d p e true s)
      | .ok s =>
        if p.row + 1 < p.rows then s
        else match (s.die d).packets.find? (fun r => r.id = p.id) with
          | some r => startPackets d (endCopy d r 0 false s)
          | none => s

/-- How the crown reads the slots of an entry's ring. -/
def QueueDesc.reads (q : QueueDesc) (d e : Nat) : Access := { q.access with own := [5, d, e] }

/-- The slot that the crown examines next in an entry's queue, if a producer has claimed it and there is room for its record (R300). -/
def nextSlot (q : QueueDesc) : Option Nat :=
  if q.wi ≤ q.stamp || decide ((q.stamp + 2 ^ 64 - q.cri) % 2 ^ 64 ≥ q.size) then none else some (q.ring + 64 * (q.stamp % q.size))

/-- Does a slot's header publish the next packet (R300)? -/
def published (q : QueueDesc) (b : List Byte) : Bool :=
  let hd := word (leNat (b.take 8))
  hd.getLsbD 63 && wbits hd 47 0 = q.stamp % 2 ^ 48

/-- The header's word with its valid bit 0. -/
def unpublished (b : List Byte) : List Byte := leBytes 8 (wbits (word (leNat (b.take 8))) 62 0)

/-- Can the crown accept a packet of an entry now (R300)? -/
def canAccept (s : State) (d e : Nat) : Bool :=
  let tab := tget 0 (s.die d).qtab e
  let pa := descAddr tab
  let q := readDesc s pa
  tab.getLsbD 0 && rangeReady s pa 64 && descOk s pa && (match nextSlot q with
    | none => false
    | some slot => (match objRead s (q.reads d e) slot 64 with
      | .ok b => published q b && (match virtWrite s q.access slot (unpublished b) with
        | .ok _ => true
        | .error _ => false)
      | .error _ => false))

/-- Is it an entry's turn: the crown's scan goes through the entries in ascending order (R297), from the first on, or from where it stopped?
-/
def scanTurn (s : State) (d e : Nat) : Bool :=
  let x := s.die d
  let skips := fun (k : Nat) => decide ((k + 64 - x.scanAt) % 64 < (e + 64 - x.scanAt) % 64)
  !(List.range e).any (canAccept s d) || !((List.range 64).filter skips).any (canAccept s d)

/-- PACKET_ACCEPT (R300): the next published packet of a queue, at most one each cycle, in the order of the scan; an invalid descriptor
makes the entry inactive, with code 0x02 in readback (R297). A slot that cannot be read, or whose header cannot be written, keeps its packet
unaccepted (log entry 15). -/
def acceptEv (d e : Nat) (s : State) : State :=
  let tab := tget 0 (s.die d).qtab e
  let pa := descAddr tab
  let s := startPackets d s
  if !tab.getLsbD 0 || decide (s.cycle < (s.die d).acceptNext) || !rangeReady s pa 64 then s
  else if !descOk s pa then
    s.modDie d (fun x => { x with qtab := tput x.qtab e (tab &&& ~~~1#64), qcode := tput x.qcode e 0x02 })
  else
    let q := readDesc s pa
    match nextSlot q with
    | none => s
    | some slot => match objRead s (q.reads d e) slot 64 with
      | .error none => askParts (q.reads d e) slot [(0, 64)] s
      | .error (some _) => dropAsks (q.reads d e).own s
      | .ok b =>
        if !published q b then dropAsks (q.reads d e).own s
        else if !scanTurn s d e then s
        else match virtWrite (dropAsks (q.reads d e).own s) q.access slot (unpublished b) with
          | .error _ => s
          | .ok s =>
            let s := writeBytes s (pa + 16) (leBytes 8 (q.stamp + 1))
            let p : Packet := {
              id := (s.die d).packetNext, tab := tab, entry := e, n := word q.stamp, header := word (leNat (unpublished b)), body := b.drop 8
              accepted := s.cycle, issuer := BitVec.ofNat 16 (leNat ((b.drop 46).take 2)), ctx := q.ctx }
            startPackets d (s.modDie d (fun x => { x with
              packets := x.packets ++ [p], packetNext := x.packetNext + 1, acceptNext := s.cycle + 1, scanAt := (e + 1) % 64 }))

/-- A message-signalled interrupt (22 R408): sent, or held pending while its vector is masked. A vector is named by its port, function and
number. -/
def sendMsix (vec : Nat) (s : State) : State :=
  { s with pkg := if s.pkg.msixOpen.contains vec then { s.pkg with msixSent := s.pkg.msixSent ++ [vec] }
    else { s.pkg with msixPend := if s.pkg.msixPend.contains vec then s.pkg.msixPend else s.pkg.msixPend ++ [vec] } }

/-- The record of a packet (R301). -/
def recordBytes (p : Packet) (cycle : Nat) : List Byte :=
  let r := p.result.getD (0, false)
  leBytes 8 (r.1.toNat * 2 ^ 56 + (if p.oob then 2 ^ 51 else 0) + (if r.2 then 2 else 1) * 2 ^ 48 + p.n.toNat % 2 ^ 48)
  ++ leBytes 8 (cycle - p.accepted)

/-- The vector of a packet's queue: as its entry names it now, if that is still the queue's (22 R408). -/
def packetVector (x : Die) (d : Nat) (p : Packet) : Nat :=
  let now := tget 0 x.qtab p.entry
  let tab := if descAddr now = p.queue then now else p.tab
  (Config.hostPort d % 2 * 32 + wbits tab 52 48) * 2048 + wbits tab 63 53

/-- The packet of an entry whose record comes next: it has ended, and is the oldest of its queue (R301). -/
def nextRecord (x : Die) (e : Nat) : Option Packet :=
  x.packets.find? (fun p => p.entry = e && p.result.isSome && ((x.packets.find? (fun r => r.queue = p.queue)).map (·.id)) = some p.id)

/-- What a packet and its launch have sent to the host and to peers (R301): none of it waits for an acknowledgement, or what the record waits
for. -/
def packetOwns (d : Nat) (p : Packet) : List (List Nat) := p.own d :: (match p.launch with
  | some n => [[2, n]]
  | none => [])

/-- A packet has its record, and is gone with its launch. -/
def dropPacket (d : Nat) (p : Packet) (s : State) : State :=
  s.modDie d (fun x => { x with
    packets := x.packets.filter (fun r => !(r.id = p.id))
    launches := x.launches.filter (fun l => !(some l.stamp.toNat = p.launch)) })

/-- COMPLETION_RECORD_WRITE (R301): the next record of an entry is written, as a release at system scope, to the completion ring of the
packet's own queue; its packet leaves; then its interrupt, and the crown looks at the operand words again (R311). -/
def recordEv (d e : Nat) (s : State) : State :=
  match nextRecord (s.die d) e with
  | none => s
  | some p =>
    if !(packetOwns d p).all (peersDone s) then s
    else if !(packetOwns d p).all (hostDone s) then
      (packetOwns d p).foldl (fun s o => if hostDone s o then s else flushHost p.ctx o s) s
    else
      let q := readDesc s p.queue
      match virtWrite s { q.access with ctx := p.ctx } (q.comp + 16 * (p.n.toNat % q.size)) (recordBytes p s.cycle) with
      | .error none => s
      | .error (some _) => wake d (startPackets d (dropPacket d p s))
      | .ok s =>
        let vec := packetVector (s.die d) d p
        let s := dropPacket d p s
        let s := if p.irq then sendMsix vec s else s
        wake d (startPackets d s)

end Sys2Proof.Machine
end

