-- ==== Sys2Proof/Machine/Rings.lean ====
section
/-! DEFINITION. The rings and what rides them (10 R207-R221, R454): injection, delivery and refusal, the bridges, home slices that
take requests from their queues (R223, R233, 18 R356, R357), misses and translations (10 R222, 18 R344, R349), write-backs (10 R230),
and folds (19 R373). -/

namespace Sys2Proof.Machine

/-! ### Stations (R207, R221): rings 0 to 95 are the clusters', 96 to 103 the dies' -/

/-- The frame cycle (R208). -/
def frameCycle (s : State) : Nat := s.cycle % 96

/-- The slot at a station now (R208). -/
def slotAt (s : State) (st : Nat) : Nat := (frameCycle s + 24 - st % 24) % 24

/-- The first link of a package in the peer table (22 R412). -/
def peerLink (s : State) (id : BitVec 20) : Nat :=
  match (List.range 192).find? (fun i => (tget 0 s.pkg.peer i).getLsbD 32 && decide (wbits (tget 0 s.pkg.peer i) 19 0 = id.toNat)) with
  | some i => wbits (tget 0 s.pkg.peer i) 24 20
  | none => 0

/-- The die in which an item ends, or leaves the package: a link's endpoint is on its own die (22 R410). -/
def itemDie (s : State) (it : Item) : Nat := if it.pkg = s.pkg.devId then it.die else peerLink s it.pkg / 4

/-- The port by which a die's flits to another die leave: the one of the package ring on which the way is shorter (22 R409). -/
def uciePort (a d : Nat) : Nat :=
  let n := (d + 8 - a) % 8
  if n < 4 then 13 else if n = 4 then (if Config.ucieTie a d then 13 else 14) else 14

/-- The stops between two dies. -/
def ucieHops (a d : Nat) : Nat := Nat.min ((d + 8 - a) % 8) ((a + 8 - d) % 8)

/-- Does an item leave a ring at a station: its own station, a bridge, a UCIe port, or the stream-link endpoint? -/
def goesTo (s : State) (r st : Nat) (it : Item) : Bool :=
  if r < 96 then st = (if it.pkg = s.pkg.devId && it.die = r / 12 && it.cluster = r % 12 then it.station else 20)
  else
    let d := itemDie s it
    st = (if d ≠ r - 96 then uciePort (r - 96) d else if it.pkg ≠ s.pkg.devId then 16 else it.cluster)

/-- Do two items belong to one source and destination (R216)? -/
def samePair (a b : Item) : Bool :=
  a.src = b.src && a.pkg = b.pkg && a.die = b.die && a.cluster = b.cluster && a.station = b.station

/-- May an item leave its queue: it entered in an earlier cycle (R217, R454), and its home is chosen (11 R236)? -/
def Item.rides (it : Item) (cyc : Nat) : Bool := decide (it.at_ < cyc) && it.station ≠ 31

/-- Up to `n` items of a queue that R216 lets go in cycle `cyc`, in order, and those that stay. -/
def takeFlits (riding : List Item) (cyc : Nat) : Nat → List Item → List Item → List Item × List Item
  | _, _, [] => ([], [])
  | 0, _, l => ([], l)
  | n + 1, held, it :: l =>
    if !it.rides cyc || riding.any (samePair it) || held.any (samePair it) then
      let r := takeFlits riding cyc (n + 1) (held ++ [it]) l
      (r.1, it :: r.2)
    else
      let r := takeFlits riding cyc n held l
      (it :: r.1, r.2)

/-- The core at a station of a cluster ring. -/
def stationCore (r st : Nat) : Nat := r / 12 * 256 + r % 12 * 16 + st

/-- The queue that a station injects from, and putting back what stays. Slices answer without flits: a response needs no slot here. -/
def sourceQueue (s : State) (r st : Nat) : List Item :=
  if r < 96 then
    (if st < 16 then (s.core (stationCore r st)).inj
     else if st = 20 then tget [] (s.ring (96 + r / 12)).bridge (r % 12) else [])
  else if st < 12 then tget [] (s.ring ((r - 96) * 12 + st)).bridge 20
  else if st = 13 || st = 14 then (s.ucie.filter (fun x => x.2.1 = r - 96 && x.1 % 2 = st - 13)).map (·.2.2)
  else if st = 16 then tget [] (s.ring r).bridge 16
  else []

/-- The entries of a die's incoming port whose items stay. -/
def keepRest (d port : Nat) : List (Nat × Nat × Item) → List Item → List (Nat × Nat × Item)
  | [], _ => []
  | x :: r, l =>
    if x.2.1 ≠ d || x.1 % 2 ≠ port then x :: keepRest d port r l
    else match l with
      | [] => keepRest d port r []
      | i :: m => if x.2.2 = i then x :: keepRest d port r m else keepRest d port r (i :: m)

/-- The items `l` stay in a station's queue, and `out` ride: entries of a core that they hold are counted (R217). -/
def setSourceQueue (r st : Nat) (l out : List Item) (s : State) : State :=
  if r < 96 then
    (if st < 16 then s.modCore (stationCore r st) (fun x => { x with inj := l, injRide := x.injRide + out.length })
     else s.modRing (96 + r / 12) (fun x => { x with bridge := tput x.bridge (r % 12) l }))
  else if st < 12 then s.modRing ((r - 96) * 12 + st) (fun x => { x with bridge := tput x.bridge 20 l })
  else if st = 16 then s.modRing r (fun x => { x with bridge := tput x.bridge 16 l })
  else { s with ucie := keepRest (r - 96) (st - 13) s.ucie l }

/-- The pairs of slot and frame cycle that the tables installed on a ring occupy. Die rings have none. -/
def ringOcc (s : State) (r : Nat) : List (Nat × Nat) :=
  if r < 96 then (clusterTables s (r / 12) (r % 12)).flatMap (fun t => tableOcc t.2) else []

/-- Is the slot that a station has now claimed by it (R210)? -/
def slotClaimed (s : State) (r st : Nat) : Bool :=
  r < 96 && (clusterTables s (r / 12) (r % 12)).any (fun t => (tget 0 t.2 st).getLsbD (frameCycle s))

/-- Has a station claims in the tables installed on its ring? -/
def hasClaims (s : State) (r st : Nat) : Bool :=
  r < 96 && (clusterTables s (r / 12) (r % 12)).any (fun t => tget 0 t.2 st ≠ 0)

/-- May a station use the slot that it has now: its own claim, or an open slot (R210, R213)? A station that has claims takes its claimed
slots only (R235, log entry 72). -/
def slotUsable (s : State) (r st : Nat) : Bool :=
  slotClaimed s r st || (!hasClaims s r st &&
    let o := ringOcc s r
    (List.range 24).all (fun i => !o.contains (slotAt s st, (frameCycle s + i) % 96)))

/-- The flits that a station would put into the slot before it, and those that would stay: none unless the slot arrives empty (R210,
R213). A frozen core injects nothing (05 R119). -/
def injectable (s : State) (r st : Nat) : List Item × List Item :=
  let x := s.ring r
  let y := tget {} x.slots (slotAt s st)
  let q := sourceQueue s r st
  if q.isEmpty || !y.items.isEmpty || y.left = s.cycle + 1 || !slotUsable s r st
      || (r < 96 && decide (st < 16) && (s.core (stationCore r st)).frozen s.cycle) then ([], q)
  else takeFlits (x.slots.flatMap (fun y => y.2.items)) s.cycle 8 [] q

/-- FLIT_INJECT (R210, R213, R216, R217): up to 8 flits of a station enter the slot before it. -/
def injectEv (r st : Nat) (s : State) : State :=
  let t := injectable s r st
  if t.1.isEmpty then s
  else setSourceQueue r st t.2 t.1
    (s.modRing r (fun x => { x with slots := tput x.slots (slotAt s st) { at_ := s.cycle, items := t.1 } }))

/-- Is there a claimed slot that its station can fill now (R213: the timing of claimed slots depends on the receivers alone)? -/
def claimDue (s : State) : Bool :=
  s.dies.any (fun d => d.2.tables.any (fun t => t.2.2.any (fun m =>
    m.2.getLsbD (frameCycle s) && !(injectable s (d.1 * 12 + t.1) m.1).1.isEmpty)))

/-! ### Delivery (R214, R215) -/

/-- A core takes a message: it runs a dispatched node of the sender's launch and is not pre-empted (R217, R218, 12 R257), and has room. A
message from another package (launch 0) needs a running node. -/
def coreAccepts (x : Core) (it : Item) : Bool :=
  x.node.isSome && !x.preempt && (List.range 4).any (fun k => (x.strand k).st ≠ .idle) && (it.launch = 0 || x.launchId = it.launch) && decide (x.recv.length < 32)

/-- Is an item a message or a multicast copy? Its payload. -/
def Item.payload (it : Item) : Option Word :=
  match it.body with
  | .msg v _ => some v
  | .mcast v _ => some v
  | .req _ => none

/-- Would the station take the item now? -/
def accepts (s : State) (r st : Nat) (it : Item) : Bool :=
  if r < 96 then
    if st < 16 then coreAccepts (s.core (stationCore r st)) it && !issueDue s (stationCore r st)
    else if st < 20 then decide ((s.slice (r / 12) (r % 12 * 4 + (st - 16))).queue.length < 64)
    else decide ((tget [] (s.ring r).bridge 20).length < 64)
  else if st < 12 then decide ((tget [] (s.ring r).bridge st).length < 64)
  else if st = 16 then decide (((s.link (peerLink s it.pkg)).wait.filter (fun m => m.1 = 2)).length < 64)
  else decide ((s.ucie.filter (fun x => x.1 = 2 * (r - 96) + (st - 13))).length < 64)

/-- Update a core as it runs node `node` of launch `launch` - 1: the live core, or the context saved for that node. -/
def modContext (c launch node : Nat) (f : Core → Core) (s : State) : State :=
  let here := match (s.core c).node with
    | some r => r.launch + 1 = launch && r.node = node
    | none => false
  if here then s.modCore c f
  else { s with dies := s.dies.map (fun d => (d.1, { d.2 with launches := d.2.launches.map (fun l =>
    if l.stamp.toNat + 1 = launch then { l with nodes := l.nodes.mapIdx (fun i n =>
      if i = node then { n with saved := n.saved.map (fun y => if y.1 = c then (y.1, f y.2) else y) } else n) } else l) })) }

/-- An entry of a sender's buffer is free, and a multicast of the sending node counts a copy (R217, R219). -/
def freeSender (c launch node : Nat) (mc : Bool) (s : State) : State :=
  let s := s.modCore c (fun x => { x with injRide := x.injRide - 1 })
  if mc then modContext c launch node (fun x => { x with mcOut := x.mcOut - 1 }) s else s

/-- Is a flit one of a multicast's? -/
def Item.isMcast (it : Item) : Bool :=
  match it.body with
  | .mcast _ _ => true
  | _ => false

/-- The source of a flit that came over a link from a core of another package. -/
def linkSource (link core : Nat) : Nat := 65536 * (link + 1) + core

/-- A flit is accepted at its destination: its sender's entry is free (R217, R219); one from another package is answered over its link. -/
def freeEntry (it : Item) (s : State) : State :=
  if it.src < 65536 then freeSender it.src it.launch it.node it.isMcast s
  else s.modLink (it.src / 65536 - 1) (·.put 2 (.accepted (it.src % 65536) (it.node / 65536) (it.node % 65536) it.isMcast))

/-- The station takes the item. -/
def accept (r st : Nat) (it : Item) (s : State) : State :=
  let here := { it with at_ := s.cycle }
  if r < 96 then
    if st < 16 then
      match it.payload with
      | some v => freeEntry it (s.modCore (stationCore r st) (fun x =>
          ({ x with recv := x.recv ++ [v] } : Core).setMark s.cycle (fun m => { m with closed := true })))
      | none => freeEntry it s
    else if st < 20 then freeEntry it (s.modSlice (r / 12) (r % 12 * 4 + (st - 16)) (fun x => { x with queue := x.queue ++ [here] }))
    else s.modRing r (fun x => { x with bridge := tput x.bridge 20 (tget [] x.bridge 20 ++ [here]) })
  else if st < 12 then s.modRing r (fun x => { x with bridge := tput x.bridge st (tget [] x.bridge st ++ [here]) })
  else if st = 16 then
    match it.payload, it.body with
    | some v, .msg _ t | some v, .mcast _ t => s.modLink (peerLink s it.pkg)
        (·.put 2 (.message (it.die * 256 + it.cluster * 16 + it.station) v t it.src it.launch it.node it.isMcast))
    | _, _ => freeEntry it s
  else
    let d := itemDie s it
    { s with ucie := s.ucie ++ [(2 * (r - 96) + (st - 13), d, { it with at_ := s.cycle + 32 * ucieHops (r - 96) d })] }

/-- Offer a slot's items to a station, in slot order; once one of a pair is refused, the later ones are not offered (R216). -/
def offerItems (r st : Nat) : List Item → List Item → State → List Item × State
  | refused, [], s => (refused, s)
  | refused, it :: l, s =>
    if !goesTo s r st it || refused.any (samePair it) || !accepts s r st it then offerItems r st (refused ++ [it]) l s
    else offerItems r st refused l (accept r st it s)

/-- FLIT_OFFER (R214, R215): the slot that passes a station now is offered to it; an item is not offered in the cycle in which it
was injected. -/
def offerEv (r st : Nat) (s : State) : State :=
  let n := slotAt s st
  let x := tget {} (s.ring r).slots n
  if x.at_ = s.cycle || x.items.isEmpty then s
  else
    let q := offerItems r st [] x.items s
    q.2.modRing r (fun y => { y with slots := tput y.slots n { x with items := q.1, left := if q.1.isEmpty then s.cycle + 1 else x.left } })

/-- Would a station take one of a slot's items: the first that it accepts, with none of its pair refused before (R216)? -/
def wouldTake (s : State) (r st : Nat) : List Item → List Item → Bool
  | _, [] => false
  | refused, it :: l =>
    if !goesTo s r st it || refused.any (samePair it) || !accepts s r st it then wouldTake s r st (refused ++ [it]) l else true

/-- Is a slot of some ring before a station that would take one of its items (R214: it takes it in that cycle)? -/
def offerDue (s : State) : Bool :=
  s.rings.any (fun r => r.2.slots.any (fun y => y.2.at_ ≠ s.cycle && wouldTake s r.1 ((frameCycle s + 24 - y.1) % 24) [] y.2.items))

/-! ### Home slices (R223) -/

def State.findReq (s : State) (id : Nat) : Option Req := s.reqs.find? (fun q => q.id = id)
def State.dropReq (s : State) (id : Nat) : State := { s with reqs := s.reqs.filter (fun q => q.id != id) }
def State.modReq (s : State) (id : Nat) (f : Req → Req) : State := { s with reqs := s.reqs.map (fun q => if q.id = id then f q else q) }

/-- The request of a queued item. -/
def itemReq (s : State) (it : Item) : Option Req :=
  match it.body with
  | .req id => s.findReq id
  | _ => none

/-- Do two requests meet in a line? -/
def sameLine (a b : Req) : Bool := a.pa / 256 = b.pa / 256

/-- Does an address wait for its stack's reset (18 R350)? A request to it has started, and later ones go on. -/
def stackWaits (s : State) (pa : Nat) : Bool :=
  match target pa with
  | .hbm d g => (match domainOf (s.die d) g with
    | some x => !x.quiesced && (s.die d).stack = .resetting
    | none => false)
  | _ => false

/-- The item of a slice's queue that it starts next: the one that it accepted first (24 R435). A miss to a stack that is reset waits,
begun, and later requests to its line, and of its core, wait behind it (18 R350). -/
def nextItem (s : State) (d n : Nat) : List Req → List Item → Option Item
  | _, [] => none
  | held, it :: l =>
    match itemReq s it with
    | none => some it
    | some q =>
      if held.any (fun h => sameLine q h || h.core = q.core) then nextItem s d n (held ++ [q]) l
      else if homeOf s q.pa ≠ some (d, n) then some it
      else if (homeReady s q.pa).isSome then some it
      else if stackWaits s q.pa then nextItem s d n (held ++ [q]) l
      else none

/-- The virtual address of a request's word (R226): s[a] + s[b], and s[a] for atomics and cells. -/
def reqAddr (s : State) (q : Req) : Word :=
  match ((s.core q.core).strand q.strand).findWord q.seq with
  | some w => if q.kind = .load || q.kind = .store then w.va + w.vb else w.va
  | none => 0

/-- A layered-tensor word's request is performed (19 R368): the word's step runs. -/
def performLay (q : Req) (s : State) : State :=
  let s := s.dropReq q.id
  match ((s.core q.core).strand q.strand).findWord q.seq with
  | some w => settleQueued q.core q.strand .q { w with req := 0 }
      (runBody q.core q.strand (specOf w.i) { w with req := 0, due := 1 } s)
  | none => s

/-- A request is performed at its home slice: its word finishes, fails, or, at a cell, waits, the last to arrive last (18 R356, R357). -/
def performReq (q : Req) (s : State) : State :=
  if q.kind = .lay then performLay q s
  else match serve s q.kind q.pa q.size q.x q.cmp with
  | .ok s v =>
    let s := finishWord q.core q.strand q.seq v (s.dropReq q.id)
    if q.kind.cell then answerCell q.pa s.reqs.length s else s
  | .fail e => failWord q.core q.strand q.seq (reqTrap q.kind e (reqAddr s q)) (s.dropReq q.id)
  | .wait => { s.dropReq q.id with reqs := (s.dropReq q.id).reqs ++ [{ q with since := some s.cycle }] }

/-- SLICE_ACCESS (R223, R233): a slice starts the next request of its queue, or sends back one that it no longer homes. -/
def sliceEv (d n : Nat) (s : State) : State :=
  match nextItem s d n [] (s.slice d n).queue with
  | none => s
  | some it =>
    let s := s.modSlice d n (fun x => { x with queue := x.queue.erase it })
    match itemReq s it with
    | none => s
    | some q =>
      if homeOf s q.pa ≠ some (d, n) then
        (s.modReq q.id (fun q => { q with bounced := true, code := 0x19 })).modDie d (fun x => { x with rehome := x.rehome + 1 })
      else performReq q s

/-- REHOME_RESEND (R233): the copy engine sends a bounced request to its line's home, those to one line in their order. -/
def resendEv (c id : Nat) (s : State) : State :=
  match s.findReq id with
  | none => s
  | some q =>
    let x := s.core c
    if q.core ≠ c || !q.bounced || x.frozen s.cycle || !x.injRoom
        || s.reqs.any (fun p => p.core = c && p.bounced && decide (p.id < id) && sameLine p q) then s
    else (s.modReq id (fun q => { q with bounced := false, home := homeOf s q.pa })).modCore c
      (fun x => { x with inj := x.inj ++ [reqItem s c q.pa id] })

/-- Has a VERST been stalled for 2^20 cycles (18 R357)? -/
def stallDue (s : State) : Bool := s.reqs.any (fun q => q.kind = .verst && (match q.since with
  | some t => decide (t + 2 ^ 20 ≤ s.cycle)
  | none => false))

/-- VERST_STALL_TIMEOUT (18 R357): after 2^20 cycles a stalled VERST traps 0x10, with the cell unchanged. -/
def verstTimeoutEv (id : Nat) (s : State) : State :=
  match s.findReq id with
  | none => s
  | some q => match q.since with
    | some t =>
      if q.kind = .verst && decide (t + 2 ^ 20 ≤ s.cycle) then
        failWord q.core q.strand q.seq { runTrap 0x10 with addr := reqAddr s q } (s.dropReq id)
      else s
    | none => s

/-! ### Misses, write-back, translations -/

/-- The effect of a read error of a stack's line (18 R349). -/
def readError (line : Nat) (e : MemErr) (s : State) : State :=
  let d := bits (line * 256) 38 36
  match e with
  | .none => s
  | .correctable => s.modDie d (fun x => { x with stackErrs := x.stackErrs + 1 })
  | .uncorrectable => { s with poison := if s.poison.contains line then s.poison else line :: s.poison }

/-- Does a slice hold the line? -/
def lineHeld (s : State) (line : Nat) : Bool :=
  match homeOf s (line * 256) with
  | some (d, n) => (tget {} (s.slice d n).lines line).held
  | none => false

/-- Is a line one of an HBM4 stack? -/
def stackLine (line : Nat) : Bool :=
  match target (line * 256) with
  | .hbm _ _ => paValid (line * 256)
  | _ => false

/-- Does a request in a slice's queue ask for a line? -/
def lineAsked (s : State) (d n line : Nat) : Bool :=
  (s.slice d n).queue.any (fun it => match itemReq s it with
    | some q => q.pa / 256 = line
    | none => false)

/-- Does a copy transfer read a line next (08 R192)? -/
def lineCopied (s : State) (line : Nat) : Bool :=
  s.cores.any (fun x => x.2.d.xfers.any (fun t => t.started && t.kind = .inn && t.fail = 0 && decide (t.pos < t.len) &&
    (match translate s (coreAccess s x.1) (t.far t.src t.pos).toNat with
     | .ok pa _ _ => (linesOf pa t.chunk).contains line
     | .fail _ => false)))

/-- SLICE_MISS_FILL (R222, 18 R349): a line that an access asks for and its slice does not hold comes in from its stack; where its set is
full a line of the set leaves. -/
def missFillEv (line : Nat) (victim : Option Nat) (e : MemErr) (s : State) : State :=
  if !stackLine line || lineHeld s line || homeReady s (line * 256) ≠ some true then s
  else match homeOf s (line * 256) with
    | some (d, n) =>
      if lineAsked s d n line || lineCopied s line then
        (State.fillBad line (readError line e s)).modSlice d n (·.insert line s.cycle victim false)
      else s
    | none => s

/-- Does a slice hold the line, changed since it came in? -/
def lineDirty (s : State) (line : Nat) : Bool :=
  match homeOf s (line * 256) with
  | some (d, n) => (tget {} (s.slice d n).lines line).held && (tget {} (s.slice d n).lines line).dirty
  | none => false

/-- PATROL_SCRUB (18 R349): the scrubber reads a line of a stack, in the order of the lines of its interval. Of a line that a slice holds it
reads the stack's copy: a poison code written there stands until the slice writes the line back. -/
def scrubEv (line : Nat) (e : MemErr) (s : State) : State :=
  let d := bits (line * 256) 38 36
  if !stackLine line || (s.die d).stack ≠ .ok then s
  else
    let t := if lineHeld s line && e = .uncorrectable then
        (if lineDirty s line || s.badCopy.contains line then s else { s with badCopy := line :: s.badCopy })
      else readError line e s
    t.modDie d (fun x => { x with scrubAt := line })

/-- TRANSLATION_WALK_DONE (18 R344, R347): a walk of a core's own context ends, over the entries as they stand; its entry replaces the one
that the cache holds. -/
def walkDoneEv (c : Nat) (va : Word) (s : State) : State :=
  let ctx := (s.core c).csr.partition
  match sliceWalk s true ctx va.toNat with
  | (.fail _, s) => s
  | (.ok pa leaf b, s) => s.modCore c (fun x => { x with
      tlb := tlbEntry ctx va.toNat pa leaf b :: (x.tlb.filter (fun e => !(e.ctx == ctx && decide (va.toNat / 2 ^ e.bits = e.page)))).take 255 })

/-- Write back, and for INVR drop, the lines of a physical range in one page: the number written (R230). -/
def walkLines (inval : Bool) (pa n : Nat) (s : State) : Nat × State :=
  match target pa with
  | .hbm _ _ => (linesOf pa n).foldl (fun (a : Nat × State) l =>
      match homeOf a.2 (l * 256) with
      | none => a
      | some (d, k) =>
        let x := tget {} (a.2.slice d k).lines l
        if !x.held then a
        else ((if x.dirty then a.1 + 1 else a.1), a.2.modSlice d k (fun y => { y with
          lines := if inval then y.lines.filter (fun z => z.1 ≠ l) else tput y.lines l { x with dirty := false } }))) (0, s)
  | _ => (0, s)

/-- WBR_INVR_FINISH (R230): the oldest operation of a core walks the next page of its range; after the last it is finished. A page
is checked as a load; one that fails ends the operation with its code and address. A freeze holds it (05 R119). -/
def wbFinishEv (c : Nat) (s : State) : State :=
  match (s.core c).d.wbOps.find? (fun o => !o.fin) with
  | none => s
  | some o =>
    if (s.core c).frozen s.cycle then s
    else
    let set := fun (f : WbOp → WbOp) (s : State) =>
      s.modData c (fun x => { x with wbOps := x.wbOps.map (fun p => if p.order = o.order then f p else p) })
    let fail := fun (e : BitVec 8) (s : State) => set (fun p => { p with fin := true, code := e, addr := o.base }) s
    if o.len = 0 then set (fun p => { p with fin := true }) s
    else if o.base.toNat ≥ 2 ^ 48 then fail 0x04 s
    else
      let m := Nat.min o.len (65536 - o.base.toNat % 65536)
      match coreXlat s c (coreAccess s c) o.base.toNat with
      | (.fail e, s) => if e = walkWaits then s else fail e s
      | (.ok pa _ _, s) =>
        match target pa with
        | .crown _ _ => fail 0x05 s
        | _ =>
          if !rangeReady s pa m then s
          else
            let r := walkLines o.inval pa m s
            let s := r.2.modData c (fun x => { x with wbCount := x.wbCount + word r.1 })
            set (fun p => { p with base := p.base + word m, len := p.len - m, fin := p.len = m }) s

/-! ### Folds (19 R373) -/

def setFold (pa : Nat) (f : Fold) (s : State) : State := { s with folds := tput s.folds pa f }

/-- FOLD_TILE (R373): the next tile of a fold is summed over the folded layers and written to the target. -/
def foldTileEv (pa : Nat) (s : State) : State :=
  let f := tget {} s.folds pa
  let h := Handle.parse f.snap
  if !f.active || decide (f.tile ≥ h.tr * h.tc) then s
  else
    let q : Access := { ctx := f.ctx, sup := f.sup }
    let t := morton (f.tile / h.tc) (f.tile % h.tc)
    let r : SumRes State := do
      let b ← sumTile s { q := q } h f.k t
      virtWrite s q (h.target + t * 2048) b
    match r with
    | .error none => s
    | .error (some e) => setFold pa { f with active := false, code := e } s
    | .ok s => setFold pa { f with tile := f.tile + 1 } s

/-- FOLD_SWAP (R373): after the last tile, the handle changes in one step; a malformed one ends the fold with 0x02. -/
def foldSwapEv (pa : Nat) (s : State) : State :=
  let f := tget {} s.folds pa
  let g := Handle.parse f.snap
  if !f.active || decide (f.tile < g.tr * g.tc) || !rangeReady s pa 64 then s
  else
    let h := handleAt s pa
    let ended := fun (e : BitVec 8) (s : State) => setFold pa { f with active := false, code := e } s
    if s.poisoned pa 64 then ended 0x08 s
    else if h.malformed then ended 0x02 s
    else ended 0 (putHandle pa { h with
      base := h.target, dir := 0, target := if h.dir = 0 then h.base else 0
      ptrs := h.ptrs.drop f.k ++ List.replicate f.k 0, count := h.count - f.k, gen := h.gen + 1 } s)

end Sys2Proof.Machine
end

