-- ==== Sys2Proof/Machine/Launches.lean ====
section
/-! DEFINITION. Placing, dispatching, pre-empting, resuming and completing nodes (01 R30, R31, 16 R312-R316, 17 R332-R334,
23 R429-R432). -/

namespace Sys2Proof.Machine

/-! ### Placement (R314, R429) -/

/-- The members of a node's unit that have not ended: its STREAM's leaves, or itself. -/
def unitOf (s : State) (r : NodeRef) : List (NodeRef × Node) :=
  (groupOf s r).filterMap (fun g => match nodeOf s g with
    | some n => if n.ended then none else some (g, n)
    | none => none)

/-- A launch's time-division table: none where its object cannot be read. -/
def launchTable (s : State) (l : Launch) : Table (BitVec 96) :=
  match objParts s l.reads l.object.toNat [(0, 64)] [] with
  | .ok b => match objParts s l.reads l.object.toNat [((objHeader b).tdmOff, if (objHeader b).tdmOff = 0 then 0 else 288)] b with
    | .ok b => objTable b (objHeader b)
    | .error _ => []
  | .error _ => []

/-- The tables of other launches of which a node is about to be placed on a cluster: its text is being written. -/
def comingTables (s : State) (stamp d c : Nat) : List (Table (BitVec 96)) :=
  s.dies.flatMap (fun x => (x.2.launches.filter (fun l => l.stamp.toNat ≠ stamp
    && l.nodes.any (fun n => n.st = .reserved && n.die = d && n.clusterList.contains c))).map (launchTable s))

/-- Can the unit be placed, or resumed, now (R314, 10 R212)? -/
def unitPlaceable (s : State) (r : NodeRef) (l : Launch) (st : NodeState) : Bool :=
  let u := unitOf s r
  !u.isEmpty && u.all (fun x => x.2.st = st && placeIdle s x.2
    && tableFits s r.launch (launchTable s l) x.2 (comingTables s r.launch x.2.die))

/-- The first unit of a die's pool that can be placed or resumed (R314), and that waits for no node that has pre-empted it (R315). -/
def firstPlaceable (s : State) (d : Nat) : Option NodeRef :=
  ((poolOf s d (fun st => st = .ready || st = .saved)).find? (fun x =>
    x.2.1.abort.isNone && !heldFor s x.1 && unitPlaceable s x.1 x.2.1 x.2.2.st)).map (·.1)

/-- Is a node in the unit that comes next? -/
def isNext (s : State) (r : NodeRef) : Bool :=
  match firstPlaceable s r.die with
  | some f => (unitOf s f).any (fun x => x.1 = r)
  | none => false

/-- Does a launch's partition hold every cluster of a node (18 R339)? -/
def clustersAllowed (s : State) (l : Launch) (n : Node) : Bool :=
  n.clusterList.all (fun c => coreAllowed s l.ctx s.pkg.devId n.die c)

/-- Is the shadow pool of a launch usable (R319): aligned, every page plain, writable and not a shadow page? -/
def poolOk (s : State) (l : Launch) : Bool :=
  l.poolBase.toNat % 65536 = 0 && (List.range l.poolLen).all (fun i =>
    match translate s { l.access with write := true } (l.poolBase.toNat + 65536 * i) with
    | .ok _ leaf _ => !leafShadow leaf
    | .fail _ => false)

/-- Must a walk for a page of the pool wait (18 R350)? -/
def poolWaits (s : State) (l : Launch) : Bool :=
  (List.range l.poolLen).any (fun i => translate s { l.access with write := true } (l.poolBase.toNat + 65536 * i) = .fail walkWaits)

/-- Pre-emption unpins a context's pages, and a resume pins those that are still resident (05 R116). -/
def CoreData.unpin (x : CoreData) : CoreData :=
  { x with pages := (List.range 128).map (fun p => (p, if tget .pinned x.pages p = .absent then .absent else .resident)) }
def CoreData.pin (x : CoreData) : CoreData := { x with pages := x.pages.filter (fun p => p.2 = .absent) }

/-- A pre-empted core is given to another node: its context goes to its own node's record, with the sync state and the flits that are
the node's (12 R257, 17 R332); entries of flits that ride stay taken until those are accepted (10 R217). -/
def evictContext (c : Nat) (s : State) : State :=
  let x := s.core c
  if !x.preempt then s
  else match x.node with
    | none => s
    | some r =>
      let keep := { x with d := { x.d with refills := [] } }
      (s.modNode r (fun n => { n with saved := tput n.saved c keep })).modCore c (fun x => { x with
        preempt := false, node := none, held := [], csr := { x.csr with dom := [] }, inj := [], mcOut := 0
        pend := 0, latches := [], evt := false
        strands := x.strands.map (fun t => (t.1, { t.2 with st := .idle, queues := [] })) })

/-- Pages of the contexts saved from a core lose their frames (05 R116). -/
def dropFrames (c : Nat) (pages : List Nat) (s : State) : State :=
  { s with dies := s.dies.map (fun d => (d.1, { d.2 with launches := d.2.launches.map (fun l => { l with
      nodes := l.nodes.map (fun n => { n with saved := n.saved.map (fun y =>
        if y.1 = c then (y.1, { y.2 with d := { y.2.d with pages := pages.foldl (fun t p => tput t p .absent) y.2.d.pages } }) else y) }) }) })) }

/-- Does a code memory hold the text of an object already (R429)? -/
def Core.resident (x : Core) (tag : Option Word) : Bool := tag.isSome && x.textTag = tag && x.codeBad.isEmpty

/-- The text and scratch sections of an object reach a node's core, which counts as busy from now on (R429); resident text is not written
again. Every frame of its scratchpad is the node's (05 R115, R116). -/
def writeText (r : NodeRef) (b : List Byte) (object : Word) (tag : Option Word) (c : Nat) (s : State) : State :=
  let h := objHeader b
  (dropFrames c (List.range 128) (evictContext c s)).modCore c (fun x => { x with
    code := if x.resident tag then x.code else objText b h
    codeBad := [], textTag := tag, profile := BitVec.ofNat 3 h.mask, node := some r
    d := writeScratch b h object.toNat { x.d with scratch := [], scrBad := [], pages := [], refills := [] } })

/-- Has no leaf of the launch been dispatched? -/
def Launch.fresh (l : Launch) : Bool := l.nodes.all (fun n => !n.kind.leaf || (match n.st with
  | .waiting | .ready | .reserved | .placed => true
  | _ => false))

/-- A launch's load stamp (R428). -/
def stampOf (s : State) (l : Launch) : SumRes Nat := do
  let b ← objRead s l.reads (l.object.toNat + 56) 8
  .ok (leNat b % 4)

/-- The parts of its object that a unit's cores are written from (R429): the scratch sections, and the text if some core does not hold it. -/
def unitParts (s : State) (l : Launch) (u : List (NodeRef × Node)) (b : List Byte) (h : ObjHeader) : List (Nat × Nat) :=
  let tag := objTag s l.reads l.object.toNat
  scratchParts b h ++ (if u.all (fun x => x.2.cores_.all (fun c => (s.core c).resident tag)) then [] else codeParts b h)

/-- What a unit's cores are written from. An object that is not loaded, and of which something cannot be read, gives none: its launch ends at
its first dispatch (R428). -/
def unitText (s : State) (l : Launch) (u : List (NodeRef × Node)) : SumRes (List Byte) :=
  match objWith s l.reads l.object.toNat (unitParts s l u), stampOf s l with
  | .error none, _ => .error none
  | .error (some e), .ok n => if n = 1 then .error (some e) else .ok []
  | r, _ => r

/-- The node of the lowest index in a unit. -/
def lowestOf (r : NodeRef) (u : List (NodeRef × Node)) : NodeRef :=
  u.foldl (fun a x => if x.1.node < a.node then x.1 else a) ((u.map (·.1)).headD r)

/-- TEXT_REWRITE (R429): the node's unit is next in the pool; its clusters are its partition's (18 R339), its cores and regions are taken,
and their text is written. -/
def textRewriteEv (r : NodeRef) (s : State) : State :=
  match nodeOf s r, launchOf s r with
  | some n, some l =>
    if n.st ≠ .ready || l.abort.isSome || !isNext s r then s
    else
      let u := unitOf s r
      if u.any (fun x => !clustersAllowed s l x.2) then abortLaunch r.die r.launch 0x07 s
      else match unitText s l u with
        | .error none => askObject l.reads l.object.toNat (unitParts s l u) s
        | .error (some e) => abortNode (lowestOf r u) e (dropAsks l.reads.own s)
        | .ok b =>
          u.foldl (fun s x =>
            (x.2.cores_.foldl (fun s c => writeText x.1 b l.object (objTag s l.reads l.object.toNat) c s) s).modNode x.1
              (fun n => { n with st := .reserved })) (dropAsks l.reads.own s)
  | _, _ => s

/-- A weave operator's image becomes live and runs (R314, 14 R281, R284, 16 R455): the failing code, if it fails. -/
def liveImage (s : State) (l : Launch) (n : Node) : SumRes Image := do
  let b ← objRead s l.reads n.arg.toNat imageSize
  let p := parseImage b
  if !headFields p.1 || !sigFields p.2 then .error (some 0x02)
  else if !authentic s p.1 p.2 then .error (some 0x13)
  else if !structureOk p.1 then .error (some 0x02)
  else .ok p.1

/-- Make every weave member of a unit live. -/
def liveUnit (l : Launch) : List (NodeRef × Node) → State → SumRes State × Option NodeRef
  | [], s => (.ok s, none)
  | (r, n) :: rest, s =>
    if n.kind ≠ .weave then liveUnit l rest s
    else match liveImage s l n with
      | .error e => (.error e, some r)
      | .ok x => liveUnit l rest (n.regions_.foldl (fun s g => s.modRegion g (fun y => y.makeLive x .running)) s)

/-- NODE_PLACE (R314): the first unit whose text is written is placed, and its launch's table is installed (10 R212); its operators are
live and thawed before any dispatch. -/
def nodePlaceEv (d : Nat) (s : State) : State :=
  match (poolOf s d (· = .reserved)).head? with
  | none => s
  | some (r, l, _) =>
    let u := unitOf s r
    match liveUnit l u s with
    | (.error none, w) => match w.bind (nodeOf s) with
      | some n => askParts l.reads n.arg.toNat [(0, imageSize)] s
      | none => s
    | (.error (some e), w) => abortNode (w.getD r) e (dropAsks l.reads.own s)
    | (.ok s, _) =>
      let s := dropAsks l.reads.own s
      let t := launchTable s l
      bindPorts (u.foldl (fun s x =>
        (installTable r.launch t x.2 s).modNode x.1 (fun n => { n with st := .placed, ctxDue := s.cycle + 12 })) s)

/-! ### Dispatch (01 R30, R31) -/

/-- A strand at dispatch: its entry offset, and the argument words in the registers that the map gives names 1 to 8 (23 R431). -/
def dispatchStrand (entries : Word) (args : List Word) (map : List Nat) (k : Nat) : Strand :=
  let e := entryOf entries.toNat k
  let t : Strand := { g := srLoad 0, latch := true }
  (args.mapIdx (fun j v => (j, v))).foldl (fun t p => t.setReg (map.getD (p.1 + 1) (p.1 + 1)) p.2)
    (if e = 0x3FFF then { t with st := .halted, unused := true } else { t with st := .running, pc := BitVec.ofNat 32 (e / 4 * 4) })

/-- node.id (R453). -/
def nodeId (r : NodeRef) (l : Launch) : Word :=
  word (l.seqno.toNat % 2 ^ 32 * 2 ^ 32 + r.die * 2 ^ 22 + l.entry * 2 ^ 16 + r.node)

/-- The engines' state at dispatch (06 R129, 08 R187, R193, R196, R198, 13 R267, 05 R108); vector and mask registers stay. -/
def CoreData.dispatched (x : CoreData) : CoreData :=
  { x with m := (List.range 8).map (fun n => (n, { x.getM n with scale := unitScales, poison := 0, nonfinite := true }))
           a := [], f := [], lend := 0, runq := [], mseq := 0, hoops := [], xfers := []
           gens := (List.range 4).map (fun n => (n, { cfg := { count := (List.range 4).map (·, 1), chunk := 32 } }))
           win := {}, ports := [], wbOps := [], wbCount := 0 }

/-- A core at dispatch (R30, 17 R320, R321). -/
def dispatchCore (r : NodeRef) (l : Launch) (n : Node) (args : List Word) (maps : Nat → List Nat) (x : Core) : Core :=
  { x with
    strands := (List.range 4).map (fun k => (k, dispatchStrand n.entries args (maps k) k))
    csr := { x.csr with
      ntiles := zext n.tiles, args := n.arg, accMode := 0, cqOwner := 3
      sendto := (x.csr.sendto &&& 0x00FFFFFFFFFFFFFF#64) ||| 0x0300000000000000#64
      mcastBase := 0, partition := l.ctx, dqBase := 0, dqCap := 0, frzScope := false, nodeId := nodeId r l
      faultPtr := (l.faultArea + 64 * word r.node) &&& 0x0000FFFFFFFFFFC0#64, sup := l.sup, hnd := false, tvec := 0
      permHeld := false, permDenied := false, permRetry := 0, permLeft := 0 }
    d := x.d.dispatched, dq := [], cq := [], cqRes := 0, recv := [], tok := [], stuck := none, ending := none, preempt := false
    record := none, entering := false, failHeld := [], records := 0, lastCode := 0, shadow := {}, raw := [], node := some r }

/-- The argument blocks of a unit's tiles (16 R455). -/
def unitArgs (s : State) (l : Launch) (u : List (NodeRef × Node)) : List ((NodeRef × Node) × SumRes (List Byte)) :=
  u.map (fun x => (x, if x.2.kind = .tile then objRead s l.reads x.2.arg.toNat 64 else .ok []))

/-- Must a read wait? -/
def SumRes.waits {α : Type} (r : SumRes α) : Bool :=
  match r with
  | .error none => true
  | _ => false

/-- What a dispatch reads: the load stamp, the register maps, the argument blocks; and, for a replayable node, the walks of the shadow pool.
-/
def dispatchWaits (s : State) (l : Launch) (u : List (NodeRef × Node)) : Bool :=
  SumRes.waits (stampOf s l) || SumRes.waits (objWith s l.reads l.object.toNat objMaps)
  || (unitArgs s l u).any (fun x => SumRes.waits x.2) || (u.any (fun x => x.2.replay) && poolWaits s l)

/-- Ask the host and the peers for what a dispatch reads. -/
def dispatchAsks (l : Launch) (u : List (NodeRef × Node)) (s : State) : State :=
  u.foldl (fun s x => if x.2.kind = .tile then askParts l.reads x.2.arg.toNat [(0, 64)] s else s)
    (askObject l.reads l.object.toNat objMaps (askParts l.reads l.object.toNat [(56, 8)] s))

/-- The failing argument blocks of a unit, the node of the lowest index first (R317). -/
def argFails (l : List ((NodeRef × Node) × SumRes (List Byte))) : Option (NodeRef × BitVec 8) :=
  l.foldl (fun a x => match x.2 with
    | .error (some e) => (match a with
      | some (w, c) => if x.1.1.node < w.node then some (x.1.1, e) else some (w, c)
      | none => some (x.1.1, e))
    | _ => a) none

/-- DISPATCH (R30): twelve cycles after the decision, every placed core of the unit receives its state in one cycle. At the launch's first
dispatch its object is loaded (23 R428), and at its first of a replayable node its pool is usable (R319). A failing read of
an argument block ends its node before any of its cores issues (16 R455). Controllers that need no more than the dispatch are done (R310,
R311). -/
def dispatchEv (r : NodeRef) (s : State) : State :=
  match nodeOf s r, launchOf s r with
  | some n, some l =>
    if n.st ≠ .placed || decide (s.cycle < n.ctxDue) then s
    else
      let u := unitOf s r
      if dispatchWaits s l u then dispatchAsks l u s
      else
        let args := unitArgs s l u
        let t := dropAsks l.reads.own s
        match stampOf s l, objWith s l.reads l.object.toNat objMaps, argFails args with
        | .error e, _, _ => abortNode (lowestOf r u) (e.getD 0) t
        | .ok v, m, fails =>
          if l.fresh && v ≠ 1 then abortLaunch r.die r.launch 0x02 t
          else if u.any (fun x => x.2.replay) && !poolOk s l then abortLaunch r.die r.launch 0x02 t
          else match m, fails with
            | .error e, _ => abortNode (lowestOf r u) (e.getD 0) t
            | _, some (w, e) => abortNode w e t
            | .ok b, none =>
              let v := bindPorts (args.foldl (fun s x =>
                let words := match x.2 with | .ok b => wordsOf b | .error _ => []
                (x.1.2.cores_.foldl (fun s c => s.modCore c (dispatchCore x.1.1 l x.1.2 words (argMap b (objHeader b)))) s).modNode x.1.1
                  (fun n => { n with st := .running, fireAt := none })) t)
              wake r.die v
  | _, _ => s

/-- Must a placed node be dispatched in this cycle: twelve cycles after its placing (R314), once the reads that it needs can be made? -/
def dispatchDue (s : State) (r : NodeRef) (l : Launch) (n : Node) : Bool :=
  n.st = .placed && decide (n.ctxDue ≤ s.cycle) && !dispatchWaits s l (unitOf s r)

/-- Is a pool node's own priority to rise in this cycle (R313)? -/
def agingDue (s : State) (n : Node) : Bool := (n.st = .ready || n.st = .saved) && decide (n.ageFrom + 2 ^ 20 ≤ s.cycle)

/-- PRIORITY_AGING (R313): 2^20 cycles in the pool raise a node's own priority by one. -/
def agingEv (r : NodeRef) (s : State) : State :=
  match nodeOf s r with
  | none => s
  | some n =>
    if agingDue s n then
      s.modNode r (fun n => { n with own := Nat.min 3 (n.own + 1), ageFrom := s.cycle })
    else s

/-! ### Pre-emption (R315, 17 R332-R334) -/

/-- Can an occupant be pre-empted: it runs, and no core of it has been stopped, but for one whose handler runs (R332)? -/
def preemptible (s : State) (x : NodeRef × Launch × Node) : Bool :=
  (x.2.2.st = .running || x.2.2.st = .saving) && x.2.2.cores_.all (fun c => (s.core c).ending.isNone && (s.core c).record.isNone)

/-- PREEMPT_DECISION (R315): node P's placement is held only by running nodes of lower effective priority. -/
def preemptDecisionEv (r : NodeRef) (s : State) : State :=
  match nodeOf s r with
  | none => s
  | some n =>
    let u := unitOf s r
    let occ := u.flatMap (fun x => occupants s x.2)
    let p := effPrio s (prioFuel s) r
    if (n.st = .ready || n.st = .saved) && u.all (fun x => x.2.st = n.st) && occ.any (fun x => x.2.2.st = .running)
        && occ.all (fun x => preemptible s x && decide (effPrio s (prioFuel s) x.1 < p)) then
      decideFor r (occ.map (·.1)) s
    else s

/-- A strand is pre-empted: the state that it held is kept, with the one under a fault, and a pause ends (R32, 02 R49). A waiting MPERM
asks anew on resume, and a SUBMIT that has not claimed restarts (R332, R302). -/
def Strand.preempted (t : Strand) : Strand :=
  if t.st = .preempted || t.st = .idle then t
  else { t with st := .preempted, prior := t.st, under := if t.st = .faulted then t.prior else t.under, pauseEnd := 0, issueAt := none
                queues := t.queues.map (fun q => (q.1, q.2.map (fun w =>
                  if isMperm w.i && w.phase = .started then { w with phase := .queued, bit := true } else restartSubmit w))) }

/-- The hot swaps whose words of a core still wait for their boundary are cancelled: they complete with status 3 (R332, 14 R285). -/
def cancelSwaps (c : Nat) (s : State) : State :=
  s.regions.foldl (fun s r => if (r.2.swapper.map (·.1)) = some c && r.2.swapAt.isNone then cancelSwap r.1 s else s) s

/-- PREEMPT_SIGNAL (R332): no strand issues any more; the permit goes back, and the pages are unpinned. A frozen core hears of it when its
freeze ends (05 R119). -/
def preemptSignalEv (r : NodeRef) (s : State) : State :=
  match nodeOf s r with
  | none => s
  | some n =>
    if n.st ≠ .saving || decide (s.cycle < n.ctxDue) then s
    else n.cores_.foldl (fun s c =>
      let x := s.core c
      if x.frozen s.cycle || x.preempt || x.ending.isSome || x.record.isSome then s
      else returnPermit c ((cancelSwaps c s).modCore c (fun x => { x with
        preempt := true, stuck := none, d := x.d.unpin, shadow := x.shadow.preempted
        strands := x.strands.map (fun t => (t.1, t.2.preempted)) }))) s

/-- Words whose wait a pre-emption ends (R332): sync waits, WFE, WUT, MCAST, MPERM, the fold and cell waits, and a W word at a
beat boundary (13 R274). -/
def suspends (i : Instr) : Bool :=
  match i with
  | .barW .. | .brecv .. | .red .. | .wfe .. | .wut .. | .mcast .. | .mperm .. | .lfwait .. | .ldt .. | .lfold .. => true
  | .verst .. | .verld .. | .verrcl .. => true
  | .win .. | .wout .. | .weos .. | .wdrainIn .. | .wdrainOut .. => true
  | _ => false

/-- Cells' waiting requests of a core leave their slices, and their words wait again from the beginning (18 R357). -/
def withdrawCells (c : Nat) (s : State) : State :=
  let qs := s.reqs.filter (fun q => q.core = c && q.since.isSome)
  qs.foldl (fun s q => (s.dropReq q.id).modStrand c q.strand (fun t => t.modAny q.seq (fun w => { w with phase := .queued, req := 0 }))) s

/-- A SUBMIT past its claim completes before the context is saved (R302). -/
def claimed (w : QWord) : Bool :=
  match w.i with
  | .submit .. => w.idx ≠ 0
  | _ => false

/-- Has a pre-empted core drained (R332, 08 R203)? -/
def savable (x : Core) : Bool :=
  x.preempt && x.ending.isNone && x.record.isNone && x.d.xfers.all (fun t => !t.started)
  && x.allWords.all (fun w => match w.2.phase with
    | .queued => true
    | .done => !retireReady x w.1 (specOf w.2.i) w.2
    | .started => w.2.req = 0 && (suspends w.2.i || (match w.2.i with
      | .submit .. => !claimed w.2
      | .yield .. => w.2.idx = 1
      | _ => false)))

/-- An operator is saved with its unit: the state that its image's masks name (R315, 14 R287), and its live plane is emptied. -/
def saveOperator (r : NodeRef) (n : Node) (s : State) : State :=
  let sv := n.regions_.map (fun g => ({ rg := g, img := (s.region g).img, clk := (s.region g).clk.toNat, chain := chainOf (s.region g) } : SavedRegion))
  blankRegions n (s.modNode r (fun n => { n with savedRegions := sv, st := .saved, fireAt := none, ageFrom := s.cycle }))

/-- CONTEXT_SAVED (R332): once every core of the unit has drained, its contexts are saved, its table is removed, and it is in the pool
again with its ready time unchanged. Its image takes at least 1,024 cycles from there (R333). -/
def contextSavedEv (r : NodeRef) (s : State) : State :=
  match nodeOf s r with
  | none => s
  | some n =>
    if n.st ≠ .saving then s
    else
      let u := unitOf s r
      let cs := u.flatMap (fun x => x.2.cores_)
      let s := cs.foldl (fun s c => if (s.core c).preempt then withdrawCells c s else s) s
      if !cs.all (fun c => savable (s.core c)) || !u.all (fun x => match x.2.fireAt with
          | some t => decide (t ≤ s.cycle)
          | none => false) then s
      else bindPorts (sweepTables (u.foldl (fun s x =>
        if x.2.kind = .weave then saveOperator x.1 x.2 s
        else s.modNode x.1 (fun n => { n with st := .saved, fireAt := none, ageFrom := s.cycle })) s))

/-- A saved core comes back from its node's record, if another node has had the core (R334): its text is resident, or is `text`, written anew
(23 R429). The count of corrections, and the buffer entries of riding flits, are the core's own (05 R118, 10 R217). -/
def restoreCore (r : NodeRef) (text : Option Memory) (c : Nat) (s : State) : State :=
  match nodeOf s r with
  | none => s
  | some n => match n.saved.find? (fun y => y.1 = c) with
    | some (_, x) =>
      let live := s.core c
      (s.setCore c { x with
        csr := { x.csr with frzCount := live.csr.frzCount }
        code := if x.textTag.isNone then x.code else if live.resident x.textTag then live.code else text.getD x.code
        codeBad := if x.textTag.isNone then x.codeBad else []
        injRide := live.injRide, tlb := live.tlb, frzUntil := live.frzUntil, frzPend := live.frzPend }).modNode r
        (fun n => { n with saved := n.saved.filter (fun y => y.1 ≠ c) })
    | none => s

/-- Must a core's text be written again before a saved node resumes on it (23 R429)? -/
def textGone (s : State) (x : NodeRef × Node) (c : Nat) : Bool :=
  (s.core c).node ≠ some x.1 && (match x.2.saved.find? (fun y => y.1 = c) with
    | some (_, y) => y.textTag.isSome && !(s.core c).resident y.textTag
    | none => false)

/-- The text that a unit resumes with: none where every core holds it. -/
def resumeText (s : State) (l : Launch) (u : List (NodeRef × Node)) : SumRes (Option Memory) :=
  if u.any (fun x => x.2.cores_.any (textGone s x)) then do
    let b ← objWith s l.reads l.object.toNat codeParts
    .ok (some (objText b (objHeader b)))
  else .ok none

/-- An operator becomes live again with its saved state: the same image (R315, 14 R287). -/
def restoreOperator (n : Node) (s : State) : State :=
  n.savedRegions.foldl (fun s v => s.modRegion v.rg (fun y =>
    { restoreChain { (y.makeLive v.img .frozen) with clk := BitVec.ofNat 3 v.clk } v.chain with live := .running })) s

/-- The operators of a unit become live again before any of its tiles resumes. -/
def restoreUnit (u : List (NodeRef × Node)) (s : State) : State :=
  u.foldl (fun s x => if x.2.kind = .weave then restoreOperator x.2 s else s) s

/-- The grant that a resuming core waits for (R334, 06 R147): it asks again for what was left. -/
def askAgain (c : Nat) (s : State) : State :=
  let x := s.core c
  let g := tget {} (s.die (coreDie c)).gov (coreCluster c)
  if x.csr.permHeld || x.csr.permLeft = 0 || decide (g.cap ≤ g.held) then s else permitAsk c x.csr.permLeft.toNat s

def Strand.resumeFrom (t : Strand) : Strand :=
  if t.st = .preempted then { t with st := t.prior, prior := if t.prior = .faulted then t.under else t.prior } else t

/-- A strand freezes: the state that it held is kept, and a pause ends (05 R119, 02 R49); a SUBMIT that has not claimed
restarts (16 R302). -/
def Strand.freeze (t : Strand) : Strand :=
  let t : Strand := { t with queues := t.queues.map (fun q => (q.1, q.2.map restartSubmit)) }
  if t.active then { t with st := .frozen, prior := t.st, pauseEnd := 0 } else t

/-- The strands of a core go on where they were, and what the sync network brought meanwhile acts (R334, 12 R257); in a freeze they are
frozen, and it acts when the freeze ends (05 R119). A reduction's result completes in the next cycle (12 R252). -/
def wakeCore (c : Nat) (s : State) : State :=
  let cold := (s.core c).frzUntil.isSome
  let s := s.modCore c (fun x => { x with
    preempt := false, raw := [], d := x.d.pin, shadow := x.shadow.resumeFrom
    strands := x.strands.map (fun t => (t.1, if cold then t.2.resumeFrom.freeze else t.2.resumeFrom)) })
  let late := fun (t : Strand) => { t with queues := t.queues.map (fun q => (q.1, q.2.map (fun w =>
    if (redLevel w.i).isSome && w.phase = .started then { w with at_ := s.cycle + 1 } else w))) }
  if (s.core c).frozen s.cycle then s
  else deliverHeld c (s.modCore c (fun x => { x with strands := x.strands.map (fun t => (t.1, late t.2)) }))

/-- The last part of a resume: once every core has its permit, the strands of the unit return in one cycle. -/
def resumeStrands (u : List (NodeRef × Node)) (s : State) : State :=
  let cs := u.flatMap (fun x => x.2.cores_)
  let s := cs.foldl (fun s c => askAgain c s) s
  if cs.any (fun c => !(s.core c).csr.permHeld && (s.core c).csr.permLeft ≠ 0) then s
  else bindPorts (cs.foldl (fun s c => wakeCore c s) (u.foldl (fun s x => setNode x.1 .running s) s))

/-- NODE_RESUME (R334): a saved unit that is next in the pool comes back to its placement, with its text, its table and its
operators. -/
def nodeResumeEv (r : NodeRef) (s : State) : State :=
  match nodeOf s r, launchOf s r with
  | some n, some l =>
    let u := unitOf s r
    if n.st = .resuming then resumeStrands u s
    else if n.st ≠ .saved || l.abort.isSome || !isNext s r then s
    else match resumeText s l u with
      | .error none => askObject l.reads l.object.toNat codeParts s
      | .error (some e) => abortNode (lowestOf r u) e (dropAsks l.reads.own s)
      | .ok text =>
        let s := restoreUnit u (dropAsks l.reads.own s)
        let t := launchTable s l
        let s := u.foldl (fun s x =>
          let s := x.2.cores_.foldl (fun s c => restoreCore x.1 text c (evictOther x.1 c s)) (installTable r.launch t x.2 s)
          setNode x.1 .resuming s) s
        resumeStrands u s
  | _, _ => s
where
  /-- Another node's saved context makes room. -/
  evictOther (r : NodeRef) (c : Nat) (s : State) : State := if (s.core c).node = some r then s else evictContext c s

/-- The code with which a node of stopped cores ends: one of them has drained for good (17 R324). -/
def deadCode (s : State) (n : Node) : Option (BitVec 8) :=
  n.cores_.findSome? (fun c => match (s.core c).ending with
    | some e => if coreDrained c s && (s.core c).record.isNone then some e else none
    | none => none)

/-- Does a node of a lower index of the launch end in the same cycle (R317)? -/
def lowerEnds (s : State) (r : NodeRef) : Bool :=
  (allNodes s).any (fun x => x.1.die = r.die && x.1.launch = r.launch && decide (x.1.node < r.node) && (x.2.2.st = .running || x.2.2.st = .saving)
    && (deadCode s x.2.2).isSome)

/-- HALT_TREE_FIRE (R316): a running node whose halt lines have been up for 26 cycles completes, once what its cores
sent out of the package is acknowledged; one of which a core has been stopped
for good, and has drained, ends aborted (17 R324). -/
def haltTreeEv (r : NodeRef) (s : State) : State :=
  match nodeOf s r with
  | none => s
  | some n =>
    match deadCode s n with
    | some e => if (n.st = .running || n.st = .saving) && !lowerEnds s r then abortNode r e s else s
    | none =>
      if n.st = .running && n.kind = .tile && (match n.fireAt with
        | some t => decide (t ≤ s.cycle)
        | none => false) then
        (if canComplete s r n then completeNode r s else n.cores_.foldl (fun s c => flushCore c s) s)
      else s

end Sys2Proof.Machine
end

