-- ==== Sys2Proof/Machine/Tick.lean ====
section
/-! DEFINITION. A core cycle passes: what counts cycles, and what must have happened before the cycle may end. -/

namespace Sys2Proof.Machine

/-- Must a region word of X start in this cycle, or reach the manager (14 R283, R289, R290)? -/
def rgStartDue (s : State) (c : Nat) : Bool :=
  match rgReady s c with
  | some (w, rg) => !(rgLine s rg).contains (c, w.seq) || (match (specOf w.i).body c 3 w s with
    | .wait _ _ => false
    | _ => true)
  | none => false

/-- Must a sync word of X start in this cycle: the first in which it may (12 R247, R259)? -/
def syncDue (s : State) (c : Nat) (x : Core) : Bool :=
  match (x.strand 3).queue .q with
  | w :: _ => (syncLevel w.i).isSome && w.phase = .queued && w.idx = 0 && !syncEarly s c w && startReady x 3 .q w
      && !preempting s c && !x.faultAbove s.cycle 3 && x.ending.isNone && (match (specOf w.i).body c 3 w s with
        | .wait _ _ => false
        | _ => true)
  | [] => false

/-- Must a started word of a core act in this very cycle (14 R286, R287, 12 R246, R247, 06 R147, 22 R418), or the word after a WUT issue in
it? A freeze holds all but WUT, and what a DOMSET does at its root. -/
def exactDue (s : State) (c : Nat) (x : Core) : Bool :=
  (wutDue s c).isSome || issueDue s c
  || ((x.strand 3).queue .y).any (fun w => domsetDue s w)
  || (!x.frozen s.cycle && ((mpermDue s c).isSome
    || rgStartDue s c || syncDue s c x
    || ((x.strand 3).queue .y).any (fun w => yExact w.i && w.phase = .started && w.req = 0 && w.due ≠ 0 && decide (w.due ≤ s.cycle))))

/-- Must a bounded peer write go on in this cycle (25 R438): its command, or its transfer, has not reached its link 360 cycles after its
issue, and nothing holds it? -/
def boundDue (s : State) (c : Nat) (x : Core) : Bool :=
  x.d.xfers.any (fun t => match t.bound with
    | some b => decide (b ≤ s.cycle) && t.fail = 0 && decide (t.pos < t.len) && !x.frozen s.cycle && !preempting s c && !t.stopped
      && (if t.started then (x.d.absent (t.src.toNat + t.pos) t.chunk).isEmpty && (tlbFind x.tlb x.csr.partition t.dst.toNat).isSome
          else !(x.strand t.strand).words.any (fun w => decide (w.seq < t.seq) && w.phase ≠ .done && isAccess w.i) && !x.d.xfers.any (waitsFor t))
    | none => false)
  || (List.range 4).any (fun k => match (x.strand k).queue .l with
    | w :: _ => w.phase = .queued && decide (w.at_ + boundCycles ≤ s.cycle) && (match w.i with
        | .cpyOut _ _ _ _ _ hh => boundedWrite s c k w && startReady x k .l w && turnOf c k .l s && !preempting s c && x.ending.isNone
            && !x.faultAbove s.cycle k && decide ((let h := x.d.hoop hh.toNat; h.alloc - h.rd).toNat < 16)
        | _ => false)
    | [] => false)

/-- Must a freeze of a core begin or end in this cycle (05 R119-R121)? -/
def freezeDue (s : State) (x : Core) : Bool :=
  match x.frzUntil with
  | some t => decide (t ≤ s.cycle)
  | none => x.frzPend.any (fun t => decide (t ≤ s.cycle))

/-- Must a crossing of a port become visible in this cycle (13 R267)? -/
def crossingDue (s : State) (x : Core) : Bool :=
  x.d.ports.any (fun p => p.2.enter.any (fun t => decide (t + 2 ≤ s.cycle)) || p.2.freed.any (fun t => decide (t + 2 ≤ s.cycle)))

/-- Are the halt lines of every core of a node up (16 R316)? The beats of a bound out-port count as words of the W engine that have not
drained (15 R294, log entry 64). -/
def nodeHalted (s : State) (n : Node) : Bool :=
  n.cores_.all (fun c =>
    let x := s.core c
    (List.range 4).all (fun k => (x.strand k).st = .halted) && x.allWords.isEmpty && x.d.xfers.isEmpty && x.ending.isNone
      && [0, 1].all (fun p => let q := x.d.port (outPort p); !q.bound || q.fifo.isEmpty))

/-- A node's halt tree over one cycle: it fires 26 cycles after the last line has risen (16 R316). The image of a node that is being saved is
written from the cycle on in which its cores have drained, in 1,024 cycles at least (17 R333). -/
def nodeTick (s : State) (n : Node) : Node :=
  if n.st = .running && n.kind = .tile then
    { n with fireAt := if nodeHalted s n then some (n.fireAt.getD (s.cycle + 26)) else none }
  else if n.st = .saving then
    { n with fireAt := if n.cores_.all (fun c => savable (s.core c)) then some (n.fireAt.getD (s.cycle + 1024)) else none }
  else n

def dieTick (s : State) (x : Die) : Die :=
  { x with launches := x.launches.map (fun l => { l with nodes := l.nodes.map (nodeTick s) }) }

/-- Must a halt tree fire in this cycle? -/
def haltDue (s : State) : Bool :=
  (allNodes s).any (fun x => x.2.2.st = .running && x.2.2.kind = .tile && (match x.2.2.fireAt with
    | some t => decide (t ≤ s.cycle)
    | none => false) && canComplete s x.1 x.2.2)

/-- Is a strand stuck internally in this cycle (05 R122)? -/
def stuckStrand (s : State) (c k : Nat) : Bool :=
  let t := s.strand c k
  t.st = .halted || t.st = .frozen || t.st = .idle || (t.active && (match strandBlocks s c k with
    | some l => l.all (fun b => b = .dq || b = .cq || b = .tok)
    | none => false))

/-- Does a queued word wait for words before it only, in its own core: a token push, a bank, a configuration, a status? -/
def quietWait (i : Instr) : Bool :=
  match i with
  | .tkpush .. | .mlend .. | .mret .. | .mcfg .. | .mprobe .. | .mprobeAcc .. => true
  | _ => false

/-- Is a word of an engine queue executing (05 R123)? A finished word that stands behind one whose retirement is held is not. -/
def executing (s : State) (c k : Nat) (e : Engine) (w : QWord) : Bool :=
  let x := s.core c
  match w.phase with
  | .started => true
  | .done => (((x.strand k).queue e).head?.map (·.seq)) = some w.seq && retireReady x k (specOf w.i) w
  | .queued => startReady x k e w && !(quietWait w.i && (match (specOf w.i).body c k w s with
    | .wait _ _ => true
    | _ => false))

/-- Does the deadlock count of a core run in this cycle (05 R123)? -/
def coreStuck (s : State) (c : Nat) : Bool :=
  let x := s.core c
  x.ending.isNone && (List.range 4).all (stuckStrand s c) && (List.range 4).any (fun k => (x.strand k).active)
    && (List.range 4).all (fun k => [Engine.x, .l, .m, .v, .q, .w, .y].all (fun e =>
      ((x.strand k).queue e).all (fun w => !executing s c k e w)))

/-- Has the deadlock count of a core reached 2^16 (05 R123)? -/
def deadlockDue (s : State) (c : Nat) : Bool :=
  match (s.core c).stuck with
  | some t => decide (t + 2 ^ 16 ≤ s.cycle) && !(s.core c).frozen s.cycle && coreStuck s c
  | none => false

/-- Does the pre-emption signal reach a core in this cycle, and has not been taken (12 R241, 17 R332)? -/
def signalDue (s : State) (c : Nat) (x : Core) : Bool := preempting s c && !x.preempt && !x.frozen s.cycle

/-- Is a finished word of X still to complete in this cycle (12 R248, R251)? -/
def retireDue (s : State) (c : Nat) : Bool :=
  [Engine.q, .y].any (fun e => retirable s c 3 e && (match ((s.core c).strand 3).queue e with
    | w :: _ => exactRetire w.i
    | [] => false))

/-- Is something left that must happen in this cycle? Signals of the sync network keep their exact latencies (12 R241), and a
region's edges come at theirs (13 R263), and a station takes what passes it if it can (10 R214). -/
def cycleOpen (s : State) : Bool :=
  s.sync.any (fun x => x.2.upDue s.cycle || x.2.down.any (fun m => decide (m.1 ≤ s.cycle)))
  || s.links.any (fun l => tokenDue s l.2)
  || s.regions.any (fun r => edgePending s r.1 || boundaryDue s r.1 || exchangeDue s r.2) || claimDue s || offerDue s || haltDue s || stallDue s
  || (allNodes s).any (fun x => dispatchDue s x.1 x.2.1 x.2.2 || agingDue s x.2.2)
  || s.cores.any (fun x => exactDue s x.1 x.2 || freezeDue s x.2 || crossingDue s x.2 || deadlockDue s x.1 || signalDue s x.1 x.2 || boundDue s x.1 x.2
      || retireDue s x.1)

/-- A flit whose home has not been chosen yet is addressed anew (11 R236). -/
def rehomeItem (s : State) (it : Item) : Item :=
  if it.station = 31 then (match itemReq s it with
    | some q => it.toHome it.die (homeOf s q.pa)
    | none => it) else it

/-- A core over one cycle: the homes of its unaddressed flits, the deadlock count, and its prio CSR (16 R313). -/
def coreTick (s : State) (c : Nat) (x : Core) : Core :=
  { x with stuck := if coreStuck s c then some (x.stuck.getD s.cycle) else none
           inj := x.inj.map (rehomeItem s)
           csr := { x.csr with prio := match x.node with
             | some r => (match nodeOf s r with
               | some _ => BitVec.ofNat 2 (effPrio s (prioFuel s) r)
               | none => x.csr.prio)
             | none => x.csr.prio } }

/-- The domains that are crossed at a cycle's end break in it (12 R255). -/
def breakAll (s : State) : State := s.sync.foldl (fun s x => breakCrossed (x.1 / 64) (x.1 % 64) s) s

/-- A stopped core whose words have gone as far as they can: its record is a release at system scope (17 R322), which waits for the peers'
acknowledgements and for the host's, which one zero-length read brings (10 R227, 22 R407); then it is written. -/
def settleCore (c : Nat) (s : State) : State :=
  let x := s.core c
  if x.record.isNone || x.frozen s.cycle || !coreDrained c s || peerPending s c then s
  else if hostPending s c then flushCore c s
  else settleStop c s

/-- The stopped cores write their records, and enter their handlers (17 R322, R325). -/
def settleAll (s : State) : State := s.cores.foldl (fun s x => settleCore x.1 s) s

/-- A core cycle ends (00 R5), once nothing is left that must happen in it: package time advances by the rate (22 R415). -/
def tick (s : State) : State :=
  if cycleOpen s then s
  else
    let s := settleAll (breakAll s)
    { s with
      cycle := s.cycle + 1
      time := { s.time with count := s.time.count + s.time.rate.setWidth 96 }
      cores := s.cores.map (fun x => (x.1, coreTick s x.1 x.2))
      reqs := s.reqs.map (fun q => if q.home.isNone then { q with home := homeOf s q.pa } else q)
      dies := s.dies.map (fun d => (d.1, dieTick s d.2)) }

end Sys2Proof.Machine
end

