-- ==== Sys2Proof/Machine/CoreEvents.lean ====
section
/-! DEFINITION. What happens to a core besides its words: deadlocks (05 R122, R123), correctable errors and freezes (05 R118-R121), page
refills (05 R116, R117), the end of a pause (02 R49). -/

namespace Sys2Proof.Machine

/-- The lowest strand of a core that is blocked. -/
def lowestBlocked (x : Core) : Option Nat := (List.range 4).find? (fun k => (x.strand k).active)

/-- DEADLOCK_DETECT (R123): the lowest blocked strand traps 0x18 at its word, which has had no effect. -/
def deadlockEv (c : Nat) (s : State) : State :=
  let x := s.core c
  match lowestBlocked x with
  | some k =>
    if deadlockDue s c then
      takeFault c k (waitTrap 0x18) (codeWord x k (x.strand k).pc) (x.strand k).pc none
        (s.modCore c (fun x => { x with stuck := none }))
    else s
  | none => s

/-- The members of a core's innermost sync domain (R120). -/
def innermost (s : State) (c : Nat) : Option (List Nat) :=
  (List.range 4).findSome? (fun l =>
    let d := tget {} (s.core c).csr.dom l
    if d.member then some (s.slot (rootOf c l) d.slot.toNat).members else none)

/-- A freeze is to begin in a cycle. -/
def addFreeze (at_ : Nat) (c : Nat) (s : State) : State := s.modCore c (fun x => { x with frzPend := x.frzPend ++ [at_] })

/-- CORRECTABLE_ERROR (R118, R120): counted; a core freeze begins in the next cycle, a domain's 14 cycles later. -/
def correctableEv (c : Nat) (s : State) : State :=
  let s := s.modCsr c (fun r => { r with frzCount := if r.frzCount = 0xFFFF then r.frzCount else r.frzCount + 1 })
  match (if (s.core c).csr.frzScope then innermost s c else none) with
  | some l => l.foldl (fun s m => addFreeze (s.cycle + 14) m s) s
  | none => addFreeze (s.cycle + 1) c s

/-- The failures that reached the words of a core in a freeze are taken, those of the lower strand first (01 R33, R119). -/
def failAll (c : Nat) (s : State) : State :=
  let l := (s.core c).failHeld
  ((List.range 4).flatMap (fun k => l.filter (fun f => f.1 = k))).foldl (fun s f => failWord c f.1 f.2.1 f.2.2 s)
    (s.modCore c (fun x => { x with failHeld := [] }))

/-- A freeze ends in a cycle: a word that was to issue in it issues now (05 R119, 22 R418). -/
def Strand.thaw (t : Strand) (cycle : Nat) : Strand :=
  if t.st = .frozen then { t with st := t.prior, issueAt := t.issueAt.map (Nat.max cycle) } else t

/-- FREEZE_BEGIN (R120, R121): the first freeze whose cycle has come begins, unless one is on; it lasts 32 cycles. -/
def freezeBeginEv (c : Nat) (s : State) : State :=
  let x := s.core c
  if x.frzUntil.isSome then s
  else match x.frzPend.find? (fun t => decide (t ≤ s.cycle)) with
    | none => s
    | some t => s.modCore c (fun x => { x with
        frzPend := x.frzPend.erase t, frzUntil := some (s.cycle + 32)
        strands := (List.range 4).foldl (fun l k => tput l k (tget {} l k).freeze) x.strands })

/-- FREEZE_END (R119): the strands return to their states, and what the sync network brought meanwhile acts, unless the next freeze
follows at once (R121). -/
def freezeEndEv (c : Nat) (s : State) : State :=
  let x := s.core c
  match x.frzUntil with
  | none => s
  | some t =>
    if s.cycle < t then s
    else
      let s := s.modCore c (fun x => { x with frzUntil := none, strands := x.strands.map (fun y => (y.1, y.2.thaw s.cycle)) })
      if (s.core c).frozen s.cycle then s
      else if (s.core c).preempt then failAll c s else failAll c (deliverHeld c s)

/-- The poisoned 64-byte lines of a page, from a mask. -/
def badLines (page : Nat) (m : BitVec 64) : List Nat := ((List.range 64).filter (fun i => m.getLsbD i)).map (· + page * 64)

/-- The transfer that waits for an absent page. -/
def pageXfer (x : CoreData) (page : Nat) : Option Xfer :=
  x.xfers.find? (fun t => t.started && t.fail = 0 && t.scrRanges.any (fun r => decide (r.1 < page * 4096 + 4096 ∧ page * 4096 < r.1 + r.2)))

/-- The word of a core that waits for a page, with its strand. -/
def pageWord (x : Core) (page : Nat) : Option (Nat × QWord) := x.allWords.find? (fun w => w.2.paging && w.2.wants.contains page)

/-- A word waits for a page no more. -/
def QWord.gotPage (page : Nat) (w : QWord) : QWord :=
  let l := w.wants.filter (· ≠ page)
  { w with wants := l, paging := w.paging && !l.isEmpty }

/-- PAGE_REFILL_COMPLETE (R116, R117): a page whose refill has started is resident again, with the lines that met an uncorrectable
error poisoned; the frame is another context's no more. A page without a backing page traps 0x06 at the accessing word, or fails the
copy command. A freeze holds the refill (R119). -/
def refillEv (c page : Nat) (mapped : Bool) (bad : BitVec 64) (s : State) : State :=
  let x := s.core c
  if !x.d.refills.contains page || x.frozen s.cycle then s
  else
    let awake := fun (t : Strand) => { t with queues := t.queues.map (fun q => (q.1, q.2.map (·.gotPage page))) }
    let s := s.modCore c (fun x => { x with
      strands := x.strands.map (fun t => (t.1, awake t.2))
      d := { x.d with refills := x.d.refills.filter (· ≠ page) } })
    if mapped then
      (dropFrames c [page] s).modData c (fun d => { d with pages := tput d.pages page (if x.preempt then .resident else .pinned)
                                                           scrBad := d.scrBad.filter (fun l => l / 64 ≠ page) ++ badLines page bad })
    else match pageWord x page with     -- the first of the words that wait for it
      | some (k, w) => failWord c k w.seq { runTrap 0x06 with addr := word (page * 4096) } s
      | none => match pageXfer x.d page with
        | some t => failXfer c t 0x06 (word (page * 4096)) s
        | none => s

/-! ### Errors from outside (01 R15, 05 R117, R124, 06 R141, R142, 10 R224) -/

/-- A number joins a list of marks. -/
def mark {α : Type} [DecidableEq α] (l : List α) (n : α) : List α := if l.contains n then l else l ++ [n]

/-- How many registers a shared file holds (05 R107): v, k, m, a, f. -/
def fileSize (f : Nat) : Nat := ([32, 8, 8, 4, 4] : List Nat).getD f 0

/-- An error in a line of a slice (10 R224): a corrected one is counted; an uncorrectable one invalidates a clean line, which its next
access fetches again, and poisons a dirty one and a carve-out's. -/
def strikeSlice (d n line : Nat) (fixed : Bool) (s : State) : State :=
  let l := tget {} (s.slice d n).lines line
  if fixed then s.modSlice d n (fun x => { x with errs := x.errs + 1 })
  else if homeOf s (line * 256) ≠ some (d, n) then s
  else match target (line * 256) with
    | .hbm _ _ =>
      if !l.held then s
      else if l.dirty then { s with poison := mark s.poison line }
      else s.modSlice d n (fun x => { x with lines := x.lines.filter (fun y => y.1 ≠ line) })
    | _ => if inCarve s (line * 256) then { s with poison := mark s.poison line } else s

/-- PAUSE_END (02 R49): a strand whose pause is over goes on. -/
def pauseEndEv (c k : Nat) (s : State) : State :=
  s.modStrand c k (fun t => if t.st = .blocked && t.reason = some .pause && decide (t.pauseEnd ≤ s.cycle) then
    { t with st := .running, reason := none } else t)

end Sys2Proof.Machine
end

