-- ==== Sys2Proof/Machine/EventsCore.lean ====
section
/-! DEFINITION. The meanings of the device's events that concern what a core does between its words: engines, retirement, copy transfers, permits, time, freezes (01, 05, 06 R130, R147, 08 R191-R193). -/

namespace Sys2Proof.Machine

/-- ENGINE_WORD_START (R27). -/
def execEngineWordStart (c : Nat) (k : Nat) (e : Engine) (s : State) : Host.Outcome State Fault Refusal :=
  .next (engineStartEv c k e s)

/-- WORD_RETIRE (R27). -/
def execWordRetire (c : Nat) (k : Nat) (e : Engine) (s : State) : Host.Outcome State Fault Refusal :=
  .next (retireEv c k e s)

/-- DEADLOCK_DETECT (R123). -/
def execDeadlockDetect (c : Nat) (s : State) : Host.Outcome State Fault Refusal :=
  .next (deadlockEv c s)

/-- CORRECTABLE_ERROR (R120). -/
def execCorrectableError (c : Nat) (s : State) : Host.Outcome State Fault Refusal :=
  .next (correctableEv c s)

/-- FREEZE_BEGIN (R120). -/
def execFreezeBegin (c : Nat) (s : State) : Host.Outcome State Fault Refusal :=
  .next (freezeBeginEv c s)

/-- FREEZE_END (R119). -/
def execFreezeEnd (c : Nat) (s : State) : Host.Outcome State Fault Refusal :=
  .next (freezeEndEv c s)

/-- PAGE_REFILL_COMPLETE (R116). -/
def execPageRefillComplete (c : Nat) (page : Nat) (mapped : Bool) (bad : BitVec 64) (s : State) : Host.Outcome State Fault Refusal :=
  .next (refillEv c page mapped bad s)

/-- PAUSE_END (R49). -/
def execPauseEnd (c : Nat) (k : Nat) (s : State) : Host.Outcome State Fault Refusal :=
  .next (pauseEndEv c k s)

/-- ACCUMULATOR_WRITEBACK (R130). -/
def execAccumulatorWriteback (c : Nat) (s : State) : Host.Outcome State Fault Refusal :=
  .next (writebackAccEv c s)

/-- PERMIT_DECISION (R147). -/
def execPermitDecision (c : Nat) (s : State) : Host.Outcome State Fault Refusal :=
  .next (permitDecisionEv c s)

/-- TRANSFER_START (R191). -/
def execTransferStart (c : Nat) (hoop : Nat) (slot : Nat) (s : State) : Host.Outcome State Fault Refusal :=
  .next (transferStartEv c hoop slot s)

/-- TRANSFER_CHUNK (R192). -/
def execTransferChunk (c : Nat) (hoop : Nat) (slot : Nat) (s : State) : Host.Outcome State Fault Refusal :=
  .next (transferChunkEv c hoop slot s)

/-- SLOT_FILL (R193). -/
def execSlotFill (c : Nat) (hoop : Nat) (slot : Nat) (s : State) : Host.Outcome State Fault Refusal :=
  .next (slotFillEv c hoop slot s)

/-- WUT_CROSSING (R418). -/
def execWutCrossing (c : Nat) (s : State) : Host.Outcome State Fault Refusal :=
  .next (wutCrossingEv c s)

end Sys2Proof.Machine
end

