-- ==== Sys2Proof/Machine/EventsCrown.lean ====
section
/-! DEFINITION. The meanings of the device's events that concern the crown, the loader and the central copy engine (16, 17 R330-R334, 23). -/

namespace Sys2Proof.Machine

/-- LOAD_GO (R427). -/
def execLoadGo (die : Nat) (s : State) : Host.Outcome State Fault Refusal :=
  .next (loadGoEv die s)

/-- LOAD_COMPLETE (R428). -/
def execLoadComplete (die : Nat) (s : State) : Host.Outcome State Fault Refusal :=
  .next (loadCompleteEv die s)

/-- QUEUE_TABLE_WRITE (R297). -/
def execQueueTableWrite (die : Nat) (entry : Nat) (data : BitVec 64) (s : State) : Host.Outcome State Fault Refusal :=
  .next (booted (fun s => if entry < 64 then queueTableSet die entry data s else s) s)

/-- PACKET_ACCEPT (R300). -/
def execPacketAccept (die : Nat) (entry : Nat) (s : State) : Host.Outcome State Fault Refusal :=
  .next (acceptEv die entry s)

/-- COPY_PACKET_ROW (R304). -/
def execCopyPacketRow (die : Nat) (k : Nat) (s : State) : Host.Outcome State Fault Refusal :=
  .next (copyRowEv die k s)

/-- COMPLETION_RECORD_WRITE (R301). -/
def execCompletionRecordWrite (die : Nat) (entry : Nat) (s : State) : Host.Outcome State Fault Refusal :=
  .next (recordEv die entry s)

/-- OPERAND_WORD_POLL (R311). -/
def execOperandWordPoll (die : Nat) (s : State) : Host.Outcome State Fault Refusal :=
  .next (wake die s)

/-- PRIORITY_AGING (R313). -/
def execPriorityAging (die : Nat) (launch : Nat) (node : Nat) (s : State) : Host.Outcome State Fault Refusal :=
  .next (agingEv ⟨die, launch, node⟩ s)

/-- TEXT_REWRITE (R429). -/
def execTextRewrite (die : Nat) (launch : Nat) (node : Nat) (s : State) : Host.Outcome State Fault Refusal :=
  .next (textRewriteEv ⟨die, launch, node⟩ s)

/-- NODE_PLACE (R314). -/
def execNodePlace (die : Nat) (s : State) : Host.Outcome State Fault Refusal :=
  .next (nodePlaceEv die s)

/-- DISPATCH (R30). -/
def execDispatch (die : Nat) (launch : Nat) (node : Nat) (s : State) : Host.Outcome State Fault Refusal :=
  .next (dispatchEv ⟨die, launch, node⟩ s)

/-- PREEMPT_DECISION (R315). -/
def execPreemptDecision (die : Nat) (launch : Nat) (node : Nat) (s : State) : Host.Outcome State Fault Refusal :=
  .next (preemptDecisionEv ⟨die, launch, node⟩ s)

/-- PREEMPT_SIGNAL (R332). -/
def execPreemptSignal (die : Nat) (launch : Nat) (node : Nat) (s : State) : Host.Outcome State Fault Refusal :=
  .next (preemptSignalEv ⟨die, launch, node⟩ s)

/-- CONTEXT_SAVED (R332). -/
def execContextSaved (die : Nat) (launch : Nat) (node : Nat) (s : State) : Host.Outcome State Fault Refusal :=
  .next (contextSavedEv ⟨die, launch, node⟩ s)

/-- NODE_RESUME (R334). -/
def execNodeResume (die : Nat) (launch : Nat) (node : Nat) (s : State) : Host.Outcome State Fault Refusal :=
  .next (nodeResumeEv ⟨die, launch, node⟩ s)

/-- HALT_TREE_FIRE (R316). -/
def execHaltTreeFire (die : Nat) (launch : Nat) (node : Nat) (s : State) : Host.Outcome State Fault Refusal :=
  .next (haltTreeEv ⟨die, launch, node⟩ s)

end Sys2Proof.Machine
end

