-- ==== Sys2Proof/Machine/Hosts.lean ====
section
/-! DEFINITION. What the outside does to the package: host accesses through the PCI Express ports (22 R404-R408), the answers to its own
requests (R407), stream-link beats and tree tokens (R410-R414), and the register writes of the control window (R405, 18 R346). -/

namespace Sys2Proof.Machine

/-! ### Host accesses to the device-memory window (R404-R406) -/

/-- The size of the window, and of the package's HBM4: 512 GiB. -/
def windowSize : Nat := 2 ^ 39

/-- The partitions whose entries bind them to a virtual function (18 R339), in ascending order. -/
def boundParts (s : State) (fn : Nat) : List Nat :=
  (List.range 65536).filter (fun p => let e := s.memNat (partAddr s (BitVec.ofNat 16 p)) 8
    decide (e % 2 = 1) && bits e 5 1 = fn)

/-- The physical address that a host access reaches: for the physical function the window's own; for a virtual function the first of its
partitions whose context translates the address decides (R405). Only device memory is reached. -/
def hostPa (s : State) (fn addr n : Nat) (write : Bool) : Option Nat :=
  let inside := fun (pa : Nat) => if pa + n ≤ windowSize then some pa else none
  if fn = 0 then inside addr
  else if addr / 65536 ≠ (addr + n - 1) / 65536 then none
  else ((boundParts s fn).findSome? (fun p =>
    match translate s { ctx := BitVec.ofNat 16 p, sup := false, write := write } addr with
    | .ok pa _ _ => some (inside pa)
    | .fail e => if e = walkWaits then some none else none)).join

/-- The completion of a host's read: its bytes, and the EP bit (R406). -/
def State.answered (s : State) (b : List Byte) (ep : Bool) : State := { s with pkg := { s.pkg with answer := b, answerEp := ep } }

/-- An error of a function of a port is logged (R406). -/
def logHostError (port fn : Nat) (s : State) : State :=
  { s with pkg := { s.pkg with hostErrs := tmod 0 s.pkg.hostErrs (port * 32 + fn) (· + 1) } }

/-- HOST_WRITE (R406): performed at the home slices; a poisoned one is discarded and logged. An unsupported one has no effect (R404),
nor has one to a lost stack (18 R350). -/
def hostWriteEv (port fn addr : Nat) (data : List Byte) (bad : Bool) (s : State) : State :=
  if bad then logHostError port fn s
  else match hostPa s fn addr data.length true with
    | none => s
    | some pa => if rangeReady s pa data.length && !rangeLost s pa data.length then writeBytes s pa data else s

/-- HOST_READ (R406): the lines are read at their home slices, and the completion carries the bytes; that of a poisoned line has the EP
bit, and the bytes unchanged. -/
def hostReadEv (_port fn addr n : Nat) (s : State) : State :=
  match hostPa s fn addr n false with
  | none => s
  | some pa =>
    if !rangeReady s pa n then s
    else
      let r := readBytes s pa n
      r.2.1.answered (if r.1.isSome then memReadN s.mem pa n else r.2.2) r.1.isSome

/-- TIME_ST_READ (22 R416): the host receives time.st, and its step bit clears. -/
def hostTimeEv (s : State) : State := timeStRead (s.answered (leBytes 8 (crownGet s 0 0x3000).toNat) false)

/-- The operation code of a host's AtomicOp (10 R229). -/
def hostOpCode : HostOp → Nat
  | .fetchAdd => 0x05
  | .swap => 0x0D
  | .cas => 0x0E

/-- HOST_ATOMICOP (R404, R406): 4 or 8 bytes, aligned, as one access; its completion carries the value before it. -/
def hostAtomicEv (_port fn addr size : Nat) (op : HostOp) (x cmp : Word) (s : State) : State :=
  if !(size = 4 || size = 8) || addr % size ≠ 0 then s
  else match hostPa s fn addr size true with
    | none => s
    | some pa => match serveAmo s (hostOpCode op) pa size x (word (cmp.toNat % 2 ^ (8 * size))) with
      | .ok s v => s.answered (leBytes size v.toNat) false
      | _ => s

/-- MSIX_VECTOR_UNMASK (R408): the messages held for the vector of a function of a port (`fn`: port × 32 + function) are sent. -/
def unmaskEv (fn vec : Nat) (s : State) : State :=
  let v := fn * 2048 + vec
  { s with pkg := { s.pkg with
      msixOpen := if s.pkg.msixOpen.contains v then s.pkg.msixOpen else s.pkg.msixOpen ++ [v]
      msixPend := s.pkg.msixPend.filter (· ≠ v)
      msixSent := s.pkg.msixSent ++ s.pkg.msixPend.filter (· = v) } }

/-- The host masks a vector again (R408). -/
def maskEv (fn vec : Nat) (s : State) : State :=
  { s with pkg := { s.pkg with msixOpen := s.pkg.msixOpen.filter (· ≠ fn * 2048 + vec) } }

/-! ### Answers to the package's own requests (R407, R412) -/

/-- The word that waits for an answer, with its core and strand. -/
def reqWord (s : State) (id : Nat) : Option (Nat × Nat × QWord) :=
  s.cores.findSome? (fun x => (List.range 4).findSome? (fun k =>
    ((x.2.strand k).words.find? (fun w => w.req = id)).map (fun w => (x.1, k, w))))

/-- The transfer that waits for a piece, or for an acknowledgement. -/
def xferOfReq (s : State) (id : Nat) : Option (Nat × Xfer) :=
  s.cores.findSome? (fun x => (x.2.d.xfers.find? (fun t => t.req = id || t.acks.contains id)).map (fun t => (x.1, t)))

/-- The answer to a word's request: a Y word gets its bytes (DOMSET and its like), any other word completes or fails: with
0x05 an atomic that the host ends (`ended`) with an error (10 R229), else with 0x08. -/
def answerWord (q : Req) (ok ended : Bool) (data : List Byte) (s : State) : State :=
  let s := s.dropReq q.id
  if (((s.core q.core).strand q.strand).queue .y).any (fun w => w.seq = q.seq) then
    s.modStrand q.core q.strand (fun t => t.modAny q.seq (fun w =>
      if ok then { w with buf := w.buf ++ data, req := 0 } else { w with bit := true, req := 0 }))
  else if ok || q.kind = .store then
    finishWord q.core q.strand q.seq (if q.kind = .store then 0 else word (leNat (data.take q.size))) s
  else
    let t := match q.kind, target q.pa, ended with
      | .amo _, .host _, true => { runTrap 0x05 with addr := reqAddr s q }
      | _, _, _ => reqTrap q.kind 0x08 (reqAddr s q)
    failWord q.core q.strand q.seq t s

/-- A zero-length read for a core, or for another writer, comes back: its posted writes before it are acknowledged (10 R227, 16 R301). -/
def coverWrites (r : HostReq) (s : State) : State :=
  if r.size ≠ 0 || (r.core.isNone && r.own.isEmpty) then s
  else { s with pkg := { s.pkg with hostReqs := s.pkg.hostReqs.filter (fun q =>
    !(q.write && q.core == r.core && q.own == r.own && decide (q.id < r.id))) } }

/-- The one zero-length read of a release has come back. -/
def answerRelease (c k : Nat) (w : QWord) (s : State) : State :=
  s.modStrand c k (fun t => t.modAny w.seq (fun w => { w with req := 0, bit := false }))

/-- What the crown, a central copy engine, a loader or SUBMIT asked for arrives: a write is acknowledged, a reader gets its bytes. -/
def answerAsk (id : Nat) (ok : Bool) (data : List Byte) (s : State) : State :=
  { s with asks := (s.asks.filter (fun a => !(a.id = id && a.write))).map (fun a => if a.id = id then { a with ans := some (ok, data) } else a) }

/-- An answer arrives. -/
def answerReq (id : Nat) (ok ended : Bool) (data : List Byte) (s : State) : State :=
  match s.findReq id with
  | some q => answerWord q ok ended data s
  | none => match xferOfReq s id with
    | some (c, t) =>
      if t.req = id then { s with pkg := { s.pkg with arrived := s.pkg.arrived ++ [(id, ok, data)] } }
      else modXfer c t.order (fun t => { t with acks := t.acks.filter (· ≠ id) }) s
    | none => match reqWord s id with
      | some (c, k, w) => answerRelease c k w s
      | none => if s.asks.any (fun a => a.id = id) then answerAsk id ok data s else s

/-- Take a request to the host off the list. -/
def dropHost (id : Nat) (s : State) : State :=
  { s with pkg := { s.pkg with hostReqs := s.pkg.hostReqs.filter (fun r => r.id ≠ id) } }

/-- HOST_COMPLETION (R407): of a request that expects one, with all of its bytes if it succeeds. -/
def completionEv (id : Nat) (ok : Bool) (data : List Byte) (s : State) : State :=
  match s.pkg.hostReqs.find? (fun r => r.id = id && !r.write) with
  | none => s
  | some r => if ok && data.length ≠ r.size then s else answerReq id ok true data (coverWrites r (dropHost id s))

/-- 50 ms, in core cycles of 1/1.8 ns (R407). -/
def hostTimeout : Nat := 90000000

/-- HOST_COMPLETION_TIMEOUT (R407). -/
def completionTimeoutEv (id : Nat) (s : State) : State :=
  match s.pkg.hostReqs.find? (fun r => r.id = id && !r.write) with
  | none => s
  | some r => if s.cycle < r.at_ + hostTimeout then s else answerReq id false false [] (coverWrites r (dropHost id s))

/-! ### Stream links (R410-R414) -/

/-- One late delivery (R411, R414). -/
def countLate (link : Nat) (late : Bool) (s : State) : State :=
  if late then s.modLink link (fun l => { l with late := l.late + 1 }) else s

/-- Answer a peer's request over its link. -/
def reply (link : Nat) (ok : Bool) (data : List Byte) (s : State) : State :=
  s.modLink link (·.put 2 (.response 0 ok data))

/-- A message from another package enters the die ring of its link's die at the stream-link endpoint (10 R221); its sender is kept, for
the answer to it. -/
def linkMessage (link core : Nat) (payload : Word) (tag : BitVec 16) (src launch node : Nat) (mcast : Bool) (s : State) : State :=
  let it : Item := { src := linkSource link src, pkg := s.pkg.devId, die := coreDie core, cluster := coreCluster core
                     station := coreIdx core, body := if mcast then .mcast payload tag else .msg payload tag
                     launch := 0, node := launch * 65536 + node, at_ := s.cycle }
  s.modRing (96 + link / 4) (fun r => { r with bridge := tmod [] r.bridge 16 (· ++ [it]) })

/-- A peer's access to this package's memory, at its home slices. -/
def peerWrite (link pa : Nat) (data : List Byte) (s : State) : State :=
  let ok := decide (pa + data.length ≤ windowSize) && !rangeLost s pa data.length
  reply link ok [] (if ok then writeBytes s pa data else s)
def peerRead (link pa n : Nat) (s : State) : State :=
  if pa + n ≤ windowSize then
    match readBytes s pa n with
    | (some _, s, _) => reply link false [] s
    | (none, s, b) => reply link true b s
  else reply link false [] s
def peerAtomic (link pa size op : Nat) (x cmp : Word) (s : State) : State :=
  if pa + size ≤ windowSize then
    match serveAmo s op pa size x cmp with
    | .ok s v => reply link true (leBytes size v.toNat) s
    | _ => reply link false [] s
  else reply link false [] s

/-- LINK_BEAT_ARRIVAL (R411): a late one is counted. A token waits for the end of its hold, F cycles and its serialisation after that began,
and one that comes after that is late (R414); a credit takes the beats that the far end has received off the list, and lets as many of its
channel go; a port-stream beat is held, for the spec names no lane that takes it. A peer's request that must wait at its home slice has not
arrived yet, nor has a message for which the endpoint's queue has no room (10 R454). -/
def linkBeatEv (link ch : Nat) (late : Bool) (m : LinkItem) (s : State) : State :=
  let wait := match m with
    | .write pa b => !rangeReady s pa b.length
    | .read pa n => !rangeReady s pa n
    | .atomic pa n _ _ _ => !rangeReady s pa n
    | .message .. => decide (64 ≤ (tget [] (s.ring (96 + link / 4)).bridge 16).length)
    | _ => false
  if wait then s
  else
    let tardy := match m with
      | .token _ _ t _ => decide (t + 16 + (s.link link).f.toNat < s.cycle)
      | _ => false
    let s := countLate link (late || tardy) s
    match m with
    | .token _ _ t _ => s.modLink link (fun l => { l with hold := l.hold ++ [(t + 16 + l.f.toNat, m)] })
    | .stream _ _ _ _ => s.modLink link (fun l => { l with hold := l.hold ++ [(s.cycle, m)] })
    | .message c v t a l n m => linkMessage link c v t a l n m s
    | .accepted c l n m => freeSender c l n m s
    | .write pa b => peerWrite link pa b s
    | .read pa n => peerRead link pa n s
    | .atomic pa n op x cmp => peerAtomic link pa n op x cmp s
    | .response id ok b => answerReq id ok false b s
    | .credit n => s.modLink link (·.credited ch n)

/-- TREE_TOKEN_FORWARD (R414): the oldest token of a link for a live slot is passed on when its hold ends, `late` cycles after that where it
came late. -/
def tokenForwardEv (link late : Nat) (s : State) : State :=
  match heldToken s (s.link link) with
  | none => s
  | some (t, n, kind, b, data) =>
    if t + late ≠ s.cycle then s
    else tokenIn link n kind data (s.modLink link (fun l => { l with hold := l.hold.erase (t, .token n kind b data) }))

/-! ### Registers (R405, 18 R346) -/

/-- Does a cached translation meet the range of an invalidation request? -/
def TlbEntry.meets (e : TlbEntry) (x : CrownRegs) : Bool :=
  e.ctx == x.tibCtx && (x.tibLen = 0 || decide (e.page * 2 ^ e.bits < x.tibVa.toNat + x.tibLen.toNat
    ∧ x.tibVa.toNat < (e.page + 1) * 2 ^ e.bits))

/-- INVALIDATION_REQUEST (18 R346): go is set, and every copy engine and slice drops its entries of the range. -/
def invalidateEv (d : Nat) (s : State) : State :=
  let r := (s.die d).crown
  if r.tibRun then s
  else
    let s := s.modDie d (fun x => { x with crown := { x.crown with tibGo := true, tibRun := true } })
    { s with
      cores := s.cores.map (fun c => (c.1, { c.2 with tlb := c.2.tlb.filter (fun e => !e.meets r) }))
      slices := s.slices.map (fun x => (x.1, { x.2 with walks := x.2.walks.filter (fun e => !e.meets r) })) }

/-- Does a page of `b` bits at an address meet the range of an invalidation request? -/
def CrownRegs.near (r : CrownRegs) (b : Nat) (va : Nat) : Bool := ({ ctx := r.tibCtx, page := va / 2 ^ b, bits := b, leaf := 0 } : TlbEntry).meets r

/-- The address at which a word past its checks uses a translation, with the size in bits of the largest page that it can lie in: a versioned
page is of 64 KiB (R342). -/
def usedAddr (w : QWord) : Option (Nat × Nat) :=
  match w.i with
  | .verst _ _ _ _ _ | .verld _ _ _ _ _ | .verrcl _ _ _ _ _ => some (w.va.toNat, 16)
  | .stg _ _ _ _ _ _ | .strl _ _ _ _ _ | .ldg _ _ _ _ _ _ | .lda _ _ _ _ _ => some ((w.va + w.vb).toNat, 30)
  | .lat _ _ _ _ | .ldt _ _ _ _ | .lfold _ _ _ _ | .lfwait _ _ _ | .lgen _ _ _ | .submit _ _ _ _ => some (w.va.toNat, 30)
  | .ldxD _ _ _ _ | .ldxW _ _ _ _ => none
  | i => if isLoad i then some (w.va.toNat, 30) else none

/-- Is an access of a core under way that may use a translation that a request drops: a request, also a stalled one of a cell, a word past
its checks, a transfer's chunk? -/
def usesOld (s : State) (r : CrownRegs) (c : Nat) (x : Core) : Bool :=
  x.csr.partition = r.tibCtx &&
    (s.reqs.any (fun q => q.core = c && r.near (if q.kind.cell then 16 else 30) (reqAddr s q).toNat)
     || x.allWords.any (fun w => w.2.phase = .started && (match usedAddr w.2 with
       | some (a, b) => r.near b a
       | none => false))
     || x.d.xfers.any (fun t => t.req ≠ 0 || !t.acks.isEmpty || !t.pages.isEmpty))

/-- INVALIDATION_DONE (18 R346). -/
def invalidateDoneEv (d : Nat) (s : State) : State :=
  let r := (s.die d).crown
  if !r.tibRun || s.cores.any (fun c => usesOld s r c.1 c.2) then s
  else s.modDie d (fun x => { x with crown := { x.crown with tibGo := false, tibRun := false } })

end Sys2Proof.Machine
end

