-- ==== Sys2Proof/Machine/Boot.lean ====
section
/-! DEFINITION. Package time (22 R415-R417), permits and heat (26 R447-R449), attestation (26 R446), and the resets: of the package
(26 R443 to R445), of a die (26 R452), of a stack (18 R350) and of a link (22 R411), with the recovery of accepted work (16 R318). -/

namespace Sys2Proof.Machine

/-! ### Package time (22 R416, R417) -/

/-- PTP_MESSAGE (22 R416): with discipline enabled, a message from the parent gives the last measured offset. -/
def ptpMessageEv (_link : Nat) (parent : Bool) (offset : BitVec 32) (s : State) : State :=
  if parent && s.time.en then { s with time := { s.time with role := 2, offset := offset } } else s

/-- PTP_PARENT_LOSS (R417): lock is cleared. Whether the package then runs free or is grandmaster is a free value. -/
def parentLossEv (s : State) : State :=
  { s.takeFree with time := { s.time with lock := false, good := 0, bad := 0, role := (s.freeVal.setWidth 1).setWidth 2 } }

/-- Is a measured offset within 10 ns (R417)? -/
def offsetGood (o : BitVec 32) : Bool := decide (o.toInt.natAbs ≤ 10 * 65536)

/-- Is a rate within 200 ppm of the nominal one (R417)? -/
def rateOk (r : BitVec 32) : Bool := decide (((r.toNat : Int) - 0x8E38E38E).natAbs * 5000 ≤ 0x8E38E38E)

/-- The servo's action in one interval (R417): `o` the measured offset, `step` what it adds to the count before lock, `rate` the new
rate. -/
def servo (o : BitVec 32) (step : BitVec 96) (rate : BitVec 32) (t : TimeState) : TimeState :=
  let good := if offsetGood o then t.good + 1 else 0
  let bad := if offsetGood o then 0 else t.bad + 1
  let t := { t with offset := o, good := good, bad := bad }
  if t.lock then { t with rate := if rateOk rate then rate else t.rate, lock := decide (bad < 4) }
  else { t with count := t.count + step, step := t.step || step ≠ 0, rate := if rateOk rate then rate else t.rate, lock := decide (16 ≤ good) }

/-- 62.5 ms, in core cycles of 1/1.8 ns (R417). -/
def syncInterval : Nat := 112500000

/-- SYNC_INTERVAL (R416, R417): one comes a whole interval after the one before it. -/
def syncIntervalEv (o : BitVec 32) (step : BitVec 96) (rate : BitVec 32) (s : State) : State :=
  if s.time.en && (match s.time.sync with
    | some t => decide (t + syncInterval ≤ s.cycle)
    | none => true) then { s with time := { servo o step rate s.time with sync := some s.cycle } } else s

/-! ### Permits and heat (26 R447-R449) -/

/-- GOVERNOR_CAP_UPDATE (R447). -/
def capUpdateEv (d c cap : Nat) (s : State) : State :=
  if s.cycle % 2 ^ 21 = 0 && decide (cap ≤ 16) then s.modDie d (fun x => { x with gov := tmod {} x.gov c (fun g => { g with cap := cap }) })
  else s

/-- THERMAL_HOLD (R449). -/
def thermalHoldEv (d : Nat) (s : State) : State :=
  s.modDie d (fun x => { x with gov := (List.range 12).foldl (fun t c => tmod {} t c (fun g => { g with cap := 0 })) x.gov })

/-- THERMAL_SHUTDOWN (R449): the power is gone, and with it all that the package held; its fuses stay. -/
def shutdownEv (s : State) : State :=
  { State.reset with agenda := s.agenda, free := s.free, pkg := { rollback := s.pkg.rollback, powered := false } }

/-! ### Attestation (26 R446) -/

/-- REPORT_REQUEST (R446): the nonce and go; ignored while go is 1. -/
def reportRequestEv (nonce : BitVec 256) (s : State) : State :=
  if s.pkg.repGo then s else { s with pkg := { s.pkg with nonce := leBytes 32 nonce.toNat, repGo := true } }

/-- The region part of a report: status word and identifier of each region, in order. -/
def regionBytes (s : State) : List Byte :=
  (List.range 384).flatMap (fun g => leBytes 8 (regionStatus s g).toNat ++ leBytes 8 (s.region g).img.ident)

/-- Bytes 0 to 191 of a report. -/
def reportBody (s : State) : List Byte :=
  leBytes 8 0x54415446 ++ leBytes 8 s.pkg.devId.toNat ++ (s.pkg.nonce ++ List.replicate 32 0).take 32 ++ leBytes 64 s.pkg.digest.toNat
  ++ leBytes 8 (s.pkg.rollback.toNat * 2 ^ 32 + s.pkg.svn.toNat) ++ leBytes 8 (s.time.count.toNat / 2 ^ 32) ++ shake256 (regionBytes s) 64

/-- REPORT_READY (R446): the signed report stands, and go returns to 0. -/
def reportReadyEv (s : State) : State :=
  if s.pkg.repGo then
    let b := reportBody s
    { s with pkg := { s.pkg with repGo := false, report := b ++ Config.reportSignature identitySeed b } }
  else s

/-! ### Recovery of accepted work (16 R318) -/

/-- A node's cores and regions are given back, and it stands in the pool again; its shadow frames are discarded. -/
def rerunNode (r : NodeRef) (s : State) : State :=
  match nodeOf s r with
  | none => s
  | some n =>
    let s := s.modNode r (fun n => { n with st := .ready, ageFrom := s.cycle, frames := [], saved := [], savedRegions := [], fireAt := none })
    bindPorts (sweepTables (blankRegions n (freeCores r n s)))

/-- Does a unit run again whole: its tiles are replayable? -/
def unitReplays (u : List (NodeRef × Node)) : Bool :=
  u.any (fun x => x.2.replay) && u.all (fun x => x.2.replay || x.2.kind = .weave)

/-- A core stops as a part of the device is reset (26 R452, 16 R318): code 0x08, bit 1 of extra word 0. No handler runs: the crown takes the
node. -/
def resetCore (c : Nat) (s : State) : State :=
  let x := s.core c
  if x.node.isNone || x.ending.isSome then s
  else
    let k := ((List.range 4).find? (fun k => (x.strand k).active)).getD 3
    let t : Trap := { runTrap 0x08 with x0 := 2 }
    let s := s.modCsr c (fun r => { r with tvec := 0 })
    (takeFault c k t (codeWord x k (x.strand k).pc) (x.strand k).pc none s).modCore c (fun x => { x with ending := some 0x08, entering := false })

/-- The fault record of a node that a reset ends (R318): its first core's stop, where none of its cores has stopped. -/
def stopForReset (n : Node) (s : State) : State :=
  if n.cores_.any (fun c => (s.core c).ending.isSome) then s
  else match n.cores_ with
    | c :: _ => resetCore c s
    | [] => s

/-- A node that a reset has touched. Not yet dispatched, it is dispatched normally; running, it runs again if it is replayable, and ends
aborted with 0x08 if not, with a fault record that marks the reset. -/
def recoverNode (s : State) (r : NodeRef) : State :=
  match nodeOf s r with
  | none => s
  | some n =>
    let u := unitOf s r
    let again := fun (s : State) => u.foldl (fun s x => rerunNode x.1 s) s
    match n.st with
    | .reserved | .placed => again s
    | .running | .saving | .resuming => if unitReplays u then again s else abortNode r 0x08 (stopForReset n s)
    | _ => s

/-- The copy packets of a die that a reset has touched: replayed whole; a SCATTER.ADD ends aborted with 0x08, its private copy discarded. -/
def recoverPackets (d : Nat) (s : State) (touched : Packet → Bool := fun _ => true) : State :=
  (s.die d).packets.foldl (fun s p =>
    if !p.isCopy || !p.begun || p.result.isSome || !touched p then s
    else if p.kind = 4 then
      (endPacket d p.id 0x08 true s).modDie d (fun x => { x with
        scatter := x.scatter.filter (fun y => !(y.issuer = p.issuer.toNat && y.ctx = p.ctx)) })
    else modPacket d p.id (fun p => { p with row := 0, oob := false, wrote := [] }) s) s

/-! ### Resets of parts -/

/-- Every domain with a part on the die breaks (12 R254, R256): one whose members' stop tells it breaks when the signal comes. -/
def breakDomains (d : Nat) (told : List Nat) (s : State) : State :=
  (List.range 64).foldl (fun s n =>
    let x := s.slot d n
    if !x.installed || x.members.any (fun c => told.contains c) then s
    else breakSlot (if x.level ≤ 1 then d else 8) n s) s

/-- Saved contexts that still stand in the die's cores are in memory (17 R332), and stay with their nodes. -/
def keepContexts (d : Nat) (s : State) : State :=
  (dieCores d).foldl (fun s c => match (s.core c).node with
    | some r => (match nodeOf s r with
      | some n => if n.st = .saved then evictContext c s else s
      | none => s)
    | none => s) s

/-- DIE_RESET (26 R452, 16 R318). -/
def dieResetEv (d : Nat) (s : State) : State :=
  let s := keepContexts d s
  let told := (dieCores d).filter (fun c => let x := s.core c; x.node.isSome && !x.preempt && x.ending.isNone)
  let s := told.foldl (fun s c => resetCore c s) s
  let s := breakDomains d told s
  let touched := (allNodes s).filter (fun x => x.2.2.st.occupies && x.2.2.die = d && x.2.2.kind.leaf)
  let s := (touched.map (·.1)).foldl recoverNode s
  startPackets d ((recoverPackets d s).modDie d (fun x => { x with resets := x.resets + 1 }))

/-- A write of a control-window register by the physical function (22 R405); offset 0x3080 starts a die reset (26 R452). -/
def hostRegister (d off : Nat) (x : Word) (s : State) : State :=
  if off = 0x3080 then (if x = 1 then dieResetEv d s else s) else crownWrite d off x true s

/-- STACK_RESET (18 R350): misses wait until it ends; the queues of the die are then taken up again (16 R318). -/
def stackResetEv (d : Nat) (p : ResetPhase) (s : State) : State :=
  match p, (s.die d).stack with
  | .start, .ok => s.modDie d (fun x => { x with stack := .resetting })
  | .restored, .resetting => recoverPackets d (s.modDie d (fun x => { x with stack := .ok }))
  | .lost, .resetting => recoverPackets d (s.modDie d (fun x => { x with stack := .lost }))
  | _, _ => s

/-- The link that a physical address leads over, if any (22 R412). -/
def linkOf (s : State) (pa : Nat) : Option Nat :=
  match target pa with
  | .peer idx _ => some (wbits (tget 0 s.pkg.peer idx) 24 20)
  | _ => none

/-- Is a transfer's access on its way over a link: it waits for a piece or an acknowledgement, and one of its pages leads there? -/
def xferOn (s : State) (c link : Nat) (t : Xfer) : Bool :=
  (t.req ≠ 0 || !t.acks.isEmpty) && t.globRanges.any (fun r =>
    (List.range (r.2 / 65536 + 2)).any (fun i => match translate s (coreAccess s c) (Nat.min (r.1 + 65536 * i) (r.1 + r.2 - 1)) with
      | .ok pa _ _ => linkOf s pa = some link
      | .fail _ => false))

/-- The nodes that wait for an answer over a link. -/
def linkNodes (s : State) (link : Nat) : List NodeRef :=
  (s.cores.filterMap (fun x =>
    if s.reqs.any (fun q => q.core = x.1 && linkOf s q.pa = some link) || x.2.d.xfers.any (xferOn s x.1 link)
        || s.asks.any (fun a => a.own.take 2 = [6, x.1] && linkOf s a.pa = some link) then x.2.node else none)).eraseDups

/-- The copy packets of the dies that wait for an answer over a link are recovered. -/
def linkPackets (link : Nat) (s : State) : State :=
  let on := fun (d : Nat) (p : Packet) => s.asks.any (fun a => a.own = p.own d && linkOf s a.pa = some link)
  s.dies.foldl (fun t d => if d.2.packets.any (on d.1) then recoverPackets d.1 t (on d.1) else t) s

/-- The fixed delays that a link can train to (22 R414). -/
def trainedDelay (f : BitVec 11) : BitVec 11 := BitVec.ofNat 11 (Nat.max 64 (Nat.min 1080 f.toNat))

/-- LINK_RESET (22 R411): it trains again; the nodes and copy packets whose accesses were on it are recovered (16 R318). What stands
in its lists is neither lost nor doubled. -/
def linkResetEv (link : Nat) (f : BitVec 11) (s : State) : State :=
  linkPackets link ((linkNodes s link).foldl recoverNode (s.modLink link (fun l => { l with f := trainedDelay f, resets := l.resets + 1 })))

/-- The nodes whose flits stand at a UCIe port: 0 for station 13, 1 for station 14. -/
def portNodes (s : State) (d port : Nat) : List NodeRef :=
  ((allNodes s).filter (fun x => s.ucie.any (fun i => i.1 = 2 * d + port && i.2.2.launch = x.1.launch + 1 && i.2.2.node = x.1.node))).map (·.1)

/-- A UCIe port that cannot train again: a part fault (22 R409, 16 R318). -/
def portLost (d port : Nat) (s : State) : State := (portNodes s d port).foldl recoverNode s

/-- An error strikes. -/
def strike (e : Strike) (s : State) : State :=
  match e with
  | .code c w => s.modCore c (fun x => { x with codeBad := mark x.codeBad w })
  | .scalar c k r => if 1 ≤ r ∧ r < 28 then s.modStrand c k (fun t => { t with bad := mark t.bad r }) else s
  | .shared c f r =>
    if r < fileSize f ∧ (f, r) ≠ (1, 0) then s.modData c (fun d => { d with regBad := mark d.regBad (f, r) }) else s
  | .scratch c l => if l < 8192 then s.modData c (fun d => { d with scrBad := mark d.scrBad l }) else s
  | .slice d n l fixed => strikeSlice d n l fixed s
  | .residue c n r => s.modData c (fun d => { d with residue := mark d.residue (n, r) })
  | .half c n copy el bits => s.modData c (fun d => { d with half := d.half ++ [(n, copy, el, bits)] })
  | .port d p => portLost d p s

/-! ### Package reset (26 R443, R444) -/

/-- The lengths of a boot image's parts (R444): header, a Falcon-1024 key, signature block. -/
def keyBytes : Nat := 1793
def signedBytes (b : List Byte) : Nat := 64 + 9 * keyBytes + (Config.bootHeader (b.take 64)).2.2.2.1

/-- The part that a boot image's signature is over, and its digest. -/
def bootSigned (b : List Byte) : List Byte := b.take (signedBytes b)
def bootDigest (b : List Byte) : BitVec 512 := BitVec.ofNat 512 (leNat (shake256 (bootSigned b) 64))

/-- Key `i` of an image: 0 the root key, 1 to 8 the slots' keys. -/
def bootKey (b : List Byte) (i : Nat) : BitVec 14344 := BitVec.ofNat 14344 (leNat ((b.drop (64 + i * keyBytes)).take keyBytes))

/-- The security version of an image. -/
def bootSvn (b : List Byte) : BitVec 32 := BitVec.ofNat 32 (Config.bootHeader (b.take 64)).2.2.1

/-- The layout of an image: header fields and length. -/
def bootLayout (b : List Byte) : Bool :=
  let h := Config.bootHeader (b.take 64)
  h.1 = 0x57485A46 && h.2.1 = 1 && decide (h.2.2.1 < 2 ^ 32) && decide (h.2.2.2.1 ≤ 2 ^ 24) && h.2.2.2.2
    && decide (b.length = signedBytes b + 1536)

/-- Is an image accepted (R444): its layout, the root key against the fused digest, the signature, the security version? -/
def bootOk (b : List Byte) (fused : BitVec 32) : Bool :=
  if b.length < 64 + 9 * keyBytes + 1536 then false
  else
    let sig := b.drop (signedBytes b)
    let len := leNat (sig.take 2)
    bootLayout b && shake256 ((b.drop 64).take keyBytes) 64 == Config.rootDigest
      && decide (1 ≤ len ∧ len ≤ 1534) && (sig.drop (2 + len)).all (· = 0)
      && Config.falconVerify (bootKey b 0) (bootDigest b) ((sig.drop 2).take len)
      && decide (fused.toNat ≤ (bootSvn b).toNat)

/-- The image that runs: the first of the two copies in flash that is accepted (R443 steps 2 and 3). -/
def bootImage (b : Boot) (fused : BitVec 32) : Option (List Byte) :=
  if bootOk b.image fused then some b.image else if bootOk b.second fused then some b.second else none

/-- The step at which the boot sequence halts: 0 where it does not. Each of dies 1 to 7 verifies its own copy (step 4). -/
def bootHalt (b : Boot) (fused : BitVec 32) : Nat :=
  if b.failed = 1 || b.failed = 2 then b.failed
  else if (bootImage b fused).isNone then 3
  else if b.failed = 4 || !(List.range 7).all (fun i => bootOk (b.copies.getD i []) fused) then 4
  else if 5 ≤ b.failed && b.failed ≤ 7 then b.failed else 0

/-- The key slots that the image fills: an all-zero entry leaves its slot empty (14 R281). -/
def bootKeys (b : List Byte) : Table (BitVec 14344) :=
  ((List.range 8).map (fun i => (i, bootKey b (i + 1)))).filter (fun x => x.2 ≠ 0)

/-- PACKAGE_RESET: the counter of the fuses never falls. Where the sequence halts, nothing after that step is done. -/
def packageResetEv (b : Boot) (s : State) : State :=
  let fused := if b.rollback.toNat < s.pkg.rollback.toNat then s.pkg.rollback else b.rollback
  let code := bootHalt b fused
  let r : State := { State.reset with agenda := s.agenda, free := s.free }
  match code, bootImage b fused with
  | 0, some m =>
    { r with links := (List.range 32).map (fun l => (l, { f := trainedDelay b.linkDelay }))
             pkg := { keys := bootKeys m, svn := bootSvn m, rollback := fused, digest := bootDigest m } }
  | _, _ => { r with dies := if code ≤ 6 then [] else r.dies, pkg := { bootCode := code, rollback := fused } }

end Sys2Proof.Machine
end

