-- ==== Sys2Proof/Machine/EventsHost.lean ====
section
/-! DEFINITION. The meanings of the device's events that concern the host, the links, package time, heat and the resets (22, 26). -/

namespace Sys2Proof.Machine

/-- DEV_ID_WRITE (R443). -/
def execDevIdWrite (data : BitVec 64) (s : State) : Host.Outcome State Fault Refusal :=
  .next (booted (devIdSet data) s)

/-- REGISTER_WRITE (R405). -/
def execRegisterWrite (die : Nat) (off : Nat) (data : BitVec 64) (s : State) : Host.Outcome State Fault Refusal :=
  .next (booted (hostRegister die off data) s)

/-- HOST_WRITE (R406). -/
def execHostWrite (port : Nat) (fn : Nat) (addr : Nat) (data : List (BitVec 8)) (poisoned : Bool) (s : State) : Host.Outcome State Fault Refusal :=
  .next (booted (hostWriteEv port fn addr data poisoned) s)

/-- HOST_READ (R406). -/
def execHostRead (port : Nat) (fn : Nat) (addr : Nat) (n : Nat) (s : State) : Host.Outcome State Fault Refusal :=
  .next (booted (hostReadEv port fn addr n) s)

/-- HOST_ATOMICOP (R406). -/
def execHostAtomicop (port : Nat) (fn : Nat) (addr : Nat) (size : Nat) (op : HostOp) (x : BitVec 64) (cmp : BitVec 64) (s : State) : Host.Outcome State Fault Refusal :=
  .next (booted (hostAtomicEv port fn addr size op x cmp) s)

/-- LINK_BEAT_ARRIVAL (R411). -/
def execLinkBeatArrival (link : Nat) (ch : Nat) (late : Bool) (item : LinkItem) (s : State) : Host.Outcome State Fault Refusal :=
  .next (booted (linkBeatEv link ch late item) s)

/-- TREE_TOKEN_FORWARD (R414). -/
def execTreeTokenForward (link : Nat) (late : Nat) (s : State) : Host.Outcome State Fault Refusal :=
  .next (tokenForwardEv link late s)

/-- PTP_MESSAGE (R416). -/
def execPtpMessage (link : Nat) (parent : Bool) (offset : BitVec 32) (s : State) : Host.Outcome State Fault Refusal :=
  .next (booted (ptpMessageEv link parent offset) s)

/-- SYNC_INTERVAL (R417). -/
def execSyncInterval (offset : BitVec 32) (step : BitVec 96) (rate : BitVec 32) (s : State) : Host.Outcome State Fault Refusal :=
  .next (syncIntervalEv offset step rate s)

/-- GOVERNOR_CAP_UPDATE (R447). -/
def execGovernorCapUpdate (die : Nat) (cluster : Nat) (cap : BitVec 5) (s : State) : Host.Outcome State Fault Refusal :=
  .next (capUpdateEv die cluster cap.toNat s)

/-- THERMAL_HOLD (R449). -/
def execThermalHold (die : Nat) (s : State) : Host.Outcome State Fault Refusal :=
  .next (thermalHoldEv die s)

/-- THERMAL_SHUTDOWN (R449). -/
def execThermalShutdown (s : State) : Host.Outcome State Fault Refusal :=
  .next (shutdownEv s)

/-- PACKAGE_RESET (R443). -/
def execPackageReset (boot : Boot) (s : State) : Host.Outcome State Fault Refusal :=
  .next (packageResetEv boot s)

/-- DIE_RESET (R452). -/
def execDieReset (die : Nat) (s : State) : Host.Outcome State Fault Refusal :=
  .next (dieResetEv die s)

/-- STACK_RESET (R350). -/
def execStackReset (die : Nat) (phase : ResetPhase) (s : State) : Host.Outcome State Fault Refusal :=
  .next (stackResetEv die phase s)

/-- LINK_RESET (R411). -/
def execLinkReset (link : Nat) (f : BitVec 11) (s : State) : Host.Outcome State Fault Refusal :=
  .next (linkResetEv link f s)

/-- REPORT_REQUEST (R446). -/
def execReportRequest (nonce : BitVec 256) (s : State) : Host.Outcome State Fault Refusal :=
  .next (booted (reportRequestEv nonce) s)

/-- REPORT_READY (R446). -/
def execReportReady (s : State) : Host.Outcome State Fault Refusal :=
  .next (reportReadyEv s)

/-- HOST_COMPLETION (R407). -/
def execHostCompletion (req : Nat) (ok : Bool) (data : List (BitVec 8)) (s : State) : Host.Outcome State Fault Refusal :=
  .next (completionEv req ok data s)

/-- HOST_COMPLETION_TIMEOUT (R407). -/
def execHostCompletionTimeout (req : Nat) (s : State) : Host.Outcome State Fault Refusal :=
  .next (completionTimeoutEv req s)

/-- MSIX_VECTOR_UNMASK (R408). -/
def execMsixVectorUnmask (fn : Nat) (vec : Nat) (s : State) : Host.Outcome State Fault Refusal :=
  .next (booted (unmaskEv fn vec) s)

/-- TIME_ST_READ (R416). -/
def execTimeStRead (s : State) : Host.Outcome State Fault Refusal :=
  .next (booted hostTimeEv s)

/-- PTP_PARENT_LOSS (R417). -/
def execPtpParentLoss (s : State) : Host.Outcome State Fault Refusal :=
  .next (parentLossEv s)

end Sys2Proof.Machine
end

