-- ==== Sys2Proof/Machine/EventsMemory.lean ====
section
/-! DEFINITION. The meanings of the device's events that concern the rings, the home slices, translation, folds and the stacks (10, 18, 19). -/

namespace Sys2Proof.Machine

/-- FLIT_INJECT (R210). -/
def execFlitInject (ring : Nat) (station : Nat) (s : State) : Host.Outcome State Fault Refusal :=
  .next (injectEv ring station s)

/-- FLIT_OFFER (R214). -/
def execFlitOffer (ring : Nat) (station : Nat) (s : State) : Host.Outcome State Fault Refusal :=
  .next (offerEv ring station s)

/-- SLICE_ACCESS (R223). -/
def execSliceAccess (die : Nat) (slice : Nat) (s : State) : Host.Outcome State Fault Refusal :=
  .next (sliceEv die slice s)

/-- REHOME_RESEND (R233). -/
def execRehomeResend (c : Nat) (req : Nat) (s : State) : Host.Outcome State Fault Refusal :=
  .next (resendEv c req s)

/-- SLICE_MISS_FILL (R222). -/
def execSliceMissFill (line : Nat) (victim : Option Nat) (err : MemErr) (s : State) : Host.Outcome State Fault Refusal :=
  .next (missFillEv line victim err s)

/-- TRANSLATION_WALK_DONE (R344). -/
def execTranslationWalkDone (c : Nat) (va : BitVec 64) (s : State) : Host.Outcome State Fault Refusal :=
  .next (walkDoneEv c va s)

/-- WBR_INVR_FINISH (R230). -/
def execWbrInvrFinish (c : Nat) (s : State) : Host.Outcome State Fault Refusal :=
  .next (wbFinishEv c s)

/-- VERST_STALL_TIMEOUT (R357). -/
def execVerstStallTimeout (req : Nat) (s : State) : Host.Outcome State Fault Refusal :=
  .next (verstTimeoutEv req s)

/-- FOLD_TILE (R373). -/
def execFoldTile (handle : Nat) (s : State) : Host.Outcome State Fault Refusal :=
  .next (foldTileEv handle s)

/-- FOLD_SWAP (R373). -/
def execFoldSwap (handle : Nat) (s : State) : Host.Outcome State Fault Refusal :=
  .next (foldSwapEv handle s)

/-- INVALIDATION_REQUEST (R346). -/
def execInvalidationRequest (die : Nat) (s : State) : Host.Outcome State Fault Refusal :=
  .next (booted (invalidateEv die) s)

/-- INVALIDATION_DONE (R346). -/
def execInvalidationDone (die : Nat) (s : State) : Host.Outcome State Fault Refusal :=
  .next (invalidateDoneEv die s)

/-- CARVE_WRITE (R352). -/
def execCarveWrite (die : Nat) (slice : Nat) (data : BitVec 64) (s : State) : Host.Outcome State Fault Refusal :=
  .next (booted (carveSet die slice data) s)

/-- PATROL_SCRUB (R349). -/
def execPatrolScrub (line : Nat) (err : MemErr) (s : State) : Host.Outcome State Fault Refusal :=
  .next (scrubEv line err s)

end Sys2Proof.Machine
end

