-- ==== Sys2Proof/Machine/EventsSync.lean ====
section
/-! DEFINITION. The meanings of the device's events that concern the sync network (12). -/

namespace Sys2Proof.Machine

/-- SYNC_ARRIVAL (R248). -/
def execSyncArrival (root : Nat) (slot : Nat) (s : State) : Host.Outcome State Fault Refusal :=
  .next (syncArrivalEv root slot s)

/-- BARRIER_RELEASE (R248). -/
def execBarrierRelease (root : Nat) (slot : Nat) (s : State) : Host.Outcome State Fault Refusal :=
  .next (barrierReleaseEv root slot s)

/-- REDUCTION_RESULT (R251). -/
def execReductionResult (root : Nat) (slot : Nat) (s : State) : Host.Outcome State Fault Refusal :=
  .next (downEv root slot isResult s)

/-- BROADCAST_DELIVERY (R250). -/
def execBroadcastDelivery (root : Nat) (slot : Nat) (s : State) : Host.Outcome State Fault Refusal :=
  .next (downEv root slot isBcast s)

/-- BROADCAST_CREDIT_RETURN (R250). -/
def execBroadcastCreditReturn (root : Nat) (slot : Nat) (s : State) : Host.Outcome State Fault Refusal :=
  .next (creditReturnEv root slot s)

/-- EVENT_DELIVERY (R253). -/
def execEventDelivery (root : Nat) (slot : Nat) (s : State) : Host.Outcome State Fault Refusal :=
  .next (downEv root slot isEvent s)

/-- SYNC_FAULT_SIGNAL (R254). -/
def execSyncFaultSignal (root : Nat) (slot : Nat) (s : State) : Host.Outcome State Fault Refusal :=
  .next (faultSignalEv root slot s)

/-- BROKEN_VERDICT (R254): after what the root had sent before it. -/
def execBrokenVerdict (root : Nat) (slot : Nat) (s : State) : Host.Outcome State Fault Refusal :=
  .next (if verdictsDue s root slot then s else downEv root slot isVerdict s)

end Sys2Proof.Machine
end

