-- ==== Sys2Proof/Machine/EventsWeave.lean ====
section
/-! DEFINITION. The meanings of the device's events that concern the weave regions (13, 14). -/

namespace Sys2Proof.Machine

/-- BEAT_TRANSFER (R264). -/
def execBeatTransfer (rg : Nat) (lane : Nat) (egress : Bool) (s : State) : Host.Outcome State Fault Refusal :=
  .next (beatEv rg lane egress s)

/-- FIFO_CROSSING (R267). -/
def execFifoCrossing (c : Nat) (port : Nat) (s : State) : Host.Outcome State Fault Refusal :=
  .next (crossingEv c port s)

/-- WITHY_TRANSFER (R265). -/
def execWithyTransfer (rg : Nat) (withy : Nat) (s : State) : Host.Outcome State Fault Refusal :=
  .next (withyEv rg withy s)

/-- REGION_RAM_ERROR (R262). -/
def execRegionRamError (rg : Nat) (fatal : Bool) (s : State) : Host.Outcome State Fault Refusal :=
  .next (ramErrorEv rg fatal s)

/-- SWAP_BOUNDARY (R285). -/
def execSwapBoundary (rg : Nat) (s : State) : Host.Outcome State Fault Refusal :=
  .next (swapBoundaryEv rg s)

/-- PLANE_EXCHANGE (R285). -/
def execPlaneExchange (rg : Nat) (s : State) : Host.Outcome State Fault Refusal :=
  .next (planeExchangeEv rg s)

/-- SAVE_WRITEBACK_DONE (R287). -/
def execSaveWritebackDone (die : Nat) (s : State) : Host.Outcome State Fault Refusal :=
  .next (writebackEv die s)

/-- REGION_CLOCK_EDGE (R263). -/
def execRegionClockEdge (rg : Nat) (s : State) : Host.Outcome State Fault Refusal :=
  .next (clockEdgeEv rg s)

end Sys2Proof.Machine
end

