-- ==== Sys2Proof/Machine/WordsCopy.lean ====
section
/-! DEFINITION. The meanings of L words (08): one for each constructor of Instr, over the word's specification
and the shared issue of Issue.lean. -/

namespace Sys2Proof.Machine

/-- VLD (R183). -/
def execVld (h : Hdr) (d : BitVec 5) (a : BitVec 5) (b : BitVec 5) (c : BitVec 2) (z : BitVec 2) (s : State) : Host.Outcome State Fault Refusal :=
  .next (issueWord (.vld h d a b c z) (specVld h d a b c z) s)

/-- VLD_S (R184). -/
def execVldS (h : Hdr) (d : BitVec 5) (a : BitVec 5) (b : BitVec 5) (c : BitVec 2) (hh : BitVec 2) (s : State) : Host.Outcome State Fault Refusal :=
  .next (issueWord (.vldS h d a b c hh) (specVldS h d a b c hh) s)

/-- VST (R183). -/
def execVst (h : Hdr) (d : BitVec 5) (a : BitVec 5) (b : BitVec 5) (c : BitVec 2) (z : BitVec 2) (s : State) : Host.Outcome State Fault Refusal :=
  .next (issueWord (.vst h d a b c z) (specVst h d a b c z) s)

/-- VST_S (R184). -/
def execVstS (h : Hdr) (d : BitVec 5) (a : BitVec 5) (b : BitVec 5) (c : BitVec 2) (hh : BitVec 2) (s : State) : Host.Outcome State Fault Refusal :=
  .next (issueWord (.vstS h d a b c hh) (specVstS h d a b c hh) s)

/-- MLD (R185). -/
def execMld (h : Hdr) (d : BitVec 5) (a : BitVec 5) (b : BitVec 5) (c : BitVec 2) (s : State) : Host.Outcome State Fault Refusal :=
  .next (issueWord (.mld h d a b c) (specMld h d a b c) s)

/-- MLD_T (R185). -/
def execMldT (h : Hdr) (d : BitVec 5) (a : BitVec 5) (b : BitVec 5) (c : BitVec 2) (w : BitVec 2) (s : State) : Host.Outcome State Fault Refusal :=
  .next (issueWord (.mldT h d a b c w) (specMldT h d a b c w) s)

/-- MLD_U (R187). -/
def execMldU (h : Hdr) (d : BitVec 5) (c : BitVec 2) (s : State) : Host.Outcome State Fault Refusal :=
  .next (issueWord (.mldU h d c) (specMldU h d c) s)

/-- MST (R185). -/
def execMst (h : Hdr) (d : BitVec 5) (a : BitVec 5) (b : BitVec 5) (c : BitVec 2) (s : State) : Host.Outcome State Fault Refusal :=
  .next (issueWord (.mst h d a b c) (specMst h d a b c) s)

/-- VLD_BM (R190). -/
def execVldBm (h : Hdr) (d : BitVec 5) (a : BitVec 5) (b : BitVec 5) (c : BitVec 2) (n : BitVec 2) (s : State) : Host.Outcome State Fault Refusal :=
  .next (issueWord (.vldBm h d a b c n) (specVldBm h d a b c n) s)

/-- VST_BM (R189). -/
def execVstBm (h : Hdr) (d : BitVec 5) (a : BitVec 5) (b : BitVec 5) (c : BitVec 2) (n : BitVec 2) (s : State) : Host.Outcome State Fault Refusal :=
  .next (issueWord (.vstBm h d a b c n) (specVstBm h d a b c n) s)

/-- CPY_IN (R191). -/
def execCpyIn (h : Hdr) (d : BitVec 5) (a : BitVec 5) (b : BitVec 5) (c : BitVec 2) (hh : BitVec 2) (s : State) : Host.Outcome State Fault Refusal :=
  .next (issueWord (.cpyIn h d a b c hh) (specCpyIn h d a b c hh) s)

/-- CPY_OUT (R191). -/
def execCpyOut (h : Hdr) (d : BitVec 5) (a : BitVec 5) (b : BitVec 5) (c : BitVec 2) (hh : BitVec 2) (s : State) : Host.Outcome State Fault Refusal :=
  .next (issueWord (.cpyOut h d a b c hh) (specCpyOut h d a b c hh) s)

/-- CPY_LOC (R191). -/
def execCpyLoc (h : Hdr) (d : BitVec 5) (a : BitVec 5) (b : BitVec 5) (c : BitVec 2) (hh : BitVec 2) (s : State) : Host.Outcome State Fault Refusal :=
  .next (issueWord (.cpyLoc h d a b c hh) (specCpyLoc h d a b c hh) s)

/-- AWF (R194). -/
def execAwf (h : Hdr) (a : BitVec 5) (hh : BitVec 2) (s : State) : Host.Outcome State Fault Refusal :=
  .next (issueWord (.awf h a hh) (specAwf h a hh) s)

/-- RLS (R195). -/
def execRls (h : Hdr) (a : BitVec 5) (hh : BitVec 2) (s : State) : Host.Outcome State Fault Refusal :=
  .next (issueWord (.rls h a hh) (specRls h a hh) s)

/-- AG_CFG (R196). -/
def execAgCfg (h : Hdr) (a : BitVec 5) (j : BitVec 5) (g : BitVec 2) (s : State) : Host.Outcome State Fault Refusal :=
  .next (issueWord (.agCfg h a j g) (specAgCfg h a j g) s)

/-- WIN_CFG (R186). -/
def execWinCfg (h : Hdr) (a : BitVec 5) (b : BitVec 5) (s : State) : Host.Outcome State Fault Refusal :=
  .next (issueWord (.winCfg h a b) (specWinCfg h a b) s)

/-- FOPEN (R200). -/
def execFopen (h : Hdr) (d : BitVec 5) (a : BitVec 5) (n : BitVec 2) (c : BitVec 2) (k : BitVec 2) (s : State) : Host.Outcome State Fault Refusal :=
  .next (issueWord (.fopen h d a n c k) (specFopen h d a n c k) s)

/-- FADV (R201). -/
def execFadv (h : Hdr) (d : BitVec 5) (a : BitVec 5) (b : BitVec 5) (c : BitVec 2) (s : State) : Host.Outcome State Fault Refusal :=
  .next (issueWord (.fadv h d a b c) (specFadv h d a b c) s)

/-- FEND (R202). -/
def execFend (h : Hdr) (a : BitVec 5) (s : State) : Host.Outcome State Fault Refusal :=
  .next (issueWord (.fend h a) (specFend h a) s)

/-- FCLOSE (R202). -/
def execFclose (h : Hdr) (a : BitVec 5) (s : State) : Host.Outcome State Fault Refusal :=
  .next (issueWord (.fclose h a) (specFclose h a) s)

end Sys2Proof.Machine
end

