-- ==== Sys2Proof/Machine/WordsGlobal.lean ====
section
/-! DEFINITION. The meanings of the global words of Q (10, 18, 19): one for each constructor of Instr, over the word's specification
and the shared issue of Issue.lean. -/

namespace Sys2Proof.Machine

/-- LDG (R227). -/
def execLdg (h : Hdr) (d : BitVec 5) (a : BitVec 5) (b : BitVec 5) (e : BitVec 2) (o : BitVec 2) (s : State) : Host.Outcome State Fault Refusal :=
  .next (issueWord (.ldg h d a b e o) (specLdg h d a b e o) s)

/-- STG (R227). -/
def execStg (h : Hdr) (d : BitVec 5) (a : BitVec 5) (b : BitVec 5) (e : BitVec 2) (o : BitVec 2) (s : State) : Host.Outcome State Fault Refusal :=
  .next (issueWord (.stg h d a b e o) (specStg h d a b e o) s)

/-- LDA (R227). -/
def execLda (h : Hdr) (d : BitVec 5) (a : BitVec 5) (b : BitVec 5) (e : BitVec 2) (s : State) : Host.Outcome State Fault Refusal :=
  .next (issueWord (.lda h d a b e) (specLda h d a b e) s)

/-- STRL (R227). -/
def execStrl (h : Hdr) (d : BitVec 5) (a : BitVec 5) (b : BitVec 5) (e : BitVec 2) (s : State) : Host.Outcome State Fault Refusal :=
  .next (issueWord (.strl h d a b e) (specStrl h d a b e) s)

/-- FENCE (R228). -/
def execFence (h : Hdr) (e : BitVec 2) (o : BitVec 2) (s : State) : Host.Outcome State Fault Refusal :=
  .next (issueWord (.fence h e o) (specFence h e o) s)

/-- AMO_ADD (R229). -/
def execAmoAdd (h : Hdr) (d : BitVec 5) (a : BitVec 5) (b : BitVec 5) (e : BitVec 2) (o : BitVec 2) (s : State) : Host.Outcome State Fault Refusal :=
  .next (issueWord (.amoAdd h d a b e o) (specAmoAdd h d a b e o) s)

/-- AMO_AND (R229). -/
def execAmoAnd (h : Hdr) (d : BitVec 5) (a : BitVec 5) (b : BitVec 5) (e : BitVec 2) (o : BitVec 2) (s : State) : Host.Outcome State Fault Refusal :=
  .next (issueWord (.amoAnd h d a b e o) (specAmoAnd h d a b e o) s)

/-- AMO_OR (R229). -/
def execAmoOr (h : Hdr) (d : BitVec 5) (a : BitVec 5) (b : BitVec 5) (e : BitVec 2) (o : BitVec 2) (s : State) : Host.Outcome State Fault Refusal :=
  .next (issueWord (.amoOr h d a b e o) (specAmoOr h d a b e o) s)

/-- AMO_XOR (R229). -/
def execAmoXor (h : Hdr) (d : BitVec 5) (a : BitVec 5) (b : BitVec 5) (e : BitVec 2) (o : BitVec 2) (s : State) : Host.Outcome State Fault Refusal :=
  .next (issueWord (.amoXor h d a b e o) (specAmoXor h d a b e o) s)

/-- AMO_MIN (R229). -/
def execAmoMin (h : Hdr) (d : BitVec 5) (a : BitVec 5) (b : BitVec 5) (e : BitVec 2) (o : BitVec 2) (s : State) : Host.Outcome State Fault Refusal :=
  .next (issueWord (.amoMin h d a b e o) (specAmoMin h d a b e o) s)

/-- AMO_MAX (R229). -/
def execAmoMax (h : Hdr) (d : BitVec 5) (a : BitVec 5) (b : BitVec 5) (e : BitVec 2) (o : BitVec 2) (s : State) : Host.Outcome State Fault Refusal :=
  .next (issueWord (.amoMax h d a b e o) (specAmoMax h d a b e o) s)

/-- AMO_MINU (R229). -/
def execAmoMinu (h : Hdr) (d : BitVec 5) (a : BitVec 5) (b : BitVec 5) (e : BitVec 2) (o : BitVec 2) (s : State) : Host.Outcome State Fault Refusal :=
  .next (issueWord (.amoMinu h d a b e o) (specAmoMinu h d a b e o) s)

/-- AMO_MAXU (R229). -/
def execAmoMaxu (h : Hdr) (d : BitVec 5) (a : BitVec 5) (b : BitVec 5) (e : BitVec 2) (o : BitVec 2) (s : State) : Host.Outcome State Fault Refusal :=
  .next (issueWord (.amoMaxu h d a b e o) (specAmoMaxu h d a b e o) s)

/-- AMO_SWAP (R229). -/
def execAmoSwap (h : Hdr) (d : BitVec 5) (a : BitVec 5) (b : BitVec 5) (e : BitVec 2) (o : BitVec 2) (s : State) : Host.Outcome State Fault Refusal :=
  .next (issueWord (.amoSwap h d a b e o) (specAmoSwap h d a b e o) s)

/-- AMO_CAS (R229). -/
def execAmoCas (h : Hdr) (d : BitVec 5) (a : BitVec 5) (b : BitVec 5) (e : BitVec 2) (o : BitVec 2) (s : State) : Host.Outcome State Fault Refusal :=
  .next (issueWord (.amoCas h d a b e o) (specAmoCas h d a b e o) s)

/-- AMO_FADD (R229). -/
def execAmoFadd (h : Hdr) (d : BitVec 5) (a : BitVec 5) (b : BitVec 5) (e : BitVec 2) (o : BitVec 2) (s : State) : Host.Outcome State Fault Refusal :=
  .next (issueWord (.amoFadd h d a b e o) (specAmoFadd h d a b e o) s)

/-- VERST (R356). -/
def execVerst (h : Hdr) (d : BitVec 5) (a : BitVec 5) (b : BitVec 5) (e : BitVec 2) (s : State) : Host.Outcome State Fault Refusal :=
  .next (issueWord (.verst h d a b e) (specVerst h d a b e) s)

/-- VERLD (R356). -/
def execVerld (h : Hdr) (d : BitVec 5) (a : BitVec 5) (b : BitVec 5) (e : BitVec 2) (s : State) : Host.Outcome State Fault Refusal :=
  .next (issueWord (.verld h d a b e) (specVerld h d a b e) s)

/-- VERRCL (R356). -/
def execVerrcl (h : Hdr) (d : BitVec 5) (a : BitVec 5) (b : BitVec 5) (e : BitVec 2) (s : State) : Host.Outcome State Fault Refusal :=
  .next (issueWord (.verrcl h d a b e) (specVerrcl h d a b e) s)

/-- SUBMIT (R302). -/
def execSubmit (h : Hdr) (d : BitVec 5) (a : BitVec 5) (b : BitVec 5) (s : State) : Host.Outcome State Fault Refusal :=
  .next (issueWord (.submit h d a b) (specSubmit h d a b) s)

/-- MCAST (R219). -/
def execMcast (h : Hdr) (d : BitVec 5) (a : BitVec 5) (b : BitVec 5) (s : State) : Host.Outcome State Fault Refusal :=
  .next (issueWord (.mcast h d a b) (specMcast h d a b) s)

/-- WBR (R230). -/
def execWbr (h : Hdr) (a : BitVec 5) (b : BitVec 5) (s : State) : Host.Outcome State Fault Refusal :=
  .next (issueWord (.wbr h a b) (specWbr h a b) s)

/-- INVR (R230). -/
def execInvr (h : Hdr) (a : BitVec 5) (b : BitVec 5) (s : State) : Host.Outcome State Fault Refusal :=
  .next (issueWord (.invr h a b) (specInvr h a b) s)

/-- WBWAIT (R230). -/
def execWbwait (h : Hdr) (d : BitVec 5) (s : State) : Host.Outcome State Fault Refusal :=
  .next (issueWord (.wbwait h d) (specWbwait h d) s)

/-- LAT (R369). -/
def execLat (h : Hdr) (d : BitVec 5) (a : BitVec 5) (b : BitVec 5) (s : State) : Host.Outcome State Fault Refusal :=
  .next (issueWord (.lat h d a b) (specLat h d a b) s)

/-- LDT (R369). -/
def execLdt (h : Hdr) (d : BitVec 5) (a : BitVec 5) (b : BitVec 5) (s : State) : Host.Outcome State Fault Refusal :=
  .next (issueWord (.ldt h d a b) (specLdt h d a b) s)

/-- LFOLD (R370). -/
def execLfold (h : Hdr) (d : BitVec 5) (a : BitVec 5) (b : BitVec 5) (s : State) : Host.Outcome State Fault Refusal :=
  .next (issueWord (.lfold h d a b) (specLfold h d a b) s)

/-- LFWAIT (R370). -/
def execLfwait (h : Hdr) (d : BitVec 5) (a : BitVec 5) (s : State) : Host.Outcome State Fault Refusal :=
  .next (issueWord (.lfwait h d a) (specLfwait h d a) s)

/-- LGEN (R371). -/
def execLgen (h : Hdr) (d : BitVec 5) (a : BitVec 5) (s : State) : Host.Outcome State Fault Refusal :=
  .next (issueWord (.lgen h d a) (specLgen h d a) s)

end Sys2Proof.Machine
end

