-- ==== Sys2Proof/Machine/WordsMatrix.lean ====
section
/-! DEFINITION. The meanings of M words (06): one for each constructor of Instr, over the word's specification
and the shared issue of Issue.lean. -/

namespace Sys2Proof.Machine

/-- MMA (R132). -/
def execMma (h : Hdr) (c : BitVec 2) (a : BitVec 3) (b : BitVec 3) (z : BitVec 1) (m : BitVec 2) (t : BitVec 1) (x : BitVec 1) (y : BitVec 1) (r : BitVec 2) (s : State) : Host.Outcome State Fault Refusal :=
  .next (issueWord (.mma h c a b z m t x y r) (specMma h c a b z m t x y r) s)

/-- MRUN (R133). -/
def execMrun (h : Hdr) (c : BitVec 2) (a : BitVec 3) (b : BitVec 3) (z : BitVec 1) (m : BitVec 2) (t : BitVec 1) (n : BitVec 3) (r : BitVec 2) (s : State) : Host.Outcome State Fault Refusal :=
  .next (issueWord (.mrun h c a b z m t n r) (specMrun h c a b z m t n r) s)

/-- MZERO (R139). -/
def execMzero (h : Hdr) (c : BitVec 2) (s : State) : Host.Outcome State Fault Refusal :=
  .next (issueWord (.mzero h c) (specMzero h c) s)

/-- MDRAIN (R136). -/
def execMdrain (h : Hdr) (c : BitVec 2) (y : BitVec 3) (d : BitVec 3) (z : BitVec 1) (s : State) : Host.Outcome State Fault Refusal :=
  .next (issueWord (.mdrain h c y d z) (specMdrain h c y d z) s)

/-- MDRAIN_V (R136). -/
def execMdrainV (h : Hdr) (c : BitVec 2) (y : BitVec 3) (v : BitVec 5) (z : BitVec 1) (s : State) : Host.Outcome State Fault Refusal :=
  .next (issueWord (.mdrainV h c y v z) (specMdrainV h c y v z) s)

/-- MLOADA (R137). -/
def execMloada (h : Hdr) (c : BitVec 2) (y : BitVec 3) (v : BitVec 5) (s : State) : Host.Outcome State Fault Refusal :=
  .next (issueWord (.mloada h c y v) (specMloada h c y v) s)

/-- MSCALE (R139). -/
def execMscale (h : Hdr) (d : BitVec 3) (v : BitVec 5) (s : State) : Host.Outcome State Fault Refusal :=
  .next (issueWord (.mscale h d v) (specMscale h d v) s)

/-- MCFG (R140). -/
def execMcfg (h : Hdr) (m : BitVec 2) (a : BitVec 2) (b : BitVec 2) (r : BitVec 1) (s : State) : Host.Outcome State Fault Refusal :=
  .next (issueWord (.mcfg h m a b r) (specMcfg h m a b r) s)

/-- MLEND (R145). -/
def execMlend (h : Hdr) (b : BitVec 2) (s : State) : Host.Outcome State Fault Refusal :=
  .next (issueWord (.mlend h b) (specMlend h b) s)

/-- MRET (R145). -/
def execMret (h : Hdr) (b : BitVec 2) (s : State) : Host.Outcome State Fault Refusal :=
  .next (issueWord (.mret h b) (specMret h b) s)

/-- MTRANS (R138). -/
def execMtrans (h : Hdr) (sf : BitVec 3) (d : BitVec 3) (w : BitVec 2) (s : State) : Host.Outcome State Fault Refusal :=
  .next (issueWord (.mtrans h sf d w) (specMtrans h sf d w) s)

/-- MCHK (R143). -/
def execMchk (h : Hdr) (c : BitVec 2) (s : State) : Host.Outcome State Fault Refusal :=
  .next (issueWord (.mchk h c) (specMchk h c) s)

/-- MPROBE (R144). -/
def execMprobe (h : Hdr) (sf : BitVec 1) (d : BitVec 5) (s : State) : Host.Outcome State Fault Refusal :=
  .next (issueWord (.mprobe h sf d) (specMprobe h sf d) s)

/-- MPROBE_ACC (R144). -/
def execMprobeAcc (h : Hdr) (c : BitVec 2) (d : BitVec 5) (s : State) : Host.Outcome State Fault Refusal :=
  .next (issueWord (.mprobeAcc h c d) (specMprobeAcc h c d) s)

end Sys2Proof.Machine
end

