-- ==== Sys2Proof/Machine/WordsScalar.lean ====
section
/-! DEFINITION. The meanings of X and H words (03, 02 R48-R49): one for each constructor of Instr, over the word's specification
and the shared issue of Issue.lean. -/

namespace Sys2Proof.Machine

/-- ADDI (R62). -/
def execAddi (h : Hdr) (d : BitVec 5) (a : BitVec 5) (im : BitVec 10) (s : State) : Host.Outcome State Fault Refusal :=
  .next (issueWord (.addi h d a im) (specAddi h d a im) s)

/-- ANDI (R62). -/
def execAndi (h : Hdr) (d : BitVec 5) (a : BitVec 5) (im : BitVec 10) (s : State) : Host.Outcome State Fault Refusal :=
  .next (issueWord (.andi h d a im) (specAndi h d a im) s)

/-- ORI (R62). -/
def execOri (h : Hdr) (d : BitVec 5) (a : BitVec 5) (im : BitVec 10) (s : State) : Host.Outcome State Fault Refusal :=
  .next (issueWord (.ori h d a im) (specOri h d a im) s)

/-- XORI (R62). -/
def execXori (h : Hdr) (d : BitVec 5) (a : BitVec 5) (im : BitVec 10) (s : State) : Host.Outcome State Fault Refusal :=
  .next (issueWord (.xori h d a im) (specXori h d a im) s)

/-- SLLI (R62). -/
def execSlli (h : Hdr) (d : BitVec 5) (a : BitVec 5) (im : BitVec 10) (s : State) : Host.Outcome State Fault Refusal :=
  .next (issueWord (.slli h d a im) (specSlli h d a im) s)

/-- SRLI (R62). -/
def execSrli (h : Hdr) (d : BitVec 5) (a : BitVec 5) (im : BitVec 10) (s : State) : Host.Outcome State Fault Refusal :=
  .next (issueWord (.srli h d a im) (specSrli h d a im) s)

/-- SRAI (R62). -/
def execSrai (h : Hdr) (d : BitVec 5) (a : BitVec 5) (im : BitVec 10) (s : State) : Host.Outcome State Fault Refusal :=
  .next (issueWord (.srai h d a im) (specSrai h d a im) s)

/-- SLTI (R62). -/
def execSlti (h : Hdr) (d : BitVec 5) (a : BitVec 5) (im : BitVec 10) (s : State) : Host.Outcome State Fault Refusal :=
  .next (issueWord (.slti h d a im) (specSlti h d a im) s)

/-- SLTIU (R62). -/
def execSltiu (h : Hdr) (d : BitVec 5) (a : BitVec 5) (im : BitVec 10) (s : State) : Host.Outcome State Fault Refusal :=
  .next (issueWord (.sltiu h d a im) (specSltiu h d a im) s)

/-- LDX_D (R64). -/
def execLdxD (h : Hdr) (d : BitVec 5) (a : BitVec 5) (im : BitVec 10) (s : State) : Host.Outcome State Fault Refusal :=
  .next (issueWord (.ldxD h d a im) (specLdxD h d a im) s)

/-- LDX_W (R64). -/
def execLdxW (h : Hdr) (d : BitVec 5) (a : BitVec 5) (im : BitVec 10) (s : State) : Host.Outcome State Fault Refusal :=
  .next (issueWord (.ldxW h d a im) (specLdxW h d a im) s)

/-- STX_D (R64). -/
def execStxD (h : Hdr) (d : BitVec 5) (a : BitVec 5) (im : BitVec 10) (s : State) : Host.Outcome State Fault Refusal :=
  .next (issueWord (.stxD h d a im) (specStxD h d a im) s)

/-- STX_W (R64). -/
def execStxW (h : Hdr) (d : BitVec 5) (a : BitVec 5) (im : BitVec 10) (s : State) : Host.Outcome State Fault Refusal :=
  .next (issueWord (.stxW h d a im) (specStxW h d a im) s)

/-- CSRR (R81). -/
def execCsrr (h : Hdr) (d : BitVec 5) (im : BitVec 10) (s : State) : Host.Outcome State Fault Refusal :=
  .next (issueWord (.csrr h d im) (specCsrr h d im) s)

/-- CSRW (R81). -/
def execCsrw (h : Hdr) (a : BitVec 5) (im : BitVec 10) (s : State) : Host.Outcome State Fault Refusal :=
  .next (issueWord (.csrw h a im) (specCsrw h a im) s)

/-- CSRX (R81). -/
def execCsrx (h : Hdr) (d : BitVec 5) (a : BitVec 5) (im : BitVec 10) (s : State) : Host.Outcome State Fault Refusal :=
  .next (issueWord (.csrx h d a im) (specCsrx h d a im) s)

/-- LI (R63). -/
def execLi (h : Hdr) (d : BitVec 5) (im : BitVec 15) (s : State) : Host.Outcome State Fault Refusal :=
  .next (issueWord (.li h d im) (specLi h d im) s)

/-- LSH (R63). -/
def execLsh (h : Hdr) (d : BitVec 5) (im : BitVec 15) (s : State) : Host.Outcome State Fault Refusal :=
  .next (issueWord (.lsh h d im) (specLsh h d im) s)

/-- AUIPC (R63). -/
def execAuipc (h : Hdr) (d : BitVec 5) (im : BitVec 15) (s : State) : Host.Outcome State Fault Refusal :=
  .next (issueWord (.auipc h d im) (specAuipc h d im) s)

/-- SETLC (R63). -/
def execSetlc (h : Hdr) (im : BitVec 15) (s : State) : Host.Outcome State Fault Refusal :=
  .next (issueWord (.setlc h im) (specSetlc h im) s)

/-- BEQZ (R70). -/
def execBeqz (h : Hdr) (a : BitVec 5) (f : BitVec 15) (s : State) : Host.Outcome State Fault Refusal :=
  .next (issueWord (.beqz h a f) (specBeqz h a f) s)

/-- BNEZ (R70). -/
def execBnez (h : Hdr) (a : BitVec 5) (f : BitVec 15) (s : State) : Host.Outcome State Fault Refusal :=
  .next (issueWord (.bnez h a f) (specBnez h a f) s)

/-- BCQ (R71). -/
def execBcq (h : Hdr) (f : BitVec 15) (s : State) : Host.Outcome State Fault Refusal :=
  .next (issueWord (.bcq h f) (specBcq h f) s)

/-- BNCQ (R71). -/
def execBncq (h : Hdr) (f : BitVec 15) (s : State) : Host.Outcome State Fault Refusal :=
  .next (issueWord (.bncq h f) (specBncq h f) s)

/-- BLC (R71). -/
def execBlc (h : Hdr) (f : BitVec 15) (s : State) : Host.Outcome State Fault Refusal :=
  .next (issueWord (.blc h f) (specBlc h f) s)

/-- JAL (R72). -/
def execJal (h : Hdr) (d : BitVec 5) (f : BitVec 15) (s : State) : Host.Outcome State Fault Refusal :=
  .next (issueWord (.jal h d f) (specJal h d f) s)

/-- ADD (R66). -/
def execAdd (h : Hdr) (d : BitVec 5) (a : BitVec 5) (b : BitVec 5) (s : State) : Host.Outcome State Fault Refusal :=
  .next (issueWord (.add h d a b) (specAdd h d a b) s)

/-- SUB (R66). -/
def execSub (h : Hdr) (d : BitVec 5) (a : BitVec 5) (b : BitVec 5) (s : State) : Host.Outcome State Fault Refusal :=
  .next (issueWord (.sub h d a b) (specSub h d a b) s)

/-- AND (R66). -/
def execAnd (h : Hdr) (d : BitVec 5) (a : BitVec 5) (b : BitVec 5) (s : State) : Host.Outcome State Fault Refusal :=
  .next (issueWord (.and h d a b) (specAnd h d a b) s)

/-- OR (R66). -/
def execOr (h : Hdr) (d : BitVec 5) (a : BitVec 5) (b : BitVec 5) (s : State) : Host.Outcome State Fault Refusal :=
  .next (issueWord (.or h d a b) (specOr h d a b) s)

/-- XOR (R66). -/
def execXor (h : Hdr) (d : BitVec 5) (a : BitVec 5) (b : BitVec 5) (s : State) : Host.Outcome State Fault Refusal :=
  .next (issueWord (.xor h d a b) (specXor h d a b) s)

/-- SLL (R66). -/
def execSll (h : Hdr) (d : BitVec 5) (a : BitVec 5) (b : BitVec 5) (s : State) : Host.Outcome State Fault Refusal :=
  .next (issueWord (.sll h d a b) (specSll h d a b) s)

/-- SRL (R66). -/
def execSrl (h : Hdr) (d : BitVec 5) (a : BitVec 5) (b : BitVec 5) (s : State) : Host.Outcome State Fault Refusal :=
  .next (issueWord (.srl h d a b) (specSrl h d a b) s)

/-- SRA (R66). -/
def execSra (h : Hdr) (d : BitVec 5) (a : BitVec 5) (b : BitVec 5) (s : State) : Host.Outcome State Fault Refusal :=
  .next (issueWord (.sra h d a b) (specSra h d a b) s)

/-- SLT (R66). -/
def execSlt (h : Hdr) (d : BitVec 5) (a : BitVec 5) (b : BitVec 5) (s : State) : Host.Outcome State Fault Refusal :=
  .next (issueWord (.slt h d a b) (specSlt h d a b) s)

/-- SLTU (R66). -/
def execSltu (h : Hdr) (d : BitVec 5) (a : BitVec 5) (b : BitVec 5) (s : State) : Host.Outcome State Fault Refusal :=
  .next (issueWord (.sltu h d a b) (specSltu h d a b) s)

/-- MIN (R66). -/
def execMin (h : Hdr) (d : BitVec 5) (a : BitVec 5) (b : BitVec 5) (s : State) : Host.Outcome State Fault Refusal :=
  .next (issueWord (.min h d a b) (specMin h d a b) s)

/-- MAX (R66). -/
def execMax (h : Hdr) (d : BitVec 5) (a : BitVec 5) (b : BitVec 5) (s : State) : Host.Outcome State Fault Refusal :=
  .next (issueWord (.max h d a b) (specMax h d a b) s)

/-- MINU (R66). -/
def execMinu (h : Hdr) (d : BitVec 5) (a : BitVec 5) (b : BitVec 5) (s : State) : Host.Outcome State Fault Refusal :=
  .next (issueWord (.minu h d a b) (specMinu h d a b) s)

/-- MAXU (R66). -/
def execMaxu (h : Hdr) (d : BitVec 5) (a : BitVec 5) (b : BitVec 5) (s : State) : Host.Outcome State Fault Refusal :=
  .next (issueWord (.maxu h d a b) (specMaxu h d a b) s)

/-- MUL (R66). -/
def execMul (h : Hdr) (d : BitVec 5) (a : BitVec 5) (b : BitVec 5) (s : State) : Host.Outcome State Fault Refusal :=
  .next (issueWord (.mul h d a b) (specMul h d a b) s)

/-- MULH (R66). -/
def execMulh (h : Hdr) (d : BitVec 5) (a : BitVec 5) (b : BitVec 5) (s : State) : Host.Outcome State Fault Refusal :=
  .next (issueWord (.mulh h d a b) (specMulh h d a b) s)

/-- MULHU (R66). -/
def execMulhu (h : Hdr) (d : BitVec 5) (a : BitVec 5) (b : BitVec 5) (s : State) : Host.Outcome State Fault Refusal :=
  .next (issueWord (.mulhu h d a b) (specMulhu h d a b) s)

/-- DIV (R67). -/
def execDiv (h : Hdr) (d : BitVec 5) (a : BitVec 5) (b : BitVec 5) (s : State) : Host.Outcome State Fault Refusal :=
  .next (issueWord (.div h d a b) (specDiv h d a b) s)

/-- DIVU (R67). -/
def execDivu (h : Hdr) (d : BitVec 5) (a : BitVec 5) (b : BitVec 5) (s : State) : Host.Outcome State Fault Refusal :=
  .next (issueWord (.divu h d a b) (specDivu h d a b) s)

/-- REM (R67). -/
def execRem (h : Hdr) (d : BitVec 5) (a : BitVec 5) (b : BitVec 5) (s : State) : Host.Outcome State Fault Refusal :=
  .next (issueWord (.rem h d a b) (specRem h d a b) s)

/-- REMU (R67). -/
def execRemu (h : Hdr) (d : BitVec 5) (a : BitVec 5) (b : BitVec 5) (s : State) : Host.Outcome State Fault Refusal :=
  .next (issueWord (.remu h d a b) (specRemu h d a b) s)

/-- CLZ (R66). -/
def execClz (h : Hdr) (d : BitVec 5) (a : BitVec 5) (s : State) : Host.Outcome State Fault Refusal :=
  .next (issueWord (.clz h d a) (specClz h d a) s)

/-- CTZ (R66). -/
def execCtz (h : Hdr) (d : BitVec 5) (a : BitVec 5) (s : State) : Host.Outcome State Fault Refusal :=
  .next (issueWord (.ctz h d a) (specCtz h d a) s)

/-- POPC (R66). -/
def execPopc (h : Hdr) (d : BitVec 5) (a : BitVec 5) (s : State) : Host.Outcome State Fault Refusal :=
  .next (issueWord (.popc h d a) (specPopc h d a) s)

/-- SEXT_B (R66). -/
def execSextB (h : Hdr) (d : BitVec 5) (a : BitVec 5) (s : State) : Host.Outcome State Fault Refusal :=
  .next (issueWord (.sextB h d a) (specSextB h d a) s)

/-- SEXT_H (R66). -/
def execSextH (h : Hdr) (d : BitVec 5) (a : BitVec 5) (s : State) : Host.Outcome State Fault Refusal :=
  .next (issueWord (.sextH h d a) (specSextH h d a) s)

/-- SEXT_W (R66). -/
def execSextW (h : Hdr) (d : BitVec 5) (a : BitVec 5) (s : State) : Host.Outcome State Fault Refusal :=
  .next (issueWord (.sextW h d a) (specSextW h d a) s)

/-- ZEXT_W (R66). -/
def execZextW (h : Hdr) (d : BitVec 5) (a : BitVec 5) (s : State) : Host.Outcome State Fault Refusal :=
  .next (issueWord (.zextW h d a) (specZextW h d a) s)

/-- JALR (R72). -/
def execJalr (h : Hdr) (d : BitVec 5) (a : BitVec 5) (s : State) : Host.Outcome State Fault Refusal :=
  .next (issueWord (.jalr h d a) (specJalr h d a) s)

/-- SETLC_S (R75). -/
def execSetlcS (h : Hdr) (a : BitVec 5) (s : State) : Host.Outcome State Fault Refusal :=
  .next (issueWord (.setlcS h a) (specSetlcS h a) s)

/-- RDLC (R75). -/
def execRdlc (h : Hdr) (d : BitVec 5) (s : State) : Host.Outcome State Fault Refusal :=
  .next (issueWord (.rdlc h d) (specRdlc h d) s)

/-- CMOVZ (R69). -/
def execCmovz (h : Hdr) (d : BitVec 5) (a : BitVec 5) (b : BitVec 5) (s : State) : Host.Outcome State Fault Refusal :=
  .next (issueWord (.cmovz h d a b) (specCmovz h d a b) s)

/-- CMOVNZ (R69). -/
def execCmovnz (h : Hdr) (d : BitVec 5) (a : BitVec 5) (b : BitVec 5) (s : State) : Host.Outcome State Fault Refusal :=
  .next (issueWord (.cmovnz h d a b) (specCmovnz h d a b) s)

/-- IFQ (R73). -/
def execIfq (h : Hdr) (n : BitVec 5) (s : State) : Host.Outcome State Fault Refusal :=
  .next (issueWord (.ifq h n) (specIfq h n) s)

/-- ELSEQ (R73). -/
def execElseq (h : Hdr) (n : BitVec 5) (s : State) : Host.Outcome State Fault Refusal :=
  .next (issueWord (.elseq h n) (specElseq h n) s)

/-- STG_STAGE (R77). -/
def execStgStage (h : Hdr) (n : BitVec 5) (s : State) : Host.Outcome State Fault Refusal :=
  .next (issueWord (.stgStage h n) (specStgStage h n) s)

/-- LOOPP (R76). -/
def execLoopp (h : Hdr) (sf : BitVec 5) (l : BitVec 10) (s : State) : Host.Outcome State Fault Refusal :=
  .next (issueWord (.loopp h sf l) (specLoopp h sf l) s)

/-- SETRB (R79). -/
def execSetrb (h : Hdr) (a : BitVec 5) (s : State) : Host.Outcome State Fault Refusal :=
  .next (issueWord (.setrb h a) (specSetrb h a) s)

/-- ADD_SH1 (R68). -/
def execAddSh1 (h : Hdr) (d : BitVec 5) (a : BitVec 5) (b : BitVec 5) (s : State) : Host.Outcome State Fault Refusal :=
  .next (issueWord (.addSh1 h d a b) (specAddSh1 h d a b) s)

/-- ADD_SH2 (R68). -/
def execAddSh2 (h : Hdr) (d : BitVec 5) (a : BitVec 5) (b : BitVec 5) (s : State) : Host.Outcome State Fault Refusal :=
  .next (issueWord (.addSh2 h d a b) (specAddSh2 h d a b) s)

/-- ADD_SH3 (R68). -/
def execAddSh3 (h : Hdr) (d : BitVec 5) (a : BitVec 5) (b : BitVec 5) (s : State) : Host.Outcome State Fault Refusal :=
  .next (issueWord (.addSh3 h d a b) (specAddSh3 h d a b) s)

/-- ADD_SH4 (R68). -/
def execAddSh4 (h : Hdr) (d : BitVec 5) (a : BitVec 5) (b : BitVec 5) (s : State) : Host.Outcome State Fault Refusal :=
  .next (issueWord (.addSh4 h d a b) (specAddSh4 h d a b) s)

/-- TADDR (R68). -/
def execTaddr (h : Hdr) (d : BitVec 5) (a : BitVec 5) (b : BitVec 5) (s : State) : Host.Outcome State Fault Refusal :=
  .next (issueWord (.taddr h d a b) (specTaddr h d a b) s)

/-- PREF_G (R49). -/
def execPrefG (h : Hdr) (d : BitVec 5) (a : BitVec 5) (im : BitVec 9) (s : State) : Host.Outcome State Fault Refusal :=
  .next (issueWord (.prefG h d a im) (specPrefG) s)

/-- PREF_S (R49). -/
def execPrefS (h : Hdr) (d : BitVec 5) (a : BitVec 5) (im : BitVec 9) (s : State) : Host.Outcome State Fault Refusal :=
  .next (issueWord (.prefS h d a im) (specPrefS) s)

/-- PRIO (R49). -/
def execPrio (h : Hdr) (d : BitVec 5) (a : BitVec 5) (im : BitVec 9) (s : State) : Host.Outcome State Fault Refusal :=
  .next (issueWord (.prio h d a im) (specPrio im) s)

/-- PAUSE (R49). -/
def execPause (h : Hdr) (d : BitVec 5) (a : BitVec 5) (im : BitVec 9) (s : State) : Host.Outcome State Fault Refusal :=
  .next (issueWord (.pause h d a im) (specPause im) s)

end Sys2Proof.Machine
end

