-- ==== Sys2Proof/Machine/WordsSync.lean ====
section
/-! DEFINITION. The meanings of the sync words (12): one for each constructor of Instr, over the word's specification
and the shared issue of Issue.lean. -/

namespace Sys2Proof.Machine

/-- BAR_W (R248). -/
def execBarW (h : Hdr) (l : BitVec 2) (s : State) : Host.Outcome State Fault Refusal :=
  .next (issueWord (.barW h l) (specBarW h l) s)

/-- BAR_A (R248). -/
def execBarA (h : Hdr) (l : BitVec 2) (s : State) : Host.Outcome State Fault Refusal :=
  .next (issueWord (.barA h l) (specBarA h l) s)

/-- BAR_T (R248). -/
def execBarT (h : Hdr) (d : BitVec 5) (l : BitVec 2) (s : State) : Host.Outcome State Fault Refusal :=
  .next (issueWord (.barT h d l) (specBarT h d l) s)

/-- BCAST (R250). -/
def execBcast (h : Hdr) (a : BitVec 5) (l : BitVec 2) (s : State) : Host.Outcome State Fault Refusal :=
  .next (issueWord (.bcast h a l) (specBcast h a l) s)

/-- BRECV (R250). -/
def execBrecv (h : Hdr) (d : BitVec 5) (l : BitVec 2) (s : State) : Host.Outcome State Fault Refusal :=
  .next (issueWord (.brecv h d l) (specBrecv h d l) s)

/-- RED (R251). -/
def execRed (h : Hdr) (d : BitVec 5) (a : BitVec 5) (b : BitVec 5) (l : BitVec 2) (s : State) : Host.Outcome State Fault Refusal :=
  .next (issueWord (.red h d a b l) (specRed h d a b l) s)

/-- EVT (R253). -/
def execEvt (h : Hdr) (l : BitVec 2) (s : State) : Host.Outcome State Fault Refusal :=
  .next (issueWord (.evt h l) (specEvt h l) s)

/-- WFE (R253). -/
def execWfe (h : Hdr) (s : State) : Host.Outcome State Fault Refusal :=
  .next (issueWord (.wfe h) (specWfe h) s)

/-- DOMSET_INSTALL (R246). -/
def execDomsetInstall (h : Hdr) (d : BitVec 5) (a : BitVec 5) (s : State) : Host.Outcome State Fault Refusal :=
  .next (issueWord (.domsetInstall h d a) (specDomsetInstall h d a) s)

/-- DOMSET_REMOVE (R246). -/
def execDomsetRemove (h : Hdr) (d : BitVec 5) (a : BitVec 5) (s : State) : Host.Outcome State Fault Refusal :=
  .next (issueWord (.domsetRemove h d a) (specDomsetRemove h d a) s)

end Sys2Proof.Machine
end

