-- ==== Sys2Proof/Machine/WordsSystem.lean ====
section
/-! DEFINITION. The meanings of HALT, traps, time, contexts and the token words (17, 22, 05 R112): one for each constructor of Instr, over the word's specification
and the shared issue of Issue.lean. -/

namespace Sys2Proof.Machine

/-- TKPUSH (R112). -/
def execTkpush (h : Hdr) (a : BitVec 5) (b : BitVec 5) (s : State) : Host.Outcome State Fault Refusal :=
  .next (issueWord (.tkpush h a b) (specTkpush h a b) s)

/-- TKPOP (R112). -/
def execTkpop (h : Hdr) (a : BitVec 5) (b : BitVec 5) (s : State) : Host.Outcome State Fault Refusal :=
  .next (issueWord (.tkpop h a b) (specTkpop h a b) s)

/-- TKCNT (R112). -/
def execTkcnt (h : Hdr) (d : BitVec 5) (b : BitVec 5) (s : State) : Host.Outcome State Fault Refusal :=
  .next (issueWord (.tkcnt h d b) (specTkcnt h d b) s)

/-- TRAP (R328). -/
def execTrap (h : Hdr) (c : BitVec 8) (s : State) : Host.Outcome State Fault Refusal :=
  .next (issueWord (.trap h c) (specTrap h c) s)

/-- TRET_RESUME (R326). -/
def execTretResume (h : Hdr) (s : State) : Host.Outcome State Fault Refusal :=
  .next (issueWord (.tretResume h) (specTretResume h) s)

/-- TRET_ABORT (R326). -/
def execTretAbort (h : Hdr) (s : State) : Host.Outcome State Fault Refusal :=
  .next (issueWord (.tretAbort h) (specTretAbort h) s)

/-- HALT (R329). -/
def execHalt (h : Hdr) (s : State) : Host.Outcome State Fault Refusal :=
  .next (issueWord (.halt h) (specHalt h) s)

/-- YIELD (R330). -/
def execYield (h : Hdr) (d : BitVec 5) (s : State) : Host.Outcome State Fault Refusal :=
  .next (issueWord (.yield h d) (specYield h d) s)

/-- WUT (R418). -/
def execWut (h : Hdr) (a : BitVec 5) (s : State) : Host.Outcome State Fault Refusal :=
  .next (issueWord (.wut h a) (specWut h a) s)

/-- RDTIME (R419). -/
def execRdtime (h : Hdr) (d : BitVec 5) (sf : BitVec 1) (s : State) : Host.Outcome State Fault Refusal :=
  .next (issueWord (.rdtime h d sf) (specRdtime h d sf) s)

/-- MPERM (R147). -/
def execMperm (h : Hdr) (d : BitVec 5) (a : BitVec 5) (s : State) : Host.Outcome State Fault Refusal :=
  .next (issueWord (.mperm h d a) (specMperm h d a) s)

/-- RDST (R335). -/
def execRdst (h : Hdr) (d : BitVec 5) (a : BitVec 5) (c : BitVec 8) (s : State) : Host.Outcome State Fault Refusal :=
  .next (issueWord (.rdst h d a c) (specRdst h d a c) s)

/-- WRST (R335). -/
def execWrst (h : Hdr) (d : BitVec 5) (a : BitVec 5) (c : BitVec 8) (s : State) : Host.Outcome State Fault Refusal :=
  .next (issueWord (.wrst h d a c) (specWrst h d a c) s)

/-- CTX_SAVE (R335). -/
def execCtxSave (h : Hdr) (d : BitVec 5) (a : BitVec 5) (c : BitVec 8) (s : State) : Host.Outcome State Fault Refusal :=
  .next (issueWord (.ctxSave h d a c) (specCtxSave h d a c) s)

/-- CTX_LOAD (R335). -/
def execCtxLoad (h : Hdr) (d : BitVec 5) (a : BitVec 5) (c : BitVec 8) (s : State) : Host.Outcome State Fault Refusal :=
  .next (issueWord (.ctxLoad h d a c) (specCtxLoad h d a c) s)

/-- HMSET_QUIESCE (R232). -/
def execHmsetQuiesce (h : Hdr) (d : BitVec 5) (a : BitVec 5) (m : BitVec 4) (s : State) : Host.Outcome State Fault Refusal :=
  .next (issueWord (.hmsetQuiesce h d a m) (specHmsetQuiesce h d a m) s)

/-- HMSET_SWITCH (R232). -/
def execHmsetSwitch (h : Hdr) (d : BitVec 5) (a : BitVec 5) (m : BitVec 4) (s : State) : Host.Outcome State Fault Refusal :=
  .next (issueWord (.hmsetSwitch h d a m) (specHmsetSwitch h d a m) s)

/-- HMSET_RESUME (R232). -/
def execHmsetResume (h : Hdr) (d : BitVec 5) (a : BitVec 5) (m : BitVec 4) (s : State) : Host.Outcome State Fault Refusal :=
  .next (issueWord (.hmsetResume h d a m) (specHmsetResume h d a m) s)

end Sys2Proof.Machine
end

