-- ==== Sys2Proof/Machine/WordsVector.lean ====
section
/-! DEFINITION. The meanings of V words (07): one for each constructor of Instr, over the word's specification
and the shared issue of Issue.lean. -/

namespace Sys2Proof.Machine

/-- VADD (R156). -/
def execVadd (h : Hdr) (d : BitVec 5) (a : BitVec 5) (b : BitVec 5) (k : BitVec 3) (s : State) : Host.Outcome State Fault Refusal :=
  .next (issueWord (.vadd h d a b k) (specVadd h d a b k) s)

/-- VSUB (R156). -/
def execVsub (h : Hdr) (d : BitVec 5) (a : BitVec 5) (b : BitVec 5) (k : BitVec 3) (s : State) : Host.Outcome State Fault Refusal :=
  .next (issueWord (.vsub h d a b k) (specVsub h d a b k) s)

/-- VMUL (R156). -/
def execVmul (h : Hdr) (d : BitVec 5) (a : BitVec 5) (b : BitVec 5) (k : BitVec 3) (s : State) : Host.Outcome State Fault Refusal :=
  .next (issueWord (.vmul h d a b k) (specVmul h d a b k) s)

/-- VFMA (R156). -/
def execVfma (h : Hdr) (d : BitVec 5) (a : BitVec 5) (b : BitVec 5) (k : BitVec 3) (s : State) : Host.Outcome State Fault Refusal :=
  .next (issueWord (.vfma h d a b k) (specVfma h d a b k) s)

/-- VFMS (R156). -/
def execVfms (h : Hdr) (d : BitVec 5) (a : BitVec 5) (b : BitVec 5) (k : BitVec 3) (s : State) : Host.Outcome State Fault Refusal :=
  .next (issueWord (.vfms h d a b k) (specVfms h d a b k) s)

/-- VMIN (R156). -/
def execVmin (h : Hdr) (d : BitVec 5) (a : BitVec 5) (b : BitVec 5) (k : BitVec 3) (s : State) : Host.Outcome State Fault Refusal :=
  .next (issueWord (.vmin h d a b k) (specVmin h d a b k) s)

/-- VMAX (R156). -/
def execVmax (h : Hdr) (d : BitVec 5) (a : BitVec 5) (b : BitVec 5) (k : BitVec 3) (s : State) : Host.Outcome State Fault Refusal :=
  .next (issueWord (.vmax h d a b k) (specVmax h d a b k) s)

/-- VABS (R156). -/
def execVabs (h : Hdr) (d : BitVec 5) (a : BitVec 5) (k : BitVec 3) (s : State) : Host.Outcome State Fault Refusal :=
  .next (issueWord (.vabs h d a k) (specVabs h d a k) s)

/-- VNEG (R156). -/
def execVneg (h : Hdr) (d : BitVec 5) (a : BitVec 5) (k : BitVec 3) (s : State) : Host.Outcome State Fault Refusal :=
  .next (issueWord (.vneg h d a k) (specVneg h d a k) s)

/-- VRCP (R157). -/
def execVrcp (h : Hdr) (d : BitVec 5) (a : BitVec 5) (k : BitVec 3) (s : State) : Host.Outcome State Fault Refusal :=
  .next (issueWord (.vrcp h d a k) (specVrcp h d a k) s)

/-- VRSQ (R157). -/
def execVrsq (h : Hdr) (d : BitVec 5) (a : BitVec 5) (k : BitVec 3) (s : State) : Host.Outcome State Fault Refusal :=
  .next (issueWord (.vrsq h d a k) (specVrsq h d a k) s)

/-- VEXP2 (R157). -/
def execVexp2 (h : Hdr) (d : BitVec 5) (a : BitVec 5) (k : BitVec 3) (s : State) : Host.Outcome State Fault Refusal :=
  .next (issueWord (.vexp2 h d a k) (specVexp2 h d a k) s)

/-- VLOG2 (R157). -/
def execVlog2 (h : Hdr) (d : BitVec 5) (a : BitVec 5) (k : BitVec 3) (s : State) : Host.Outcome State Fault Refusal :=
  .next (issueWord (.vlog2 h d a k) (specVlog2 h d a k) s)

/-- VAND (R158). -/
def execVand (h : Hdr) (d : BitVec 5) (a : BitVec 5) (b : BitVec 5) (k : BitVec 3) (s : State) : Host.Outcome State Fault Refusal :=
  .next (issueWord (.vand h d a b k) (specVand h d a b k) s)

/-- VOR (R158). -/
def execVor (h : Hdr) (d : BitVec 5) (a : BitVec 5) (b : BitVec 5) (k : BitVec 3) (s : State) : Host.Outcome State Fault Refusal :=
  .next (issueWord (.vor h d a b k) (specVor h d a b k) s)

/-- VXOR (R158). -/
def execVxor (h : Hdr) (d : BitVec 5) (a : BitVec 5) (b : BitVec 5) (k : BitVec 3) (s : State) : Host.Outcome State Fault Refusal :=
  .next (issueWord (.vxor h d a b k) (specVxor h d a b k) s)

/-- VNOT (R158). -/
def execVnot (h : Hdr) (d : BitVec 5) (a : BitVec 5) (k : BitVec 3) (s : State) : Host.Outcome State Fault Refusal :=
  .next (issueWord (.vnot h d a k) (specVnot h d a k) s)

/-- VSHL (R158). -/
def execVshl (h : Hdr) (d : BitVec 5) (a : BitVec 5) (b : BitVec 5) (k : BitVec 3) (s : State) : Host.Outcome State Fault Refusal :=
  .next (issueWord (.vshl h d a b k) (specVshl h d a b k) s)

/-- VSHR (R158). -/
def execVshr (h : Hdr) (d : BitVec 5) (a : BitVec 5) (b : BitVec 5) (k : BitVec 3) (s : State) : Host.Outcome State Fault Refusal :=
  .next (issueWord (.vshr h d a b k) (specVshr h d a b k) s)

/-- VSRA (R158). -/
def execVsra (h : Hdr) (d : BitVec 5) (a : BitVec 5) (b : BitVec 5) (k : BitVec 3) (s : State) : Host.Outcome State Fault Refusal :=
  .next (issueWord (.vsra h d a b k) (specVsra h d a b k) s)

/-- VSHLI (R158). -/
def execVshli (h : Hdr) (d : BitVec 5) (a : BitVec 5) (im : BitVec 5) (k : BitVec 3) (s : State) : Host.Outcome State Fault Refusal :=
  .next (issueWord (.vshli h d a im k) (specVshli h d a im k) s)

/-- VSHRI (R158). -/
def execVshri (h : Hdr) (d : BitVec 5) (a : BitVec 5) (im : BitVec 5) (k : BitVec 3) (s : State) : Host.Outcome State Fault Refusal :=
  .next (issueWord (.vshri h d a im k) (specVshri h d a im k) s)

/-- VCMP_EQ (R159). -/
def execVcmpEq (h : Hdr) (d : BitVec 5) (a : BitVec 5) (b : BitVec 5) (k : BitVec 3) (s : State) : Host.Outcome State Fault Refusal :=
  .next (issueWord (.vcmpEq h d a b k) (specVcmpEq h d a b k) s)

/-- VCMP_NE (R159). -/
def execVcmpNe (h : Hdr) (d : BitVec 5) (a : BitVec 5) (b : BitVec 5) (k : BitVec 3) (s : State) : Host.Outcome State Fault Refusal :=
  .next (issueWord (.vcmpNe h d a b k) (specVcmpNe h d a b k) s)

/-- VCMP_LT (R159). -/
def execVcmpLt (h : Hdr) (d : BitVec 5) (a : BitVec 5) (b : BitVec 5) (k : BitVec 3) (s : State) : Host.Outcome State Fault Refusal :=
  .next (issueWord (.vcmpLt h d a b k) (specVcmpLt h d a b k) s)

/-- VCMP_LE (R159). -/
def execVcmpLe (h : Hdr) (d : BitVec 5) (a : BitVec 5) (b : BitVec 5) (k : BitVec 3) (s : State) : Host.Outcome State Fault Refusal :=
  .next (issueWord (.vcmpLe h d a b k) (specVcmpLe h d a b k) s)

/-- VCMP_UN (R159). -/
def execVcmpUn (h : Hdr) (d : BitVec 5) (a : BitVec 5) (b : BitVec 5) (k : BitVec 3) (s : State) : Host.Outcome State Fault Refusal :=
  .next (issueWord (.vcmpUn h d a b k) (specVcmpUn h d a b k) s)

/-- VCQ_ANY (R160). -/
def execVcqAny (h : Hdr) (a : BitVec 5) (k : BitVec 3) (s : State) : Host.Outcome State Fault Refusal :=
  .next (issueWord (.vcqAny h a k) (specVcqAny h a k) s)

/-- VCQ_ALL (R160). -/
def execVcqAll (h : Hdr) (a : BitVec 5) (k : BitVec 3) (s : State) : Host.Outcome State Fault Refusal :=
  .next (issueWord (.vcqAll h a k) (specVcqAll h a k) s)

/-- VSEL (R161). -/
def execVsel (h : Hdr) (d : BitVec 5) (a : BitVec 5) (b : BitVec 5) (k : BitVec 3) (s : State) : Host.Outcome State Fault Refusal :=
  .next (issueWord (.vsel h d a b k) (specVsel h d a b k) s)

/-- VMOV (R161). -/
def execVmov (h : Hdr) (d : BitVec 5) (a : BitVec 5) (k : BitVec 3) (s : State) : Host.Outcome State Fault Refusal :=
  .next (issueWord (.vmov h d a k) (specVmov h d a k) s)

/-- VBCAST (R161). -/
def execVbcast (h : Hdr) (d : BitVec 5) (a : BitVec 5) (k : BitVec 3) (s : State) : Host.Outcome State Fault Refusal :=
  .next (issueWord (.vbcast h d a k) (specVbcast h d a k) s)

/-- VEXT (R161). -/
def execVext (h : Hdr) (d : BitVec 5) (a : BitVec 5) (b : BitVec 5) (s : State) : Host.Outcome State Fault Refusal :=
  .next (issueWord (.vext h d a b) (specVext h d a b) s)

/-- VINS (R161). -/
def execVins (h : Hdr) (d : BitVec 5) (a : BitVec 5) (b : BitVec 5) (s : State) : Host.Outcome State Fault Refusal :=
  .next (issueWord (.vins h d a b) (specVins h d a b) s)

/-- VIOTA (R161). -/
def execViota (h : Hdr) (d : BitVec 5) (k : BitVec 3) (s : State) : Host.Outcome State Fault Refusal :=
  .next (issueWord (.viota h d k) (specViota h d k) s)

/-- VCVT (R162). -/
def execVcvt (h : Hdr) (d : BitVec 5) (a : BitVec 5) (im : BitVec 5) (k : BitVec 3) (s : State) : Host.Outcome State Fault Refusal :=
  .next (issueWord (.vcvt h d a im k) (specVcvt h d a im k) s)

/-- VPACK (R163). -/
def execVpack (h : Hdr) (d : BitVec 5) (a : BitVec 5) (im : BitVec 5) (s : State) : Host.Outcome State Fault Refusal :=
  .next (issueWord (.vpack h d a im) (specVpack h d a im) s)

/-- VUNPACK (R163). -/
def execVunpack (h : Hdr) (d : BitVec 5) (a : BitVec 5) (im : BitVec 5) (s : State) : Host.Outcome State Fault Refusal :=
  .next (issueWord (.vunpack h d a im) (specVunpack h d a im) s)

/-- VPERM (R164). -/
def execVperm (h : Hdr) (d : BitVec 5) (a : BitVec 5) (b : BitVec 5) (k : BitVec 3) (s : State) : Host.Outcome State Fault Refusal :=
  .next (issueWord (.vperm h d a b k) (specVperm h d a b k) s)

/-- VSHUF (R164). -/
def execVshuf (h : Hdr) (d : BitVec 5) (a : BitVec 5) (im : BitVec 5) (k : BitVec 3) (s : State) : Host.Outcome State Fault Refusal :=
  .next (issueWord (.vshuf h d a im k) (specVshuf h d a im k) s)

/-- VSLIDE (R164). -/
def execVslide (h : Hdr) (d : BitVec 5) (a : BitVec 5) (b : BitVec 5) (k : BitVec 3) (s : State) : Host.Outcome State Fault Refusal :=
  .next (issueWord (.vslide h d a b k) (specVslide h d a b k) s)

/-- VRED_SUM (R165). -/
def execVredSum (h : Hdr) (d : BitVec 5) (a : BitVec 5) (k : BitVec 3) (s : State) : Host.Outcome State Fault Refusal :=
  .next (issueWord (.vredSum h d a k) (specVredSum h d a k) s)

/-- VRED_MIN (R165). -/
def execVredMin (h : Hdr) (d : BitVec 5) (a : BitVec 5) (k : BitVec 3) (s : State) : Host.Outcome State Fault Refusal :=
  .next (issueWord (.vredMin h d a k) (specVredMin h d a k) s)

/-- VRED_MAX (R165). -/
def execVredMax (h : Hdr) (d : BitVec 5) (a : BitVec 5) (k : BitVec 3) (s : State) : Host.Outcome State Fault Refusal :=
  .next (issueWord (.vredMax h d a k) (specVredMax h d a k) s)

/-- VSCAN (R166). -/
def execVscan (h : Hdr) (d : BitVec 5) (a : BitVec 5) (k : BitVec 3) (s : State) : Host.Outcome State Fault Refusal :=
  .next (issueWord (.vscan h d a k) (specVscan h d a k) s)

/-- VCOMPRESS (R167). -/
def execVcompress (h : Hdr) (d : BitVec 5) (a : BitVec 5) (k : BitVec 3) (s : State) : Host.Outcome State Fault Refusal :=
  .next (issueWord (.vcompress h d a k) (specVcompress h d a k) s)

/-- VEXPAND (R167). -/
def execVexpand (h : Hdr) (d : BitVec 5) (a : BitVec 5) (k : BitVec 3) (s : State) : Host.Outcome State Fault Refusal :=
  .next (issueWord (.vexpand h d a k) (specVexpand h d a k) s)

/-- VPRUNE (R168). -/
def execVprune (h : Hdr) (d : BitVec 5) (a : BitVec 5) (im : BitVec 5) (k : BitVec 3) (s : State) : Host.Outcome State Fault Refusal :=
  .next (issueWord (.vprune h d a im k) (specVprune h d a im k) s)

/-- VQUANT (R169). -/
def execVquant (h : Hdr) (d : BitVec 5) (a : BitVec 5) (b : BitVec 5) (k : BitVec 3) (s : State) : Host.Outcome State Fault Refusal :=
  .next (issueWord (.vquant h d a b k) (specVquant h d a b k) s)

/-- VSCALE (R169). -/
def execVscale (h : Hdr) (d : BitVec 5) (a : BitVec 5) (b : BitVec 5) (k : BitVec 3) (s : State) : Host.Outcome State Fault Refusal :=
  .next (issueWord (.vscale h d a b k) (specVscale h d a b k) s)

/-- VDEFER (R173). -/
def execVdefer (h : Hdr) (a : BitVec 5) (n : BitVec 2) (hh : BitVec 2) (k : BitVec 3) (s : State) : Host.Outcome State Fault Refusal :=
  .next (issueWord (.vdefer h a n hh k) (specVdefer h a n hh k) s)

/-- VDRAIN (R174). -/
def execVdrain (h : Hdr) (d : BitVec 5) (n : BitVec 2) (hh : BitVec 2) (k : BitVec 3) (s : State) : Host.Outcome State Fault Refusal :=
  .next (issueWord (.vdrain h d n hh k) (specVdrain h d n hh k) s)

/-- VTYPE (R155). -/
def execVtype (h : Hdr) (d : BitVec 5) (a : BitVec 5) (sf : BitVec 1) (s : State) : Host.Outcome State Fault Refusal :=
  .next (issueWord (.vtype h d a sf) (specVtype h d a sf) s)

/-- KAND (R176). -/
def execKand (h : Hdr) (d : BitVec 5) (a : BitVec 5) (b : BitVec 5) (s : State) : Host.Outcome State Fault Refusal :=
  .next (issueWord (.kand h d a b) (specKand h d a b) s)

/-- KOR (R176). -/
def execKor (h : Hdr) (d : BitVec 5) (a : BitVec 5) (b : BitVec 5) (s : State) : Host.Outcome State Fault Refusal :=
  .next (issueWord (.kor h d a b) (specKor h d a b) s)

/-- KXOR (R176). -/
def execKxor (h : Hdr) (d : BitVec 5) (a : BitVec 5) (b : BitVec 5) (s : State) : Host.Outcome State Fault Refusal :=
  .next (issueWord (.kxor h d a b) (specKxor h d a b) s)

/-- KNOT (R176). -/
def execKnot (h : Hdr) (d : BitVec 5) (a : BitVec 5) (s : State) : Host.Outcome State Fault Refusal :=
  .next (issueWord (.knot h d a) (specKnot h d a) s)

/-- KPOPC (R176). -/
def execKpopc (h : Hdr) (d : BitVec 5) (a : BitVec 5) (s : State) : Host.Outcome State Fault Refusal :=
  .next (issueWord (.kpopc h d a) (specKpopc h d a) s)

/-- KFIRST (R176). -/
def execKfirst (h : Hdr) (d : BitVec 5) (a : BitVec 5) (s : State) : Host.Outcome State Fault Refusal :=
  .next (issueWord (.kfirst h d a) (specKfirst h d a) s)

/-- KMOV (R176). -/
def execKmov (h : Hdr) (d : BitVec 5) (a : BitVec 5) (s : State) : Host.Outcome State Fault Refusal :=
  .next (issueWord (.kmov h d a) (specKmov h d a) s)

/-- VCLAMP (R156). -/
def execVclamp (h : Hdr) (d : BitVec 5) (a : BitVec 5) (b : BitVec 5) (k : BitVec 3) (s : State) : Host.Outcome State Fault Refusal :=
  .next (issueWord (.vclamp h d a b k) (specVclamp h d a b k) s)

/-- VDOT (R170). -/
def execVdot (h : Hdr) (d : BitVec 5) (a : BitVec 5) (b : BitVec 5) (k : BitVec 3) (s : State) : Host.Outcome State Fault Refusal :=
  .next (issueWord (.vdot h d a b k) (specVdot h d a b k) s)

end Sys2Proof.Machine
end

