-- ==== Sys2Proof/Machine/WordsWeave.lean ====
section
/-! DEFINITION. The meanings of W words and the region words (13, 14): one for each constructor of Instr, over the word's specification
and the shared issue of Issue.lean. -/

namespace Sys2Proof.Machine

/-- RGLOAD (R284). -/
def execRgload (h : Hdr) (d : BitVec 5) (a : BitVec 5) (g : BitVec 6) (s : State) : Host.Outcome State Fault Refusal :=
  .next (issueWord (.rgload h d a g) (specRgload h d a g) s)

/-- RGSWAP_HOT (R285). -/
def execRgswapHot (h : Hdr) (d : BitVec 5) (g : BitVec 6) (s : State) : Host.Outcome State Fault Refusal :=
  .next (issueWord (.rgswapHot h d g) (specRgswapHot h d g) s)

/-- RGSWAP_NOW (R285). -/
def execRgswapNow (h : Hdr) (d : BitVec 5) (g : BitVec 6) (s : State) : Host.Outcome State Fault Refusal :=
  .next (issueWord (.rgswapNow h d g) (specRgswapNow h d g) s)

/-- RGFREEZE_FREEZE (R286). -/
def execRgfreezeFreeze (h : Hdr) (d : BitVec 5) (g : BitVec 6) (s : State) : Host.Outcome State Fault Refusal :=
  .next (issueWord (.rgfreezeFreeze h d g) (specRgfreezeFreeze h d g) s)

/-- RGFREEZE_THAW (R286). -/
def execRgfreezeThaw (h : Hdr) (d : BitVec 5) (g : BitVec 6) (s : State) : Host.Outcome State Fault Refusal :=
  .next (issueWord (.rgfreezeThaw h d g) (specRgfreezeThaw h d g) s)

/-- RGREAD_SAVE (R287). -/
def execRgreadSave (h : Hdr) (d : BitVec 5) (a : BitVec 5) (g : BitVec 6) (s : State) : Host.Outcome State Fault Refusal :=
  .next (issueWord (.rgreadSave h d a g) (specRgreadSave h d a g) s)

/-- RGREAD_FETCH (R287). -/
def execRgreadFetch (h : Hdr) (d : BitVec 5) (a : BitVec 5) (x : BitVec 1) (g : BitVec 6) (s : State) : Host.Outcome State Fault Refusal :=
  .next (issueWord (.rgreadFetch h d a x g) (specRgreadFetch h d a x g) s)

/-- RGREAD_RESTORE (R287). -/
def execRgreadRestore (h : Hdr) (d : BitVec 5) (x : BitVec 1) (g : BitVec 6) (s : State) : Host.Outcome State Fault Refusal :=
  .next (issueWord (.rgreadRestore h d x g) (specRgreadRestore h d x g) s)

/-- RGREAD_STATUS (R287). -/
def execRgreadStatus (h : Hdr) (d : BitVec 5) (g : BitVec 6) (s : State) : Host.Outcome State Fault Refusal :=
  .next (issueWord (.rgreadStatus h d g) (specRgreadStatus h d g) s)

/-- RGCLK (R288). -/
def execRgclk (h : Hdr) (d : BitVec 5) (c : BitVec 3) (g : BitVec 6) (s : State) : Host.Outcome State Fault Refusal :=
  .next (issueWord (.rgclk h d c g) (specRgclk h d c g) s)

/-- WOUT (R270). -/
def execWout (h : Hdr) (t : BitVec 2) (v : BitVec 5) (e : BitVec 1) (n : BitVec 2) (s : State) : Host.Outcome State Fault Refusal :=
  .next (issueWord (.wout h t v e n) (specWout h t v e n) s)

/-- WIN (R270). -/
def execWin (h : Hdr) (t : BitVec 2) (v : BitVec 5) (c : BitVec 1) (n : BitVec 2) (s : State) : Host.Outcome State Fault Refusal :=
  .next (issueWord (.win h t v c n) (specWin h t v c n) s)

/-- WEOS (R270). -/
def execWeos (h : Hdr) (t : BitVec 2) (s : State) : Host.Outcome State Fault Refusal :=
  .next (issueWord (.weos h t) (specWeos h t) s)

/-- WTEST (R271). -/
def execWtest (h : Hdr) (t : BitVec 2) (r : BitVec 1) (n : BitVec 5) (s : State) : Host.Outcome State Fault Refusal :=
  .next (issueWord (.wtest h t r n) (specWtest h t r n) s)

/-- WSTAT (R271). -/
def execWstat (h : Hdr) (t : BitVec 2) (d : BitVec 5) (r : BitVec 1) (c : BitVec 1) (s : State) : Host.Outcome State Fault Refusal :=
  .next (issueWord (.wstat h t d r c) (specWstat h t d r c) s)

/-- WDRAIN_IN (R271). -/
def execWdrainIn (h : Hdr) (t : BitVec 2) (s : State) : Host.Outcome State Fault Refusal :=
  .next (issueWord (.wdrainIn h t) (specWdrainIn h t) s)

/-- WDRAIN_OUT (R271). -/
def execWdrainOut (h : Hdr) (t : BitVec 2) (s : State) : Host.Outcome State Fault Refusal :=
  .next (issueWord (.wdrainOut h t) (specWdrainOut h t) s)

end Sys2Proof.Machine
end

