-- ==== Sys2Proof/Machine/Dispatch.lean ====
section
/-! DEFINITION. One arm for each constructor of Instr. -/

namespace Sys2Proof.Machine

def exec (i : Instr) (s : State) : Host.Outcome State Fault Refusal :=
  match i with
  | .addi h d a im => Sys2Proof.Machine.execAddi h d a im s
  | .andi h d a im => Sys2Proof.Machine.execAndi h d a im s
  | .ori h d a im => Sys2Proof.Machine.execOri h d a im s
  | .xori h d a im => Sys2Proof.Machine.execXori h d a im s
  | .slli h d a im => Sys2Proof.Machine.execSlli h d a im s
  | .srli h d a im => Sys2Proof.Machine.execSrli h d a im s
  | .srai h d a im => Sys2Proof.Machine.execSrai h d a im s
  | .slti h d a im => Sys2Proof.Machine.execSlti h d a im s
  | .sltiu h d a im => Sys2Proof.Machine.execSltiu h d a im s
  | .ldxD h d a im => Sys2Proof.Machine.execLdxD h d a im s
  | .ldxW h d a im => Sys2Proof.Machine.execLdxW h d a im s
  | .stxD h d a im => Sys2Proof.Machine.execStxD h d a im s
  | .stxW h d a im => Sys2Proof.Machine.execStxW h d a im s
  | .csrr h d im => Sys2Proof.Machine.execCsrr h d im s
  | .csrw h a im => Sys2Proof.Machine.execCsrw h a im s
  | .csrx h d a im => Sys2Proof.Machine.execCsrx h d a im s
  | .li h d im => Sys2Proof.Machine.execLi h d im s
  | .lsh h d im => Sys2Proof.Machine.execLsh h d im s
  | .auipc h d im => Sys2Proof.Machine.execAuipc h d im s
  | .setlc h im => Sys2Proof.Machine.execSetlc h im s
  | .beqz h a f => Sys2Proof.Machine.execBeqz h a f s
  | .bnez h a f => Sys2Proof.Machine.execBnez h a f s
  | .bcq h f => Sys2Proof.Machine.execBcq h f s
  | .bncq h f => Sys2Proof.Machine.execBncq h f s
  | .blc h f => Sys2Proof.Machine.execBlc h f s
  | .jal h d f => Sys2Proof.Machine.execJal h d f s
  | .add h d a b => Sys2Proof.Machine.execAdd h d a b s
  | .sub h d a b => Sys2Proof.Machine.execSub h d a b s
  | .and h d a b => Sys2Proof.Machine.execAnd h d a b s
  | .or h d a b => Sys2Proof.Machine.execOr h d a b s
  | .xor h d a b => Sys2Proof.Machine.execXor h d a b s
  | .sll h d a b => Sys2Proof.Machine.execSll h d a b s
  | .srl h d a b => Sys2Proof.Machine.execSrl h d a b s
  | .sra h d a b => Sys2Proof.Machine.execSra h d a b s
  | .slt h d a b => Sys2Proof.Machine.execSlt h d a b s
  | .sltu h d a b => Sys2Proof.Machine.execSltu h d a b s
  | .min h d a b => Sys2Proof.Machine.execMin h d a b s
  | .max h d a b => Sys2Proof.Machine.execMax h d a b s
  | .minu h d a b => Sys2Proof.Machine.execMinu h d a b s
  | .maxu h d a b => Sys2Proof.Machine.execMaxu h d a b s
  | .mul h d a b => Sys2Proof.Machine.execMul h d a b s
  | .mulh h d a b => Sys2Proof.Machine.execMulh h d a b s
  | .mulhu h d a b => Sys2Proof.Machine.execMulhu h d a b s
  | .div h d a b => Sys2Proof.Machine.execDiv h d a b s
  | .divu h d a b => Sys2Proof.Machine.execDivu h d a b s
  | .rem h d a b => Sys2Proof.Machine.execRem h d a b s
  | .remu h d a b => Sys2Proof.Machine.execRemu h d a b s
  | .clz h d a => Sys2Proof.Machine.execClz h d a s
  | .ctz h d a => Sys2Proof.Machine.execCtz h d a s
  | .popc h d a => Sys2Proof.Machine.execPopc h d a s
  | .sextB h d a => Sys2Proof.Machine.execSextB h d a s
  | .sextH h d a => Sys2Proof.Machine.execSextH h d a s
  | .sextW h d a => Sys2Proof.Machine.execSextW h d a s
  | .zextW h d a => Sys2Proof.Machine.execZextW h d a s
  | .jalr h d a => Sys2Proof.Machine.execJalr h d a s
  | .setlcS h a => Sys2Proof.Machine.execSetlcS h a s
  | .rdlc h d => Sys2Proof.Machine.execRdlc h d s
  | .cmovz h d a b => Sys2Proof.Machine.execCmovz h d a b s
  | .cmovnz h d a b => Sys2Proof.Machine.execCmovnz h d a b s
  | .ifq h n => Sys2Proof.Machine.execIfq h n s
  | .elseq h n => Sys2Proof.Machine.execElseq h n s
  | .stgStage h n => Sys2Proof.Machine.execStgStage h n s
  | .loopp h sf l => Sys2Proof.Machine.execLoopp h sf l s
  | .setrb h a => Sys2Proof.Machine.execSetrb h a s
  | .addSh1 h d a b => Sys2Proof.Machine.execAddSh1 h d a b s
  | .addSh2 h d a b => Sys2Proof.Machine.execAddSh2 h d a b s
  | .addSh3 h d a b => Sys2Proof.Machine.execAddSh3 h d a b s
  | .addSh4 h d a b => Sys2Proof.Machine.execAddSh4 h d a b s
  | .taddr h d a b => Sys2Proof.Machine.execTaddr h d a b s
  | .vadd h d a b k => Sys2Proof.Machine.execVadd h d a b k s
  | .vsub h d a b k => Sys2Proof.Machine.execVsub h d a b k s
  | .vmul h d a b k => Sys2Proof.Machine.execVmul h d a b k s
  | .vfma h d a b k => Sys2Proof.Machine.execVfma h d a b k s
  | .vfms h d a b k => Sys2Proof.Machine.execVfms h d a b k s
  | .vmin h d a b k => Sys2Proof.Machine.execVmin h d a b k s
  | .vmax h d a b k => Sys2Proof.Machine.execVmax h d a b k s
  | .vabs h d a k => Sys2Proof.Machine.execVabs h d a k s
  | .vneg h d a k => Sys2Proof.Machine.execVneg h d a k s
  | .vrcp h d a k => Sys2Proof.Machine.execVrcp h d a k s
  | .vrsq h d a k => Sys2Proof.Machine.execVrsq h d a k s
  | .vexp2 h d a k => Sys2Proof.Machine.execVexp2 h d a k s
  | .vlog2 h d a k => Sys2Proof.Machine.execVlog2 h d a k s
  | .vand h d a b k => Sys2Proof.Machine.execVand h d a b k s
  | .vor h d a b k => Sys2Proof.Machine.execVor h d a b k s
  | .vxor h d a b k => Sys2Proof.Machine.execVxor h d a b k s
  | .vnot h d a k => Sys2Proof.Machine.execVnot h d a k s
  | .vshl h d a b k => Sys2Proof.Machine.execVshl h d a b k s
  | .vshr h d a b k => Sys2Proof.Machine.execVshr h d a b k s
  | .vsra h d a b k => Sys2Proof.Machine.execVsra h d a b k s
  | .vshli h d a im k => Sys2Proof.Machine.execVshli h d a im k s
  | .vshri h d a im k => Sys2Proof.Machine.execVshri h d a im k s
  | .vcmpEq h d a b k => Sys2Proof.Machine.execVcmpEq h d a b k s
  | .vcmpNe h d a b k => Sys2Proof.Machine.execVcmpNe h d a b k s
  | .vcmpLt h d a b k => Sys2Proof.Machine.execVcmpLt h d a b k s
  | .vcmpLe h d a b k => Sys2Proof.Machine.execVcmpLe h d a b k s
  | .vcmpUn h d a b k => Sys2Proof.Machine.execVcmpUn h d a b k s
  | .vcqAny h a k => Sys2Proof.Machine.execVcqAny h a k s
  | .vcqAll h a k => Sys2Proof.Machine.execVcqAll h a k s
  | .vsel h d a b k => Sys2Proof.Machine.execVsel h d a b k s
  | .vmov h d a k => Sys2Proof.Machine.execVmov h d a k s
  | .vbcast h d a k => Sys2Proof.Machine.execVbcast h d a k s
  | .vext h d a b => Sys2Proof.Machine.execVext h d a b s
  | .vins h d a b => Sys2Proof.Machine.execVins h d a b s
  | .viota h d k => Sys2Proof.Machine.execViota h d k s
  | .vcvt h d a im k => Sys2Proof.Machine.execVcvt h d a im k s
  | .vpack h d a im => Sys2Proof.Machine.execVpack h d a im s
  | .vunpack h d a im => Sys2Proof.Machine.execVunpack h d a im s
  | .vperm h d a b k => Sys2Proof.Machine.execVperm h d a b k s
  | .vshuf h d a im k => Sys2Proof.Machine.execVshuf h d a im k s
  | .vslide h d a b k => Sys2Proof.Machine.execVslide h d a b k s
  | .vredSum h d a k => Sys2Proof.Machine.execVredSum h d a k s
  | .vredMin h d a k => Sys2Proof.Machine.execVredMin h d a k s
  | .vredMax h d a k => Sys2Proof.Machine.execVredMax h d a k s
  | .vscan h d a k => Sys2Proof.Machine.execVscan h d a k s
  | .vcompress h d a k => Sys2Proof.Machine.execVcompress h d a k s
  | .vexpand h d a k => Sys2Proof.Machine.execVexpand h d a k s
  | .vprune h d a im k => Sys2Proof.Machine.execVprune h d a im k s
  | .vquant h d a b k => Sys2Proof.Machine.execVquant h d a b k s
  | .vscale h d a b k => Sys2Proof.Machine.execVscale h d a b k s
  | .vdefer h a n hh k => Sys2Proof.Machine.execVdefer h a n hh k s
  | .vdrain h d n hh k => Sys2Proof.Machine.execVdrain h d n hh k s
  | .vtype h d a sf => Sys2Proof.Machine.execVtype h d a sf s
  | .kand h d a b => Sys2Proof.Machine.execKand h d a b s
  | .kor h d a b => Sys2Proof.Machine.execKor h d a b s
  | .kxor h d a b => Sys2Proof.Machine.execKxor h d a b s
  | .knot h d a => Sys2Proof.Machine.execKnot h d a s
  | .kpopc h d a => Sys2Proof.Machine.execKpopc h d a s
  | .kfirst h d a => Sys2Proof.Machine.execKfirst h d a s
  | .kmov h d a => Sys2Proof.Machine.execKmov h d a s
  | .vclamp h d a b k => Sys2Proof.Machine.execVclamp h d a b k s
  | .vdot h d a b k => Sys2Proof.Machine.execVdot h d a b k s
  | .mma h c a b z m t x y r => Sys2Proof.Machine.execMma h c a b z m t x y r s
  | .mrun h c a b z m t n r => Sys2Proof.Machine.execMrun h c a b z m t n r s
  | .mzero h c => Sys2Proof.Machine.execMzero h c s
  | .mdrain h c y d z => Sys2Proof.Machine.execMdrain h c y d z s
  | .mdrainV h c y v z => Sys2Proof.Machine.execMdrainV h c y v z s
  | .mloada h c y v => Sys2Proof.Machine.execMloada h c y v s
  | .mscale h d v => Sys2Proof.Machine.execMscale h d v s
  | .mcfg h m a b r => Sys2Proof.Machine.execMcfg h m a b r s
  | .mlend h b => Sys2Proof.Machine.execMlend h b s
  | .mret h b => Sys2Proof.Machine.execMret h b s
  | .mtrans h sf d w => Sys2Proof.Machine.execMtrans h sf d w s
  | .mchk h c => Sys2Proof.Machine.execMchk h c s
  | .mprobe h sf d => Sys2Proof.Machine.execMprobe h sf d s
  | .mprobeAcc h c d => Sys2Proof.Machine.execMprobeAcc h c d s
  | .vld h d a b c z => Sys2Proof.Machine.execVld h d a b c z s
  | .vldS h d a b c hh => Sys2Proof.Machine.execVldS h d a b c hh s
  | .vst h d a b c z => Sys2Proof.Machine.execVst h d a b c z s
  | .vstS h d a b c hh => Sys2Proof.Machine.execVstS h d a b c hh s
  | .mld h d a b c => Sys2Proof.Machine.execMld h d a b c s
  | .mldT h d a b c w => Sys2Proof.Machine.execMldT h d a b c w s
  | .mldU h d c => Sys2Proof.Machine.execMldU h d c s
  | .mst h d a b c => Sys2Proof.Machine.execMst h d a b c s
  | .vldBm h d a b c n => Sys2Proof.Machine.execVldBm h d a b c n s
  | .vstBm h d a b c n => Sys2Proof.Machine.execVstBm h d a b c n s
  | .cpyIn h d a b c hh => Sys2Proof.Machine.execCpyIn h d a b c hh s
  | .cpyOut h d a b c hh => Sys2Proof.Machine.execCpyOut h d a b c hh s
  | .cpyLoc h d a b c hh => Sys2Proof.Machine.execCpyLoc h d a b c hh s
  | .awf h a hh => Sys2Proof.Machine.execAwf h a hh s
  | .rls h a hh => Sys2Proof.Machine.execRls h a hh s
  | .agCfg h a j g => Sys2Proof.Machine.execAgCfg h a j g s
  | .winCfg h a b => Sys2Proof.Machine.execWinCfg h a b s
  | .fopen h d a n c k => Sys2Proof.Machine.execFopen h d a n c k s
  | .fadv h d a b c => Sys2Proof.Machine.execFadv h d a b c s
  | .fend h a => Sys2Proof.Machine.execFend h a s
  | .fclose h a => Sys2Proof.Machine.execFclose h a s
  | .ldg h d a b e o => Sys2Proof.Machine.execLdg h d a b e o s
  | .stg h d a b e o => Sys2Proof.Machine.execStg h d a b e o s
  | .lda h d a b e => Sys2Proof.Machine.execLda h d a b e s
  | .strl h d a b e => Sys2Proof.Machine.execStrl h d a b e s
  | .fence h e o => Sys2Proof.Machine.execFence h e o s
  | .amoAdd h d a b e o => Sys2Proof.Machine.execAmoAdd h d a b e o s
  | .amoAnd h d a b e o => Sys2Proof.Machine.execAmoAnd h d a b e o s
  | .amoOr h d a b e o => Sys2Proof.Machine.execAmoOr h d a b e o s
  | .amoXor h d a b e o => Sys2Proof.Machine.execAmoXor h d a b e o s
  | .amoMin h d a b e o => Sys2Proof.Machine.execAmoMin h d a b e o s
  | .amoMax h d a b e o => Sys2Proof.Machine.execAmoMax h d a b e o s
  | .amoMinu h d a b e o => Sys2Proof.Machine.execAmoMinu h d a b e o s
  | .amoMaxu h d a b e o => Sys2Proof.Machine.execAmoMaxu h d a b e o s
  | .amoSwap h d a b e o => Sys2Proof.Machine.execAmoSwap h d a b e o s
  | .amoCas h d a b e o => Sys2Proof.Machine.execAmoCas h d a b e o s
  | .amoFadd h d a b e o => Sys2Proof.Machine.execAmoFadd h d a b e o s
  | .verst h d a b e => Sys2Proof.Machine.execVerst h d a b e s
  | .verld h d a b e => Sys2Proof.Machine.execVerld h d a b e s
  | .verrcl h d a b e => Sys2Proof.Machine.execVerrcl h d a b e s
  | .barW h l => Sys2Proof.Machine.execBarW h l s
  | .barA h l => Sys2Proof.Machine.execBarA h l s
  | .barT h d l => Sys2Proof.Machine.execBarT h d l s
  | .bcast h a l => Sys2Proof.Machine.execBcast h a l s
  | .brecv h d l => Sys2Proof.Machine.execBrecv h d l s
  | .red h d a b l => Sys2Proof.Machine.execRed h d a b l s
  | .evt h l => Sys2Proof.Machine.execEvt h l s
  | .submit h d a b => Sys2Proof.Machine.execSubmit h d a b s
  | .mcast h d a b => Sys2Proof.Machine.execMcast h d a b s
  | .wbr h a b => Sys2Proof.Machine.execWbr h a b s
  | .invr h a b => Sys2Proof.Machine.execInvr h a b s
  | .wbwait h d => Sys2Proof.Machine.execWbwait h d s
  | .lat h d a b => Sys2Proof.Machine.execLat h d a b s
  | .ldt h d a b => Sys2Proof.Machine.execLdt h d a b s
  | .lfold h d a b => Sys2Proof.Machine.execLfold h d a b s
  | .lfwait h d a => Sys2Proof.Machine.execLfwait h d a s
  | .lgen h d a => Sys2Proof.Machine.execLgen h d a s
  | .tkpush h a b => Sys2Proof.Machine.execTkpush h a b s
  | .tkpop h a b => Sys2Proof.Machine.execTkpop h a b s
  | .tkcnt h d b => Sys2Proof.Machine.execTkcnt h d b s
  | .trap h c => Sys2Proof.Machine.execTrap h c s
  | .tretResume h => Sys2Proof.Machine.execTretResume h s
  | .tretAbort h => Sys2Proof.Machine.execTretAbort h s
  | .halt h => Sys2Proof.Machine.execHalt h s
  | .yield h d => Sys2Proof.Machine.execYield h d s
  | .wfe h => Sys2Proof.Machine.execWfe h s
  | .wut h a => Sys2Proof.Machine.execWut h a s
  | .rdtime h d sf => Sys2Proof.Machine.execRdtime h d sf s
  | .mperm h d a => Sys2Proof.Machine.execMperm h d a s
  | .rdst h d a c => Sys2Proof.Machine.execRdst h d a c s
  | .wrst h d a c => Sys2Proof.Machine.execWrst h d a c s
  | .ctxSave h d a c => Sys2Proof.Machine.execCtxSave h d a c s
  | .ctxLoad h d a c => Sys2Proof.Machine.execCtxLoad h d a c s
  | .domsetInstall h d a => Sys2Proof.Machine.execDomsetInstall h d a s
  | .domsetRemove h d a => Sys2Proof.Machine.execDomsetRemove h d a s
  | .hmsetQuiesce h d a m => Sys2Proof.Machine.execHmsetQuiesce h d a m s
  | .hmsetSwitch h d a m => Sys2Proof.Machine.execHmsetSwitch h d a m s
  | .hmsetResume h d a m => Sys2Proof.Machine.execHmsetResume h d a m s
  | .rgload h d a g => Sys2Proof.Machine.execRgload h d a g s
  | .rgswapHot h d g => Sys2Proof.Machine.execRgswapHot h d g s
  | .rgswapNow h d g => Sys2Proof.Machine.execRgswapNow h d g s
  | .rgfreezeFreeze h d g => Sys2Proof.Machine.execRgfreezeFreeze h d g s
  | .rgfreezeThaw h d g => Sys2Proof.Machine.execRgfreezeThaw h d g s
  | .rgreadSave h d a g => Sys2Proof.Machine.execRgreadSave h d a g s
  | .rgreadFetch h d a x g => Sys2Proof.Machine.execRgreadFetch h d a x g s
  | .rgreadRestore h d x g => Sys2Proof.Machine.execRgreadRestore h d x g s
  | .rgreadStatus h d g => Sys2Proof.Machine.execRgreadStatus h d g s
  | .rgclk h d c g => Sys2Proof.Machine.execRgclk h d c g s
  | .wout h t v e n => Sys2Proof.Machine.execWout h t v e n s
  | .win h t v c n => Sys2Proof.Machine.execWin h t v c n s
  | .weos h t => Sys2Proof.Machine.execWeos h t s
  | .wtest h t r n => Sys2Proof.Machine.execWtest h t r n s
  | .wstat h t d r c => Sys2Proof.Machine.execWstat h t d r c s
  | .wdrainIn h t => Sys2Proof.Machine.execWdrainIn h t s
  | .wdrainOut h t => Sys2Proof.Machine.execWdrainOut h t s
  | .prefG h d a im => Sys2Proof.Machine.execPrefG h d a im s
  | .prefS h d a im => Sys2Proof.Machine.execPrefS h d a im s
  | .prio h d a im => Sys2Proof.Machine.execPrio h d a im s
  | .pause h d a im => Sys2Proof.Machine.execPause h d a im s
  | .engineWordStart c k e => Sys2Proof.Machine.execEngineWordStart c k e s
  | .wordRetire c k e => Sys2Proof.Machine.execWordRetire c k e s
  | .deadlockDetect c => Sys2Proof.Machine.execDeadlockDetect c s
  | .correctableError c => Sys2Proof.Machine.execCorrectableError c s
  | .freezeBegin c => Sys2Proof.Machine.execFreezeBegin c s
  | .freezeEnd c => Sys2Proof.Machine.execFreezeEnd c s
  | .pageRefillComplete c page mapped bad => Sys2Proof.Machine.execPageRefillComplete c page mapped bad s
  | .pauseEnd c k => Sys2Proof.Machine.execPauseEnd c k s
  | .accumulatorWriteback c => Sys2Proof.Machine.execAccumulatorWriteback c s
  | .permitDecision c => Sys2Proof.Machine.execPermitDecision c s
  | .transferStart c hoop slot => Sys2Proof.Machine.execTransferStart c hoop slot s
  | .transferChunk c hoop slot => Sys2Proof.Machine.execTransferChunk c hoop slot s
  | .slotFill c hoop slot => Sys2Proof.Machine.execSlotFill c hoop slot s
  | .flitInject ring station => Sys2Proof.Machine.execFlitInject ring station s
  | .flitOffer ring station => Sys2Proof.Machine.execFlitOffer ring station s
  | .sliceAccess die slice => Sys2Proof.Machine.execSliceAccess die slice s
  | .rehomeResend c req => Sys2Proof.Machine.execRehomeResend c req s
  | .sliceMissFill line victim err => Sys2Proof.Machine.execSliceMissFill line victim err s
  | .translationWalkDone c va => Sys2Proof.Machine.execTranslationWalkDone c va s
  | .wbrInvrFinish c => Sys2Proof.Machine.execWbrInvrFinish c s
  | .verstStallTimeout req => Sys2Proof.Machine.execVerstStallTimeout req s
  | .foldTile handle => Sys2Proof.Machine.execFoldTile handle s
  | .foldSwap handle => Sys2Proof.Machine.execFoldSwap handle s
  | .invalidationRequest die => Sys2Proof.Machine.execInvalidationRequest die s
  | .invalidationDone die => Sys2Proof.Machine.execInvalidationDone die s
  | .carveWrite die slice data => Sys2Proof.Machine.execCarveWrite die slice data s
  | .loadGo die => Sys2Proof.Machine.execLoadGo die s
  | .loadComplete die => Sys2Proof.Machine.execLoadComplete die s
  | .queueTableWrite die entry data => Sys2Proof.Machine.execQueueTableWrite die entry data s
  | .devIdWrite data => Sys2Proof.Machine.execDevIdWrite data s
  | .registerWrite die off data => Sys2Proof.Machine.execRegisterWrite die off data s
  | .packetAccept die entry => Sys2Proof.Machine.execPacketAccept die entry s
  | .copyPacketRow die k => Sys2Proof.Machine.execCopyPacketRow die k s
  | .completionRecordWrite die entry => Sys2Proof.Machine.execCompletionRecordWrite die entry s
  | .operandWordPoll die => Sys2Proof.Machine.execOperandWordPoll die s
  | .priorityAging die launch node => Sys2Proof.Machine.execPriorityAging die launch node s
  | .textRewrite die launch node => Sys2Proof.Machine.execTextRewrite die launch node s
  | .nodePlace die => Sys2Proof.Machine.execNodePlace die s
  | .dispatch die launch node => Sys2Proof.Machine.execDispatch die launch node s
  | .preemptDecision die launch node => Sys2Proof.Machine.execPreemptDecision die launch node s
  | .preemptSignal die launch node => Sys2Proof.Machine.execPreemptSignal die launch node s
  | .contextSaved die launch node => Sys2Proof.Machine.execContextSaved die launch node s
  | .nodeResume die launch node => Sys2Proof.Machine.execNodeResume die launch node s
  | .haltTreeFire die launch node => Sys2Proof.Machine.execHaltTreeFire die launch node s
  | .syncArrival root slot => Sys2Proof.Machine.execSyncArrival root slot s
  | .barrierRelease root slot => Sys2Proof.Machine.execBarrierRelease root slot s
  | .reductionResult root slot => Sys2Proof.Machine.execReductionResult root slot s
  | .broadcastDelivery root slot => Sys2Proof.Machine.execBroadcastDelivery root slot s
  | .broadcastCreditReturn root slot => Sys2Proof.Machine.execBroadcastCreditReturn root slot s
  | .eventDelivery root slot => Sys2Proof.Machine.execEventDelivery root slot s
  | .syncFaultSignal root slot => Sys2Proof.Machine.execSyncFaultSignal root slot s
  | .brokenVerdict root slot => Sys2Proof.Machine.execBrokenVerdict root slot s
  | .beatTransfer rg lane egress => Sys2Proof.Machine.execBeatTransfer rg lane egress s
  | .fifoCrossing c port => Sys2Proof.Machine.execFifoCrossing c port s
  | .withyTransfer rg withy => Sys2Proof.Machine.execWithyTransfer rg withy s
  | .regionRamError rg fatal => Sys2Proof.Machine.execRegionRamError rg fatal s
  | .swapBoundary rg => Sys2Proof.Machine.execSwapBoundary rg s
  | .planeExchange rg => Sys2Proof.Machine.execPlaneExchange rg s
  | .saveWritebackDone die => Sys2Proof.Machine.execSaveWritebackDone die s
  | .wutCrossing c => Sys2Proof.Machine.execWutCrossing c s
  | .hostWrite port fn addr data poisoned => Sys2Proof.Machine.execHostWrite port fn addr data poisoned s
  | .hostRead port fn addr n => Sys2Proof.Machine.execHostRead port fn addr n s
  | .hostAtomicop port fn addr size op x cmp => Sys2Proof.Machine.execHostAtomicop port fn addr size op x cmp s
  | .linkBeatArrival link ch late item => Sys2Proof.Machine.execLinkBeatArrival link ch late item s
  | .treeTokenForward link late => Sys2Proof.Machine.execTreeTokenForward link late s
  | .ptpMessage link parent offset => Sys2Proof.Machine.execPtpMessage link parent offset s
  | .syncInterval offset step rate => Sys2Proof.Machine.execSyncInterval offset step rate s
  | .governorCapUpdate die cluster cap => Sys2Proof.Machine.execGovernorCapUpdate die cluster cap s
  | .thermalHold die => Sys2Proof.Machine.execThermalHold die s
  | .thermalShutdown => Sys2Proof.Machine.execThermalShutdown s
  | .patrolScrub line err => Sys2Proof.Machine.execPatrolScrub line err s
  | .packageReset boot => Sys2Proof.Machine.execPackageReset boot s
  | .dieReset die => Sys2Proof.Machine.execDieReset die s
  | .stackReset die phase => Sys2Proof.Machine.execStackReset die phase s
  | .linkReset link f => Sys2Proof.Machine.execLinkReset link f s
  | .reportRequest nonce => Sys2Proof.Machine.execReportRequest nonce s
  | .reportReady => Sys2Proof.Machine.execReportReady s
  | .regionClockEdge rg => Sys2Proof.Machine.execRegionClockEdge rg s
  | .hostCompletion req ok data => Sys2Proof.Machine.execHostCompletion req ok data s
  | .hostCompletionTimeout req => Sys2Proof.Machine.execHostCompletionTimeout req s
  | .msixVectorUnmask fn vec => Sys2Proof.Machine.execMsixVectorUnmask fn vec s
  | .timeStRead => Sys2Proof.Machine.execTimeStRead s
  | .ptpParentLoss => Sys2Proof.Machine.execPtpParentLoss s

end Sys2Proof.Machine
end

