-- ==== Sys2Proof/Machine/Readback.lean ====
section
/-! DEFINITION. The host's other windows: the control window (22 R405), and the readback window (26 R450, R451): what an 8-byte
read of BAR4 gives. The units' contents are those of R450's table; where the spec gives no layout inside a unit, a word of it is an open function
of the unit's contents and of the offset (log entry 62). -/

namespace Sys2Proof.Machine

/-- What a slice's part of the window holds: dirty count, error count, carve, tags with their held and dirty bits, walk cache, and the state
of the folds of its handles (10 R222, R224, R232, 18 R344, R351, 19 R370). -/
def sliceItems (s : State) (g : Nat) : List Nat :=
  let x := tget {} s.slices g
  [(x.lines.filter (fun l => l.2.held && l.2.dirty)).length, x.errs, x.carve.toNat]
    ++ x.lines.flatMap (fun l => [l.1, l.2.held.toNat, l.2.dirty.toNat])
    ++ x.walks.flatMap (fun e => [e.ctx.toNat, e.page, e.bits, e.leaf.toNat])
    ++ (s.folds.filter (fun f => homeOf s f.1 = some (g / 48, g % 48))).flatMap (fun f => [f.1, f.2.active.toNat, f.2.k, f.2.tile, f.2.code.toNat])

/-- The interleave descriptors, quiesce bits and rehome count of a die, and the codes of its requests that were bounced (10 R232, R233). -/
def interleaveItems (s : State) (d : Nat) : List Nat :=
  (s.die d).rehome :: (List.range 12).flatMap (fun m =>
    let x := tget {} (s.die d).il m
    [x.active.toNat, x.quiesced.toNat, x.base, x.limit] ++ x.members ++ x.masks.map (·.toNat))
  ++ (s.reqs.filter (fun q => q.code != 0#8 && (match target q.pa with
    | .hbm e _ => decide (e = d)
    | _ => false))).flatMap (fun q => [q.id, q.code.toNat])

/-- What the die root holds of a level 2 or 3 domain: its own members' part of what goes on to the package root, 40 cycles before that
has it (12 R241, R245). -/
def dieView (s : State) (d n : Nat) : SyncSlot :=
  let x := s.slot d n
  if x.level < 2 then x
  else
    let p := s.slot 8 n
    let mine := fun c => coreDie c = d
    let here := p.up.filter (fun m => decide (m.1 ≤ s.cycle + 40))
    { x with
      arrived := p.arrived.filter mine ++ here.filterMap (fun m => match m.2 with
        | .arrive c => if mine c then some c else none
        | _ => none)
      redOp := p.redOp
      contribs := p.contribs.filter (fun q => mine q.1) ++ here.filterMap (fun m => match m.2 with
        | .contrib c _ v => if mine c then some (c, v) else none
        | _ => none)
      used := p.used.filter (fun q => mine q.1)
      epoch := p.epoch
      broken := p.broken
      incomplete := p.incomplete.filter mine }

/-- The state of a sync domain (12 R245). -/
def slotItems (x : SyncSlot) : List Nat :=
  [x.installed.toNat, x.arrived.length] ++ x.arrived ++ [x.redOp.getD 8] ++ x.contribs.flatMap (fun p => [p.1, p.2.toNat])
    ++ x.members.map (fun c => 8 - tget 0 x.used c) ++ [x.epoch.toNat, x.broken.toNat] ++ x.incomplete

/-- A slot's part: the die root's state and, of a level 2 or 3 domain, the package root's. -/
def domainItems (s : State) (d n : Nat) : List Nat :=
  slotItems (dieView s d n) ++ (if (s.slot d n).level < 2 then [] else slotItems (s.slot 8 n))

/-- The code of a node's state in the pool. -/
def poolCode : NodeState → Nat
  | .waiting => 0 | .ready => 1 | .reserved => 2 | .placed => 3 | .running => 4 | .saving => 5 | .saved => 6 | .resuming => 7
  | .done => 8 | .aborted => 9

/-- The crown's part: queue table with the codes of its entries, the journal of accepted packets, pool with priorities, installed tables,
halt trees (16 R297 to R318; the journal's form is log entry 83). -/
def crownItems (s : State) (d : Nat) : List Nat :=
  let x := s.die d
  x.qtab.flatMap (fun q => [q.1, q.2.toNat]) ++ x.qcode.flatMap (fun q => [q.1, q.2.toNat])
    ++ x.packets.flatMap (fun p => [p.id, p.entry, p.n.toNat, p.accepted, (p.result.elim 0 (fun r => 1 + r.1.toNat))])
    ++ x.launches.flatMap (fun l => l.stamp.toNat :: l.nodes.flatMap (fun n => [poolCode n.st, n.own, n.readyAt, n.fireAt.getD 0, n.code.toNat]))
    ++ x.tables.flatMap (fun t => [t.1, t.2.1] ++ t.2.2.flatMap (fun e => [e.1, e.2.toNat]))

/-- The last part: HBM4 error count, late counts of the die's links, time.st, the governor's registers, boot code, reset count. -/
def packageItems (s : State) (d : Nat) : List Nat :=
  [(s.die d).stackErrs] ++ (List.range 4).map (fun j => (s.link (4 * d + j)).late) ++ [(crownGet s 0 0x3000).toNat]
    ++ (List.range 12).map (fun c => (crownGet s d (0x0800 + 8 * c)).toNat) ++ [s.pkg.bootCode, (s.die d).resets]

/-- A 64-bit chunk of a region's part: the status word, then the chain, which reads as zero unless the live plane is frozen (R451). -/
def regionRead (s : State) (rg i : Nat) : Word :=
  let r := s.region rg
  if i = 0 then regionStatus s rg
  else if r.live ≠ .frozen then 0
  else (wordsOf (chainBytes (chainOf r))).getD (i - 1) 0

/-- A word of a core's live state in the layout of the context image; a word that the image's rules leave open is free. -/
def coreRead (s : State) (c i : Nat) : Word :=
  if i = checkWord then imageCheck (imageWords s c (s.core c) s.free) else (imageWord s c (s.core c) i).getD s.freeVal

/-- The value of an 8-byte read at an offset of the window, of one cycle (R450, R451). -/
def readback (s : State) (addr : Nat) : Word :=
  let d := addr / 0x20000000 % 8
  let o := addr % 0x20000000 / 8 * 8
  if o < 0x03000000 then coreRead s (d * 256 + o / 0x40000) (o % 0x40000 / 8)
  else if o < 0x06000000 then Config.scanWord 0 (o % 0x100000) (sliceItems s (d * 48 + (o - 0x03000000) / 0x100000))
  else if o < 0x06001000 then Config.scanWord 1 (o % 0x1000) (interleaveItems s d)
  else if 0x06010000 ≤ o ∧ o < 0x06014000 then Config.scanWord 2 (o % 256) (domainItems s d ((o - 0x06010000) / 256))
  else if 0x06020000 ≤ o ∧ o < 0x07020000 then Config.scanWord 3 (o - 0x06020000) (crownItems s d)
  else if 0x07100000 ≤ o ∧ o < 0x08900000 then regionRead s (d * 48 + (o - 0x07100000) / 0x80000) ((o - 0x07100000) % 0x80000 / 8)
  else if d = 0 ∧ o = 0x09020000 then word s.pkg.bootCode
  else if 0x09000000 ≤ o ∧ o < 0x09100000 then Config.scanWord 4 (o - 0x09000000) (packageItems s d)
  else Config.scanWord 5 o []

/-- A read of the readback window by the physical function: only what the host receives changes (R451). -/
def readbackEv (addr : Nat) (s : State) : State := s.takeFree.answered (leBytes 8 (readback s addr).toNat) false

/-- Does a function's control window show an offset of a die's page: all of it to the physical function, and to a virtual function the
queue-table entries bound to it (22 R405, R408)? -/
def controlShows (s : State) (fn d off : Nat) : Bool :=
  fn = 0 || (decide (off < 0x200) && wbits (tget 0 (s.die d).qtab (off / 8)) 52 48 = fn)

/-- An 8-byte access of a function to its control window (22 R405): die n's page at 2 MiB × n. What the window does not show reads as
zero and ignores writes. -/
def controlEv (fn addr : Nat) (data : Option Word) (s : State) : State :=
  let d := addr / 0x200000
  let off := addr % 0x200000
  if addr % 8 ≠ 0 || addr ≥ 0x1000000 then s
  else if !controlShows s fn d off then (if data.isNone then s.answered (leBytes 8 0) false else s)
  else match data with
    | some x => hostRegister d off x s
    | none =>
      let r := crownRead s d off
      r.2.answered (leBytes 8 r.1.toNat) false

end Sys2Proof.Machine
end

