-- ==== Sys2Proof/Machine/Step.lean ====
section
/-! DEFINITION. One step: the mover that State.agenda names, or, where it names none, the one that the surroundings choose
(Config.nextTurn), moves. -/

namespace Sys2Proof.Machine

/-- Who moves, and the state without that entry of the agenda. -/
def takeTurn (s : State) : Turn × State :=
  match s.agenda with
  | [] => (Config.nextTurn s.free, { s with free := s.free + 1 })
  | t :: r => (t, { s with agenda := r })

/-- A mover moves: a strand issues the word at its pc, an event of the table happens, an error strikes, the host reaches the
readback window or the control window, or a core cycle passes. -/
def move (t : Turn) (s : State) : Host.Outcome State Fault Refusal :=
  match t with
  | .tick => .next (tick s)
  | .strike e => .next (strike e s)
  | .readback addr => .next (readbackEv addr s)
  | .control fn addr data => .next (booted (controlEv fn addr data) s)
  | .mask fn vec => .next (booted (maskEv fn vec) s)
  | .event i => if i.isWord || !i.wf then .next s else exec i { s with now := false }
  | .strand c k now => match fetch c k s with
    | .rest s => .next s
    | .word i => exec i { s with cur := (c, k), now := now }

/-- Only package reset, whose first step is power (26 R443), moves a package without power. -/
def repowers : Turn → Bool
  | .event (.packageReset _) => true
  | _ => false

/-- The machine's step. Without power nothing else moves (26 R449). -/
def step (s : State) : Host.Outcome State Fault Refusal :=
  if s.pkg.powered || repowers (takeTurn s).1 then move (takeTurn s).1 (takeTurn s).2 else .fault .powerOff

/-- `s` with a word where the step fetches next: at pc 0 of a strand of core 0 that may issue it, which moves next. -/
def State.withFetchWord (s : State) (nbits w : Nat) : State :=
  let k := homeStrand (decodeTableWord nbits w)
  { s.modCore 0 (placeWord k (bytesOfWord (BitVec.ofNat 32 (w % 2 ^ nbits)))) with agenda := [.strand 0 k true] }

end Sys2Proof.Machine
end

