-- ==== Sys2Proof/Machine/Ready.lean ====
section
/-! DEFINITION. The terms in which claims speak of one word: the word that a strand issues, whether it also runs in the step that
issues it, and what is left when it has run. Nothing here is a meaning: every definition only names a part of Issue.lean's. -/

namespace Sys2Proof.Machine

/-- The queued form with which an instruction goes at the strand that State.cur names, and the core whose queue ports it has
popped: what the gate of issue lets through (01 R29, 02 R46). -/
def goes (i : Instr) (s : State) : Option (QWord × Core) :=
  match gate s.cur.1 s.cur.2 i (specOf i) s with
  | .go w y => some (w, y)
  | _ => none

/-- The trap that an instruction meets at issue, if it meets one (02 R46). -/
def stops (i : Instr) (s : State) : Option Trap :=
  match gate s.cur.1 s.cur.2 i (specOf i) s with
  | .stop t => some t
  | _ => none

/-- The state just after the issue of a word (01 R27). -/
def issued (i : Instr) (w : QWord) (y : Core) (s : State) : State := launch s.cur.1 s.cur.2 (specOf i) w y s

/-- May a word that has issued run at once: the step asks for it, no issue that a wait for time has fixed holds its core (22 R418), its
engine queue is empty, no word before it holds it, no register of the shared files holds an error, and a word that acts at its retirement
may retire (01 R27, R31, 05 R110, R124)? -/
def atOnce (c k : Nat) (i : Instr) (w : QWord) (t : State) : Bool :=
  t.now && !issueDue t c && (((t.core c).strand k).queue (specOf i).engine).isEmpty && startReady (t.core c) k (specOf i).engine w
    && turnOf c k (specOf i).engine t && (t.core c).d.regBad.isEmpty && (!(specOf i).late || retireReady (t.core c) k (specOf i) w)

/-- A word that goes and also runs in the same step: the word, and the state in which it runs, just after its issue. -/
def runsNow (i : Instr) (s : State) : Option (QWord × State) :=
  match goes i s with
  | none => none
  | some (w, y) =>
    if (specOf i).hint then none
    else if atOnce s.cur.1 s.cur.2 i w (issued i w y s) then some (w, serveStrand s.cur.1 s.cur.2 (specOf i).engine (issued i w y s)) else none

/-- A word that has run: it retires, or waits in its queue for its retirement (01 R31). -/
def finish (c k : Nat) (i : Instr) (w : QWord) (v : Word) (b : Bool) (t : State) : State :=
  if retireReady (t.core c) k (specOf i) w then complete c k (specOf i) w v b t
  else enqueue c k (specOf i).engine { w with phase := .done, res := v, bit := b } t

/-- A word that has begun: another event completes it. -/
def begun (c k : Nat) (i : Instr) (w : QWord) (t : State) : State := enqueue c k (specOf i).engine { w with phase := .started } t

/-- Under `pre`, an instruction that runs at once completes, with the result `v`, the condition bit `b` and the effect `f` on the
state in which it issued. -/
def CompletesIf (pre : QWord → State → Prop) (i : Instr) (v : QWord → State → Word) (b : QWord → State → Bool)
    (f : QWord → State → State) : Prop :=
  ∀ s w t, runsNow i s = some (w, t) → pre w t →
    exec i s = .next (finish s.cur.1 s.cur.2 i w (v w t) (b w t) (f w t))

/-- An instruction that runs at once completes with the result `v` and no other effect. -/
def Computes (i : Instr) (v : QWord → Word) : Prop :=
  ∀ s w t, runsNow i s = some (w, t) → exec i s = .next (finish s.cur.1 s.cur.2 i w (v w) false t)

/-- An instruction that runs at once completes with the effect `f` and no result. -/
def Acts (i : Instr) (f : Nat → Nat → QWord → State → State) : Prop :=
  ∀ s w t, runsNow i s = some (w, t) →
    exec i s = .next (finish s.cur.1 s.cur.2 i w 0 false (f s.cur.1 s.cur.2 w t))

/-- Under `pre`, an instruction that runs at once begins: `g` gives the word that its queue keeps and the state beside it. -/
def BeginsIf (pre : QWord → State → Prop) (i : Instr) (g : QWord → State → QWord × State) : Prop :=
  ∀ s w t, runsNow i s = some (w, t) → pre w t →
    exec i s = .next (begun s.cur.1 s.cur.2 i (g w t).1 (g w t).2)

/-- The state that a vector computation leaves (07 R150, R152): the events' flags set, the register files and the strand's
generator as it gives them. -/
def vEffect (c k : Nat) (o : VOut) (t : State) : State :=
  ((t.raise c k o.fl).modData c (fun _ => o.d)).modStrand c k (fun u => { u with g := o.g.getD u.g })

/-- A vector word that runs at once, with no event of an element, active or not, that meets its trap enable, completes with what the
computation `f` gives. -/
def VComputes (i : Instr) (f : VFun) : Prop :=
  ∀ s w t, runsNow i s = some (w, t) →
    let o := f w (t.core s.cur.1).d (t.strand s.cur.1 s.cur.2).g
    trapped w.trapen o.ex = false → trapped w.trapen o.fl = false →
      exec i s = .next (finish s.cur.1 s.cur.2 i w o.res o.bit (vEffect s.cur.1 s.cur.2 o t))

/-- A vector word that runs at once, with an event of an element, active or not, that meets its trap enable, stops with 0x14 and writes
nothing (07 R152): it stays queued, and the fault is taken in the state in which it issued. -/
def VTraps (i : Instr) (f : VFun) : Prop :=
  ∀ s w t, runsNow i s = some (w, t) →
    trapped w.trapen (f w (t.core s.cur.1).d (t.strand s.cur.1 s.cur.2).g).ex = true ∨
      trapped w.trapen (f w (t.core s.cur.1).d (t.strand s.cur.1 s.cur.2).g).fl = true →
      exec i s = .next (takeFault s.cur.1 s.cur.2 (runTrap 0x14) (encode w.i) w.pc (some w.seq)
        (enqueue s.cur.1 s.cur.2 (specOf i).engine { w with phase := .queued, req := 0 } t))

/-- A vector word, with or without a trapping event. -/
def VRuns (i : Instr) (f : VFun) : Prop := VComputes i f ∧ VTraps i f

/-- What a division word does whose divisor is zero (03 R67): it gives `q` of its dividend and sets dz; where dz's trap is enabled it
stops with 0x14 instead and writes nothing. -/
def ZeroDivides (i : Instr) (q : Word → Word) : Prop :=
  ∀ s w t, runsNow i s = some (w, t) → w.vb = 0 →
    exec i s = .next (if trapped (t.strand s.cur.1 s.cur.2).trapen Flags.dz = true
      then takeFault s.cur.1 s.cur.2 (runTrap 0x14) (encode w.i) w.pc (some w.seq)
        (enqueue s.cur.1 s.cur.2 .x { w with phase := .queued, req := 0 } t)
      else finish s.cur.1 s.cur.2 i w (q w.va) false (t.raise s.cur.1 s.cur.2 Flags.dz))

/-- The state in which a product's write-back happens: a heavy word is charged to the permit, which must hold it (06 R146). -/
def charged (c : Nat) (m : MulWord) (t : State) : Option State :=
  let n := (mulOccupancy (matCfg (t.core c).csr.accMode) m t.free).1
  if m.rate = 2 then some t
  else if (t.core c).csr.permHeld && decide (n ≤ (t.core c).csr.permLeft.toNat) then
    some (t.modCsr c (fun r => { r with permLeft := r.permLeft - BitVec.ofNat 32 n }))
  else none

/-- What a product's write-back leaves in the accumulator, and the events it raises (06 R132, R133). -/
def multiplied (c : Nat) (m : MulWord) (t : State) : Acc × Flags :=
  runProducts (matCfg (t.core c).csr.accMode) m t.freeVal (t.core c).d.errsAt 0 (t.core c).d.mseq m.tiles ((t.core c).d.getA m.acc, 0)

/-- A word of products that runs at once, is permitted and whose events meet no trap enable completes: its accumulator, its flags,
the core's sequence number and, for MRUN, one more run record are written, and no other register. -/
def Multiplies (i : Instr) (mk : CoreData → MulWord) : Prop :=
  ∀ s w t u, runsNow i s = some (w, t) →
    let c := s.cur.1
    let m := mk (t.core c).d
    charged c m t = some u → trapped w.trapen (multiplied c m u).2 = false →
      ∃ v, exec i s = .next (finish c s.cur.2 i w 0 false v) ∧
        v.mem = u.mem ∧ (v.core c).csr = (u.core c).csr ∧
        (v.strand c s.cur.2).flags = (u.strand c s.cur.2).flags ||| (multiplied c m u).2 ∧
        (v.core c).d.getA m.acc = (multiplied c m u).1 ∧
        (∀ n, n ≠ m.acc → (v.core c).d.getA n = (u.core c).d.getA n) ∧
        (v.core c).d.m = (u.core c).d.m ∧ (v.core c).d.v = (u.core c).d.v ∧ (v.core c).d.scratch = (u.core c).d.scratch ∧
        (v.core c).d.mseq = (u.core c).d.mseq + BitVec.ofNat 32 m.tiles.length ∧
        (v.core c).d.runq.length = (u.core c).d.runq.length + (if m.run then 1 else 0)

/-- Does an address name a home slice: HBM4 or a carve-out (18 R337)? -/
def homed (pa : Nat) : Prop := ∀ d o, target pa ≠ .crown d o ∧ target pa ≠ .host o ∧ target pa ≠ .peer d o

/-- A Y word that reads `n` bytes from `va`, in one page that a home slice holds, reads them at its start (10 R226): the bytes `b`,
and the state after the read. -/
def ReadAtOnce (c : Nat) (va : Word) (n : Nat) (t u : State) (b : List Byte) : Prop :=
  va.toNat < 2 ^ 48 ∧ ∃ pa lf sz v, coreXlat t c (coreAccess t c) va.toNat = (.ok pa lf sz, v) ∧ homed pa ∧
    rangeReady v pa n = true ∧ readBytes v pa n = (none, u, b)

/-- At system scope, the peers and the host have acknowledged the core's writes (10 R227). -/
def acked (c : Nat) (system : Bool) (t : State) : Prop := system = true → peerPending t c = false ∧ hostPending t c = false

/-- A release's waits are over (10 R227, R228). -/
def released (c k : Nat) (system : Bool) (w : QWord) (t : State) : Prop :=
  earlierDone t c k w.seq = true ∧ transfersDone t c k w.seq = true ∧ acked c system t

/-- A global access word that runs at once, whose checks give the address `pa`, whose waits are over, whose home slice answers and whose
core has no earlier request to the line on its way to another home, completes with the slice's answer; after a cell word the cell's waiting
words are answered (10 R226 to R229, 18 R357). -/
def Accesses (i : Instr) (g : GAcc) (va x cmp : QWord → Word) : Prop :=
  ∀ s w t pa u v r, runsNow i s = some (w, t) →
    gCheck s.cur.1 g (va w) t = (.ok pa, u) → (g.relAll = true → released s.cur.1 s.cur.2 g.system w u) →
    (g.relQ = true → acked s.cur.1 g.system u) → homed pa → lineMoved u s.cur.1 pa = false →
    serve u g.kind pa g.size (x w) (cmp w) = .ok v r →
      exec i s = .next (finish s.cur.1 s.cur.2 i w r false
        (if g.kind.cell then answerCell pa v.reqs.length v else v))

/-- A Y word's read of `total` bytes from `base` ends at once: whatever follows it goes on with the word `w'`, which holds them, in the
state `u` (10 R226). -/
def Fetches (c k : Nat) (base : Word) (total fuel : Nat) (w : QWord) (t : State) (w' : QWord) (u : State) : Prop :=
  ∀ go : QWord → State → Run, fetchVirt c k base total 0 go fuel w t = go w' u

/-- A region word that goes joins X's Y queue, and a sync word its Q queue: it starts no earlier than the cycle after its issue (14 R283, 12
R247). -/
def Joins (i : Instr) : Prop := ∀ s w y, goes i s = some (w, y) → s.cycle < 2 ^ 64 →
  exec i s = .next (enqueue s.cur.1 s.cur.2 (specOf i).engine w (issued i w y s))

/-- A sync word `i` of level `lv`, alone in the Q queue of X of core `c` as `w`, may start (12 R247): the cycle after its issue has come, the
core is a member of a domain that is not broken, and nothing stops X's Q engine. -/
def SyncMay (i : Instr) (c lv : Nat) (w : QWord) (s : State) : Prop :=
  w.i = i ∧ w.idx = 0 ∧ w.phase = .queued ∧ ((s.core c).strand 3).queue .q = [w] ∧ syncEarly s c w = false ∧ domGone s c lv = false ∧
    startReady (s.core c) 3 .q w = true ∧ (s.core c).d.regBad = [] ∧ preempting s c = false ∧ (s.core c).frozen s.cycle = false ∧ (s.core c).faultAbove s.cycle 3 = false

/-- The engine's start of X's Q queue begins a sync word, which stays as `w`. -/
def SyncBegins (c : Nat) (w : QWord) (s u : State) : Prop :=
  exec (.engineWordStart c 3 .q) s = .next (putWord c 3 .q { w with phase := .started, paging := false } u)

/-- The region that core `c` names by `g`. -/
def rgOf (c : Nat) (g : BitVec 6) : Nat := coreDie c * 48 + g.toNat

/-- A region word `i`, alone in the Y queue of core `c` as `w`, may start (14 R283), and no core of a lower number has one that reaches
the region's manager first (R289). -/
def RgMay (i : Instr) (c : Nat) (g : BitVec 6) (w : QWord) (s : State) : Prop :=
  w.i = i ∧ w.idx = 0 ∧ w.buf = [] ∧ w.bit = false ∧ ((s.core c).strand 3).queue .y = [w] ∧ rgReady s c = some (w, rgOf c g) ∧
    startReady (s.core c) 3 .y w = true ∧ (s.core c).d.regBad = [] ∧ lowerArrives s c (rgOf c g) = false

/-- It may start, and is the first in the region's line: `t` is the state in which it runs. -/
def RgStarts (i : Instr) (c : Nat) (g : BitVec 6) (w : QWord) (s t : State) : Prop :=
  RgMay i c g w s ∧ t = joinLine (rgOf c g) c w.seq s ∧ firstInLine t (rgOf c g) c w = true

/-- The engine's start of X's Y queue runs a region word to its end, with the code `v` (14 R283). -/
def RgEnds (c : Nat) (g : BitVec 6) (w : QWord) (s : State) (v : Word) (u : State) : Prop :=
  exec (.engineWordStart c 3 .y) s = .next (putWord c 3 .y { w with phase := .done, res := v, bit := false, req := 0, paging := false }
    (leaveLine (rgOf c g) c w.seq u))

/-- The engine's start of X's Y queue begins a region word, which stays as `w`. -/
def RgBegins (c : Nat) (w : QWord) (s u : State) : Prop :=
  exec (.engineWordStart c 3 .y) s = .next (putWord c 3 .y { w with phase := .started, paging := false } u)

/-- A begun word `i`, alone in its queue of engine `e` as `w`, whose engine may run it on (01 R27): no freeze, no fault of a higher strand
in this cycle, no register with an error. -/
def Begun (i : Instr) (c k : Nat) (e : Engine) (w : QWord) (s : State) : Prop :=
  w.i = i ∧ ((s.core c).strand k).queue e = [w] ∧ w.phase = .started ∧ w.req = 0 ∧ (s.core c).d.regBad = [] ∧
    (s.core c).frozen s.cycle = false ∧ (s.core c).faultAbove s.cycle k = false

/-- The engine runs a word on to its end: it keeps the result `v`, and the rest of its effect is the state `u`. -/
def EndsWith (c k : Nat) (e : Engine) (w : QWord) (s : State) (v : Word) (u : State) : Prop :=
  exec (.engineWordStart c k e) s = .next (putWord c k e { w with phase := .done, res := v, bit := false, req := 0, paging := false } u)

/-- A begun region word, run on, ends with the code `v`, and leaves its region's line. -/
def RgRunsOn (i : Instr) (c : Nat) (g : BitVec 6) (w : QWord) (t : State) (v : Word) (u : State) : Prop :=
  Begun i c 3 .y w t → EndsWith c 3 .y w t v (leaveLine (rgOf c g) c w.seq u)

/-- A scratch range that an access may use at once: every page of it is there, and no line of it is poisoned (05 R116, R117). -/
def ScratchOk (c a n : Nat) (t : State) : Prop := (t.core c).d.absent a n = [] ∧ (t.core c).d.scrPoisoned a n = false

end Sys2Proof.Machine
end

