-- ==== Sys2Proof/Safety.lean ====
section
/-! DEFINITION. Safe runs: what never happens on one. A step is safe if it gives a next state, and a run is safe while every
step of it is. -/

namespace Sys2Proof

/-- The step at `s` gives a next state. -/
def Safe (s : Machine.State) : Prop := ∃ t, Machine.step s = .next t

/-- Every one of the first `n` steps from `s` gives a next state. -/
def SafeRun : Nat → Machine.State → Prop
  | 0, _ => True
  | n + 1, s => ∃ t, Machine.step s = .next t ∧ SafeRun n t

/-- The memories of a state are in their canonical form. -/
def MemoriesOk (s : Machine.State) : Prop :=
  Machine.Memory.wf s.mem = true ∧
    ∀ x ∈ s.cores, Machine.Memory.wf x.2.code = true ∧ Machine.Memory.wf x.2.d.scratch = true

end Sys2Proof
end

