-- ==== Sys2Proof/Certificates/Slice0/Obligations.lean ====
section
/-! DEFINITION. The statements for the provers: what each instruction and event completes with (O1 to O36), and what holds of the
machine as a whole. A word "runs at once" where Ready.runsNow says so: it goes, its queue is empty, nothing before it holds it. -/

open Sys2Proof Sys2Proof.Machine

/-- Immediate arithmetic (03 R62): each word that runs at once completes with the rule's value. Register arithmetic (03 R66): each word that
runs at once completes with the rule's value. The constants, moves and address words (03 R63, R68, R69), the word that reads lc (R75)
and the pc-relative word. -/
def Obligations.ScalarWordsComplete : Prop :=
  (∀ (h : Hdr) (d a : BitVec 5) (im : BitVec 10),
    Computes (.addi h d a im) (fun w => w.va + sext im) ∧
    Computes (.andi h d a im) (fun w => w.va &&& sext im) ∧
    Computes (.ori h d a im) (fun w => w.va ||| sext im) ∧
    Computes (.xori h d a im) (fun w => w.va ^^^ sext im) ∧
    Computes (.slli h d a im) (fun w => w.va <<< im.toNat) ∧
    Computes (.srli h d a im) (fun w => w.va >>> im.toNat) ∧
    Computes (.srai h d a im) (fun w => w.va.sshiftRight im.toNat) ∧
    Computes (.slti h d a im) (fun w => if w.va.toInt < im.toInt then 1 else 0) ∧
    Computes (.sltiu h d a im) (fun w => if w.va.toNat < (sext im).toNat then 1 else 0)) ∧
  (∀ (h : Hdr) (d a b : BitVec 5),
    Computes (.add h d a b) (fun w => w.va + w.vb) ∧
    Computes (.sub h d a b) (fun w => w.va - w.vb) ∧
    Computes (.and h d a b) (fun w => w.va &&& w.vb) ∧
    Computes (.or h d a b) (fun w => w.va ||| w.vb) ∧
    Computes (.xor h d a b) (fun w => w.va ^^^ w.vb) ∧
    Computes (.sll h d a b) (fun w => w.va <<< (w.vb.toNat % 64)) ∧
    Computes (.srl h d a b) (fun w => w.va >>> (w.vb.toNat % 64)) ∧
    Computes (.sra h d a b) (fun w => w.va.sshiftRight (w.vb.toNat % 64)) ∧
    Computes (.slt h d a b) (fun w => if w.va.toInt < w.vb.toInt then 1 else 0) ∧
    Computes (.sltu h d a b) (fun w => if w.va.toNat < w.vb.toNat then 1 else 0) ∧
    Computes (.min h d a b) (fun w => BitVec.ofInt 64 (Min.min w.va.toInt w.vb.toInt)) ∧
    Computes (.max h d a b) (fun w => BitVec.ofInt 64 (Max.max w.va.toInt w.vb.toInt)) ∧
    Computes (.minu h d a b) (fun w => word (Min.min w.va.toNat w.vb.toNat)) ∧
    Computes (.maxu h d a b) (fun w => word (Max.max w.va.toNat w.vb.toNat)) ∧
    Computes (.mul h d a b) (fun w => BitVec.ofInt 64 (w.va.toInt * w.vb.toInt)) ∧
    Computes (.mulh h d a b) (fun w => BitVec.ofInt 64 (w.va.toInt * w.vb.toInt / 2 ^ 64)) ∧
    Computes (.mulhu h d a b) (fun w => word (w.va.toNat * w.vb.toNat / 2 ^ 64)) ∧
    Computes (.clz h d a) (fun w => word (64 - bitLen w.va.toNat)) ∧
    Computes (.ctz h d a) (fun w => word (lowest 64 w.va.toNat)) ∧
    Computes (.popc h d a) (fun w => word (popcount 64 w.va.toNat)) ∧
    Computes (.sextB h d a) (fun w => sext (w.va.setWidth 8)) ∧
    Computes (.sextH h d a) (fun w => sext (w.va.setWidth 16)) ∧
    Computes (.sextW h d a) (fun w => sext (w.va.setWidth 32)) ∧
    Computes (.zextW h d a) (fun w => word (w.va.toNat % 2 ^ 32))) ∧
  (∀ (h : Hdr) (d a b : BitVec 5) (im : BitVec 15),
    Computes (.li h d im) (fun _ => sext im) ∧
    Computes (.lsh h d im) (fun w => w.vd <<< 15 ||| zext im) ∧
    Computes (.auipc h d im) (fun w => zext w.pc + sext im * 4) ∧
    Computes (.rdlc h d) (fun w => w.res) ∧
    (∀ s w y, goes (.rdlc h d) s = some (w, y) → w.res = (s.strand s.cur.1 s.cur.2).lc) ∧
    Computes (.cmovz h d a b) (fun w => if w.vb = 0 then w.va else w.vd) ∧
    Computes (.cmovnz h d a b) (fun w => if w.vb ≠ 0 then w.va else w.vd) ∧
    Computes (.addSh1 h d a b) (fun w => w.va + w.vb <<< 1) ∧
    Computes (.addSh2 h d a b) (fun w => w.va + w.vb <<< 2) ∧
    Computes (.addSh3 h d a b) (fun w => w.va + w.vb <<< 3) ∧
    Computes (.addSh4 h d a b) (fun w => w.va + w.vb <<< 4) ∧
    Computes (.taddr h d a b) (fun w => w.va + word (2048 * morton (wbits w.vb 47 32) (wbits w.vb 15 0))))

/-- Division (03 R67), at once and whenever its engine runs it: by a divisor that is not zero, exact and truncated toward zero; by zero, the
rule's value with dz set, unless dz's trap is enabled, and then the word stops with 0x14, writes nothing, and stays queued with its
operand values. -/
def Obligations.DivisionWordsComplete : Prop := ∀ (h : Hdr) (d a b : BitVec 5),
  CompletesIf (fun w _ => w.vb ≠ 0) (.div h d a b) (fun w _ => BitVec.ofInt 64 (w.va.toInt.tdiv w.vb.toInt)) (fun _ _ => false) (fun _ t => t) ∧
  CompletesIf (fun w _ => w.vb ≠ 0) (.divu h d a b) (fun w _ => word (w.va.toNat / w.vb.toNat)) (fun _ _ => false) (fun _ t => t) ∧
  CompletesIf (fun w _ => w.vb ≠ 0) (.rem h d a b) (fun w _ => BitVec.ofInt 64 (w.va.toInt.tmod w.vb.toInt)) (fun _ _ => false) (fun _ t => t) ∧
  CompletesIf (fun w _ => w.vb ≠ 0) (.remu h d a b) (fun w _ => word (w.va.toNat % w.vb.toNat)) (fun _ _ => false) (fun _ t => t) ∧
  ZeroDivides (.div h d a b) (fun _ => BitVec.allOnes 64) ∧
  ZeroDivides (.divu h d a b) (fun _ => BitVec.allOnes 64) ∧
  ZeroDivides (.rem h d a b) (fun x => x) ∧
  ZeroDivides (.remu h d a b) (fun x => x) ∧
  (∀ c k w t, w.vb ≠ 0 →
    (specOf (.div h d a b)).body c k w t = .done t (BitVec.ofInt 64 (w.va.toInt.tdiv w.vb.toInt)) false ∧
    (specOf (.divu h d a b)).body c k w t = .done t (word (w.va.toNat / w.vb.toNat)) false ∧
    (specOf (.rem h d a b)).body c k w t = .done t (BitVec.ofInt 64 (w.va.toInt.tmod w.vb.toInt)) false ∧
    (specOf (.remu h d a b)).body c k w t = .done t (word (w.va.toNat % w.vb.toNat)) false) ∧
  (∀ c k w t, w.vb = 0 →
    let by0 := fun (q : Word) => if trapped (t.strand c k).trapen Flags.dz = true then Run.trap (runTrap 0x14) w t
      else .done (t.raise c k Flags.dz) q false
    (specOf (.div h d a b)).body c k w t = by0 (BitVec.allOnes 64) ∧ (specOf (.divu h d a b)).body c k w t = by0 (BitVec.allOnes 64) ∧
    (specOf (.rem h d a b)).body c k w t = by0 w.va ∧ (specOf (.remu h d a b)).body c k w t = by0 w.va)

/-- LDX and STX (03 R64): on a range whose pages are there and whose lines are not poisoned, the load gives the little-endian bytes at vA +
offset × size, sign-extended for LDX.W, and the store writes the low bytes of field d there. CSR words (03 R81, R83) act on the CSR's
value at their retirement: CSRR reads, CSRW writes, CSRX does both, and gives the value before all the writes of its cycle; the loop's CSRs
are read at issue (R76). -/
def Obligations.ScratchAndCsrWordsComplete : Prop :=
  (∀ (h : Hdr) (d a : BitVec 5) (im : BitVec 10) (s : State) (w : QWord) (t : State),
    (runsNow (.ldxD h d a im) s = some (w, t) → ScratchOk s.cur.1 (w.va + sext im * 8).toNat 8 t →
      exec (.ldxD h d a im) s = .next (finish s.cur.1 s.cur.2 (.ldxD h d a im) w
        (word (leNat (memReadN (t.core s.cur.1).d.scratch (w.va + sext im * 8).toNat 8))) false t)) ∧
    (runsNow (.ldxW h d a im) s = some (w, t) → ScratchOk s.cur.1 (w.va + sext im * 4).toNat 4 t →
      exec (.ldxW h d a im) s = .next (finish s.cur.1 s.cur.2 (.ldxW h d a im) w
        (sext (BitVec.ofNat 32 (leNat (memReadN (t.core s.cur.1).d.scratch (w.va + sext im * 4).toNat 4)))) false t)) ∧
    (runsNow (.stxD h d a im) s = some (w, t) → (t.core s.cur.1).d.absent (w.va + sext im * 8).toNat 8 = [] →
      exec (.stxD h d a im) s = .next (finish s.cur.1 s.cur.2 (.stxD h d a im) w 0 false
        (t.modData s.cur.1 (·.scrWrite (w.va + sext im * 8).toNat (leBytes 8 w.vd.toNat))))) ∧
    (runsNow (.stxW h d a im) s = some (w, t) → (t.core s.cur.1).d.absent (w.va + sext im * 4).toNat 4 = [] →
      exec (.stxW h d a im) s = .next (finish s.cur.1 s.cur.2 (.stxW h d a im) w 0 false
        (t.modData s.cur.1 (·.scrWrite (w.va + sext im * 4).toNat (leBytes 4 w.vd.toNat)))))) ∧
  (∀ (h : Hdr) (d a : BitVec 5) (n : BitVec 10) (s : State) (w : QWord) (t : State),
    let c := s.cur.1
    let k := s.cur.2
    (runsNow (.csrr h d n) s = some (w, t) →
      exec (.csrr h d n) s = .next (finish c k (.csrr h d n) w (if loopCsr n then csrGet s c k n.toNat else csrGet t c k n.toNat) false
        (csrReadEffect c k n.toNat t))) ∧
    (runsNow (.csrw h a n) s = some (w, t) →
      exec (.csrw h a n) s = .next (finish c k (.csrw h a n) w 0 false (csrWrite c k n.toNat w.va t))) ∧
    (runsNow (.csrx h d a n) s = some (w, t) →
      exec (.csrx h d a n) s = .next (finish c k (.csrx h d a n) w (csrBefore t c k n.toNat) false (csrWrite c k n.toNat w.va t))))

/-- Control words (03 R63, R70 to R77, R79) that run at once complete: the links of JAL and JALR are pc + 4, the others have no result; what
each does at its issue is stated next, of the strand after its issue (`issued`). What a control word does to its strand at its issue (03
R63, R70 to R77): a branch, jump or empty loop moves the pc to its target where it is taken, and otherwise the pc goes on as after any
word (`advance`); a queue branch or IFQ takes the bit at the head of the condition queue; BLC counts lc down to 0; SETLC, SETRB, IFQ,
ELSEQ, STG and LOOPP write what they name. Hints (02 R48, R49): PREF.G and PREF.S only take their slot, PRIO sets the strand's weight,
PAUSE n the end of its pause. -/
def Obligations.ControlWordsComplete : Prop :=
  (∀ (h : Hdr) (d a n : BitVec 5) (f : BitVec 15) (l : BitVec 10),
    (∀ i ∈ [Instr.beqz h a f, .bnez h a f, .bcq h f, .bncq h f, .blc h f, .setlc h f, .setlcS h a, .ifq h n, .elseq h n,
        .stgStage h n, .loopp h n l, .setrb h a], Computes i (fun _ => 0)) ∧
    Computes (.jal h d f) (fun w => zext w.pc + 4) ∧
    Computes (.jalr h d a) (fun w => zext w.pc + 4)) ∧
  (∀ (h : Hdr) (d a n : BitVec 5) (f : BitVec 15) (l : BitVec 10) (s : State) (w : QWord)
      (y : Core),
    let c := s.cur.1
    let k := s.cur.2
    let o := s.strand c k
    let u := o.slot
    let tgt := zext w.pc + sext f * 4
    let after := fun (i : Instr) (t : Strand) => goes i s = some (w, y) → (issued i w y s).strand c k = t
    after (.beqz h a f) (u.advance w.pc (if w.va = 0 then some tgt else none)) ∧
    after (.bnez h a f) (u.advance w.pc (if w.va ≠ 0 then some tgt else none)) ∧
    after (.bcq h f) (u.advance w.pc (if (s.core c).cq.headD false then some tgt else none)) ∧
    after (.bncq h f) (u.advance w.pc (if (s.core c).cq.headD false then none else some tgt)) ∧
    after (.blc h f) ({ u with lc := if o.lc = 0 then 0 else o.lc - 1 }.advance w.pc (if o.lc = 0 ∨ o.lc = 1 then none else some tgt)) ∧
    after (.jal h d f) (u.advance w.pc (some tgt)) ∧
    after (.jalr h d a) (u.advance w.pc (some w.va)) ∧
    after (.setlc h f) ({ u with lc := zext f }.advance w.pc none) ∧
    after (.setlcS h a) ({ u with lc := w.va }.advance w.pc none) ∧
    after (.setrb h a) ({ u with rotBase := w.va.setWidth 4 }.advance w.pc none) ∧
    after (.ifq h n) ({ u with latch := (s.core c).cq.headD false, cover := n.toNat
                               coverNull := !(s.core c).cq.headD false }.advance w.pc none) ∧
    after (.elseq h n) ({ u with cover := n.toNat, coverNull := o.latch }.advance w.pc none) ∧
    (inBody o w.pc = true → after (.stgStage h n) ({ u with stage := n.toNat }.advance w.pc none)) ∧
    (inBody o w.pc = false → after (.stgStage h n) (u.advance w.pc none)) ∧
    (o.lc = 0 → after (.loopp h n l) (u.advance w.pc (some (zext w.pc + 4 + 4 * zext l)))) ∧
    (o.lc ≠ 0 → after (.loopp h n l) ({ u with lc := o.lc + zext n - 1, stagep := stagePreds o.lc.toNat 0, stage := 0
                                               loop := some ⟨n.toNat, l.toNat, w.pc.toNat / 4 + 1, o.lc.toNat, 0⟩ }.advance w.pc none))) ∧
  (∀ (h : Hdr) (d a : BitVec 5) (im : BitVec 9) (s : State) (w : QWord) (y : Core),
    let c := s.cur.1
    let k := s.cur.2
    let after := fun (f : Strand → Strand) => Host.Outcome.next (φ := Fault) (ρ := Refusal)
      (((turned c k (s.modStrand c k (·.slot))).modStrand c k f).modStrand c k (fun t => t.advance w.pc none))
    (goes (.prefG h d a im) s = some (w, y) →
      exec (.prefG h d a im) s = .next ((turned c k (s.modStrand c k (·.slot))).modStrand c k (fun t => t.advance w.pc none))) ∧
    (goes (.prefS h d a im) s = some (w, y) →
      exec (.prefS h d a im) s = .next ((turned c k (s.modStrand c k (·.slot))).modStrand c k (fun t => t.advance w.pc none))) ∧
    (goes (.prio h d a im) s = some (w, y) →
      exec (.prio h d a im) s = after (fun t => { t with prio := im.setWidth 2 })) ∧
    (goes (.pause h d a im) s = some (w, y) →
      exec (.pause h d a im) s = after (fun t => { t with pauseEnd := if im = 0 then 0 else s.cycle + 1 + im.toNat })))

/-- Where a word's sources come from (01 R16 to R20): a field s0 reads zero, one that names a register reads it through the rotation (03
R78), q0 the oldest message flit received, and q1 to q3 the oldest entry, filled, of the queue from that strand; a word without the
field has 0 there. -/
def Obligations.SourceValues : Prop := ∀ (i : Instr) (s : State) (w : QWord) (y : Core),
  goes i s = some (w, y) → (specOf i).hint = false →
  let p := specOf i
  let o := s.strand s.cur.1 s.cur.2
  let x := s.core s.cur.1
  let reg := fun (r : BitVec 5) => o.reg (physReg o.rotBase r.toNat)
  (p.a = none → w.va = 0) ∧ (p.b = none → w.vb = 0) ∧ (p.d = none → w.vd = 0) ∧
  (p.a = some 0 → w.va = 0) ∧ (p.b = some 0 → w.vb = 0) ∧ (p.d = some 0 → w.vd = 0) ∧
  (∀ r, r.toNat < 28 → (p.a = some r → w.va = reg r) ∧ (p.b = some r → w.vb = reg r) ∧ (p.d = some r → w.vd = reg r)) ∧
  (p.a = some 28 → ∃ rest, x.recv = w.va :: rest) ∧
  (∀ r : BitVec 5, 28 < r.toNat → p.a = some r → ∃ e rest, x.dqueue (dist s.cur.2 (r.toNat - 28)) s.cur.2 = e :: rest ∧ e.val = some w.va)

/-- Elementwise vector words (07 R156 to R158, R161, R169) that run at once: the active elements become the rule's function of the sources'
elements, the others keep their value (`elementwise`), and an event that meets its trap enable stops the word instead. -/
def Obligations.ElementWordsComplete : Prop := ∀ (h : Hdr) (d a b i : BitVec 5) (k : BitVec 3),
  let three := fun op => elementwise op d (·.getV a.toNat) (·.getV b.toNat) k
  let two := fun (op : Fmt → Bool → Nat → Nat × Flags) =>
    elementwise (fun f sat x _ _ => op f sat x) d (·.getV a.toNat) (fun _ => 0) k
  VRuns (.vadd h d a b k) (three (arith (fun x y _ => Val.add x y) (fun x y _ => x + y))) ∧
  VRuns (.vsub h d a b k) (three (arith (fun x y _ => Val.sub x y) (fun x y _ => x - y))) ∧
  VRuns (.vmul h d a b k) (three (arith (fun x y _ => Val.mul x y) (fun x y _ => x * y))) ∧
  VRuns (.vfma h d a b k) (three (arith (fun x y z => fmaVal x y z) (fun x y z => x * y + z))) ∧
  VRuns (.vfms h d a b k) (three (arith (fun x y z => fmaVal x y z.neg) (fun x y z => x * y - z))) ∧
  VRuns (.vmin h d a b k) (three (arith (fun x y _ => (vminVal x y, false)) (fun x y _ => Min.min x y))) ∧
  VRuns (.vmax h d a b k) (three (arith (fun x y _ => (vmaxVal x y, false)) (fun x y _ => Max.max x y))) ∧
  VRuns (.vclamp h d a b k) (three (arith (fun x y z => (vminVal (vmaxVal z x) y, false)) (fun x y z => Min.min (Max.max z x) y))) ∧
  VRuns (.vabs h d a k) (two (fun f sat x => arith (fun x _ _ => (absVal x, false)) (fun x _ _ => x.natAbs) f sat x 0 0)) ∧
  VRuns (.vneg h d a k) (two (fun f sat x => arith (fun x _ _ => (x.neg, false)) (fun x _ _ => -x) f sat x 0 0)) ∧
  VRuns (.vrcp h d a k) (two (fun f _ x => fltReduce f (rcpVal (f.decode x)))) ∧
  VRuns (.vrsq h d a k) (two (fun f _ x => fltReduce f (rsqVal (f.decode x)))) ∧
  VRuns (.vexp2 h d a k) (two (fun f _ x => fltReduce f (exp2OfVal (f.decode x)))) ∧
  VRuns (.vlog2 h d a k) (two (fun f _ x => fltReduce f (log2OfVal (f.decode x)))) ∧
  VRuns (.vand h d a b k) (three (fun _ _ x y _ => (x &&& y, 0))) ∧
  VRuns (.vor h d a b k) (three (fun _ _ x y _ => (x ||| y, 0))) ∧
  VRuns (.vxor h d a b k) (three (fun _ _ x y _ => (x ^^^ y, 0))) ∧
  VRuns (.vnot h d a k) (vnotF d a k) ∧
  VRuns (.vshl h d a b k) (three (fun f _ x y _ => (x * 2 ^ (y % f.width) % 2 ^ f.width, 0))) ∧
  VRuns (.vshr h d a b k) (three (fun f _ x y _ => (x / 2 ^ (y % f.width), 0))) ∧
  VRuns (.vsra h d a b k) (three (fun f _ x y _ => (sraPat f.width x (y % f.width), 0))) ∧
  VRuns (.vshli h d a i k) (two (fun f _ x => (x * 2 ^ i.toNat % 2 ^ f.width, 0))) ∧
  VRuns (.vshri h d a i k) (two (fun f _ x => (if f.signed then sraPat f.width x i.toNat else x / 2 ^ i.toNat, 0))) ∧
  VRuns (.vscale h d a b k) (three (fun f _ x y _ =>
    fltReduce f ((f.decode x).scale (valInt ((Fmt.int true f.width).decode y)), false))) ∧
  VRuns (.vmov h d a k) (two (fun _ _ x => (x, 0))) ∧
  VRuns (.vbcast h d a k) (vbcastF d k)

/-- The other vector words (07 R159 to R170) that run at once, each by its computation of the register files. Mask words (07 R176) and VTYPE
(07 R155) that run at once: the mask register or the scalar becomes the rule's function of the sources; VTYPE sets the strand's vtype at
its issue. -/
def Obligations.VectorWordsComplete : Prop :=
  (∀ (h : Hdr) (d a b i : BitVec 5) (k : BitVec 3),
    VRuns (.vcmpEq h d a b k) (vcmpF 0 d a b k) ∧
    VRuns (.vcmpNe h d a b k) (vcmpF 1 d a b k) ∧
    VRuns (.vcmpLt h d a b k) (vcmpF 2 d a b k) ∧
    VRuns (.vcmpLe h d a b k) (vcmpF 3 d a b k) ∧
    VRuns (.vcmpUn h d a b k) (vcmpF 4 d a b k) ∧
    VRuns (.vcqAny h a k) (vcqF a k false) ∧
    VRuns (.vcqAll h a k) (vcqF a k true) ∧
    VRuns (.vsel h d a b k) (vselF d a b k) ∧
    VRuns (.vext h d a b) (vextF a) ∧
    VRuns (.vins h d a b) (vinsF d) ∧
    VRuns (.viota h d k) (viotaF d k) ∧
    VRuns (.vcvt h d a i k) (vcvtF d a i k) ∧
    VRuns (.vpack h d a i) (packF d a i false) ∧
    VRuns (.vunpack h d a i) (packF d a i true) ∧
    VRuns (.vperm h d a b k) (permF d a k (permPick b)) ∧
    VRuns (.vslide h d a b k) (permF d a k slidePick) ∧
    VRuns (.vshuf h d a i k) (permF d a k (shufPick i)) ∧
    VRuns (.vredSum h d a k) (vredF d a k redSum) ∧
    VRuns (.vredMin h d a k) (vredF d a k redMin) ∧
    VRuns (.vredMax h d a k) (vredF d a k redMax) ∧
    VRuns (.vscan h d a k) (vscanF d a k) ∧
    VRuns (.vcompress h d a k) (vcompressF d a k) ∧
    VRuns (.vexpand h d a k) (vexpandF d a k) ∧
    VRuns (.vprune h d a i k) (vpruneF d a i k) ∧
    VRuns (.vquant h d a b k) (vquantF d a k) ∧
    VRuns (.vdot h d a b k) (vdotF d a b k)) ∧
  (∀ (h : Hdr) (d a b : BitVec 5) (sat : BitVec 1),
    let mask := fun (f : CoreData → BitVec 256) => (fun _ x _ => { d := x.setK d.toNat (f x) } : VFun)
    VComputes (.kand h d a b) (mask (fun x => x.getK a.toNat &&& x.getK b.toNat)) ∧
    VComputes (.kor h d a b) (mask (fun x => x.getK a.toNat ||| x.getK b.toNat)) ∧
    VComputes (.kxor h d a b) (mask (fun x => x.getK a.toNat ^^^ x.getK b.toNat)) ∧
    VComputes (.knot h d a) (mask (fun x => ~~~(x.getK a.toNat))) ∧
    VComputes (.kmov h d a) (mask (fun x => x.getK a.toNat)) ∧
    VComputes (.kpopc h d a) (fun _ x _ => { d := x, res := word (popcount 256 (x.getK a.toNat).toNat) }) ∧
    VComputes (.kfirst h d a) (fun _ x _ => { d := x, res := word (lowest 256 (x.getK a.toNat).toNat) }) ∧
    Computes (.vtype h d a sat) (fun _ => 0) ∧
    (∀ s w y, goes (.vtype h d a sat) s = some (w, y) →
      ((issued (.vtype h d a sat) w y s).strand s.cur.1 s.cur.2).vtype = BitVec.ofNat 9 (sat.toNat * 256 + a.toNat * 16 + d.toNat)))

/-- The deferral queue's words (07 R171 to R174) that run at once, where the path's descriptor is on a page that is there and on no
poisoned line: lanes that do not fit stop VDEFER with 0x0C and nothing written; lanes that fit, on records whose pages are there, are
written one record each, in order, and then the path's count; none change nothing. VDRAIN pops up to N records into its registers and
its mask, and moves the path's head and count. -/
def Obligations.DeferralWordsComplete : Prop := ∀ (h : Hdr) (v : BitVec 5) (n p : BitVec 2) (k : BitVec 3) (s : State) (w : QWord)
    (t : State),
  let c := s.cur.1
  let x := t.core c
  let cap := (dqArea w).2
  let da := dqDescAt w p.toNat
  let hc := dqDesc x.d da
  let ww := vwidth w
  let nn := 2048 / ww
  let act := (List.range nn).filter (fun i => active (x.d.getK k.toNat) (maskG nn) i)
  let place := fun r => dqRecord w p.toNat (r % cap)
  let record := fun i => leBytes 2 i ++ leBytes 1 (n.toNat + 1) ++ leBytes 5 0 ++ (List.range 4).flatMap (fun j =>
    leBytes 8 (if j ≤ n.toNat then (x.d.getV (v.toNat + j)).toNat >>> (i * ww) % pow2 ww else 0)) ++ leBytes 24 0
  x.d.absent da 8 = [] → x.d.scrPoisoned da 8 = false →
  (runsNow (.vdefer h v n p k) s = some (w, t) →
    (act = [] → hc.2 ≤ cap → exec (.vdefer h v n p k) s = .next (finish c s.cur.2 (.vdefer h v n p k) w 0 false t)) ∧
    (cap < hc.2 + act.length →
      exec (.vdefer h v n p k) s = .next (takeFault c s.cur.2
        { code := 0x0C, cls := 2, x0 := word p.toNat, x1 := word (hc.2 * 2 ^ 32 + act.length) } (encode w.i) w.pc (some w.seq)
        (enqueue c s.cur.2 .v { w with phase := .queued, req := 0 } t))) ∧
    (act ≠ [] → hc.2 + act.length ≤ cap → (∀ q < act.length, x.d.absent (place (hc.1 + hc.2 + q)) 64 = []) →
      exec (.vdefer h v n p k) s = .next (finish c s.cur.2 (.vdefer h v n p k) w 0 false (t.modData c (fun _ =>
        ((act.zip (List.range act.length)).foldl (fun d e => d.scrWrite (place (hc.1 + hc.2 + e.2)) (record e.1)) x.d).scrWrite
          da (leBytes 4 hc.1 ++ leBytes 4 (hc.2 + act.length))))))) ∧
  (let cc := Nat.min hc.2 nn
    let r := drainRegs x.d ((List.range cc).map (fun q => place (hc.1 + q))) (n.toNat + 1) ww (n.toNat + 2) 0 {}
    runsNow (.vdrain h v n p k) s = some (w, t) → (∀ q < cc, x.d.absent (place (hc.1 + q)) 64 = []) → r.2 = true →
    exec (.vdrain h v n p k) s = .next (finish c s.cur.2 (.vdrain h v n p k) w 0 false
      ((t.modData c (placeRegs r.1 v.toNat (n.toNat + 1))).modData c (fun d =>
        (d.setK k.toNat (maskOf ((List.range (nn / maskG nn)).map (fun j => decide (j * maskG nn < cc))))).scrWrite da
          (leBytes 4 ((hc.1 + cc) % cap) ++ leBytes 4 (hc.2 - cc))))))

/-- MMA (06 R132) and MRUN (06 R133) that run at once, permitted: the accumulator takes the products in order. -/
def Obligations.ProductWordsComplete : Prop := ∀ (h : Hdr) (acc : BitVec 2) (a b n : BitVec 3) (z : BitVec 1) (m : BitVec 2)
    (tb x y : BitVec 1) (r : BitVec 2),
  Multiplies (.mma h acc a b z m tb x y r) (fun d =>
    { acc := acc.toNat, mode := m.toNat, tb := tb = 1, zs := z = 1, bank := x = 1 || y = 1, rate := r.toNat, run := false
      tiles := [(if x = 1 then bankTile d a.toNat else d.getM a.toNat, if y = 1 then bankTile d b.toNat else d.getM b.toNat)] }) ∧
  Multiplies (.mrun h acc a b z m tb n r) (fun d =>
    { acc := acc.toNat, mode := m.toNat, tb := tb = 1, zs := z = 1, bank := false, rate := r.toNat, run := true
      tiles := (List.range (n.toNat + 1)).map (fun j => (d.getM (a.toNat + j), d.getM (b.toNat + j))) })

/-- Drains and loads of an accumulator (06 R135 to R137): where the copies agree and no event meets its trap enable (and, for MDRAIN.V, no
row is poisoned), every element is converted and written, and a drain with z = 1 then zeroes the accumulator. -/
def Obligations.DrainWordsComplete : Prop := ∀ (h : Hdr) (acc : BitVec 2) (y d : BitVec 3) (v : BitVec 5) (z : BitVec 1)
    (s : State) (w : QWord) (t : State),
  let c := s.cur.1
  let x := t.core c
  let g := matCfg x.csr.accMode
  let a := x.d.getA acc.toNat
  let f := drainFmt w y.toNat
  let ww := drainWidth w y.toNat
  let r := drainCodes g.mode f w (t.strand c s.cur.2).g a
  let cleared := fun (e : CoreData) => if z = 1 then e.setA acc.toNat a.zero else e
  let loaded := (List.range 1024).map (fun n =>
    loadElem g.mode (f.decode ((x.d.getV (v.toNat + n / (2048 / ww))).toNat >>> (n % (2048 / ww) * ww) % 2 ^ ww)))
  (runsNow (.mdrain h acc y d z) s = some (w, t) → copiesDiffer g.red a = false → trapped w.trapen r.2.1 = false →
    ∃ u, exec (.mdrain h acc y d z) s = .next (finish c s.cur.2 (.mdrain h acc y d z) w 0 false u) ∧
      ((u.core c).d.getM d.toNat).data = tileOf ww r.1 ∧
      (u.core c).d.a = (cleared x.d).a ∧ (u.core c).d.v = x.d.v ∧
      (u.strand c s.cur.2).flags = (t.strand c s.cur.2).flags ||| r.2.1 ∧ (u.strand c s.cur.2).g = r.2.2 ∧ u.mem = t.mem) ∧
  (runsNow (.mdrainV h acc y v z) s = some (w, t) → copiesDiffer g.red a = false → trapped w.trapen r.2.1 = false →
    a.poison = 0 →
    ∃ u, exec (.mdrainV h acc y v z) s = .next (finish c s.cur.2 (.mdrainV h acc y v z) w 0 false u) ∧
      (u.core c).d = cleared (drainInto ww r.1 32 v.toNat x.d) ∧
      (u.strand c s.cur.2).flags = (t.strand c s.cur.2).flags ||| r.2.1 ∧ (u.strand c s.cur.2).g = r.2.2 ∧ u.mem = t.mem) ∧
  (runsNow (.mloada h acc y v) s = some (w, t) → trapped w.trapen (loaded.foldl (fun p e => p ||| e.2) 0) = false →
    ∃ u, exec (.mloada h acc y v) s = .next (finish c s.cur.2 (.mloada h acc y v) w 0 false u) ∧
      (∀ n < 1024, tget {} ((u.core c).d.getA acc.toNat).e0 n = (loaded.getD n ({}, 0)).1) ∧
      ((u.core c).d.getA acc.toNat).poison = 0 ∧ ((u.core c).d.getA acc.toNat).mismatch = none ∧
      (u.core c).d.v = x.d.v ∧ (u.core c).d.m = x.d.m ∧
      (u.strand c s.cur.2).flags = (t.strand c s.cur.2).flags ||| loaded.foldl (fun p e => p ||| e.2) 0 ∧ u.mem = t.mem)

/-- The other matrix words (06 R138 to R140, R143 to R145) that run at once: MZERO, MTRANS, MSCALE, MCFG, MCHK's bit, the lending of banks,
and the probes. -/
def Obligations.MatrixStateWordsComplete : Prop := ∀ (h : Hdr) (acc wc bank mode ka kb : BitVec 2) (a d : BitVec 3) (v dst : BitVec 5)
    (r : BitVec 1),
  Acts (.mzero h acc) (fun c _ _ t => t.modData c (fun e => e.setA acc.toNat
    { e.getA acc.toNat with e0 := [], e1 := [], poison := 0, mismatch := none })) ∧
  Acts (.mtrans h a d wc) (fun c _ _ t => t.modData c (fun e =>
    let ww := 16 >>> wc.toNat
    e.setM d.toNat { e.getM a.toNat with
      data := tileOf ww ((List.range 1024).map (fun n => tileElem (e.getM a.toNat).data.toNat ww (n % 32 * (512 / ww) + n / 32)))
      poison := if (e.getM a.toNat).poison = 0 then 0 else BitVec.allOnes 32 })) ∧
  (∀ s w t, runsNow (.mscale h d v) s = some (w, t) →
    ∃ u, exec (.mscale h d v) s = .next (finish s.cur.1 s.cur.2 (.mscale h d v) w 0 false u) ∧
      ((u.core s.cur.1).d.getM d.toNat).scale = BitVec.ofNat 2304 (((List.range 256).map (fun n =>
        ((t.core s.cur.1).d.getV (v.toNat + n / 128)).toNat / 2 ^ (n % 128 * 16) % 512 * 2 ^ (9 * n))).sum) ∧
      ((u.core s.cur.1).d.getM d.toNat).data = ((t.core s.cur.1).d.getM d.toNat).data) ∧
  (∀ s w t, runsNow (.mcfg h mode ka kb r) s = some (w, t) →
    ∃ u, exec (.mcfg h mode ka kb r) s = .next (finish s.cur.1 s.cur.2 (.mcfg h mode ka kb r) w 0 false u) ∧
      (u.core s.cur.1).csr.accMode = BitVec.ofNat 48 ((if ka = 0 then w.fmtA.toNat else 0) * 2 ^ 32
        + (if kb = 0 then w.fmtB.toNat else 0) * 2 ^ 16 + 128 + mode.toNat * 32 + ka.toNat * 8 + kb.toNat * 2 + r.toNat) ∧
      (∀ n < 8, ((u.core s.cur.1).d.getM n).scale = unitScales ∧
        ((u.core s.cur.1).d.getM n).data = ((t.core s.cur.1).d.getM n).data)) ∧
  (∀ s w t, runsNow (.mchk h acc) s = some (w, t) →
    let e := (t.core s.cur.1).d.getA acc.toNat
    exec (.mchk h acc) s = .next (finish s.cur.1 s.cur.2 (.mchk h acc) w 0
      (decide (e.poison = 0) && !((matCfg (t.core s.cur.1).csr.accMode).red && accNonzero e.e0 != accNonzero e.e1)) t)) ∧
  Acts (.mlend h bank) (fun c _ _ t => t.modData c (fun e => { e with lend := e.lend ||| (1#4 <<< bank.toNat) })) ∧
  Acts (.mret h bank) (fun c _ _ t => t.modData c (fun e => { e with lend := e.lend &&& ~~~(1#4 <<< bank.toNat) })) ∧
  (∀ s w t q l, runsNow (.mprobe h 0 dst) s = some (w, t) → (t.core s.cur.1).d.runq = q :: l →
    exec (.mprobe h 0 dst) s = .next (finish s.cur.1 s.cur.2 (.mprobe h 0 dst) w q false
      (t.modData s.cur.1 (fun e => { e with runq := l })))) ∧
  (∀ s w t, runsNow (.mprobe h 1 dst) s = some (w, t) →
    let e := (t.core s.cur.1).d
    exec (.mprobe h 1 dst) s = .next (finish s.cur.1 s.cur.2 (.mprobe h 1 dst) w
      (word (e.mseq.toNat * 2 ^ 32 + e.runq.length)) false t)) ∧
  (∀ s w t, runsNow (.mprobeAcc h acc dst) s = some (w, t) →
    let e := (t.core s.cur.1).d.getA acc.toNat
    exec (.mprobeAcc h acc dst) s = .next (finish s.cur.1 s.cur.2 (.mprobeAcc h acc dst) w
      (word ((if e.mismatch.isSome then 2 ^ 32 else 0) + e.poison.toNat)) false t))

/-- Vector and tile accesses of scratch (08 R183 to R185) that run at once, on ranges whose pages are there (and, read, whose lines are not
poisoned): vA + vB gives the address; a load gives the register the bytes, a store writes them, MLD.T transposes. Strided accesses (08
R184) that run at once: chunk j is at vA + j × vB; a load gathers the chunks, a store scatters them. -/
def Obligations.ScratchVectorWordsComplete : Prop :=
  (∀ (h : Hdr) (d a b : BitVec 5) (cls z : BitVec 2) (s : State) (w : QWord) (t : State),
    let c := s.cur.1
    let ad := (w.va + w.vb).toNat
    let x := (t.core c).d
    let n := 256 / 2 ^ z.toNat
    let vreg := fun (bs : List Byte) => t.modData c (fun e => e.setV d.toNat (BitVec.ofNat 2048 (leNat bs)))
    (runsNow (.vld h d a b cls z) s = some (w, t) → ScratchOk c ad n t →
      exec (.vld h d a b cls z) s = .next (finish c s.cur.2 (.vld h d a b cls z) w 0 false (vreg (memReadN x.scratch ad n)))) ∧
    (runsNow (.vst h d a b cls z) s = some (w, t) → x.absent ad n = [] →
      exec (.vst h d a b cls z) s = .next (finish c s.cur.2 (.vst h d a b cls z) w 0 false
        (t.modData c (fun e => e.scrWrite ad ((leBytes 256 (e.getV d.toNat).toNat).take n))))) ∧
    (runsNow (.mld h d a b cls) s = some (w, t) → ScratchOk c ad 2048 t →
      exec (.mld h d a b cls) s = .next (finish c s.cur.2 (.mld h d a b cls) w 0 false
        (t.modData c (fun e => e.setM d.toNat (loadTile (t.core c) d.toNat (BitVec.ofNat 16384 (leNat (memReadN x.scratch ad 2048)))))))) ∧
    (runsNow (.mldT h d a b cls z) s = some (w, t) → ScratchOk c ad 2048 t →
      let ww := 16 / 2 ^ z.toNat
      exec (.mldT h d a b cls z) s = .next (finish c s.cur.2 (.mldT h d a b cls z) w 0 false
        (t.modData c (fun e => e.setM d.toNat (loadTile (t.core c) d.toNat (tileOf ww ((List.range (32 * (512 / ww))).map (fun q =>
          tileElem (leNat (memReadN x.scratch ad 2048)) ww (q % (512 / ww) * 32 + q / (512 / ww)))))))))) ∧
    (runsNow (.mst h d a b cls) s = some (w, t) → x.absent ad 2048 = [] → (x.getM d.toNat).poison = 0 →
      exec (.mst h d a b cls) s = .next (finish c s.cur.2 (.mst h d a b cls) w 0 false
        (t.modData c (fun e => e.scrWrite ad (leBytes 2048 (x.getM d.toNat).data.toNat)))))) ∧
  (∀ (h : Hdr) (d a b : BitVec 5) (cls ch : BitVec 2) (s : State) (w : QWord) (t : State),
    let c := s.cur.1
    let x := (t.core c).d
    let cb := 32 / 2 ^ ch.toNat
    let chunk := fun (j : Nat) => (w.va + word j * w.vb).toNat
    (runsNow (.vldS h d a b cls ch) s = some (w, t) → (∀ j < 256 / cb, ScratchOk c (chunk j) cb t) →
      exec (.vldS h d a b cls ch) s = .next (finish c s.cur.2 (.vldS h d a b cls ch) w 0 false
        (t.modData c (fun e => e.setV d.toNat (BitVec.ofNat 2048
          (leNat ((List.range (256 / cb)).flatMap (fun j => memReadN x.scratch (chunk j) cb)))))))) ∧
    (runsNow (.vstS h d a b cls ch) s = some (w, t) → (∀ j < 256 / cb, x.absent (chunk j) cb = []) →
      exec (.vstS h d a b cls ch) s = .next (finish c s.cur.2 (.vstS h d a b cls ch) w 0 false
        (t.modData c (fun _ => (List.range (256 / cb)).foldl (fun (y : CoreData) j =>
          y.scrWrite (chunk j) (((leBytes 256 (x.getV d.toNat).toNat).drop (j * cb)).take cb))
          (x.scrCover ((List.range (256 / cb)).map (fun j => (chunk j, cb)))))))))

/-- The window unit (08 R186, R187): WIN.CFG takes a new configuration at position 0; MLD.U that runs at once, configured within the unit's
limits, on rows that are there, gives the tile of its 32 positions and advances by 32, at most to the last. Copy commands (08 R191) that run
at once and whose ring has a slot free complete: the transfer is accepted in the ring's next slot, with the operands and the generator's
configuration of that moment; nothing is moved yet. Rings and generators (08 R194 to R197) that run at once: AWF n with n filled slots, none
of them failed; RLS n of at most the filled slots; AG.CFG while fewer than four earlier ones are still held. -/
def Obligations.TransferWordsComplete : Prop :=
  (∀ (h : Hdr) (d a b : BitVec 5) (cls : BitVec 2),
    Acts (.winCfg h a b) (fun c _ w t => t.modData c (fun e => { e with win :=
      { cfg := true, a := w.va, b := w.vb, pos := 0, fin := false, rows := [], held := [] } })) ∧
    (∀ s w t, runsNow (.mldU h d cls) s = some (w, t) →
      let x := t.core s.cur.1
      let u := x.d.win
      let g := winFields u.a u.b
      let m := matCfg x.csr.accMode
      let rowB := g.wd * g.ch * (m.w / 8)
      let pos := Nat.min (u.pos + 32) (g.ho * g.wo)
      let held := winRead g m (winNeed g u) x.d
      let keep := (u.rows ++ winNeed g u).filter (fun r => decide (pos < g.ho * g.wo) && rowNeeded g (pos / g.wo) r)
      u.cfg = true → m.cfg = true → 8 ≤ m.w → g.kh * g.kw * g.ch ≤ 512 / m.w → rowB * ((g.kh - 1) * g.dil + 1) ≤ 65536 →
      g.base + (g.ht - 1) * g.pitch + rowB ≤ 0x80000 →
      (∀ r < g.ht, ScratchOk s.cur.1 (g.base + r * g.pitch) rowB t) →
      exec (.mldU h d cls) s = .next (finish s.cur.1 s.cur.2 (.mldU h d cls) w 0 false (t.modData s.cur.1 (fun y =>
        { (y.setM d.toNat (loadTile x d.toNat (winTile g m u.pos held))) with
          win := { u with pos := pos, fin := decide (pos = g.ho * g.wo), rows := keep
                          held := held.filter (fun b => keep.contains (b.1 / 65536)) } }))))) ∧
  (∀ (h : Hdr) (d a b : BitVec 5) (cls hp : BitVec 2) (s : State) (w : QWord) (t : State),
    let c := s.cur.1
    let x := t.core c
    let ring := x.d.hoop hp.toNat
    let accepted := fun (kind : CopyKind) (i : Instr) => exec i s = .next (finish c s.cur.2 i w 0 false (t.modCore c (fun y => { y with
      seq := x.seq + 1
      d := { (x.d.setHoop hp.toNat { ring with alloc := ring.alloc + 1, slots := tput ring.slots (ring.alloc.toNat % 16) {} }) with
             xfers := x.d.xfers ++ [{ strand := s.cur.2, seq := w.seq, order := x.seq, hoop := hp.toNat, slot := ring.alloc.toNat
                                      kind := kind, dst := w.vd, src := w.va, len := wbits w.vb 23 0, gen := wbits w.vb 27 24
                                      cfg := if wbits w.vb 27 24 = 0 then {} else (x.d.gen (wbits w.vb 27 24 - 1)).cfg
                                      cls := cls, stopped := x.stopsNew s.cur.2 w.seq }] } })))
    (ring.alloc - ring.rd).toNat < 16 →
      (runsNow (.cpyIn h d a b cls hp) s = some (w, t) → accepted .inn (.cpyIn h d a b cls hp)) ∧
      (runsNow (.cpyOut h d a b cls hp) s = some (w, t) → accepted .out (.cpyOut h d a b cls hp)) ∧
      (runsNow (.cpyLoc h d a b cls hp) s = some (w, t) → accepted .loc (.cpyLoc h d a b cls hp))) ∧
  (∀ (h : Hdr) (a j : BitVec 5) (hp g : BitVec 2) (s : State) (w : QWord) (t : State),
    let c := s.cur.1
    let ring := (t.core c).d.hoop hp.toNat
    (runsNow (.awf h a hp) s = some (w, t) → w.va.toNat ≤ (ring.wr - ring.rd).toNat →
      (∀ m < w.va.toNat, (tget ({} : Slot) ring.slots ((ring.rd + BitVec.ofNat 8 m).toNat % 16)).code = 0) →
      exec (.awf h a hp) s = .next (finish c s.cur.2 (.awf h a hp) w 0 false t)) ∧
    (runsNow (.rls h a hp) s = some (w, t) → w.va.toNat ≤ (ring.wr - ring.rd).toNat →
      exec (.rls h a hp) s = .next (finish c s.cur.2 (.rls h a hp) w 0 false
        (t.modData c (fun e => e.setHoop hp.toNat { ring with rd := ring.rd + w.va.setWidth 8 })))) ∧
    (runsNow (.agCfg h a j g) s = some (w, t) → (tokensHeld (t.core c).d g.toNat).length < 4 →
      let old := ((t.core c).d.gen g.toNat).cfg
      exec (.agCfg h a j g) s = .next (finish c s.cur.2 (.agCfg h a j g) w 0 false (t.modCore c (fun y => { y with
        seq := y.seq + 1
        d := y.d.setGen g.toNat {
          cfg := if j = 4 then { old with chunk := wbits w.va 11 0 }
            else { old with count := tput old.count j.toNat (wbits w.va 31 0)
                            stride := tput old.stride j.toNat ((w.va >>> 32).setWidth 32).toInt }
          tokens := tokensHeld (t.core c).d g.toNat ++ [y.seq] } })))))

/-- Bitmask-plus-values blocks (08 R188 to R190) that run at once: VST.BM into a block whose capacity holds the elements that are not zero
writes mask, values and header; VLD.BM of a block that checks gives every element. Fibres (08 R198 to R202) that run at once: FOPEN of
either kind on a closed fibre register and a descriptor that checks, FADV on an open one, FEND's bit, FCLOSE. -/
def Obligations.SparseWordsComplete : Prop :=
  (∀ (h : Hdr) (d a b : BitVec 5) (cls n : BitVec 2) (s : State) (w : QWord) (t : State),
    let c := s.cur.1
    let x := (t.core c).d
    let blk := (w.va + w.vb).toNat
    let ww := typeWidth w (vtypeCode w)
    let nr := 2 ^ n.toNat
    let e := nr * (2048 / ww)
    let cap := leNat (memReadN x.scratch (blk + 2) 2)
    let es := (List.range nr).flatMap (fun j => velems ww (x.getV (d.toNat + j)))
    let vals := es.filter (· ≠ 0)
    let mask := (es.foldl (fun (p : Nat × Nat) v => (if v ≠ 0 then p.1 + pow2 p.2 else p.1, p.2 + 1)) (0, 0)).1
    let packed := (vals.foldl (fun (p : Nat × Nat) v => (p.1 + v * pow2 p.2, p.2 + ww)) (0, 0)).1
    (runsNow (.vstBm h d a b cls n) s = some (w, t) → blk + bmVo e + bmSize cap ww ≤ 0x80000 → ScratchOk c blk 4 t →
      x.absent blk (bmVo e + bmSize cap ww) = [] → vals.length ≤ cap →
      exec (.vstBm h d a b cls n) s = .next (finish c s.cur.2 (.vstBm h d a b cls n) w 0 false (t.modData c (fun y =>
        (((y.scrCover [(blk, 16 + e / 8), (blk + bmVo e, bmSize vals.length ww)]).scrWrite (blk + 16)
          (leBytes (e / 8) mask)).scrWrite (blk + bmVo e) (leBytes (bmSize vals.length ww) packed)).scrWrite blk
          (bmHeader vals.length cap (vtypeCode w)))))) ∧
    (∀ count mask, runsNow (.vldBm h d a b cls n) s = some (w, t) → bmRead w x blk e = .ok (count, mask) →
      blk + bmVo e + bmSize count ww ≤ 0x80000 → x.absent blk (bmVo e + bmSize count ww) = [] → x.absent blk (bmVo e) = [] →
      x.scrPoisoned (blk + bmVo e) (bmSize count ww) = false →
      let all := bmElems mask ww e 0 (leNat (memReadN x.scratch (blk + bmVo e) (bmSize count ww)))
      exec (.vldBm h d a b cls n) s = .next (finish c s.cur.2 (.vldBm h d a b cls n) w 0 false (t.modData c (fun y =>
        (List.range nr).foldl (fun (y : CoreData) j =>
          y.setV (d.toNat + j) (vofElems ww ((all.drop (j * (2048 / ww))).take (2048 / ww)))) y))))) ∧
  (∀ (h : Hdr) (d a b : BitVec 5) (n cls : BitVec 2) (s : State) (w : QWord) (t : State),
    let c := s.cur.1
    let x := (t.core c).d
    let ad := w.va.toNat
    let ww := typeWidth w (vtypeCode w)
    let e := 2 ^ n.toNat * (2048 / ww)
    let f := x.getF a.toNat
    let m := Nat.min w.vb.toNat (f.count.toNat - f.next.toNat)
    let lo := f.vbase.toNat + (if f.kind = 0 then f.next.toNat * f.width / 8 else 8 * f.next.toNat)
    let hi := f.vbase.toNat + (if f.kind = 0 then ((f.next.toNat + m) * f.width + 7) / 8 else 8 * (f.next.toNat + m))
    (∀ count mask, runsNow (.fopen h d a n cls 0) s = some (w, t) → (x.getF d.toNat).open_ = false → ad + bmVo e ≤ 0x80000 →
      x.absent ad (bmVo e) = [] → bmRead w x ad e = .ok (count, mask) →
      exec (.fopen h d a n cls 0) s = .next (finish c s.cur.2 (.fopen h d a n cls 0) w 0 false (t.modData c (fun y =>
        y.setF d.toNat { open_ := true, kind := 0, fmt := BitVec.ofNat 8 (vtypeCode w), count := BitVec.ofNat 16 count
                         vbase := BitVec.ofNat 32 (ad + bmVo e), width := ww, places := maskPlaces mask e })))) ∧
    (∀ ps, runsNow (.fopen h d a n cls 1) s = some (w, t) → (x.getF d.toNat).open_ = false →
      let r := leNat (memReadN x.scratch ad 8)
      let base := r % 2 ^ 32
      let cnt := r / 2 ^ 32 % 2 ^ 16
      ScratchOk c ad 8 t → r / 2 ^ 48 = 0 → cnt ≤ 1024 → base % 8 = 0 → base + 8 * cnt ≤ 0x80000 → x.absent base (8 * cnt) = [] →
      (∀ q < cnt, x.scrPoisoned (base + 8 * q) 4 = false) → fibrePlaces x base cnt 0 none = some ps →
      exec (.fopen h d a n cls 1) s = .next (finish c s.cur.2 (.fopen h d a n cls 1) w 0 false (t.modData c (fun y =>
        y.setF d.toNat { open_ := true, kind := 1, fmt := 9, count := BitVec.ofNat 16 cnt, vbase := BitVec.ofNat 32 base
                         width := 32, places := ps })))) ∧
    (runsNow (.fadv h d a b cls) s = some (w, t) → f.open_ = true → hi ≤ 0x80000 → lo ≤ 0x80000 → ScratchOk c lo (if m = 0 then 0 else hi - lo) t →
      let val := fun (q : Nat) =>
        if f.kind = 0 then leNat (memReadN x.scratch (f.vbase.toNat + (f.next.toNat + q) * f.width / 8) ((f.width + 7) / 8 + 1))
          >>> ((f.next.toNat + q) * f.width % 8) % pow2 f.width
        else leNat (memReadN x.scratch (f.vbase.toNat + 8 * (f.next.toNat + q) + 4) 4)
      let pos := fun (q : Nat) =>
        let p := f.places.getD (f.next.toNat + q) 0
        if f.kind = 0 then p else mortonRow p * 32 + mortonCol p
      exec (.fadv h d a b cls) s = .next (finish c s.cur.2 (.fadv h d a b cls) w 0 false (t.modData c (fun y =>
        ((y.setV d.toNat (vofElems f.width ((List.range (2048 / f.width)).map (fun q => if q < m then val q else 0)))).setV (d.toNat + 1)
          (vofElems 32 ((List.range 64).map (fun q => if q < m then pos q else 0)))).setF a.toNat
          { f with next := BitVec.ofNat 16 (f.next.toNat + m)
                   mpos := if f.kind = 0 then BitVec.ofNat 16 (nextMpos f (f.next.toNat + m)) else f.mpos })))) ∧
    (runsNow (.fend h a) s = some (w, t) → f.open_ = true →
      exec (.fend h a) s = .next (finish c s.cur.2 (.fend h a) w 0 (f.next == f.count) t)) ∧
    (runsNow (.fclose h a) s = some (w, t) → f.open_ = true →
      exec (.fclose h a) s = .next (finish c s.cur.2 (.fclose h a) w 0 false
        (t.modData c (fun y => y.setF a.toNat { f with open_ := false })))))

/-- Loads, stores, atomics and cell words (10 R226 to R229, 18 R356) that run at once and whose home slice answers: LDG and LDA give 8
bytes, STG and STR.L store field d, an atomic replaces the value by R229's function and gives the old one, a cell word gives what 18
R356 gives. The releases wait for the strand's earlier words and transfers, at system scope for acknowledgements. -/
def Obligations.GlobalWordsComplete : Prop := ∀ (h : Hdr) (d a b : BitVec 5) (e o : BitVec 2),
  let amo := fun (i : Instr) (op size : Nat) =>
    Accesses i { kind := .amo op, size := size, write := true, relQ := hasRel o, system := e = 3 } (·.va) (·.vb) (·.vd)
  Accesses (.ldg h d a b e o) { kind := .load, size := 8, write := false } (fun w => w.va + w.vb) (fun _ => 0) (fun _ => 0) ∧
  Accesses (.lda h d a b e) { kind := .load, size := 8, write := false } (fun w => w.va + w.vb) (fun _ => 0) (fun _ => 0) ∧
  Accesses (.stg h d a b e o) { kind := .store, size := 8, write := true, relQ := hasRel o, system := e = 3 } (fun w => w.va + w.vb) (·.vd) (fun _ => 0) ∧
  Accesses (.strl h d a b e) { kind := .store, size := 8, write := true, relAll := true, system := e = 3 } (fun w => w.va + w.vb)
    (·.vd) (fun _ => 0) ∧
  amo (.amoAdd h d a b e o) 0x05 8 ∧ amo (.amoAnd h d a b e o) 0x06 8 ∧ amo (.amoOr h d a b e o) 0x07 8 ∧
  amo (.amoXor h d a b e o) 0x08 8 ∧ amo (.amoMin h d a b e o) 0x09 8 ∧ amo (.amoMax h d a b e o) 0x0A 8 ∧
  amo (.amoMinu h d a b e o) 0x0B 8 ∧ amo (.amoMaxu h d a b e o) 0x0C 8 ∧ amo (.amoSwap h d a b e o) 0x0D 8 ∧
  amo (.amoCas h d a b e o) 0x0E 8 ∧ amo (.amoFadd h d a b e o) 0x0F 4 ∧
  Accesses (.verst h d a b e) { kind := .verst, size := 64, ctxKind := 1, write := true, relAll := true, system := e = 3 } (·.va) (·.vb)
    (fun _ => 0) ∧
  (∀ s w t pa u v r, runsNow (.verld h d a b e) s = some (w, t) → wbits w.vb 63 32 = 0 →
    gCheck s.cur.1 { kind := .verld, size := 64, ctxKind := 1, write := false, system := e = 3 } w.va t = (.ok pa, u) → homed pa →
    lineMoved u s.cur.1 pa = false → serve u .verld pa 64 w.vb 0 = .ok v r →
    exec (.verld h d a b e) s = .next (finish s.cur.1 s.cur.2 (.verld h d a b e) w r false
      (answerCell pa v.reqs.length v))) ∧
  (∀ s w t pa u v r, runsNow (.verrcl h d a b e) s = some (w, t) → wbits w.vb 63 32 = 0 →
    gCheck s.cur.1 { kind := .verrcl, size := 64, ctxKind := 1, write := true, relAll := true, system := e = 3 } w.va t = (.ok pa, u) →
    released s.cur.1 s.cur.2 (e = 3) w u → homed pa → lineMoved u s.cur.1 pa = false → serve u .verrcl pa 64 w.vb 0 = .ok v r →
    exec (.verrcl h d a b e) s = .next (finish s.cur.1 s.cur.2 (.verrcl h d a b e) w r false
      (answerCell pa v.reqs.length v)))

/-- The global words beside the accesses, run at once: FENCE once its waits are over, WBR and INVR while fewer than four are in progress,
WBWAIT once every earlier one has finished and none failed, MCAST to no core, and to cores for which the injection buffer has room,
whose copies it then holds (10 R219, R228, R230). -/
def Obligations.OrderingWordsComplete : Prop := ∀ (h : Hdr) (d a b : BitVec 5) (e o : BitVec 2) (s : State) (w : QWord) (t : State),
  let c := s.cur.1
  let k := s.cur.2
  let ops := (t.core c).d.wbOps
  let accepted := fun (inval : Bool) => t.modData c (fun x => { x with wbOps := x.wbOps ++
    [{ order := w.seq, inval := inval, base := w.va, len := w.vb.toNat }] })
  (runsNow (.fence h e o) s = some (w, t) →
    (hasAcq o = true → ∀ q ∈ ((t.core c).strand k).words, q.seq < w.seq → isLoad q.i = true → q.phase = .done) →
    (hasRel o = true → released c k (e = 3) w t) →
    exec (.fence h e o) s = .next (finish c k (.fence h e o) w 0 false t)) ∧
  (runsNow (.wbr h a b) s = some (w, t) → (ops.filter (fun p => !p.fin)).length < 4 →
    exec (.wbr h a b) s = .next (finish c k (.wbr h a b) w 0 false (accepted false))) ∧
  (runsNow (.invr h a b) s = some (w, t) → (ops.filter (fun p => !p.fin)).length < 4 →
    exec (.invr h a b) s = .next (finish c k (.invr h a b) w 0 false (accepted true))) ∧
  (runsNow (.wbwait h d) s = some (w, t) → (∀ p ∈ ops, p.order < w.seq → p.fin = true ∧ p.code = 0) →
    ∃ u, exec (.wbwait h d) s = .next (finish c k (.wbwait h d) w (t.core c).d.wbCount false u) ∧
      (u.core c).d.wbCount = 0 ∧ (∀ p, p ∈ (u.core c).d.wbOps ↔ p ∈ ops ∧ w.seq ≤ p.order)) ∧
  (runsNow (.mcast h d a b) s = some (w, t) → w.vb = 0 →
    exec (.mcast h d a b) s = .next (finish c k (.mcast h d a b) w 1 false t)) ∧
  (runsNow (.mcast h d a b) s = some (w, t) → w.vb ≠ 0 → w.vb.toNat < 2 ^ 16 →
    (t.core c).inj.length + (t.core c).injRes + (t.core c).injRide + popcount 16 w.vb.toNat ≤ 8 →
    ∃ w' u, exec (.mcast h d a b) s = .next (begun c k (.mcast h d a b) w' u) ∧
      (u.core c).inj = (t.core c).inj ++ ((List.range 16).filter (fun i => w.vb.getLsbD i)).map
        (fun i => (t.core c).stamp t.cycle (mcastItem c w.res w.va i)) ∧
      (u.core c).mcOut = (t.core c).mcOut + popcount 16 w.vb.toNat)

/-- The layered-tensor words (19 R368 to R371) that run at once on a handle that checks, at a place that answers and (LDT, LFOLD, LFWAIT)
with no fold in progress: LAT adds a layer, LDT takes one out, LFOLD starts a fold, LFWAIT and LGEN give the generation. LFWAIT and LGEN
(19 R371), which only read the handle. -/
def Obligations.LayeredWordsComplete : Prop :=
  (∀ (h : Hdr) (d a b : BitVec 5) (s : State) (w : QWord) (t : State) (pa : Nat)
      (hd : Handle) (u : State),
    let c := s.cur.1
    let k := s.cur.2
    let cur := handleAt u pa
    let still := (tget {} u.folds pa).active = false
    handleCheck c true w.va t = (.ok (pa, hd), u) → rangeReady u pa 64 = true →
      (runsNow (.lat h d a b) s = some (w, t) → w.vb.toNat % 256 = 0 → released c k false w u → cur.count ≠ 7 →
        exec (.lat h d a b) s = .next (finish c k (.lat h d a b) w (zext (cur.gen + 1)) false
          (putHandle pa { cur with ptrs := cur.ptrs.set cur.count (w.vb.toNat % 2 ^ 48), count := cur.count + 1, gen := cur.gen + 1 } u))) ∧
      (runsNow (.ldt h d a b) s = some (w, t) → still → released c k false w u → w.vb.toNat < cur.count →
        exec (.ldt h d a b) s = .next (finish c k (.ldt h d a b) w (zext (cur.gen + 1)) false
          (putHandle pa { cur with ptrs := cur.ptrs.eraseIdx w.vb.toNat ++ [0], count := cur.count - 1, gen := cur.gen + 1 } u))) ∧
      (runsNow (.lfold h d a b) s = some (w, t) → still → released c k false w u → foldCheck w hd = none → foldCheck w cur = none →
        exec (.lfold h d a b) s = .next (finish c k (.lfold h d a b) w (zext cur.gen) false { u with
          folds := tput u.folds pa { active := true, k := w.vb.toNat, snap := cur.bytes, ctx := (u.core c).csr.partition
                                     sup := (u.core c).csr.sup, die := coreDie c } }))) ∧
  (∀ (h : Hdr) (d a : BitVec 5) (s : State) (w : QWord) (t : State) (pa : Nat)
      (hd : Handle) (u : State),
    let c := s.cur.1
    let k := s.cur.2
    handleCheck c false w.va t = (.ok (pa, hd), u) → rangeReady u pa 64 = true →
      (runsNow (.lfwait h d a) s = some (w, t) → (tget {} u.folds pa).active = false →
        exec (.lfwait h d a) s = .next (finish c k (.lfwait h d a) w
          (word ((handleAt u pa).gen.toNat * 2 ^ 32 + (tget {} u.folds pa).code.toNat)) false u)) ∧
      (runsNow (.lgen h d a) s = some (w, t) →
        exec (.lgen h d a) s = .next (finish c k (.lgen h d a) w (zext (handleAt u pa).gen) false u)))

/-- SUBMIT (16 R302) that runs at once, on a packet and a descriptor that check, with the ring's pages there and room in it: it claims the
next index n by an atomic addition, writes the packet at slot n mod S, and gives n. Here the descriptor and the slot lie in device memory. -/
def Obligations.SubmitCompletes : Prop := ∀ (h : Hdr) (d a b : BitVec 5) (s : State) (w : QWord) (t : State) (pa pa2 : Nat)
    (lf lf2 n : Word) (sz sz2 : Nat) (u v x y : State),
  let c := s.cur.1
  let img := memReadN (t.core c).d.scratch w.vb.toNat 64
  let base := u.memNat pa 8 % 2 ^ 48
  let len := 64 * queueSize (u.memNat (pa + 40) 1)
  let size := queueSize (x.memNat (pa + 40) 1)
  runsNow (.submit h d a b) s = some (w, t) →
    w.va.toNat % 64 = 0 → w.va.toNat < 2 ^ 48 → w.vb.toNat % 64 = 0 → w.vb.toNat + 64 ≤ 0x80000 → ScratchOk c w.vb.toNat 64 t →
    packetOk img = true → (bits (leNat (img.take 8)) 55 48 = 4 →
      (tget {} (t.core c).csr.dom (leNat ((img.drop 45).take 1) % 4)).member = true) → replayNode t c = false →
    coreXlat t c { coreAccess t c with write := true } w.va.toNat = (.ok pa lf sz, u) →
    (bits pa 47 46 = 0 ∨ ∃ die sl off, target pa = .carve die sl off) → rangeReady u pa 64 = true → u.poisoned pa 64 = false →
    ringCheck c base ((base + len - 1) / 65536 - base / 65536 + 1) 0 u = (none, v) →
    released c s.cur.2 true w v → serveAmo v 0x05 (pa + 8) 8 1 0 = .ok x n →
    (n - word (x.memNat (pa + 16) 8)).toNat < size →
    coreXlat x c { coreAccess x c with write := true } (x.memNat pa 8 % 2 ^ 48 + 64 * (n.toNat % size)) = (.ok pa2 lf2 sz2, y) →
    homed pa2 → rangeReady y pa2 64 = true → rangeLost y pa2 64 = false →
      exec (.submit h d a b) s = .next (finish c s.cur.2 (.submit h d a b) w n false
        (writeBytes y pa2 (submitBytes c img n)))

/-- The sync words (12 R247 to R253): one that issues joins X's Q queue, and starts in a later cycle; as it starts, its waits over, BAR.W
and RED send and wait for the root's answer, BAR.A sends and completes, BAR.T gives the pending bit and the epoch, BCAST and EVT send, BRECV
takes the oldest value held. WFE, which runs at once, takes the event held, or waits.
The token words (05 R112) that run at once: TKPUSH adds va tokens at its retirement once every earlier word has completed, TKPOP has
taken its tokens at issue, TKCNT gives the count at its retirement. -/
def Obligations.SyncWordsComplete : Prop :=
  (∀ (h : Hdr) (d a b : BitVec 5) (l : BitVec 2) (s : State) (w : QWord) (t : State),
    let c := s.cur.1
    let k := s.cur.2
    (∀ i ∈ [Instr.barW h l, .barA h l, .barT h d l, .bcast h a l, .brecv h d l, .red h d a b l, .evt h l], Joins i) ∧
    (runsNow (.wfe h) s = some (w, t) → (t.core c).evt = true →
      exec (.wfe h) s = .next (finish c k (.wfe h) w 0 false (t.modCore c (·.tookEvent t.cycle)))) ∧
    (runsNow (.wfe h) s = some (w, t) → (t.core c).evt = false →
      exec (.wfe h) s = .next (begun c k (.wfe h) w t))) ∧
  (∀ (h : Hdr) (d a b : BitVec 5) (l : BitVec 2) (c : Nat) (s : State) (w : QWord),
    let lv := l.toNat
    let arrived := (s.sendUp c lv (.arrive c)).modCore c (fun y => { y with pend := y.pend ||| (1#4 <<< lv) })
    let may := fun i => SyncMay i c lv w s
    let rel := released c 3 (lv = 3) w s
    let ends := fun v u => EndsWith c 3 .q w s v u
    (may (.barW h l) → (s.core c).pend.getLsbD lv = false → rel → SyncBegins c { w with idx := 1 } s arrived) ∧
    (may (.barW h l) → (s.core c).pend.getLsbD lv = true → SyncBegins c { w with idx := 1 } s s) ∧
    (may (.barA h l) → (s.core c).pend.getLsbD lv = false → rel → ends 0 arrived) ∧
    (may (.barT h d l) → ends (word ((if (s.core c).pend.getLsbD lv then 2 ^ 63 else 0) + (tget {} (s.core c).csr.dom lv).epoch.toNat)) s) ∧
    (may (.bcast h a l) → ends 0 (s.sendUp c lv (.bcast c w.va))) ∧
    (∀ v r, may (.brecv h d l) → tget [] (s.core c).latches lv = v :: r →
      ends v ((s.modCore c (fun y => { y with latches := tput y.latches lv r })).sendUp c lv (.credit c))) ∧
    (may (.red h d a b l) → SyncBegins c { w with idx := 1 } s (s.sendUp c lv (.contrib c b.toNat w.va))) ∧
    (may (.evt h l) → ends 0 (s.sendUp c lv (.event c)))) ∧
  (∀ (h : Hdr) (d a b : BitVec 5) (s : State) (w : QWord) (t : State),
    let c := s.cur.1
    let k := s.cur.2
    (runsNow (.tkpush h a b) s = some (w, t) → earlierDone t c k w.seq = true →
      exec (.tkpush h a b) s = .next (finish c k (.tkpush h a b) w 0 false t)) ∧
    (runsNow (.tkpop h a b) s = some (w, t) → exec (.tkpop h a b) s = .next (finish c k (.tkpop h a b) w 0 false t)) ∧
    (runsNow (.tkcnt h d b) s = some (w, t) →
      exec (.tkcnt h d b) s = .next (finish c k (.tkcnt h d b) w (word ((t.core c).tokens (dist k b.toNat) k)) false t)))

/-- The W words (13 R268 to R272) that run at once on a bound port without a latched cause: WOUT and WEOS with room for their beats, WIN
with its beats visible and none of them flagged before the last, WTEST, WSTAT, and the drains. -/
def Obligations.PortWordsComplete : Prop := ∀ (h : Hdr) (tile n : BitVec 2) (v dst num : BitVec 5) (e q r : BitVec 1)
    (s : State) (w : QWord) (t : State),
  let c := s.cur.1
  let k := s.cur.2
  let pin := (t.core c).d.port (inPort tile.toNat)
  let pout := (t.core c).d.port (outPort tile.toNat)
  let beats := woutBeats (leBytes 256 ((t.core c).d.getV v.toNat).toNat) (n.toNat + 1) (e = 1)
  let entered := fun (bs : List Beat) => bs.foldl (fun (u : State) b =>
    u.modData c (fun x => x.setPort (outPort tile.toNat) ((x.port (outPort tile.toNat)).put t.cycle b))) t
  let cleared := fun (pk : Nat) => t.modData c (fun x => x.setPort pk { x.port pk with cause := 0 })
  (runsNow (.wout h tile v e n) s = some (w, t) → pout.bound = true → pout.cause = 0 → pout.occ t.cycle + n.toNat + 1 ≤ 16 →
    exec (.wout h tile v e n) s = .next (finish c k (.wout h tile v e n) w 0 false (entered beats))) ∧
  (runsNow (.weos h tile) s = some (w, t) → pout.bound = true → pout.cause = 0 → pout.occ t.cycle < 16 →
    exec (.weos h tile) s = .next (finish c k (.weos h tile) w 0 false (entered [⟨0, true⟩]))) ∧
  (∀ m, m ≤ n.toNat → runsNow (.win h tile v q n) s = some (w, t) → pin.bound = true → pin.cause = 0 →
    inAhead t c tile.toNat false t.cycle = false →
    let bs := (pin.visible t.cycle).take (m + 1)
    let last := bs.getLastD ⟨0, false⟩
    bs.length = m + 1 → (∀ b ∈ bs.dropLast, b.flag = false) → (m = n.toNat ∨ last.flag = true) →
    ∃ u, exec (.win h tile v q n) s = .next (finish c k (.win h tile v q n) w 0 last.flag u) ∧
      (u.core c).d.getV v.toNat = BitVec.ofNat 2048 (leNat (bs.flatMap (fun b => leBytes 64 b.data.toNat))) ∧
      ((u.core c).d.port (inPort tile.toNat)).fifo = pin.fifo.drop (m + 1) ∧ u.mem = t.mem) ∧
  (runsNow (.wtest h tile 0 num) s = some (w, t) →
    exec (.wtest h tile 0 num) s = .next (finish c k (.wtest h tile 0 num) w 0 (decide (num.toNat ≤ (pin.visible t.cycle).length)) t)) ∧
  (runsNow (.wtest h tile 1 num) s = some (w, t) →
    exec (.wtest h tile 1 num) s = .next (finish c k (.wtest h tile 1 num) w 0 (decide (num.toNat + pout.occ t.cycle ≤ 16)) t)) ∧
  (runsNow (.wstat h tile dst r q) s = some (w, t) →
    exec (.wstat h tile dst r q) s = .next (finish c k (.wstat h tile dst r q) w (portStatus t c tile.toNat (r = 1)) false
      (if q = 1 then cleared (if r = 1 then outPort tile.toNat else inPort tile.toNat) else t))) ∧
  (∀ m b, m < 16 → runsNow (.wdrainIn h tile) s = some (w, t) → pin.bound = true → inAhead t c tile.toNat true t.cycle = false →
    (pin.visible t.cycle)[m]? = some b → b.flag = true → (∀ x ∈ (pin.visible t.cycle).take m, x.flag = false) →
    ∃ u, exec (.wdrainIn h tile) s = .next (finish c k (.wdrainIn h tile) w 0 false u) ∧
      ((u.core c).d.port (inPort tile.toNat)).fifo = pin.fifo.drop (m + 1) ∧
      ((u.core c).d.port (inPort tile.toNat)).cause = 0 ∧ u.mem = t.mem) ∧
  (runsNow (.wdrainOut h tile) s = some (w, t) → pout.bound = true → pout.occ t.cycle = 0 →
    exec (.wdrainOut h tile) s = .next (finish c k (.wdrainOut h tile) w 0 false (cleared (outPort tile.toNat))))

/-- HALT (17 R329), TRAP (17 R328), TRET (17 R326), YIELD and MPERM (17 R330, 06 R147), WUT and RDTIME (22 R418, R419) that run at once:
HALT halts its strand; TRAP stops the core with the user trap's record; TRET with abort or resume returns from the handler; YIELD and
MPERM wait for the crown's and the cluster's answer (MPERM's comes with PERMIT_DECISION); YIELD, run on 26 cycles later, pre-empts its
node, and gives 1 once the node runs again, or gives 0; WUT whose time has come completes, any other waits; RDTIME gives the count of its
issue. -/
def Obligations.SystemWordsComplete : Prop := ∀ (h : Hdr) (d a : BitVec 5) (code : BitVec 8) (sel : BitVec 1)
    (s : State) (w : QWord) (t : State),
  let c := s.cur.1
  let k := s.cur.2
  (runsNow (.halt h) s = some (w, t) →
    exec (.halt h) s = .next (finish c k (.halt h) w 0 false
      (t.modStrand c k (fun x => if x.active then { x with st := .halted } else { x with prior := .halted })))) ∧
  (runsNow (.trap h code) s = some (w, t) → earlierDone t c k w.seq = true →
    exec (.trap h code) s = .next (takeFault c k { code := 0x00, cls := 5, x0 := zext code } (encode (.trap h code)) w.pc none
      (enqueue c k .y { w with phase := .done } t))) ∧
  (runsNow (.tretAbort h) s = some (w, t) → earlierDone t c k w.seq = true →
    exec (.tretAbort h) s = .next (finish c k (.tretAbort h) w 0 false (t.modCore c returnAbort))) ∧
  (runsNow (.tretResume h) s = some (w, t) → earlierDone t c k w.seq = true → deferredStop (t.core c) = true →
    exec (.tretResume h) s = .next (finish c k (.tretResume h) w 0 false (t.modCore c returnAbort))) ∧
  (runsNow (.tretResume h) s = some (w, t) → earlierDone t c k w.seq = true → deferredStop (t.core c) = false →
    exec (.tretResume h) s = .next (finish c k (.tretResume h) w 0 false
      ((match (t.core c).node with
        | some r => t.modNode r (fun n => { n with code := (t.core c).lastCode })
        | none => t).modCore c returnResume))) ∧
  (runsNow (.yield h d) s = some (w, t) → s.cycle < 2 ^ 63 → 
    exec (.yield h d) s = .next (begun c k (.yield h d) { w with due := s.cycle + 26 } t)) ∧
  (∀ r p, Begun (.yield h d) c k .y w t → w.idx ≠ 1 → w.res.toNat + 26 ≤ t.cycle → (t.core c).node = some r → yieldsTo t r = some p →
    exec (.engineWordStart c k .y) t = .next (putWord c k .y { w with phase := .started, paging := false, idx := 1, due := 0 }
      (decideFor p [r] t))) ∧
  (Begun (.yield h d) c k .y w t → w.idx ≠ 1 → w.res.toNat + 26 ≤ t.cycle → (∀ r, (t.core c).node = some r → yieldsTo t r = none) →
    EndsWith c k .y w t 0 t) ∧
  (Begun (.yield h d) c k .y w t → w.idx = 1 → nodeRuns t c = true → EndsWith c k .y w t 1 t) ∧
  (runsNow (.mperm h d a) s = some (w, t) → s.cycle < 2 ^ 63 →
    exec (.mperm h d a) s = .next (begun c k (.mperm h d a) { w with due := s.cycle + 26 } t)) ∧
  (runsNow (.wut h a) s = some (w, t) → w.va.toNat ≤ timeLo s →
    exec (.wut h a) s = .next (finish c k (.wut h a) w 0 false t) ∧ (t.strand c k).pauseEnd = s.cycle + 2) ∧
  (runsNow (.wut h a) s = some (w, t) → timeLo s < w.va.toNat →
    exec (.wut h a) s = .next (begun c k (.wut h a) w t) ∧ (t.strand c k).pauseEnd = 0) ∧
  (runsNow (.rdtime h d sel) s = some (w, t) →
    exec (.rdtime h d sel) s = .next (finish c k (.rdtime h d sel) w
      (if sel = 0 then word (timeLo s) else word (s.time.count.toNat / 2 ^ 16)) false t))

/-- DOMSET (12 R246) that runs at once reads its descriptor and acts 26 cycles later: in the cycle that is due, the engine runs the begun
word on to its end, which installs or removes the domain, or gives the rule's code, once those before it have acted (R440). HMSET (10 R231,
R232) that runs at once: quiesce and resume; switch gives 1 where the domain is not quiesced, 2 for a descriptor with an invalid field, 3
for one that conflicts, else it installs the domain, still quiesced. -/
def Obligations.DomainWordsComplete : Prop :=
  (∀ (h : Hdr) (d a : BitVec 5) (s : State) (w : QWord) (t u : State) (b : List Byte),
    let c := s.cur.1
    let k := s.cur.2
    let x := domDesc (coreDie c) w.buf
    (∀ i ∈ [Instr.domsetInstall h d a, .domsetRemove h d a], runsNow i s = some (w, t) → ReadAtOnce c w.va 64 t u b →
      exec i s = .next (begun c k i { w with buf := b, due := u.cycle + 26 } u)) ∧
    (64 ≤ w.buf.length → w.due ≠ 0 → w.due ≤ t.cycle → w.idx = 0 → domsetsAhead c w t = [] →
      let conflict := domConflict t (coreDie c) x
      let there := (t.slot (coreDie c) x.slot).installed = true ∧ (t.slot (coreDie c) x.slot).level = x.level
      (Begun (.domsetInstall h d a) c k .y w t →
        (domInvalid (coreDie c) x = true → EndsWith c k .y w t 2 t) ∧
        (domInvalid (coreDie c) x = false → conflict = true → EndsWith c k .y w t 3 t) ∧
        (domInvalid (coreDie c) x = false → conflict = false →
          EndsWith c k .y w t 0 (domInstall (coreDie c) (t.core c).node x t))) ∧
      (Begun (.domsetRemove h d a) c k .y w t →
        (there → EndsWith c k .y w t 0 (domRemove (coreDie c) x.slot t)) ∧ (¬ there → EndsWith c k .y w t 2 t)))) ∧
  (∀ (h : Hdr) (d a : BitVec 5) (m : BitVec 4) (s : State) (w : QWord) (t u : State)
      (b : List Byte),
    let c := s.cur.1
    let k := s.cur.2
    let die := coreDie c
    let quiet := (tget {} (t.die die).il m.toNat).quiesced
    (runsNow (.hmsetQuiesce h d a m) s = some (w, t) → exec (.hmsetQuiesce h d a m) s = .next (finish c k (.hmsetQuiesce h d a m) w 0 false
      (setIl die m.toNat (fun x => { x with quiesced := true }) t))) ∧
    (runsNow (.hmsetResume h d a m) s = some (w, t) → exec (.hmsetResume h d a m) s = .next (finish c k (.hmsetResume h d a m) w 0 false
      (setIl die m.toNat (fun x => { x with quiesced := false }) t))) ∧
    (runsNow (.hmsetSwitch h d a m) s = some (w, t) → quiet = false →
      exec (.hmsetSwitch h d a m) s = .next (finish c k (.hmsetSwitch h d a m) w 1 false t)) ∧
    (runsNow (.hmsetSwitch h d a m) s = some (w, t) → quiet = true → ReadAtOnce c w.va 64 t u b → ilDesc b = none →
      exec (.hmsetSwitch h d a m) s = .next (finish c k (.hmsetSwitch h d a m) w 2 false u)) ∧
    (∀ x, runsNow (.hmsetSwitch h d a m) s = some (w, t) → quiet = true → ReadAtOnce c w.va 64 t u b → ilDesc b = some x →
      ilConflict (u.die die) m.toNat x = true →
      exec (.hmsetSwitch h d a m) s = .next (finish c k (.hmsetSwitch h d a m) w 3 false u)) ∧
    (∀ x, runsNow (.hmsetSwitch h d a m) s = some (w, t) → quiet = true → ReadAtOnce c w.va 64 t u b → ilDesc b = some x →
      ilConflict (u.die die) m.toNat x = false →
      ∃ v, exec (.hmsetSwitch h d a m) s = .next (finish c k (.hmsetSwitch h d a m) w 0 false v) ∧
        tget {} (v.die die).il m.toNat = { x with quiesced := true } ∧ v.mem = u.mem))

/-- The words of another core's context (17 R335) that run at once: RDST gives the image's word (a free value where R331 does not place it,
log entry 31), WRST writes one of a core that stands still, CTX.SAVE and CTX.LOAD give 1 for a core that does not stand still; of one
that does, CTX.SAVE writes the whole image on pages that are there, once its release's waits are over, and CTX.LOAD, with the image read,
installs it, or gives 2 where its mark or its check is wrong. -/
def Obligations.ContextWordsComplete : Prop := ∀ (h : Hdr) (d a : BitVec 5) (n : BitVec 8) (s : State) (w : QWord) (t : State),
  let c := s.cur.1
  let k := s.cur.2
  let tg := targetCore c n
  let i := w.va.toNat
  let x := t.core tg
  (∀ v, runsNow (.rdst h d a n) s = some (w, t) → i ≠ checkWord → imageWord t tg x i = some v →
    exec (.rdst h d a n) s = .next (finish c k (.rdst h d a n) w v false t)) ∧
  (runsNow (.rdst h d a n) s = some (w, t) → i ≠ checkWord → imageWord t tg x i = none →
    exec (.rdst h d a n) s = .next (finish c k (.rdst h d a n) w t.freeVal false t.takeFree)) ∧
  (runsNow (.rdst h d a n) s = some (w, t) → i = checkWord →
    exec (.rdst h d a n) s = .next (finish c k (.rdst h d a n) w (imageCheck (imageWords t tg x t.free)) false
      { t with free := t.free + 32768 })) ∧
  (runsNow (.wrst h d a n) s = some (w, t) → tg ≠ c → (coreIdle x || coreStopped x || corePreempted x) = true →
    exec (.wrst h d a n) s = .next (finish c k (.wrst h d a n) w 0 false (modTarget tg (setImageWord false t.cycle i w.vd) t))) ∧
  (runsNow (.wrst h d a n) s = some (w, t) → tg = c → x.csr.hnd = true → (i < 384 ∨ 512 ≤ i) →
    exec (.wrst h d a n) s = .next (finish c k (.wrst h d a n) w 0 false (modTarget tg (setImageWord false t.cycle i w.vd) t))) ∧
  (runsNow (.ctxSave h d a n) s = some (w, t) → (coreStopped x || corePreempted x) = false →
    exec (.ctxSave h d a n) s = .next (finish c k (.ctxSave h d a n) w 1 false t)) ∧
  (runsNow (.ctxLoad h d a n) s = some (w, t) → (coreStopped x || corePreempted x) = false →
    exec (.ctxLoad h d a n) s = .next (finish c k (.ctxLoad h d a n) w 1 false t)) ∧
  (∀ ps u, runsNow (.ctxSave h d a n) s = some (w, t) → (coreStopped x || corePreempted x) = true →
    writePieces c 10 i 262144 t = (.ok ps, u) → (∀ p ∈ ps, rangeReady u p.1 p.2 = true) → released c k false w u →
    exec (.ctxSave h d a n) s = .next (finish c k (.ctxSave h d a n) w 0 false
      { (writeAll (u.core c).csr.partition ps ((imageOf u tg x u.free).flatMap (fun v => leBytes 8 v.toNat)) u) with
        free := u.free + 32768, images := u.images ++ [(u.free, x)] })) ∧
  (∀ w' u, runsNow (.ctxLoad h d a n) s = some (w, t) → (coreStopped x || corePreempted x) = true →
    Fetches c k w.va 262144 40000 w t w' u →
    (let ws := wordsOf w'.buf
     let bad := ws.getD 7680 0 ≠ 0x58464354 ∨ ws.getD checkWord 0 ≠ imageCheck ws
     (bad → exec (.ctxLoad h d a n) s = .next (finish c k (.ctxLoad h d a n) w 2 false u)) ∧
     (¬ bad → exec (.ctxLoad h d a n) s = .next (finish c k (.ctxLoad h d a n) w 0 false (modTarget tg (installImage u tg ws) u))))) ∧
  (262144 ≤ w.buf.length → (coreStopped x || corePreempted x) = true →
    (specOf (.ctxLoad h d a n)).body c k w t =
      (if (wordsOf w.buf).getD 7680 0 ≠ 0x58464354 ∨ (wordsOf w.buf).getD checkWord 0 ≠ imageCheck (wordsOf w.buf)
       then .done t 2 false else .done (modTarget tg (installImage t tg (wordsOf w.buf)) t) 0 false))

/-- The region words (14 R283 to R291): each that goes joins X's Y queue, since it starts no earlier than the cycle after its issue, and
where it may start and is the first in its region's line (a freeze also behind a pending swap alone, which is the model's reading, log entry
73), the engine's start runs it: it gives the rule's code, or acts and gives 0, or
begins what the rule times, which the engine runs on to its end when it is due. -/
def Obligations.RegionWordsComplete : Prop := ∀ (h : Hdr) (d : BitVec 5) (cc : BitVec 3) (g : BitVec 6),
  Joins (.rgswapNow h d g) ∧ Joins (.rgswapHot h d g) ∧ Joins (.rgfreezeFreeze h d g) ∧ Joins (.rgfreezeThaw h d g) ∧
  Joins (.rgreadStatus h d g) ∧ Joins (.rgclk h d cc g) ∧
  (∀ (c : Nat) (w : QWord) (s t : State),
    let rg := rgOf c g
    let r := t.region rg
    let quiet := r.live = .blank ∨ r.live = .frozen
    let starts := fun (i : Instr) => RgStarts i c g w s t
    -- RGSWAP now
    (starts (.rgswapNow h d g) → ¬ quiet → RgEnds c g w s 1 t) ∧
    (starts (.rgswapNow h d g) → quiet → r.standby ≠ .staged → RgEnds c g w s 2 t) ∧
    (starts (.rgswapNow h d g) → quiet → r.standby = .staged →
      ∃ u, RgEnds c g w s 0 u ∧ (u.region rg).live = .frozen ∧ (u.region rg).img = r.stby ∧
        (u.region rg).standby = (if r.live = .blank then .empty else .staged) ∧
        (u.region rg).stby = (if r.live = .blank then {} else r.img) ∧ u.mem = t.mem) ∧
    -- RGSWAP hot
    (starts (.rgswapHot h d g) → (r.live ≠ .running ∨ r.img.swap = 0) → RgEnds c g w s 1 t) ∧
    (starts (.rgswapHot h d g) → r.live = .running → r.img.swap ≠ 0 → r.standby ≠ .staged → RgEnds c g w s 2 t) ∧
    (starts (.rgswapHot h d g) → r.live = .running → r.img.swap ≠ 0 → r.standby = .staged →
      leNat (shake256 (imageBytes r.stby) 64) = r.stby.digest.toNat →
      ∃ u, RgBegins c { w with idx := 1 } s u ∧
        (u.region rg).live = .pending ∧ (u.region rg).swapper = some (c, w.seq) ∧ (u.region rg).img = r.img ∧ u.mem = t.mem) ∧
    -- RGFREEZE freeze
    (starts (.rgfreezeFreeze h d g) → r.live ≠ .running → r.live ≠ .pending → RgEnds c g w s 1 t) ∧
    (starts (.rgfreezeFreeze h d g) → (r.live = .running ∨ r.live = .pending) →
      ∃ u, RgBegins c { w with idx := 1, due := edgeFrom (divider r.clk.toNat) t.cycle + 64 } s u ∧
        (u.region rg).live = .running ∧ (u.region rg).lastEdge = some (edgeFrom (divider r.clk.toNat) t.cycle) ∧ u.mem = t.mem) ∧
    (w.phase = .started → w.idx = 1 → w.due ≤ t.cycle →
      RgRunsOn (.rgfreezeFreeze h d g) c g w t 0 (t.modRegion rg (fun r => { r with live := .frozen, edge := none }))) ∧
    -- RGFREEZE thaw
    (starts (.rgfreezeThaw h d g) → (r.live ≠ .frozen ∨ r.err = true) → RgEnds c g w s 1 t) ∧
    (starts (.rgfreezeThaw h d g) → r.live = .frozen → r.err = false →
      RgBegins c { w with idx := 1, due := edgeFrom (divider r.clk.toNat) (t.cycle + 1) + 32 * divider r.clk.toNat } s t) ∧
    (w.phase = .started → w.idx = 1 → w.due ≤ t.cycle →
      RgRunsOn (.rgfreezeThaw h d g) c g w t 0 (t.modRegion rg (fun r => { r with live := .running, lastEdge := none }))) ∧
    -- RGREAD status, RGCLK
    (starts (.rgreadStatus h d g) → RgEnds c g w s (regionStatus t rg) t) ∧
    (starts (.rgclk h d cc g) → ¬ quiet → RgEnds c g w s 1 t) ∧
    (starts (.rgclk h d cc g) → quiet → RgEnds c g w s 0 (t.modRegion rg (fun r => { r with clk := cc }))))

/-- The words of the readout chain (14 R287, R288), where no other chain word of the die is under way, and RGLOAD (14 R283, R284), which
runs beside the others. RGLOAD gives 4 where the standby loads or a swap is pending; else the standby loads, the whole image is read, and
with the rule's cycles past it gives 5 for a header or signature block whose fields are wrong, 6 for a structure that is wrong, or 0 and
stages the image; one that is not authentic stops it with 0x13. -/
def Obligations.ChainWordsComplete : Prop := ∀ (h : Hdr) (d a : BitVec 5) (x : BitVec 1) (g : BitVec 6),
  Joins (.rgreadSave h d a g) ∧ Joins (.rgreadFetch h d a x g) ∧ Joins (.rgreadRestore h d x g) ∧ Joins (.rgload h d a g) ∧
  (∀ (c : Nat) (w : QWord) (s t : State),
    let die := coreDie c
    let rg := rgOf c g
    let r := t.region rg
    let n := chainChunks r.img
    let nx := chainChunks (if x = 1 then r.stby else r.img)
    let there := (x = 0 → r.live ≠ .blank) ∧ (x = 1 → r.standby = .staged)
    let inBuf := (t.die die).inBuf
    let chain := inBuf.flatMap (fun v => natBits v.toNat 64)
    let quiet := r.live = .frozen ∨ (r.live = .blank ∧ x = 1)
    let ready := if x = 1 then exchange rg t else t
    let starts := fun (i : Instr) => RgStarts i c g w s t ∧ chainBusy t c w.seq = false
    -- RGREAD save
    (starts (.rgreadSave h d a g) → (t.die die).wbPages = none → r.live ≠ .frozen → RgEnds c g w s 1 t) ∧
    (∀ ps u, starts (.rgreadSave h d a g) → (t.die die).wbPages = none → r.live = .frozen → 1 < n →
      writePieces c 10 w.va.toNat (8 * n) t = (.ok ps, u) →
      RgBegins c { w with idx := 1, due := u.cycle + n - 1 } s u) ∧
    (∀ ps qs u v, starts (.rgreadSave h d a g) → (t.die die).wbPages = none → r.live = .frozen → n ≤ 1 →
      writePieces c 10 w.va.toNat (8 * n) t = (.ok ps, u) → writePieces c 10 w.va.toNat (8 * n) u = (.ok qs, v) →
      RgEnds c g w s 0 (v.modDie die (fun y => { y with outBuf := chainOf r, wbPages := some ((v.core c).csr.partition, qs) }))) ∧
    (∀ qs v, w.phase = .started → w.idx = 1 → w.due ≤ t.cycle → writePieces c 10 w.va.toNat (8 * n) t = (.ok qs, v) →
      RgRunsOn (.rgreadSave h d a g) c g w t 0
        (v.modDie die (fun y => { y with outBuf := chainOf r, wbPages := some ((v.core c).csr.partition, qs) }))) ∧
    -- RGREAD fetch
    (starts (.rgreadFetch h d a x g) → (t.die die).wbPages = none → x = 0 → r.live = .blank → RgEnds c g w s 1 t) ∧
    (starts (.rgreadFetch h d a x g) → (t.die die).wbPages = none → x = 1 → r.standby ≠ .staged → RgEnds c g w s 2 t) ∧
    (starts (.rgreadFetch h d a x g) → (t.die die).wbPages = none → there → nx = 0 →
      RgEnds c g w s 0 (t.modDie die (fun y => { y with inBuf := [] }))) ∧
    (∀ u b, starts (.rgreadFetch h d a x g) → (t.die die).wbPages = none → there → nx ≠ 0 →
      w.va.toNat % 65536 + 8 * nx ≤ 65536 → ReadAtOnce c w.va (8 * nx) t u b →
      RgEnds c g w s 0 (u.modDie die (fun y => { y with inBuf := wordsOf b }))) ∧
    -- RGREAD restore
    (starts (.rgreadRestore h d x g) → ¬ quiet → RgEnds c g w s 1 t) ∧
    (starts (.rgreadRestore h d x g) → quiet → x = 1 → r.standby ≠ .staged → RgEnds c g w s 2 t) ∧
    (starts (.rgreadRestore h d x g) → quiet → (x = 1 → r.standby = .staged) → inBuf.length ≠ nx → RgEnds c g w s 7 t) ∧
    (starts (.rgreadRestore h d x g) → quiet → (x = 1 → r.standby = .staged) → inBuf.length = nx → nx ≤ 1 →
      RgEnds c g w s 0 (ready.modRegion rg (fun r => restoreChain r chain))) ∧
    (starts (.rgreadRestore h d x g) → quiet → (x = 1 → r.standby = .staged) → inBuf.length = nx → 1 < nx →
      RgBegins c { w with idx := 1, due := t.cycle + nx - 1 } s ready) ∧
    (w.phase = .started → w.idx = 1 → w.due ≤ t.cycle →
      RgRunsOn (.rgreadRestore h d x g) c g w t 0 (t.modRegion rg (fun r => restoreChain r chain)))) ∧
  (∀ (c : Nat) (w : QWord) (s u v : State) (b e : List Byte),
    let rg := rgOf c g
    let r := s.region rg
    let p := parseImage (w.buf.take 256 ++ w.buf.drop 1792 ++ (w.buf.drop 256).take 1536)
    let good := fun (b e : List Byte) => headFields { header := b } && sigFields e
    (RgMay (.rgload h d a g) c g w s → (r.standby = .loading ∨ r.live = .pending) → RgEnds c g w s 4 s) ∧
    (RgMay (.rgload h d a g) c g w s → r.standby ≠ .loading → r.live ≠ .pending →
      w.va.toNat % 65536 + 256 ≤ 65536 → (w.va.toNat + 622400) % 65536 + 1536 ≤ 65536 →
      ReadAtOnce c w.va 256 (setStandby rg .loading {} s) u b → ReadAtOnce c (w.va + 622400) 1536 u v e → good b e = false →
      RgBegins c { w with idx := 1, due := s.cycle + 2500, buf := b ++ e } s v) ∧
    (w.phase = .started → w.idx = 1 → w.due ≤ s.cycle → 1792 ≤ w.buf.length →
      good (w.buf.take 256) ((w.buf.drop 256).take 1536) = false →
      RgRunsOn (.rgload h d a g) c g w s 5 (setStandby rg .empty {} s)) ∧
    (w.phase = .started → w.idx = 1 → w.due ≤ s.cycle → imageSize ≤ w.buf.length →
      good (w.buf.take 256) ((w.buf.drop 256).take 1536) = true →
      (authentic s p.1 p.2 = true → RgRunsOn (.rgload h d a g) c g w s (if structureOk p.1 then 0 else 6)
        (setStandby rg (if structureOk p.1 then .staged else .empty) (if structureOk p.1 then p.1 else {}) s)) ∧
      (authentic s p.1 p.2 = false → Begun (.rgload h d a g) c 3 .y w s →
        exec (.engineWordStart c 3 .y) s = .next (takeFault c 3 { runTrap 0x13 with x0 := zext g } (encode w.i) w.pc (some w.seq)
          (putWord c 3 .y { w with idx := 0, due := 0, buf := [], phase := .queued, req := 0 }
            (leaveLine rg c w.seq (setStandby rg .empty {} (setStandby rg .empty {} s))))))))

/-- ENGINE_WORD_START and WORD_RETIRE (01 R27, R31), in a core that is not frozen and whose higher strands have not faulted in this cycle:
the first queued word of an engine queue that may start runs and keeps its result, or stops with 0x08 where a register of the shared files
that it reads holds an error (05 R124); a begun word of Q, W or Y that can go on runs on; the finished word at the head of its queue, with
room for its tokens, retires in the cycle's order. -/
def Obligations.EngineEventsAct : Prop := ∀ (c k : Nat) (e : Engine) (s u : State) (w : QWord) (v : Word) (b : Bool),
  let x := s.core c
  let q := (x.strand k).queue e
  let served := serveStrand c k (specOf w.i).engine s
  let mayStart := q.find? (fun z => z.phase = .started && z.req = 0) = none ∧ q.find? (fun z => z.phase = .queued) = some w ∧
    preempting s c = false ∧ startReady x k e w = true ∧ turnOf c k e s = true ∧ (specOf w.i).late = false ∧
    racing x k (specOf w.i) w = false
  let mayRetire := q.head? = some w ∧ retirable s c k e = true
  x.frozen s.cycle = false → x.faultAbove s.cycle k = false →
    (mayStart → x.d.regBad = [] → (specOf w.i).body c k w served = .done u v b →
      exec (.engineWordStart c k e) s = .next (putWord c k e { w with phase := .done, res := v, bit := b, req := 0, paging := false } u)) ∧
    (mayStart → (readsOf w).any (fun r => x.d.regBad.contains r.key) = true →
      exec (.engineWordStart c k e) s = .next (takeFault c k (runTrap 0x08) (encode w.i) w.pc (some w.seq)
        (putWord c k e { w with phase := .queued, req := 0 } served))) ∧
    (e = .q ∨ e = .w ∨ e = .y → (specOf w.i).engine ≠ .l → q = [w] → w.phase = .started → w.req = 0 → x.d.regBad = [] →
      (e = .w → (x.strand k).st ≠ .faulted ∧ preempting s c = false) → (specOf w.i).body c k w served = .done u v b →
      ((u.core c).strand k).queue e = q →
      exec (.engineWordStart c k e) s = .next (putWord c k e { w with phase := .done, res := v, bit := b, req := 0, paging := false } u)) ∧
    (mayRetire → (specOf w.i).late = false →
      exec (.wordRetire c k e) s = .next (complete c k (specOf w.i) w w.res w.bit (s.modStrand c k (fun t => t.dropWord e w.seq)))) ∧
    (mayRetire → (specOf w.i).late = true → (specOf w.i).body c k w s = .done u v b →
      exec (.wordRetire c k e) s = .next (complete c k (specOf w.i) w v b (u.modStrand c k (fun t => t.dropWord e w.seq))))

/-- What happens to a core between its words: a deadlock of 2^16 cycles (05 R123), a correctable error and the freeze it brings (05 R118 to
R121), the end of a pause (02 R49), a page's refill (05 R116), a product's write-back (06 R130), a permit's decision (06 R147), the
crossing that a WUT waits for (22 R418). The copy engine (08 R191 to R193): an accepted transfer whose earlier words and transfers let
it starts; a started one moves its next 32 bytes, here within scratch; a finished one fills its slot. -/
def Obligations.CoreEventsAct : Prop :=
  (∀ (c k page : Nat) (bad : BitVec 64) (s : State),
    let x := s.core c
    (∀ t, x.stuck = some t → lowestBlocked x = some k → coreStuck s c = true → t + 2 ^ 16 ≤ s.cycle → x.frozen s.cycle = false →
      exec (.deadlockDetect c) s = .next (takeFault c k { code := 0x18, cls := 3 } (codeWord x k (x.strand k).pc) (x.strand k).pc none
        (s.modCore c (fun y => { y with stuck := none })))) ∧
    (x.csr.frzScope = false →
      ∃ t, exec (.correctableError c) s = .next t ∧ (t.core c).frzPend = x.frzPend ++ [s.cycle + 1] ∧
        (t.core c).csr.frzCount = (if x.csr.frzCount = 0xFFFF then 0xFFFF else x.csr.frzCount + 1) ∧ t.mem = s.mem) ∧
    (∀ n, x.frzUntil = none → x.frzPend.find? (fun t => decide (t ≤ s.cycle)) = some n →
      ∃ t, exec (.freezeBegin c) s = .next t ∧ (t.core c).frzUntil = some (s.cycle + 32) ∧ (t.core c).frzPend = x.frzPend.erase n ∧
        (∀ j < 4, ((t.core c).strand j).st = (if (x.strand j).active then .frozen else (x.strand j).st)) ∧ t.mem = s.mem) ∧
    (∀ n, x.frzUntil = some n → n ≤ s.cycle → x.held = [] → x.failHeld = [] →
      ∃ t, exec (.freezeEnd c) s = .next t ∧ (t.core c).frzUntil = none ∧
        (∀ j < 4, ((t.core c).strand j).st = (if (x.strand j).st = .frozen then (x.strand j).prior else (x.strand j).st)) ∧
        t.mem = s.mem) ∧
    (page ∈ x.d.refills → x.frozen s.cycle = false →
      ∃ t, exec (.pageRefillComplete c page true bad) s = .next t ∧
        tget .pinned (t.core c).d.pages page = (if x.preempt then .resident else .pinned) ∧
        page ∉ (t.core c).d.refills ∧ t.mem = s.mem ∧ (t.core c).d.scratch = x.d.scratch ∧
        (∀ l, l ∈ (t.core c).d.scrBad ↔ (l ∈ x.d.scrBad ∧ l / 64 ≠ page) ∨ (∃ i < 64, bad.getLsbD i = true ∧ l = page * 64 + i))) ∧
    ((x.strand k).st = .blocked → (x.strand k).reason = some .pause → (x.strand k).pauseEnd ≤ s.cycle →
      exec (.pauseEnd c k) s = .next (s.modStrand c k (fun t => { t with st := .running, reason := none }))) ∧
    (∀ w m, x.frozen s.cycle = false → x.faultAbove s.cycle 1 = false → ((x.strand 1).queue .m).find? (fun w => w.phase = .started) = some w → mulOf w.i x.d = some m →
      trapped w.trapen (multiplied c m s).2 = false →
      ∃ t, exec (.accumulatorWriteback c) s = .next t ∧ (t.core c).d.getA m.acc = (multiplied c m s).1 ∧
        (t.core c).d.mseq = x.d.mseq + BitVec.ofNat 32 m.tiles.length ∧ t.mem = s.mem) ∧
    (∀ w, mpermDue s c = some w → (∀ j < coreIdx c, mpermDue s (c - coreIdx c + j) = none) →
      exec (.permitDecision c) s = .next (finishWord c 3 w.seq (permitWord ((permitAsk c (wbits w.va 31 0) s).core c).csr)
        (permitAsk c (wbits w.va 31 0) s))) ∧
    (∀ w, wutDue s c = some w →
      exec (.wutCrossing c) s = .next (finishWord c 3 w.seq 0 (s.modStrand c 3 (fun t => { t with pauseEnd := s.cycle + 2, issueAt := some (s.cycle + 2) }))))) ∧
  (∀ (c ring slot : Nat) (s : State) (f : Xfer),
    let x := s.core c
    xferAt x.d ring slot = some f → x.frozen s.cycle = false →
      (f.started = false → preempting s c = false → f.stopped = false → f.gen = 0 →
        ((x.strand f.strand).words.any (fun w => decide (w.seq < f.seq) && w.phase ≠ .done && isAccess w.i)) = false →
        x.d.xfers.any (waitsFor f) = false →
        exec (.transferStart c ring slot) s = .next (modXfer c f.order (fun y => { y with started := true }) s)) ∧
      (f.started = true → f.fail = 0 → f.pos < f.len → f.kind = .loc → f.gen = 0 →
        ScratchOk c (f.src + word f.pos).toNat 32 s → x.d.absent (f.dst.toNat + f.pos) 32 = [] →
        (f.src + word f.pos).toNat + 32 ≤ 0x80000 →
        exec (.transferChunk c ring slot) s = .next (modXfer c f.order (fun y => { y with pos := y.pos + 32, buf := [], req := 0 })
          (s.modData c (fun y => (y.scrWrite (f.dst.toNat + f.pos) (memReadN x.d.scratch (f.src + word f.pos).toNat 32)).scrCover
            [(f.dst.toNat, f.pos + 32)])))) ∧
      (f.started = true → (f.fail ≠ 0 ∨ f.len ≤ f.pos) → f.acks = [] →
        ∃ t, exec (.slotFill c ring slot) s = .next t ∧
          tget ({} : Slot) ((t.core c).d.hoop ring).slots slot = { filled := true, code := f.fail, addr := f.failAddr } ∧
          (t.core c).d.xfers = x.d.xfers.filter (fun y => y.order ≠ f.order) ∧ t.mem = s.mem))

/-- FLIT_INJECT and FLIT_OFFER (10 R210, R214 to R217): up to 8 flits of a station enter the usable slot that arrives empty before it; an
item whose station stands before its slot is taken there, and stays in its slot where the station has no room. The home slices (10 R222,
R223, R233; 18 R349, R356, R357): a request of a slice's queue is performed, and its word finishes with the answer or stops with the trap;
one whose line has moved goes back to its core, which sends it again; a line that an access asks for comes in; the scrubber reads one, and
of a clean line that a slice holds it poisons the stack's copy; and
a VERST that has waited for 2^20 cycles stops with 0x10. -/
def Obligations.RingEventsAct : Prop :=
  (∀ (r st : Nat) (s : State) (it : Item),
    let n := slotAt s st
    let x := tget {} (s.ring r).slots n
    let fl := takeFlits ((s.ring r).slots.flatMap (fun y => y.2.items)) s.cycle 8 [] (sourceQueue s r st)
    (x.items = [] → x.left ≠ s.cycle + 1 → slotUsable s r st = true → fl.1 ≠ [] →
      (r < 96 → st < 16 → (s.core (stationCore r st)).frozen s.cycle = false) →
      exec (.flitInject r st) s = .next (setSourceQueue r st fl.2 fl.1
        (s.modRing r (fun y => { y with slots := tput y.slots n { at_ := s.cycle, items := fl.1 } })))) ∧
    (x.items = [it] → x.at_ ≠ s.cycle → goesTo s r st it = true → accepts s r st it = true →
      exec (.flitOffer r st) s = .next ((accept r st it s).modRing r (fun y => { y with
        slots := tput y.slots n { x with items := [], left := s.cycle + 1 } }))) ∧
    (x.items = [it] → x.at_ ≠ s.cycle → accepts s r st it = false →
      exec (.flitOffer r st) s = .next (s.modRing r (fun y => { y with slots := tput y.slots n x })))) ∧
  (∀ (die n c line : Nat) (s u : State) (it : Item) (q : Req) (v : Word) (e : BitVec 8),
    let x := s.modSlice die n (fun x => { x with queue := x.queue.erase it })
    let asked := nextItem s die n [] (s.slice die n).queue = some it ∧ itemReq x it = some q
    (asked → homeOf x q.pa = some (die, n) → q.kind ≠ .lay → serve x q.kind q.pa q.size q.x q.cmp = .ok u v →
      let g := finishWord q.core q.strand q.seq v (u.dropReq q.id)
      exec (.sliceAccess die n) s = .next (if q.kind.cell then answerCell q.pa g.reqs.length g else g)) ∧
    (asked → homeOf x q.pa = some (die, n) → q.kind ≠ .lay → serve x q.kind q.pa q.size q.x q.cmp = .fail e →
      exec (.sliceAccess die n) s = .next (failWord q.core q.strand q.seq (reqTrap q.kind e (reqAddr x q)) (x.dropReq q.id))) ∧
    (asked → homeOf x q.pa = some (die, n) → q.kind ≠ .lay → serve x q.kind q.pa q.size q.x q.cmp = .wait →
      exec (.sliceAccess die n) s = .next { x.dropReq q.id with reqs := (x.dropReq q.id).reqs ++ [{ q with since := some x.cycle }] }) ∧
    (asked → homeOf x q.pa = some (die, n) → q.kind = .lay → exec (.sliceAccess die n) s = .next (performLay q x)) ∧
    (asked → homeOf x q.pa ≠ some (die, n) →
      exec (.sliceAccess die n) s = .next ((x.modReq q.id (fun q => { q with bounced := true, code := 0x19 })).modDie die
        (fun y => { y with rehome := y.rehome + 1 }))) ∧
    (∀ id, s.findReq id = some q → q.core = c → q.bounced = true → (s.core c).frozen s.cycle = false → (s.core c).injRoom = true →
      (∀ p ∈ s.reqs, p.core = c → p.bounced = true → p.id < id → sameLine p q = false) →
      exec (.rehomeResend c id) s = .next ((s.modReq id (fun q => { q with bounced := false, home := homeOf s q.pa })).modCore c
        (fun y => { y with inj := y.inj ++ [reqItem s c q.pa id] }))) ∧
    (∀ victim err, stackLine line = true → lineHeld s line = false → homeReady s (line * 256) = some true →
      homeOf s (line * 256) = some (die, n) → (lineAsked s die n line = true ∨ lineCopied s line = true) →
      exec (.sliceMissFill line victim err) s = .next ((State.fillBad line (readError line err s)).modSlice die n
        (·.insert line s.cycle victim false))) ∧
    (∀ err, stackLine line = true → lineHeld s line = false → (s.die (bits (line * 256) 38 36)).stack = .ok →
      ∃ t, exec (.patrolScrub line err) s = .next t ∧ (t.die (bits (line * 256) 38 36)).scrubAt = line ∧ t.mem = s.mem ∧
        (line ∈ t.poison ↔ (line ∈ s.poison ∨ err = .uncorrectable)) ∧
        (t.die (bits (line * 256) 38 36)).stackErrs
          = (s.die (bits (line * 256) 38 36)).stackErrs + (if err = .correctable then 1 else 0)) ∧
    (stackLine line = true → lineHeld s line = true → lineDirty s line = false → (s.die (bits (line * 256) 38 36)).stack = .ok →
      ∃ t, exec (.patrolScrub line .uncorrectable) s = .next t ∧ line ∈ t.badCopy ∧ t.poison = s.poison ∧ t.mem = s.mem) ∧
    (∀ id since, s.findReq id = some q → q.since = some since → q.kind = .verst → since + 2 ^ 20 ≤ s.cycle →
      exec (.verstStallTimeout id) s = .next (failWord q.core q.strand q.seq { code := 0x10, cls := 2, addr := reqAddr s q } (s.dropReq id))))

/-- A walk of a core's context that succeeds leaves its translation in the cache, one of at most 256 entries, and the upper entries in the
walk cache of its slice (18 R344, R347); the oldest WBR or INVR walks the next page of its range, and a range of length 0 is finished (10
R230). Folds (19 R373): the next tile of an active
fold is summed over its folded layers and written to the target at its place of the tile order; after the last, the handle takes the
target as its base, its old base as its target, drops the folded layers, and its generation rises by one. -/
def Obligations.TranslationEventsAct : Prop :=
  (∀ (c : Nat) (va : Word) (s : State),
    (∀ pa leaf b u, sliceWalk s true (s.core c).csr.partition va.toNat = (.ok pa leaf b, u) →
      ∃ t, exec (.translationWalkDone c va) s = .next t ∧ t.mem = s.mem ∧ t.slices = u.slices ∧
        (t.core c).tlb.head? = some (tlbEntry (s.core c).csr.partition va.toNat pa leaf b) ∧ (t.core c).tlb.length ≤ 256) ∧
    (∀ o, (s.core c).d.wbOps.find? (fun o => !o.fin) = some o → (s.core c).frozen s.cycle = false →
      let set := fun (f : WbOp → WbOp) (s : State) =>
        s.modData c (fun x => { x with wbOps := x.wbOps.map (fun p => if p.order = o.order then f p else p) })
      (o.len = 0 → exec (.wbrInvrFinish c) s = .next (set (fun p => { p with fin := true }) s)) ∧
      (∀ pa lf sz u, 0 < o.len → o.base.toNat < 2 ^ 48 → coreXlat s c (coreAccess s c) o.base.toNat = (.ok pa lf sz, u) → homed pa →
        let m := Nat.min o.len (65536 - o.base.toNat % 65536)
        let r := walkLines o.inval pa m u
        rangeReady u pa m = true →
        exec (.wbrInvrFinish c) s = .next (set (fun p => { p with base := p.base + word m, len := p.len - m, fin := p.len = m })
          (r.2.modData c (fun x => { x with wbCount := x.wbCount + word r.1 })))))) ∧
  (∀ (pa : Nat) (s : State) (f : Fold), tget {} s.folds pa = f → f.active = true →
    let g := Handle.parse f.snap
    (∀ b v, f.tile < g.tr * g.tc →
      sumTile s { q := { ctx := f.ctx, sup := f.sup } } g f.k (morton (f.tile / g.tc) (f.tile % g.tc)) = .ok b →
      virtWrite s { ctx := f.ctx, sup := f.sup } (g.target + morton (f.tile / g.tc) (f.tile % g.tc) * 2048) b = .ok v →
      exec (.foldTile pa) s = .next (setFold pa { f with tile := f.tile + 1 } v)) ∧
    (∀ h, g.tr * g.tc ≤ f.tile → rangeReady s pa 64 = true → s.poisoned pa 64 = false → handleAt s pa = h → h.malformed = false →
      exec (.foldSwap pa) s = .next (setFold pa { f with active := false, code := 0 } (putHandle pa { h with
        base := h.target, dir := 0, target := if h.dir = 0 then h.base else 0
        ptrs := h.ptrs.drop f.k ++ List.replicate f.k 0, count := h.count - f.k, gen := h.gen + 1 } s))))

/-- One edge of a region (13 R260, R262 to R265, R267): what is sampled before the edge happens at it: the flops and RAM blocks take their
next values, a withy moves its entries, and a beat transfers between a lane and its tile port. A FIFO crossing makes the changes of two
cycles ago or more seen on the other side. The flops' next values are those of the state before the edge. What happens to a region between
its edges (13 R262, 14 R285, R287): a pending swap holds its ports from an edge at the boundary, and 64 cycles later the planes change
places at an edge of the new clock; a RAM error at an edge counts where it is corrected, and otherwise freezes the region and latches cause
5 on its ports; the out buffer's chunks reach memory and wbp clears. -/
def Obligations.RegionEventsAct : Prop :=
  (∀ (rg : Nat) (s : State),
    let u := sampleEdge rg s
    let x := regionEnv s rg
    (∀ e, (u.region rg).edge = some e → e.at_ = u.cycle →
      (e.clock = true → exec (.regionClockEdge rg) s = .next (u.modRegion rg (fun r => { r with
        flops := e.flops.foldl (fun t p => tput t p.1 p.2) r.flops, ram := e.ram, ramOut := e.ramOut
        edge := some { e with clock := false } }))) ∧
      (∀ w o, e.withies.find? (fun o => o.w = w) = some o →
        exec (.withyTransfer rg w) s = .next (u.modRegion rg (fun r => { r with
          withies := tput r.withies w { entries := (if o.take then (tget {} r.withies w).entries.drop 1 else (tget {} r.withies w).entries)
            ++ o.put.toList }
          edge := some { e with withies := e.withies.filter (fun p => p.w ≠ w) } }))) ∧
      (∀ k o, e.lanes.find? (fun o => o.k = k && o.egress = false) = some o →
        ∃ t, exec (.beatTransfer rg k false) s = .next t ∧ t.mem = u.mem ∧
          (t.core (laneTile rg k).1).d.port (inPort (laneTile rg k).2)
            = ((u.core (laneTile rg k).1).d.port (inPort (laneTile rg k).2)).put u.cycle o.beat ∧
          (tget {} (t.region rg).lanes k).lastIn = some o.beat.flag) ∧
      (∀ k o, e.lanes.find? (fun o => o.k = k && o.egress = true) = some o →
        ∃ t, exec (.beatTransfer rg k true) s = .next t ∧ t.mem = u.mem ∧
          (t.core (laneTile rg k).1).d.port (outPort (laneTile rg k).2)
            = ((u.core (laneTile rg k).1).d.port (outPort (laneTile rg k).2)).pop u.cycle ∧
          (tget {} (t.region rg).lanes k).lastOut = some o.beat.flag)) ∧
    (edgeDue s (s.region rg) = true → (s.region rg).edge = none → swapHold s (s.region rg) = false →
      (∀ k < 8, (laneIn (tget {} (s.region rg).lanes k) (laneOffer x k) (x.ready k)).2.1 = none) →
      ∃ e, (u.region rg).edge = some e ∧ e.at_ = s.cycle ∧ e.clock = true ∧
        e.flops = (x.img.frames.flatMap (fun f => if f.1 < 4096 then (List.range 4).map (fun i => 4 * f.1 + i) else [])).flatMap
          (fun e => if x.img.elem e = 0 then [] else [(2 * e, flopNext x e 0), (2 * e + 1, flopNext x e 1)])
          ++ (x.reg.flops.filter (fun p => x.img.elem (p.1 / 2) = 0)).map (fun p => (p.1, false))) ∧
    (∀ c p, exec (.fifoCrossing c p) s = .next (s.modData c (fun d => d.setPort p { d.port p with
      enter := (d.port p).enter.filter (fun e => decide (s.cycle < e + 2))
      freed := (d.port p).freed.filter (fun e => decide (s.cycle < e + 2)) })))) ∧
  (∀ (rg die : Nat) (s : State),
    let r := s.region rg
    (r.live = .pending → r.swapAt = none → s.cycle % divider r.clk.toNat = 0 → edgePending s rg = false → atBoundary r = true →
      exec (.swapBoundary rg) s = .next (s.modRegion rg (fun r => { r with swapAt := some s.cycle }))) ∧
    (∀ e, r.live = .pending → r.swapAt = some e → e + 64 < s.cycle → s.cycle % divider (r.stby.hdr 7 1) = 0 →
      exec (.planeExchange rg) s = .next (finishRg r.swapper 0 (s.modRegion rg (fun r =>
        { (r.makeLive r.stby .running) with standby := .staged, stby := r.img, swapper := none })))) ∧
    (edgeMade s r rg = true → exec (.regionRamError rg false) s
      = .next (s.modRegion rg (fun r => { r with ecount := Nat.min (r.ecount + 1) 0xFFFF }))) ∧
    (edgeMade s r rg = true → exec (.regionRamError rg true) s
      = .next ((List.range 8).foldl (fun s k => latchCause (laneTile rg k).1 (outPort (laneTile rg k).2) 5
          (latchCause (laneTile rg k).1 (inPort (laneTile rg k).2) 5 s))
          ((cancelSwap rg s).modRegion rg (fun r => { r with live := .frozen, err := true })))) ∧
    (∀ ctx a n, (s.die die).wbPages = some (ctx, [(a, n)]) → rangeReady s a n = true →
      exec (.saveWritebackDone die) s = .next ((writeAny ctx a ((chainBytes (s.die die).outBuf).take n) s).modDie die
        (fun x => { x with wbPages := none }))))

/-- Work queues (16 R297, R300, R301, R304 to R309): a queue-table entry keeps its writable bits, and nothing writes one while the boot
sequence has halted (26 R443); a published packet of an active entry with a valid descriptor is accepted where no entry of a lower number
has one, its done bit cleared and the queue's accepted index moved on by one; an invalid descriptor makes the entry inactive with code 0x02;
the central copy engine moves the next row of a packet and ends it with code 0 after the last, or at the row that fails with that row's
code; the oldest packet of a queue, once it has ended and what it sent out is acknowledged, gets its completion record on its own queue's
ring. The load block (23 R427, R428): a write of go swaps the object's load stamp from 0 to 2 and the load runs, and a stamp that is not 0
ends it with reason 11; when every check of the object passes its relocations are applied, its stamp becomes 1 and the reason is 0; a check
that fails gives its reason and offset, and the note that was raised before it, with the stamp at 0 again. A leaf whose operand word is met
becomes ready (16 R311). -/
def Obligations.PacketEventsAct : Prop :=
  (∀ (die e : Nat) (x : Word) (s : State),
    let tab := tget 0 (s.die die).qtab e
    let pa := descAddr tab
    let u := startPackets die s
    let q := readDesc u pa
    let slot := q.ring + 64 * (q.stamp % q.size)
    let own := [5, die, e]
    (e < 64 → s.pkg.bootCode = 0 → ∃ t, exec (.queueTableWrite die e x) s = .next t ∧ t.mem = s.mem ∧
      (t.die die).qtab = tput (s.die die).qtab e (x &&& 0xFFFFFFFFFFFFFFC3#64) ∧ t.pkg.devLock = (s.pkg.devLock || x.getLsbD 0)) ∧
    (s.pkg.bootCode ≠ 0 → exec (.queueTableWrite die e x) s = .next s) ∧
    (∀ b v, tab.getLsbD 0 = true → (u.die die).acceptNext ≤ u.cycle → rangeReady u pa 64 = true →
      descOk u pa = true → q.stamp < q.wi → (q.stamp + 2 ^ 64 - q.cri) % 2 ^ 64 < q.size →
      objRead u { ctx := q.ctx, sup := true, own := own } slot 64 = .ok b → (∀ k < e, canAccept u die k = false) →
      let hd := word (leNat (b.take 8))
      hd.getLsbD 63 = true → wbits hd 47 0 = q.stamp % 2 ^ 48 → virtWrite (dropAsks own u) q.access slot (leBytes 8 (wbits hd 62 0)) = .ok v →
      let t := writeBytes v (pa + 16) (leBytes 8 (q.stamp + 1))
      exec (.packetAccept die e) s = .next (startPackets die (t.modDie die (fun y => { y with
        packets := y.packets ++ [{ id := (t.die die).packetNext, tab := tab, entry := e, n := word q.stamp, header := word (wbits hd 62 0)
                                   body := b.drop 8, accepted := t.cycle
                                   issuer := BitVec.ofNat 16 (leNat ((b.drop 46).take 2)), ctx := q.ctx }]
        packetNext := y.packetNext + 1, acceptNext := t.cycle + 1, scanAt := (e + 1) % 64 })))) ∧
    (tab.getLsbD 0 = true → (u.die die).acceptNext ≤ u.cycle → rangeReady u pa 64 = true → descOk u pa = false →
      exec (.packetAccept die e) s = .next (u.modDie die (fun y => { y with
        qtab := tput y.qtab e (tab &&& ~~~1#64), qcode := tput y.qcode e 0x02 }))) ∧
    (∀ k p, (runningCopies (s.die die))[k]? = some p →
      (p.rows ≤ p.row → exec (.copyPacketRow die k) s = .next (startPackets die (endCopy die p 0 false s))) ∧
      (∀ v, p.row + 1 < p.rows → moveRow die p s = .ok v → exec (.copyPacketRow die k) s = .next v) ∧
      (∀ v r, p.row + 1 = p.rows → moveRow die p s = .ok v → (v.die die).packets.find? (fun r => r.id = p.id) = some r →
        exec (.copyPacketRow die k) s = .next (startPackets die (endCopy die r 0 false v))) ∧
      (∀ c, p.row < p.rows → moveRow die p s = .error (some c) → exec (.copyPacketRow die k) s = .next (startPackets die (endCopy die p c true s)))) ∧
    (∀ p v, nextRecord (s.die die) e = some p → (∀ o ∈ packetOwns die p, peersDone s o = true ∧ hostDone s o = true) →
      let d := readDesc s p.queue
      virtWrite s { ctx := p.ctx, sup := true } (d.comp + 16 * (p.n.toNat % d.size)) (recordBytes p s.cycle) = .ok v →
      let g := v.modDie die (fun y => { y with packets := y.packets.filter (fun r => !(r.id = p.id))
                                               launches := y.launches.filter (fun l => !(some l.stamp.toNat = p.launch)) })
      exec (.completionRecordWrite die e) s = .next (wake die (startPackets die
        (if p.irq then sendMsix (packetVector (v.die die) die p) g else g))))) ∧
  (∀ (die : Nat) (s : State),
    let a := (s.die die).crown.ldObj.toNat
    let q : Access := { ctx := 0, sup := true, own := [4, die] }
    let g := s.modDie die (fun y => { y with crown := { y.crown with ldGo := true } })
    (∀ b v, (s.die die).crown.ldRun = false → objRead g q (a + 56) 8 = .ok b → leNat b = 0 → putStamp die 2 g = .ok v →
      exec (.loadGo die) s = .next ((dropAsks q.own v).modDie die (fun y => { y with crown := { y.crown with ldRun := true } }))) ∧
    (∀ b, (s.die die).crown.ldRun = false → objRead g q (a + 56) 8 = .ok b → leNat b ≠ 0 →
      ∃ t, exec (.loadGo die) s = .next t ∧ (t.die die).crown.ldReason = 11 ∧ (t.die die).crown.ldGo = false ∧ t.mem = s.mem) ∧
    (∀ b b' l v t, (s.die die).crown.ldRun = true → loadHead s q a = .ok b → loadRead s q a [(objHeader b).notes] b = .ok b' →
      loadTail s q a b' = .ok l → applyRelocs a l s = .ok v → putStamp die 1 v = .ok t →
      exec (.loadComplete die) s = .next (forgetText (objTag s q a) (endLoad die 0 (objNote b') 0 t))) ∧
    (∀ r o, (s.die die).crown.ldRun = true → loadHead s q a = .error (some (r, o)) →
      exec (.loadComplete die) s = .next (failLoad die r false o s)) ∧
    (∀ b b' r o, (s.die die).crown.ldRun = true → loadHead s q a = .ok b → loadRead s q a [(objHeader b).notes] b = .ok b' →
      loadTail s q a b' = .error (some (r, o)) → exec (.loadComplete die) s = .next (failLoad die r (objNote b') o s)) ∧
    (∀ l n, (s.die die).launches = [l] → s.asks = [] → l.nodes = [n] → l.abort = none → n.kind.leaf = true → n.st = .waiting →
      l.leafMayStart 0 = true → operandMet s l n = .ok true →
      exec (.operandWordPoll die) s = .next (s.modNode ⟨die, l.stamp.toNat, 0⟩
        (fun n => { n with st := .ready, readyAt := s.cycle, ageFrom := s.cycle }))))

/-- The life of a node (01 R30, 16 R312 to R316, 17 R332 to R334, 23 R428, R429): text rewritten, placed, dispatched, pre-empted, saved,
resumed, complete; a launch whose object is not loaded ends with 0x02 at its first dispatch. -/
def Obligations.NodeEventsAct : Prop := ∀ (die launch node : Nat) (s : State) (n : Node) (l : Launch),
  let r : NodeRef := ⟨die, launch, node⟩
  let u := unitOf s r
  let t := dropAsks l.reads.own s
  nodeOf s r = some n → launchOf s r = some l →
  (n.st = .ready → n.ageFrom + 2 ^ 20 ≤ s.cycle → exec (.priorityAging die launch node) s = .next (s.modNode r (fun n => { n with
    own := Nat.min 3 (n.own + 1), ageFrom := s.cycle }))) ∧
  (∀ b, n.st = .ready → l.abort = none → isNext s r = true → (∀ x ∈ u, clustersAllowed s l x.2 = true) → unitText s l u = .ok b →
    exec (.textRewrite die launch node) s = .next (u.foldl (fun s' x =>
      (x.2.cores_.foldl (fun s' c => writeText x.1 b l.object (objTag s' l.reads l.object.toNat) c s') s').modNode x.1
        (fun n => { n with st := .reserved })) t)) ∧
  (∀ v, (poolOf s die (· = .reserved)).head? = some (r, l, n) → liveUnit l u s = (.ok v, none) →
    let w := dropAsks l.reads.own v
    exec (.nodePlace die) s = .next (bindPorts (u.foldl (fun t x =>
      (installTable launch (launchTable w l) x.2 t).modNode x.1 (fun n => { n with st := .placed, ctxDue := t.cycle + 12 })) w))) ∧
  (∀ b args v, n.st = .placed → n.ctxDue ≤ s.cycle → u = [(r, n)] → n.kind = .tile → n.replay = false → stampOf s l = .ok v →
    objWith s l.reads l.object.toNat objMaps = .ok b → objRead s l.reads n.arg.toNat 64 = .ok args →
    (l.fresh = false ∨ v = 1 →
      exec (.dispatch die launch node) s = .next (wake die (bindPorts ((n.cores_.foldl (fun s c =>
        s.modCore c (dispatchCore r l n (wordsOf args) (argMap b (objHeader b)))) t).modNode r
          (fun n => { n with st := .running, fireAt := none }))))) ∧
    (l.fresh = true → v ≠ 1 → exec (.dispatch die launch node) s = .next (abortLaunch die launch 0x02 t))) ∧
  (let occ := u.flatMap (fun x => occupants s x.2)
   (n.st = .ready ∨ n.st = .saved) → (∀ x ∈ u, x.2.st = n.st) → (∃ x ∈ occ, x.2.2.st = .running) →
    (∀ x ∈ occ, preemptible s x = true ∧ effPrio s (prioFuel s) x.1 < effPrio s (prioFuel s) r) →
    exec (.preemptDecision die launch node) s = .next (decideFor r (occ.map (·.1)) s)) ∧
  (∀ c, n.st = .saving → n.ctxDue ≤ s.cycle → n.cores_ = [c] → (s.core c).frozen s.cycle = false → (s.core c).preempt = false →
    (s.core c).ending = none → (s.core c).record = none →
    exec (.preemptSignal die launch node) s = .next (returnPermit c ((cancelSwaps c s).modCore c (fun x => { x with
      preempt := true, stuck := none, d := x.d.unpin, shadow := x.shadow.preempted
      strands := x.strands.map (fun t => (t.1, t.2.preempted)) })))) ∧
  (let cs := u.flatMap (fun x => x.2.cores_)
   let v := cs.foldl (fun s c => if (s.core c).preempt then withdrawCells c s else s) s
   n.st = .saving → (∀ x ∈ u, ∃ t, x.2.fireAt = some t ∧ t ≤ v.cycle) → (∀ c ∈ cs, savable (v.core c) = true) →
    exec (.contextSaved die launch node) s = .next (bindPorts (sweepTables (u.foldl (fun t x =>
      if x.2.kind = .weave then saveOperator x.1 x.2 t
      else t.modNode x.1 (fun n => { n with st := .saved, fireAt := none, ageFrom := t.cycle })) v)))) ∧
  (n.st = .resuming → exec (.nodeResume die launch node) s = .next (resumeStrands u s)) ∧
  (n.kind = .tile → n.st = .running → (∀ c ∈ n.cores_, (s.core c).ending = none) → (∃ t, n.fireAt = some t ∧ t ≤ s.cycle) →
    (canComplete s r n = true → exec (.haltTreeFire die launch node) s = .next (completeNode r s)) ∧
    (canComplete s r n = false → exec (.haltTreeFire die launch node) s = .next (n.cores_.foldl (fun s c => flushCore c s) s)))

/-- A sync root (12 R248, R250, R254): an arrival that is not the last of a barrier is counted; the last one resets the count, adds one to
the epoch and sends the release, which takes effect at the members after the latency of the level; a returned credit frees an entry of
its member's broadcasts; a member's fault signal breaks the domain. A signal from a root takes effect at a member that is neither frozen
nor pre-empted (12 R248, R250, R251, R253, R254): a release finishes the BAR.W that waits, after the pending arrival is cleared and the
epoch written; a result finishes the RED; a broadcast's word goes to the level's latch; an event finishes the WFE, or sets the latch,
and is merged with one of the same cycle that a WFE has taken; a break stops the word that waits with 0x15, class 3. -/
def Obligations.SyncEventsAct : Prop :=
  (∀ (root n c t : Nat) (s : State),
    let x := s.slot root n
    x.installed = true → x.broken = false → x.level < 3 → t ≤ s.cycle →
    (x.up = [(t, .arrive c)] → x.redOp = none → x.waiting = [] → (∀ m ∈ x.members, m ∈ x.arrived ++ [c]) →
      ∃ u, exec (.syncArrival root n) s = .next u ∧ (u.slot root n).arrived = [] ∧ (u.slot root n).epoch = x.epoch + 1 ∧
        (u.slot root n).up = [] ∧ (u.slot root n).down = x.down ++ [(s.cycle + downLat root, .release (x.epoch + 1).toNat false)] ∧
        u.mem = s.mem ∧ u.cores = s.cores) ∧
    (x.up = [(t, .arrive c)] → x.redOp = none → x.waiting = [] → (∃ m ∈ x.members, m ∉ x.arrived ++ [c]) → x.contribs = [] →
      ∃ u, exec (.syncArrival root n) s = .next u ∧ (u.slot root n).arrived = x.arrived ++ [c] ∧ (u.slot root n).epoch = x.epoch ∧
        (u.slot root n).down = x.down ∧ u.mem = s.mem ∧ u.cores = s.cores) ∧
    (x.up = [(t, .credit c)] → x.waiting = [] →
      ∃ u, exec (.broadcastCreditReturn root n) s = .next u ∧ (u.slot root n).used = tput x.used c (tget 0 x.used c - 1) ∧
        (u.slot root n).up = [] ∧ (u.slot root n).down = x.down ∧ u.mem = s.mem ∧ u.cores = s.cores) ∧
    (x.up = [(t, .fault c)] → x.redOp = none →
      ∃ u, exec (.syncFaultSignal root n) s = .next u ∧ (u.slot root n).broken = true ∧ (u.slot root n).up = [] ∧
        (u.slot root n).down = x.down ++ [(s.cycle + downLat root, .broken)] ∧ u.mem = s.mem ∧ u.cores = s.cores)) ∧
  (∀ (root n c t : Nat) (s : State) (w : QWord),
    let x := s.slot root n
    let u := s.modSlot root n (fun x => { x with down := [] })
    let y := s.core c
    x.members = [c] → t ≤ s.cycle → memberOf y x.level n = true → coreHeld s c = false →
    (∀ e m, x.down = [(t, .release e false)] → mergeCopies (fun y => y.level = x.level && x.members.any (fun c => c % 2048 = y.issuer)) s = m →
      m.cores = s.cores → m.sync = s.sync → m.cycle = s.cycle → waitingWord y (barWaiting x.level) = some w →
      exec (.barrierRelease root n) s = .next (finishWord c 3 w.seq 0 ((m.modSlot root n (fun x => { x with down := [] })).modCore c
        (fun y => { y with pend := y.pend &&& ~~~(1#4 <<< x.level)
                           csr := { y.csr with dom := tmod {} y.csr.dom x.level (fun d => { d with epoch := BitVec.ofNat 16 e }) } })))) ∧
    (∀ v, x.down = [(t, .result v)] → waitingWord y (redWaiting x.level) = some w →
      exec (.reductionResult root n) s = .next (finishWord c 3 w.seq v u)) ∧
    (∀ v, x.down = [(t, .bcast v)] →
      exec (.broadcastDelivery root n) s = .next (u.modCore c (fun y => { y with latches := tmod [] y.latches x.level (· ++ [v]) }))) ∧
    (∀ src, x.down = [(t, .event src)] → c ≠ src → (y.markAt s.cycle).wfe = false → waitingWord y wfeWaiting = some w →
      exec (.eventDelivery root n) s = .next (finishWord c 3 w.seq 0 (u.modCore c (·.tookEvent s.cycle)))) ∧
    (∀ src, x.down = [(t, .event src)] → c ≠ src → (y.markAt s.cycle).wfe = false → waitingWord y wfeWaiting = none →
      exec (.eventDelivery root n) s = .next (u.modCore c (fun y => { y with evt := true }))) ∧
    (∀ src, x.down = [(t, .event src)] → c ≠ src → (y.markAt s.cycle).wfe = true → exec (.eventDelivery root n) s = .next u) ∧
    (x.down = [(t, .broken)] →
      waitingWord y (syncWaiting x.level) = some w →
      exec (.brokenVerdict root n) s = .next (failWord c 3 w.seq { code := 0x15, cls := 3 } u)))

/-- The control window's registers that act when they are written (18 R346, R352; 22 R405; 26 R443): an invalidation drops every cached
translation of the context that its range meets, in cores and slices, and ends when no access of the context is left under way; a carve-out
grows or shrinks while its slice's domains are inactive or quiesced, and is refused otherwise; dev.id is written until it is locked. The
host (22 R404 to R408): an access of the physical function inside the 512 GiB window is performed at the home slices; a poisoned write is
discarded and logged; an atomic operation is one access; unmasking a vector sends what was held; a completion finishes the waiting word with
its data, and one that does not come in 50 ms stops it with 0x08. -/
def Obligations.HostEventsAct : Prop :=
  (∀ (die n off : Nat) (x : Word) (s : State), s.pkg.bootCode = 0 →
    let r := (s.die die).crown
    (r.tibRun = false →
      ∃ t, exec (.invalidationRequest die) s = .next t ∧ t.mem = s.mem ∧ (t.die die).crown.tibGo = true ∧
        (∀ c, (t.core c).tlb = (s.core c).tlb.filter (fun e => !e.meets r)) ∧
        ∀ d k, (t.slice d k).walks = (s.slice d k).walks.filter (fun e => !e.meets r)) ∧
    (r.tibRun = true → (∀ c ∈ s.cores, usesOld s r c.1 c.2 = false) →
      exec (.invalidationDone die) s = .next (s.modDie die (fun y => { y with crown := { y.crown with tibGo := false, tibRun := false } }))) ∧
    (wbits x 3 0 ≤ 7 → carveFree s die n = true →
      ∃ t, exec (.carveWrite die n x) s = .next t ∧ (t.slice die n).carve.toNat = wbits x 3 0 ∧ (t.slice die n).carveErr = false ∧
        t.cores = s.cores ∧ (∀ a, memRead t.mem a = (let old := (s.slice die n).carve.toNat
          if carveBase die n + Nat.min old (wbits x 3 0) * 2 ^ 20 ≤ a ∧ a < carveBase die n + Nat.max old (wbits x 3 0) * 2 ^ 20
          then 0 else memRead s.mem a))) ∧
    (7 < wbits x 3 0 ∨ carveFree s die n = false →
      exec (.carveWrite die n x) s = .next (s.modSlice die n (fun y => { y with carveErr := true }))) ∧
    (s.pkg.devLock = false → exec (.devIdWrite x) s = .next { s with pkg := { s.pkg with devId := x.setWidth 20 } }) ∧
    (s.pkg.devLock = true → exec (.devIdWrite x) s = .next s) ∧
    (off ≠ 0x3080 → exec (.registerWrite die off x) s = .next (crownWrite die off x true s)) ∧
    (n < 64 → exec (.registerWrite die (0x1000 + 8 * n) x) s = .next { s with pkg := { s.pkg with tree := tput s.pkg.tree n x } }) ∧
    (n < 192 → exec (.registerWrite die (0x2000 + 8 * n) x) s = .next { s with pkg := { s.pkg with peer := tput s.pkg.peer n x } })) ∧
  (∀ (port addr : Nat) (data : List Byte) (s : State), s.pkg.bootCode = 0 →
    (addr + data.length ≤ 2 ^ 39 → rangeReady s addr data.length = true → rangeLost s addr data.length = false →
      exec (.hostWrite port 0 addr data false) s = .next (writeBytes s addr data)) ∧
    (∀ fn, ∃ t, exec (.hostWrite port fn addr data true) s = .next t ∧ t.mem = s.mem ∧ t.poison = s.poison ∧
      tget 0 t.pkg.hostErrs (port * 32 + fn) = tget 0 s.pkg.hostErrs (port * 32 + fn) + 1) ∧
    (∀ n, addr + n ≤ 2 ^ 39 → rangeReady s addr n = true →
      exec (.hostRead port 0 addr n) s = .next ((readBytes s addr n).2.1.answered
        (if (readBytes s addr n).1.isSome then memReadN s.mem addr n else (readBytes s addr n).2.2) (readBytes s addr n).1.isSome)) ∧
    (∀ size op x cmp u v, size = 4 ∨ size = 8 → addr % size = 0 → addr + size ≤ 2 ^ 39 →
      serveAmo s (hostOpCode op) addr size x (word (cmp.toNat % 2 ^ (8 * size))) = .ok u v →
      exec (.hostAtomicop port 0 addr size op x cmp) s = .next (u.answered (leBytes size v.toNat) false)) ∧
    (∀ fn vec, ∃ t, exec (.msixVectorUnmask fn vec) s = .next t ∧ fn * 2048 + vec ∈ t.pkg.msixOpen ∧
      fn * 2048 + vec ∉ t.pkg.msixPend ∧ t.pkg.msixSent = s.pkg.msixSent ++ s.pkg.msixPend.filter (· = fn * 2048 + vec) ∧ t.mem = s.mem) ∧
    (∀ id r q, s.pkg.hostReqs.find? (fun r => r.id = id && !r.write) = some r → 0 < r.size → data.length = r.size → s.findReq id = some q →
      q.kind ≠ .store → (((s.core q.core).strand q.strand).queue .y).any (fun w => w.seq = q.seq) = false →
      exec (.hostCompletion id true data) s
        = .next (finishWord q.core q.strand q.seq (word (leNat (data.take q.size))) ((dropHost id s).dropReq q.id))) ∧
    (∀ id r q, s.pkg.hostReqs.find? (fun r => r.id = id && !r.write) = some r → 0 < r.size → r.at_ + 90000000 ≤ s.cycle → s.findReq id = some q →
      q.kind ≠ .store → (((s.core q.core).strand q.strand).queue .y).any (fun w => w.seq = q.seq) = false →
      exec (.hostCompletionTimeout id) s = .next (failWord q.core q.strand q.seq
        (reqTrap q.kind 0x08 (reqAddr ((dropHost id s).dropReq q.id) q)) ((dropHost id s).dropReq q.id))))

/-- Stream links (22 R410 to R414): a peer's write, read and message, for which the ring's endpoint has room, a credit, which lets a beat
that waits go (how many may be under way is a free number, log entry 80), and a token's arrival and forwarding; a late beat is counted; a
link reset trains the link again. -/
def Obligations.LinkEventsAct : Prop := ∀ (link ch : Nat) (late : Bool) (s : State), s.pkg.bootCode = 0 →
  let u := countLate link late s
  (∀ pa b, rangeReady s pa b.length = true → rangeLost s pa b.length = false → pa + b.length ≤ 2 ^ 39 →
    exec (.linkBeatArrival link ch late (.write pa b)) s = .next (reply link true [] (writeBytes u pa b))) ∧
  (∀ pa n v b, rangeReady s pa n = true → pa + n ≤ 2 ^ 39 → readBytes u pa n = (none, v, b) →
    exec (.linkBeatArrival link ch late (.read pa n)) s = .next (reply link true b v)) ∧
  (∀ c v tag src l n m, (tget [] (s.ring (96 + link / 4)).bridge 16).length < 64 →
    exec (.linkBeatArrival link ch late (.message c v tag src l n m)) s = .next (linkMessage link c v tag src l n m u)) ∧
  (∀ c v tag src l n m, 64 ≤ (tget [] (s.ring (96 + link / 4)).bridge 16).length →
    exec (.linkBeatArrival link ch late (.message c v tag src l n m)) s = .next s) ∧
  (∀ c l n m, exec (.linkBeatArrival link ch late (.accepted c l n m)) s = .next (freeSender c l n m u)) ∧
  (∀ n, (∀ x ∈ (s.link link).wait, x.1 ≠ ch) → ∃ t, exec (.linkBeatArrival link ch late (.credit n)) s = .next t ∧
    tget 0 (t.link link).credits ch = tget 0 (s.link link).credits ch - n ∧
    (t.link link).out.filter (fun x => x.1 = ch) = ((s.link link).out.filter (fun x => x.1 = ch)).drop n ∧
    (t.link link).wait = (s.link link).wait ∧ t.mem = s.mem ∧ t.cores = s.cores ∧
    (t.link link).late = (s.link link).late + (if late then 1 else 0)) ∧
  (∀ n m, (s.link link).wait = [(ch, m)] → tget 0 (s.link link).credits ch - n < Config.linkCredits ch →
    ∃ t, exec (.linkBeatArrival link ch late (.credit n)) s = .next t ∧ (t.link link).wait = [] ∧ (ch, m) ∈ (t.link link).out ∧
      tget 0 (t.link link).credits ch = tget 0 (s.link link).credits ch - n + 1) ∧
  (∀ slot kind began data, ∃ t, exec (.linkBeatArrival link ch late (.token slot kind began data)) s = .next t ∧
    (t.link link).hold = (s.link link).hold ++ [(began + 16 + (s.link link).f.toNat, .token slot kind began data)] ∧ t.mem = s.mem ∧
    (t.link link).late = (s.link link).late + (if late || decide (began + 16 + (s.link link).f.toNat < s.cycle) then 1 else 0)) ∧
  (∀ t n kind began data after, heldToken s (s.link link) = some (t, n, kind, began, data) → t + after = s.cycle →
    exec (.treeTokenForward link after) s = .next (tokenIn link n kind data
      (s.modLink link (fun l => { l with hold := l.hold.erase (t, .token n kind began data) })))) ∧
  (∀ f, linkNodes s link = [] → (∀ d ∈ s.dies, d.2.packets = []) →
    exec (.linkReset link f) s = .next (s.modLink link (fun l => { l with f := trainedDelay f, resets := l.resets + 1 })))

/-- Package time, permits, heat, attestation (22 R416, R417; 26 R446, R447, R449). The resets (18 R350, 26 R443, R444, R452): a package
reset leaves the reset state and the rollback counter never lower, with the code of the step at which its boot sequence halts, or, where it
ends, with the image's keys, security version and digest; an image is accepted only with its layout (the places of its header's fields are
free, log entry 82), its root key's digest and a security version not below the counter, and every die verifies its copy; a reset of a die
on which nothing runs counts; a reset of a stack holds its misses until it is restored. -/
def Obligations.PackageEventsAct : Prop :=
  (∀ (die cl : Nat) (s : State), s.pkg.bootCode = 0 →
    (∀ link o, s.time.en = true → exec (.ptpMessage link true o) s = .next { s with time := { s.time with role := 2, offset := o } }) ∧
    (∀ o step rate, s.time.en = true → (∀ t, s.time.sync = some t → t + 112500000 ≤ s.cycle) → s.time.lock = false →
      ∃ t, exec (.syncInterval o step rate) s = .next t ∧ t.time.count = s.time.count + step ∧
        t.time.rate = (if rateOk rate then rate else s.time.rate) ∧ t.time.offset = o ∧ t.time.sync = some s.cycle ∧
        t.time.lock = (offsetGood o && decide (16 ≤ s.time.good + 1)) ∧ t.mem = s.mem ∧ t.cores = s.cores) ∧
    (∀ o step rate t, s.time.sync = some t → s.cycle < t + 112500000 → exec (.syncInterval o step rate) s = .next s) ∧
    (∀ o step rate, s.time.en = true → (∀ t, s.time.sync = some t → t + 112500000 ≤ s.cycle) → s.time.lock = true →
      ∃ t, exec (.syncInterval o step rate) s = .next t ∧ t.time.count = s.time.count ∧
        t.time.rate = (if rateOk rate then rate else s.time.rate) ∧ t.mem = s.mem ∧ t.cores = s.cores) ∧
    (∃ t, exec .ptpParentLoss s = .next t ∧ t.time.lock = false ∧ t.time.count = s.time.count ∧ t.time.rate = s.time.rate ∧ t.mem = s.mem) ∧
    (∃ t, exec .timeStRead s = .next t ∧ t.time = { s.time with step := false } ∧ t.mem = s.mem ∧ t.cores = s.cores ∧
      t.pkg.answer = leBytes 8 (crownGet s 0 0x3000).toNat) ∧
    (∀ cap : BitVec 5, s.cycle % 2 ^ 21 = 0 → cap.toNat ≤ 16 →
      exec (.governorCapUpdate die cl cap) s
        = .next (s.modDie die (fun x => { x with gov := tmod {} x.gov cl (fun g => { g with cap := cap.toNat }) }))) ∧
    (∃ t, exec (.thermalHold die) s = .next t ∧ t.mem = s.mem ∧ t.cores = s.cores ∧
      ∀ c < 12, (tget {} (t.die die).gov c).cap = 0 ∧ (tget {} (t.die die).gov c).held = (tget {} (s.die die).gov c).held) ∧
    (∃ t, exec .thermalShutdown s = .next t ∧ t.pkg.powered = false ∧ t.pkg.rollback = s.pkg.rollback ∧ t.cores = [] ∧ t.mem = []) ∧
    (∀ nonce : BitVec 256, s.pkg.repGo = false →
      exec (.reportRequest nonce) s = .next { s with pkg := { s.pkg with nonce := leBytes 32 nonce.toNat, repGo := true } }) ∧
    (s.pkg.repGo = true →
      exec .reportReady s = .next { s with pkg := { s.pkg with
        repGo := false, report := reportBody s ++ Config.reportSignature identitySeed (reportBody s) } })) ∧
  (∀ (die : Nat) (b : Boot) (s : State),
    let fused := if b.rollback.toNat < s.pkg.rollback.toNat then s.pkg.rollback else b.rollback
    let code := bootHalt b fused
    (∃ t, exec (.packageReset b) s = .next t ∧ t.pkg.bootCode = code ∧ t.pkg.rollback = fused ∧
      s.pkg.rollback.toNat ≤ t.pkg.rollback.toNat ∧ t.cores = [] ∧ t.mem = [] ∧ t.pkg.devId = 0 ∧ t.time = {} ∧
      (∀ m, code = 0 → bootImage b fused = some m → t.pkg.keys = bootKeys m ∧ t.pkg.svn = bootSvn m ∧ t.pkg.digest = bootDigest m ∧
        t.links = (List.range 32).map (fun l => (l, { f := trainedDelay b.linkDelay })))) ∧
    (∀ m, bootOk m fused = true → fused.toNat ≤ (bootSvn m).toNat ∧ bootLayout m = true ∧
      shake256 ((m.drop 64).take keyBytes) 64 = Config.rootDigest) ∧
    (code = 0 → (bootOk b.image fused = true ∨ bootOk b.second fused = true) ∧ ∀ i < 7, bootOk (b.copies.getD i []) fused = true) ∧
    ((∀ c ∈ dieCores die, (s.core c).node = none) → (∀ n < 64, (s.slot die n).installed = false) → allNodes s = [] →
      (s.die die).packets = [] →
      exec (.dieReset die) s = .next (s.modDie die (fun x => { x with resets := x.resets + 1 }))) ∧
    ((s.die die).stack = .ok → exec (.stackReset die .start) s = .next (s.modDie die (fun x => { x with stack := .resetting }))) ∧
    ((s.die die).stack = .resetting → (s.die die).packets = [] →
      exec (.stackReset die .restored) s = .next (s.modDie die (fun x => { x with stack := .ok })) ∧
      exec (.stackReset die .lost) s = .next (s.modDie die (fun x => { x with stack := .lost }))))

/-- What package reset leaves (26 R443, 03 R84, 10 R225): every strand idle with its registers zero, code memory, scratch and register files
zero, q0 and cq owned by X, user mode without a handler, every queue-table entry inactive, dev.id 0, and on every die the interleave
domains 0 to 2 active and 3 to 11 not. That HBM4 reads zero is the model's choice (log entry 2). -/
def Obligations.ResetValues : Prop :=
  let s := State.reset
  (∀ a, memRead s.mem a = 0) ∧
  (∀ c k, (s.strand c k).st = .idle ∧ (∀ n, (s.strand c k).reg n = 0) ∧ (s.strand c k).lc = 0 ∧ (s.strand c k).flags = 0 ∧
    (s.strand c k).trapen = 0 ∧ (s.strand c k).vtype = 0 ∧ (s.strand c k).words = []) ∧
  (∀ c a, memRead (s.core c).code a = 0 ∧ memRead (s.core c).d.scratch a = 0) ∧
  (∀ c n, (s.core c).d.getV n = 0 ∧ ((s.core c).d.getM n).data = 0) ∧
  (∀ c, wbits (s.core c).csr.sendto 57 56 = 3 ∧ (s.core c).csr.cqOwner = 3 ∧ (s.core c).csr.accMode = 0 ∧
    (s.core c).csr.sup = false ∧ (s.core c).csr.hnd = false ∧ (s.core c).csr.faultPtr = 0) ∧
  (∀ d q, (tget 0 (s.die d).qtab q).getLsbD 0 = false) ∧ s.pkg.devId = 0 ∧
  (∀ d < 8, ∀ n < 12, (tget {} (s.die d).il n).active = decide (n ≤ 2))

/-- The memory of the reset state has its canonical form. -/
def Obligations.ResetMemoryCanonical : Prop := Memory.wf State.reset.mem = true

/-- Every step keeps the canonical form of the package's memory: addresses strictly rising, no cell that an unlisted address would read as.
-/
def Obligations.StepsKeepMemoryCanonical : Prop := ∀ s t : State, Memory.wf s.mem = true → step s = .next t → Memory.wf t.mem = true

/-- A step runs what its mover names: a strand that may issue runs the instruction that the four bytes at its pc decode to (01 R14, R26),
whether the agenda names it or the surroundings choose it, once in a cycle, in ascending strand number and before the cycle's retirements
(05 R110, R111); an event of the table happens; an idle strand, a frozen core (05 R119), a pre-empted one (17 R332) or one whose node ends
(17 R326) aside, nothing stands around `exec`. -/
def Obligations.StepRunsDecoded : Prop := ∀ (s : State) (c k : Nat) (now : Bool) (i : Instr) (rest : List Turn),
  let x := s.core c
  let t := x.strand k
  s.pkg.powered = true →
  (c / 256 < 8 → c / 16 % 16 < 12 → k < 4 → t.active = true → x.frozen s.cycle = false → preempting s c = false →
    x.ending = none → x.mayIssue s.cycle k = true → t.pauseEnd ≤ s.cycle → t.pc.toNat < 0x4000 → k * 0x1000 + t.pc.toNat / 4 ∉ x.codeBad →
    let a := k * 0x4000 + t.pc.toNat
    decode (wordOfBytes (memRead x.code a) (memRead x.code (a + 1)) (memRead x.code (a + 2)) (memRead x.code (a + 3))) = .ok i →
    (s.agenda = .strand c k now :: rest → step s = exec i { s with agenda := rest, cur := (c, k), now := now }) ∧
    (s.agenda = [] → Config.nextTurn s.free = .strand c k now →
      step s = exec i { s with free := s.free + 1, cur := (c, k), now := now })) ∧
  (i.isWord = false → i.wf = true → s.agenda = .event i :: rest → step s = exec i { s with agenda := rest, now := false })

/-- A fetch that finds no instruction traps at the word's pc, and nothing else happens (01 R15, 02 R46 rows 1 to 3): past the section 0x05
with the word zero, once the section's last word has retired, and until then the strand blocks; an uncorrectable error 0x08, an unassigned
word or a reserved bit 0x01; an operand outside its file 0x02, on a strand of a core outside a freeze that may issue the word, and the
earlier rows' code on one that may not. A region word's record names its region (14 R291). -/
def Obligations.FetchTraps : Prop := ∀ (s : State) (c k : Nat) (now : Bool) (rest : List Turn),
  let x := s.core c
  let t := x.strand k
  let w := codeWord x k t.pc
  let u := { s with agenda := rest }
  s.pkg.powered = true → s.agenda = .strand c k now :: rest →
  c / 256 < 8 → c / 16 % 16 < 12 → k < 4 → t.active = true → x.frozen s.cycle = false → preempting s c = false →
    x.ending = none → x.mayIssue s.cycle k = true → t.pauseEnd ≤ s.cycle →
    (0x4000 ≤ t.pc.toNat → (∀ v ∈ t.words, v.pc ≠ 0x3FFC) → step s = .next (takeFault c k (issueTrap 0x05) 0 t.pc none u)) ∧
    (0x4000 ≤ t.pc.toNat → (∃ v ∈ t.words, v.pc = 0x3FFC) →
      step s = .next (u.modStrand c k (fun y => { y with st := .blocked, reason := some .hold, issueAt := none }))) ∧
    (t.pc.toNat < 0x4000 → k * 0x1000 + t.pc.toNat / 4 ∈ x.codeBad → step s = .next (takeFault c k (issueTrap 0x08) w t.pc none u)) ∧
    (t.pc.toNat < 0x4000 → k * 0x1000 + t.pc.toNat / 4 ∉ x.codeBad →
      (decode w = .error .unassigned → step s = .next (takeFault c k (issueTrap 0x01) w t.pc none u)) ∧
      (∀ near, decode w = .error (.reserved near) → step s = .next (takeFault c k ((issueTrap 0x01).ofWord w) w t.pc none u)) ∧
      (∀ near, decode w = .error (.operand near) →
        (∀ e, earlyTrap x k (specOf near) = some e → step s = .next (takeFault c k (e.ofWord w) w t.pc none u)) ∧
        (earlyTrap x k (specOf near) = none → nullified t (specOf near) = false →
          step s = .next (takeFault c k ((issueTrap 0x02).ofWord w) w t.pc none u))))

/-- Decoding and encoding agree (02 R35 to R45): every well-formed instruction word decodes from its encoding, with every operand at every
value that the encoding admits, and every word that decodes is the encoding of what it decodes to. -/
def Obligations.EncodingRoundTrip : Prop :=
  (∀ i : Instr, i.isWord = true → i.wf = true → decode (encode i) = .ok i) ∧
  (∀ (w : BitVec 32) (i : Instr), decode w = .ok i → encode i = w ∧ i.isWord = true)

/-- Each strand issues only the words of its role (01 R26): any other word traps 0x01 at issue, with no effect. -/
def Obligations.RolesTrap : Prop := ∀ (i : Instr) (s : State),
  let t := s.strand s.cur.1 s.cur.2
  let roles := match i with
    | .vld .. | .vldS .. | .mld .. | .mldT .. | .mldU .. | .vldBm .. | .win .. | .fopen .. | .fadv .. | .fend .. | .fclose .. => [0]
    | .vst .. | .vstS .. | .mst .. | .vstBm .. | .wout .. | .weos .. => [2]
    | .wtest .. | .wstat .. | .wdrainIn .. | .wdrainOut .. => [3]
    | .tkpush .. | .tkpop .. | .tkcnt .. | .halt .. => [0, 1, 2, 3]
    | _ => match (specOf i).engine with
      | .m => [1]
      | .v => [1]
      | .q => [3]
      | .y => [3]
      | _ => [0, 1, 2, 3]
  i.isWord = true → (specOf i).hint = false → t.active = true → t.pauseEnd ≤ s.cycle → s.cur.2 ∉ roles →
    exec i s = .next (takeFault s.cur.1 s.cur.2 ((issueTrap 0x01).ofWord (encode i)) (encode i) t.pc none s)

/-- Supervisor-only words (02 R46 row 5; 10 R231, 12 R246, 14 R283, 17 R326, R335) and the CSRs 0x100 to 0x1FF (03 R81) trap 0x17 in user
mode, on the strand that may issue them, with no effect; every other word meets no such check. -/
def Obligations.SupervisorWordsTrap : Prop := ∀ (i : Instr) (s : State),
  let t := s.strand s.cur.1 s.cur.2
  let privileged := match i with
    | .domsetInstall .. | .domsetRemove .. | .hmsetQuiesce .. | .hmsetSwitch .. | .hmsetResume .. | .tretResume .. | .tretAbort ..
    | .rdst .. | .wrst .. | .ctxSave .. | .ctxLoad .. | .rgload .. | .rgswapNow .. | .rgswapHot .. | .rgfreezeFreeze ..
    | .rgfreezeThaw .. | .rgreadSave .. | .rgreadFetch .. | .rgreadRestore .. | .rgreadStatus .. | .rgclk .. => true
    | .csrr _ _ n | .csrw _ _ n | .csrx _ _ _ n => decide (0x100 ≤ n.toNat ∧ n.toNat < 0x200)
    | _ => false
  i.isWord = true →
    ((specOf i).sup = privileged) ∧
    (privileged = true → (s.core s.cur.1).csr.sup = false → t.active = true → t.pauseEnd ≤ s.cycle →
      s.cur.2 ∈ (specOf i).strands →
      exec i s = .next (takeFault s.cur.1 s.cur.2 ((issueTrap 0x17).ofWord (encode i)) (encode i) t.pc none s))

/-- What issuing a word that is no hint can come to (01 R26 to R29, R31, 02 R46): a strand that may not issue does nothing, a paused one
blocks, a word that a check stops takes its trap and has no effect, one that must wait, for a CSR before the checks that read it (03 R82),
only blocks its strand, and one that goes without running at once joins the end of its engine queue as it was made at issue. -/
def Obligations.IssueOutcomes : Prop := ∀ (i : Instr) (s : State),
  let c := s.cur.1
  let k := s.cur.2
  let t := s.strand c k
  i.isWord = true → (specOf i).hint = false →
    (t.active = false → exec i s = .next s) ∧
    (t.active = true → s.cycle < t.pauseEnd →
      exec i s = .next (s.modStrand c k (fun u => { u with st := .blocked, reason := some .pause, issueAt := none }))) ∧
    (∀ e, stops i s = some e → exec i s = .next (takeFault c k (e.ofWord (encode i)) (encode i) t.pc none s)) ∧
    (t.active = true → t.pauseEnd ≤ s.cycle → earlyTrap (s.core c) k (specOf i) = none → nullified t (specOf i) = false → i.wf = true →
      ownerWait t (specOf i) = true → exec i s = .next (s.modStrand c k (fun u => { u with st := .blocked, reason := some .hold, issueAt := none }))) ∧
    (∀ b, t.active = true → t.pauseEnd ≤ s.cycle → earlyTrap (s.core c) k (specOf i) = none → nullified t (specOf i) = false →
      ownerWait t (specOf i) = false → lateTrap s c k i (specOf i) = none → (csrWait t (specOf i) = true ∨ ownTrap c k i (specOf i) s = none) →
      blockOf (s.core c) k (specOf i) = some b →
      exec i s = .next (s.modStrand c k (fun u => { u with st := .blocked, reason := some b, issueAt := none }))) ∧
    (∀ w y, goes i s = some (w, y) → ((issued i w y s).core c).d.regBad = [] → atOnce c k i w (issued i w y s) = false →
      exec i s = .next ((issued i w y s).modStrand c k (fun u => u.setQueue (specOf i).engine (u.queue (specOf i).engine ++ [w]))))

/-- Nullified and hint words pop and push nothing (01 R22). A word that its coverage or its stage nullifies, after the checks that it still
meets, takes its slot whatever its queues, tokens and engine queue hold: no data queue, receive register, condition queue, token
channel, engine queue, register or memory changes. A hint word changes none of them either, and its source field reads as zero. -/
def Obligations.NullifiedAndHintWords : Prop := ∀ (i : Instr) (s : State),
  let c := s.cur.1
  let k := s.cur.2
  let x := s.core c
  let u := s.strand c k
  let untouched := fun (t : State) => t.mem = s.mem ∧ (t.core c).dq = x.dq ∧ (t.core c).recv = x.recv ∧ (t.core c).cq = x.cq ∧
    (t.core c).cqRes = x.cqRes ∧ (t.core c).tok = x.tok ∧ (t.core c).inj = x.inj ∧ (t.core c).injRes = x.injRes ∧ (t.core c).d = x.d ∧
    (t.core c).csr = x.csr ∧ (t.strand c k).queues = u.queues ∧ (t.strand c k).regs = u.regs ∧ (t.strand c k).flags = u.flags ∧
    (∀ j, j ≠ k → t.strand c j = s.strand c j) ∧ (∀ b, b ≠ c → t.core b = s.core b)
  i.isWord = true → u.active = true → u.pauseEnd ≤ s.cycle →
    (nullified u (specOf i) = true → ((specOf i).hint = true ∨ earlyTrap x k (specOf i) = none) →
      ∃ t, exec i s = .next t ∧ untouched t ∧
        (u.loop = none → (t.strand c k).pc = u.pc + 4 ∧ (t.strand c k).rotBase = u.rotBase ∧ (t.strand c k).lc = u.lc)) ∧
    ((specOf i).hint = true → nullified u (specOf i) = false →
      ∃ w t, goes i s = some (w, x) ∧ w.va = 0 ∧ w.vb = 0 ∧ w.vd = 0 ∧ exec i s = .next t ∧ untouched t)

/-- CMOVZ and CMOVNZ (03 R69): group 0x19, minors 3 and 4; d := a when b = 0 (CMOVZ) or b ≠ 0 (CMOVNZ), else d keeps its value; both name d
as a pending write in either case, from issue to retirement; a d of q0 to q3 traps 0x02 at issue. -/
def Obligations.ConditionalMoves : Prop := ∀ (h : Hdr) (d a b : BitVec 5),
  (encode (.cmovz h d a b)).extractLsb' 20 5 = 0x19#5 ∧ (encode (.cmovz h d a b)).extractLsb' 0 5 = 3#5 ∧
  (encode (.cmovnz h d a b)).extractLsb' 20 5 = 0x19#5 ∧ (encode (.cmovnz h d a b)).extractLsb' 0 5 = 4#5 ∧
  Computes (.cmovz h d a b) (fun w => if w.vb = 0 then w.va else w.vd) ∧
  Computes (.cmovnz h d a b) (fun w => if w.vb ≠ 0 then w.va else w.vd) ∧
  (∀ i ∈ [Instr.cmovz h d a b, .cmovnz h d a b], ∀ (s : State),
    let c := s.cur.1
    let k := s.cur.2
    let u := s.strand c k
    (∀ w y, goes i s = some (w, y) → d.toNat < 28 ∧ w.dst = .reg (physReg u.rotBase d.toNat) ∧
      w.vd = u.reg (physReg u.rotBase d.toNat) ∧
      ((s.core c).d.regBad = [] → atOnce c k i w (issued i w y s) = false → ∃ t, exec i s = .next t ∧
        ((t.strand c k).queue .x).getLast? = some w ∧
        (0 < d.toNat → 0 < pendingScalar (t.strand c k) (physReg u.rotBase d.toNat)))) ∧
    (28 ≤ d.toNat → u.active = true → u.pauseEnd ≤ s.cycle → earlyTrap (s.core c) k (specOf i) = none →
      nullified u (specOf i) = false → exec i s = .next (takeFault c k (issueTrap 0x02) (encode i) u.pc none s)))

/-- The rotation of scalar names (03 R78): names 16 to 27 map through rot.base, in sources and destinations, names 0 to 15 and 28 to 31 do
not; dispatch sets rot.base to zero, where the mapping is the identity; each pass lowers rot.base by one, modulo 12, so that what was
written as s16 is then read as s17. -/
def Obligations.RotationMapping : Prop :=
  (∀ (rot : BitVec 4) (n : Nat), 16 ≤ n → n < 28 → physReg rot n = 16 + (n - 16 + rot.toNat) % 12) ∧
  (∀ (rot : BitVec 4) (n : Nat), n < 16 ∨ 28 ≤ n → physReg rot n = n) ∧
  (∀ n < 28, physReg 0 n = n) ∧
  (∀ (x : Core) (k : Nat) (r : BitVec 5), r.toNat < 28 →
    popSrc k (some r) x = some ((x.strand k).reg (physReg (x.strand k).rotBase r.toNat), x) ∧
    dstOf k (x.strand k).rotBase (some r) = .reg (physReg (x.strand k).rotBase r.toNat)) ∧
  (∀ (r : NodeRef) (l : Launch) (n : Node) (args : List Word) (maps : Nat → List Nat) (x : Core) (k : Nat), k < 4 →
    ((dispatchCore r l n args maps x).strand k).rotBase = 0) ∧
  (∀ (t : Strand) (l : LoopState), t.rotBase.toNat < 12 →
    (t.endPass l).rotBase.toNat = (t.rotBase.toNat + 11) % 12 ∧ physReg (t.endPass l).rotBase 17 = physReg t.rotBase 16)

/-- SETRB (03 R79): group 0x19, minor 9, with d and b reserved; it sets rot.base to s[a], and a value above 11 traps 0x02. -/
def Obligations.SetRotationBase : Prop := ∀ (h : Hdr) (a : BitVec 5) (s : State),
  let c := s.cur.1
  let k := s.cur.2
  let u := s.strand c k
  decode (encode (.setrb h a)) = .ok (.setrb h a) ∧
  (encode (.setrb h a)).extractLsb' 20 5 = 0x19#5 ∧ (encode (.setrb h a)).extractLsb' 0 5 = 9#5 ∧
  (∀ w : BitVec 32, w &&& 0xE1F0001F#32 = 0x01900009#32 → w &&& 0x000F83E0#32 ≠ 0 → ∃ near, decode w = .error (.reserved near)) ∧
  Computes (.setrb h a) (fun _ => 0) ∧
  (∀ w y, goes (.setrb h a) s = some (w, y) → u.loop = none → w.va.toNat ≤ 11 ∧
    ((issued (.setrb h a) w y s).strand c k).rotBase.toNat = w.va.toNat ∧
    (a.toNat < 28 → w.va = u.reg (physReg u.rotBase a.toNat))) ∧
  (a.toNat < 28 → 11 < (u.reg (physReg u.rotBase a.toNat)).toNat → u.bad = [] → u.active = true → u.pauseEnd ≤ s.cycle →
    earlyTrap (s.core c) k (specOf (.setrb h a)) = none → nullified u (specOf (.setrb h a)) = false →
    lateTrap s c k (.setrb h a) (specOf (.setrb h a)) = none → blockOf (s.core c) k (specOf (.setrb h a)) = none →
    exec (.setrb h a) s = .next (takeFault c k (issueTrap 0x02) (encode (.setrb h a)) u.pc none s))

/-- A plain scalar word with register operands on a strand that stands ready (03 R60, R62 to R66, R69; 01 R16): it may issue, is not
covered, is in no loop, has no word queued, no issue fixed by a wait for time and no register with an uncorrectable error. The step writes
the rule's value to the destination that the rotation names, discards it for s0, moves the pc to the next word, counts the word, notes that
the strand has had its turn in the cycle, and changes nothing else of the whole machine. An LDX is one of them where its address is aligned
and in scratch, its pages are there and its lines hold no error: its value is that of the bytes there. On such a strand a CSR word of a
known CSR, in supervisor mode where the CSR is a supervisor's, runs and completes: CSRR gives the CSR, CSRW writes the source, CSRX does
both (03 R81, R83, 17 R320). -/
def Obligations.PlainWordEffect : Prop := ∀ (d a b : BitVec 5) (im : BitVec 10) (il : BitVec 15) (s : State),
  let h : Hdr := ⟨0, 0⟩
  let c := s.cur.1
  let k := s.cur.2
  let x := s.core c
  let u := s.strand c k
  let ra := u.reg (physReg u.rotBase a.toNat)
  let rb := u.reg (physReg u.rotBase b.toNat)
  let rd := u.reg (physReg u.rotBase d.toNat)
  let words : List (Instr × Word) :=
    [(.addi h d a im, ra + sext im), (.andi h d a im, ra &&& sext im), (.ori h d a im, ra ||| sext im), (.xori h d a im, ra ^^^ sext im),
     (.slti h d a im, if ra.toInt < im.toInt then 1 else 0), (.sltiu h d a im, if ra.toNat < (sext im).toNat then 1 else 0),
     (.li h d il, sext il), (.lsh h d il, rd <<< 15 ||| zext il), (.auipc h d il, zext u.pc + sext il * 4), (.rdlc h d, u.lc),
     (.add h d a b, ra + rb), (.sub h d a b, ra - rb), (.and h d a b, ra &&& rb), (.or h d a b, ra ||| rb), (.xor h d a b, ra ^^^ rb),
     (.sll h d a b, ra <<< (rb.toNat % 64)), (.srl h d a b, ra >>> (rb.toNat % 64)), (.sra h d a b, ra.sshiftRight (rb.toNat % 64)),
     (.slt h d a b, if ra.toInt < rb.toInt then 1 else 0), (.sltu h d a b, if ra.toNat < rb.toNat then 1 else 0),
     (.mul h d a b, BitVec.ofInt 64 (ra.toInt * rb.toInt)), (.zextW h d a, word (ra.toNat % 2 ^ 32)),
     (.cmovz h d a b, if rb = 0 then ra else rd), (.cmovnz h d a b, if rb ≠ 0 then ra else rd)]
  let shifts : List (Instr × Word) :=
    [(.slli h d a im, ra <<< im.toNat), (.srli h d a im, ra >>> im.toNat), (.srai h d a im, ra.sshiftRight im.toNat)]
  let loads (i : Instr) (n : Nat) (v : Nat → Word) : List (Instr × Word) :=
    let ad := (ra + sext im * word n).toNat
    if ad % n = 0 && decide (ad + n ≤ 0x80000) && (x.d.absent ad n).isEmpty && !x.d.scrPoisoned ad n
    then [(i, v (leNat (memReadN x.d.scratch ad n)))] else []
  d.toNat < 28 → a.toNat < 28 → b.toNat < 28 → s.now = true → u.active = true → u.pauseEnd ≤ s.cycle → u.cover = 0 → u.loop = none →
  u.words = [] → u.stopSeq = none → u.issueAt = none → (x.strand 3).issueAt = none → u.bad = [] → x.d.regBad = [] → (∀ i < 4, x.tokens k i ≤ 15) →
    (∀ p ∈ words ++ (if im.toNat < 64 then shifts else []) ++ loads (.ldxD h d a im) 8 word
        ++ loads (.ldxW h d a im) 4 (fun v => sext (BitVec.ofNat 32 v)),
      ∃ t, exec p.1 s = .next t ∧
        t.strand c k = ({ u with st := .running, reason := none, coverNull := false, pc := u.pc + 4 } : Strand).setReg
          (physReg u.rotBase d.toNat) p.2 ∧
        (∀ j, j ≠ k → t.strand c j = s.strand c j) ∧ (t.core c).seq = x.seq + 1 ∧
        { t.core c with strands := x.strands, seq := x.seq, mark := x.mark } = x ∧
        (∀ e, e ≠ c → t.core e = s.core e) ∧ { t with cores := s.cores } = s) ∧
    (∀ n : BitVec 10, csrKnown n.toNat = true → (0x100 ≤ n.toNat → n.toNat ≤ 0x1FF → x.csr.sup = true) →
      (∃ w t, runsNow (.csrr h d n) s = some (w, t) ∧ exec (.csrr h d n) s = .next (finish c k (.csrr h d n) w
        (if loopCsr n then csrGet s c k n.toNat else csrGet t c k n.toNat) false (csrReadEffect c k n.toNat t))) ∧
      (∃ w t, runsNow (.csrw h a n) s = some (w, t) ∧
        exec (.csrw h a n) s = .next (finish c k (.csrw h a n) w 0 false (csrWrite c k n.toNat ra t))) ∧
      (∃ w t, runsNow (.csrx h d a n) s = some (w, t) ∧
        exec (.csrx h d a n) s = .next (finish c k (.csrx h d a n) w (csrBefore t c k n.toNat) false (csrWrite c k n.toNat ra t))))

/-- The frame of the scalar arithmetic words, in every operand form, queue ports and tokens among them (03 R60, R62, R63, R66, R68, R69,
R75): if no check stops the word, the step gives a next state, and memory, scratch, every register file, every CSR of the core, code
memory, the other cores and the other strands are unchanged; of the strand's registers only the destination may change, and no flag
does, but dz by a division (03 R67) whose trap is not enabled. -/
def Obligations.ScalarWordsKeep : Prop := ∀ (h : Hdr) (d a b : BitVec 5) (im : BitVec 10) (il : BitVec 15) (s : State),
  let c := s.cur.1
  let k := s.cur.2
  let u := s.strand c k
  let keeps := fun (i : Instr) (t : State) => t.mem = s.mem ∧ (t.core c).d = (s.core c).d ∧ (t.core c).csr = (s.core c).csr ∧
    (t.core c).code = (s.core c).code ∧ (∀ e, e ≠ c → t.core e = s.core e) ∧ (∀ j, j ≠ k → t.strand c j = s.strand c j) ∧
    (∀ n, dstOf k u.rotBase (specOf i).dst ≠ .reg n → (t.strand c k).reg n = u.reg n) ∧
    (t.strand c k).trapen = u.trapen ∧ (t.strand c k).vtype = u.vtype ∧ (t.strand c k).round = u.round ∧ (t.strand c k).g = u.g
  (∀ i ∈ [Instr.addi h d a im, .andi h d a im, .ori h d a im, .xori h d a im, .slli h d a im, .srli h d a im, .srai h d a im,
      .slti h d a im, .sltiu h d a im, .li h d il, .lsh h d il, .auipc h d il, .rdlc h d, .cmovz h d a b, .cmovnz h d a b,
      .add h d a b, .sub h d a b, .and h d a b, .or h d a b, .xor h d a b, .sll h d a b, .srl h d a b, .sra h d a b, .slt h d a b,
      .sltu h d a b, .min h d a b, .max h d a b, .minu h d a b, .maxu h d a b, .mul h d a b, .mulh h d a b, .mulhu h d a b,
      .clz h d a, .ctz h d a, .popc h d a, .sextB h d a, .sextH h d a, .sextW h d a, .zextW h d a,
      .addSh1 h d a b, .addSh2 h d a b, .addSh3 h d a b, .addSh4 h d a b, .taddr h d a b],
    stops i s = none → ∃ t, exec i s = .next t ∧ keeps i t ∧ (t.strand c k).flags = u.flags) ∧
  (∀ i ∈ [Instr.div h d a b, .divu h d a b, .rem h d a b, .remu h d a b],
    stops i s = none → trapped u.trapen Flags.dz = false →
      ∃ t, exec i s = .next t ∧ keeps i t ∧ ((t.strand c k).flags = u.flags ∨ (t.strand c k).flags = u.flags ||| Flags.dz))

/-- The frame of the element words of V (07 R150, R152, R156, R158, R159, R161): if no check stops the word and no event traps, the step
gives a next state, and memory, scratch, tiles, accumulators, fibres, the core's CSRs, the scalar registers, the other strands and the
other cores are unchanged; a word with a vector destination changes no other vector register and no mask, one with a mask destination no
vector register and no other mask. -/
def Obligations.VectorWordsKeep : Prop := ∀ (h : Hdr) (d a b : BitVec 5) (k3 : BitVec 3) (s : State),
  let c := s.cur.1
  let k := s.cur.2
  let x := (s.core c).d
  let u := s.strand c k
  let keeps := fun (t : State) => t.mem = s.mem ∧ (t.core c).d.scratch = x.scratch ∧ (t.core c).d.m = x.m ∧ (t.core c).d.a = x.a ∧
    (t.core c).d.f = x.f ∧ (t.core c).csr = (s.core c).csr ∧ (t.strand c k).regs = u.regs ∧ (t.strand c k).vtype = u.vtype ∧
    (∀ e, e ≠ c → t.core e = s.core e) ∧ (∀ j, j ≠ k → t.strand c j = s.strand c j)
  u.trapen = 0 → x.regBad = [] →
  (∀ i ∈ [Instr.vadd h d a b k3, .vsub h d a b k3, .vmul h d a b k3, .vfma h d a b k3, .vfms h d a b k3, .vmin h d a b k3,
      .vmax h d a b k3, .vabs h d a k3, .vneg h d a k3, .vand h d a b k3, .vor h d a b k3, .vxor h d a b k3, .vnot h d a k3,
      .vshl h d a b k3, .vshr h d a b k3, .vsra h d a b k3, .vmov h d a k3],
    stops i s = none → ∃ t, exec i s = .next t ∧ keeps t ∧ (t.core c).d.k = x.k ∧
      ∀ n, n ≠ d.toNat → (t.core c).d.getV n = x.getV n) ∧
  (∀ i ∈ [Instr.vcmpEq h d a b k3, .vcmpNe h d a b k3, .vcmpLt h d a b k3, .vcmpLe h d a b k3, .vcmpUn h d a b k3],
    stops i s = none → ∃ t, exec i s = .next t ∧ keeps t ∧ (t.core c).d.v = x.v ∧
      ∀ n, n ≠ d.toNat → (t.core c).d.getK n = x.getK n)

/-- What an element word writes (07 R150): element i of the destination is the operation's result where bit i (or i div G, in a register of
more than 256 elements) of the governing mask is 1, and keeps its value elsewhere. -/
def Obligations.ElementsMerge : Prop := ∀ (op : Fmt → Bool → Nat → Nat → Nat → Nat × Flags) (d a b : BitVec 5) (k : BitVec 3)
    (w : QWord) (x : CoreData) (g : BitVec 16) (i : Nat),
  let ww := vwidth w
  let n := 2048 / ww
  let el := fun (v : BitVec 2048) => v.toNat / 2 ^ (i * ww) % 2 ^ ww
  ww ∈ [2, 4, 8, 16, 32, 64] → i < n →
    el ((elementwise op d (·.getV a.toNat) (·.getV b.toNat) k w x g).d.getV d.toNat)
      = if (x.getK k.toNat).getLsbD (i / Nat.max 1 (n / 256))
        then (op (vfmt w) (visat w) (el (x.getV a.toNat)) (el (x.getV b.toNat)) (el (x.getV d.toNat))).1 % 2 ^ ww
        else el (x.getV d.toNat)

/-- The words that store to scratch (03 R64, 08 R183, R185), run at once on pages that are there: the bytes from the address that the rule
computes are the stored ones, every other byte of scratch reads as before, and memory, the vector, mask, tile and accumulator files, the
CSRs, the strand's registers and the other strands and cores are unchanged. -/
def Obligations.ScratchStoresKeep : Prop := ∀ (h : Hdr) (d a b : BitVec 5) (cls z : BitVec 2) (im : BitVec 10) (s : State) (w : QWord)
    (t : State),
  let c := s.cur.1
  let x := (t.core c).d
  let stored := fun (i : Instr) (ad : Nat) (bs : List Byte) =>
    runsNow i s = some (w, t) → x.absent ad bs.length = [] →
      ∃ u, exec i s = .next u ∧ memReadN (u.core c).d.scratch ad bs.length = bs ∧
        (∀ p, (p < ad ∨ ad + bs.length ≤ p) → memRead (u.core c).d.scratch p = memRead x.scratch p) ∧
        u.mem = t.mem ∧ (u.core c).d.v = x.v ∧ (u.core c).d.k = x.k ∧ (u.core c).d.m = x.m ∧ (u.core c).d.a = x.a ∧
        (u.core c).csr = (t.core c).csr ∧ (u.strand c s.cur.2).regs = (t.strand c s.cur.2).regs ∧
        (u.strand c s.cur.2).flags = (t.strand c s.cur.2).flags ∧
        (∀ j, j ≠ s.cur.2 → u.strand c j = t.strand c j) ∧ (∀ e, e ≠ c → u.core e = t.core e)
  stored (.stxD h d a im) (w.va + sext im * 8).toNat (leBytes 8 w.vd.toNat) ∧
  stored (.stxW h d a im) (w.va + sext im * 4).toNat (leBytes 4 w.vd.toNat) ∧
  stored (.vst h d a b cls z) (w.va + w.vb).toNat ((leBytes 256 (x.getV d.toNat).toNat).take (256 / 2 ^ z.toNat)) ∧
  ((x.getM d.toNat).poison = 0 →
    stored (.mst h d a b cls) (w.va + w.vb).toNat (leBytes 2048 (x.getM d.toNat).data.toNat))

/-- A store to global memory and what a load then finds (10 R226, R227): STG that runs at once on an address that translates to a home
slice's memory writes the eight bytes of field d, little-endian, at that address; every other byte reads as after the checks; a load
there that the slice answers gives the stored value back. -/
def Obligations.GlobalStoresReadBack : Prop := ∀ (h : Hdr) (d a b : BitVec 5) (e o : BitVec 2) (s : State) (w : QWord) (t : State)
    (pa : Nat) (u : State),
  let c := s.cur.1
  let g : GAcc := { kind := .store, size := 8, write := true, relQ := hasRel o, system := e = 3 }
  runsNow (.stg h d a b e o) s = some (w, t) → gCheck c g (w.va + w.vb) t = (.ok pa, u) → (hasRel o = true → acked c (e = 3) u) →
  homed pa → lineMoved u c pa = false → homeReady u pa = some true → inCarve u pa = true →
    ∃ v, exec (.stg h d a b e o) s = .next v ∧ memReadN v.mem pa 8 = leBytes 8 w.vd.toNat ∧
      (∀ q, (q < pa ∨ pa + 8 ≤ q) → memRead v.mem q = memRead u.mem q) ∧
      (∀ z r, serve v .load pa 8 0 0 = .ok z r → r = w.vd) ∧
      (v.core c).d = (u.core c).d ∧ (v.core c).csr = (u.core c).csr ∧ (v.strand c s.cur.2).regs = (u.strand c s.cur.2).regs

/-- Taking a fault (01 R33, 17 R322, R324, R325) on a core whose fault address hits the translation cache, on a writable page of HBM4: the
64-byte record is written there and no other byte of memory; the strands that ran are faulted and keep the state they had, a halted or
idle one stays; with an enabled handler and none running, X's block goes to the shadow and X runs at the entry with its registers, else
the node ends with the fault's code. All of this at once where the core has no word, transfer or acknowledgement left to wait for; where it
has, the record waits, as a release, and memory stays. -/
def Obligations.TrapsTaken : Prop := ∀ (c k : Nat) (f : Trap) (w pc : BitVec 32) (seq : Option Nat) (s : State) (e : TlbEntry),
  let x := s.core c
  let pa := wbits e.leaf 47 16 * 65536 + x.csr.faultPtr.toNat % 2 ^ e.bits
  let t := takeFault c k f w pc seq s
  k < 4 → x.preempt = false → (∀ j < 4, (x.strand j).st ≠ .faulted) → x.strands.map (·.1) = [0, 1, 2, 3] → x.node = none →
  tlbFind x.tlb x.csr.partition x.csr.faultPtr.toNat = some e → protect s { coreAccess s c with write := true } pa e.leaf = none →
  bits pa 47 46 = 0 → rangeReady s pa 64 = true → rangeLost s pa 64 = false →
    (∀ j < 4, (x.strand j).words ≠ [] → (∀ v ∈ (x.strand j).words, v.phase ≠ .queued) →
      t.mem = s.mem ∧ (t.core c).record = some (faultRecord s c k f w pc (x.records + 1)) ∧
        (t.core c).entering = (x.csr.tvec.getLsbD 0 && !x.csr.hnd)) ∧
    ((∀ j, (x.strand j).words = []) → x.d.xfers = [] → hostPending s c = false → peerPending s c = false →
    memReadN t.mem pa 64 =
      leBytes 8 (w.toNat * 2 ^ 32 + c % 2048 * 2 ^ 16 + k * 2 ^ 8 + f.code.toNat) ++ leBytes 8 x.csr.nodeId.toNat ++
      leBytes 8 (s.pkg.devId.toNat * 2 ^ 32 + pc.toNat) ++ leBytes 8 f.addr.toNat ++ leBytes 8 f.x0.toNat ++ leBytes 8 f.x1.toNat ++
      leBytes 8 (s.time.count.toNat / 2 ^ 32) ++ leBytes 8 (f.cls * 2 ^ 32 + (x.records + 1).toNat) ∧
    (∀ q, (q < pa ∨ pa + 64 ≤ q) → memRead t.mem q = memRead s.mem q) ∧
    (∀ j < 3, (t.strand c j).st = (if j = k ∨ (x.strand j).active = true then .faulted else (x.strand j).st) ∧
      (t.strand c j).regs = (x.strand j).regs ∧ (t.strand c j).pc = (x.strand j).pc) ∧
    (x.csr.tvec.getLsbD 0 = true → x.csr.hnd = false → x.ending = none →
      (t.core c).csr = { x.csr with hnd := true } ∧ (t.strand c 3).st = .running ∧ (t.strand c 3).regs = (x.strand 3).regs ∧
      (t.strand c 3).pc = BitVec.ofNat 32 (x.csr.tvec.toNat / 4 * 4) ∧ (t.core c).shadow.regs = (x.strand 3).regs ∧
      (t.core c).shadow.pc = (x.strand 3).pc ∧ (t.core c).ending = x.ending ∧
      (t.core c).shadow.st = (if 3 = k ∨ (x.strand 3).active = true then .faulted else (x.strand 3).st)) ∧
    (x.csr.tvec.getLsbD 0 = false ∨ x.csr.hnd = true → (t.core c).csr = x.csr ∧ (t.core c).ending = some f.code))

/-- Returning from a fault (17 R326), as TRET does once it acts: with resume, X's block comes back from the shadow, hnd is 0, and every
faulted strand has the state that it held before; with abort, or after a stop of the deferred class, hnd is 0 and the node ends with the
record's code. -/
def Obligations.TrapReturns : Prop := ∀ (c : Nat) (abort : Bool) (s : State),
  let x := s.core c
  let t := tret abort c s
  let back := fun (u : Strand) => if u.st = .faulted then u.prior else u.st
  t.mem = s.mem ∧ (t.core c).csr = { x.csr with hnd := false } ∧ (∀ e, e ≠ c → t.core e = s.core e) ∧
  (abort = true ∨ deferredStop x = true → (t.core c).d = x.d ∧ (t.core c).ending = some x.lastCode ∧ ∀ j, t.strand c j = s.strand c j) ∧
  (abort = false → deferredStop x = false → (t.core c).ending = x.ending ∧
    (t.core c).d = { x.d with xfers := x.d.xfers.map (fun f => { f with stopped := false }) } ∧
    (t.strand c 3).regs = x.shadow.regs ∧ (t.strand c 3).pc = x.shadow.pc ∧ (t.strand c 3).st = back x.shadow ∧
    (∀ j < 3, (t.strand c j).st = back (x.strand j) ∧ (t.strand c j).regs = (x.strand j).regs ∧ (t.strand c j).pc = (x.strand j).pc))

/-- A core cycle (00 R7, 22 R415): once nothing is left that must happen in it, the cycle counts on, package time advances by the rate, the
domains that are crossed break (12 R255), the stopped cores that have settled write their records and enter their handlers (17 R322, R325),
and nothing else of a register, memory or queue changes. A package without power makes no step but package reset (26 R449). -/
def Obligations.TimePasses : Prop := ∀ (s : State) (rest : List Turn),
  (s.pkg.powered = true → s.agenda = .tick :: rest → cycleOpen { s with agenda := rest } = false →
    let u := settleAll (breakAll { s with agenda := rest })
    ∃ t, step s = .next t ∧ t.cycle = s.cycle + 1 ∧ t.time.count = s.time.count + s.time.rate.setWidth 96 ∧ t.mem = u.mem ∧
      (∀ c k, t.strand c k = u.strand c k) ∧ (∀ c, (t.core c).d = (u.core c).d ∧ (t.core c).dq = (u.core c).dq ∧
        (t.core c).cq = (u.core c).cq ∧ (t.core c).tok = (u.core c).tok) ∧ t.pkg = u.pkg ∧ t.sync = u.sync ∧ t.agenda = rest ∧
      ((∀ c, (s.core c).record = none) → u.mem = s.mem ∧ (∀ c k, u.strand c k = s.strand c k) ∧ ∀ c, (u.core c).d = (s.core c).d ∧
        (u.core c).dq = (s.core c).dq ∧ (u.core c).cq = (s.core c).cq ∧ (u.core c).tok = (s.core c).tok)) ∧
  (s.pkg.powered = true → s.agenda = .tick :: rest → cycleOpen { s with agenda := rest } = true →
    step s = .next { s with agenda := rest }) ∧
  (s.pkg.powered = false → s.agenda = .tick :: rest → step s = .fault .powerOff)

/-- Data queues (01 R18, R19): on strand i, qn pushes the queue to strand (i + n) mod 4, which that strand reads as q(4 − n), first in,
first out; a word reserves its entry at issue and fills it when it retires; a full queue of eight entries holds the word, an entry not
yet filled holds the reader. -/
def Obligations.DataQueues : Prop := ∀ (c i n cyc seq : Nat) (rot : BitVec 4) (sendto v : Word) (x : Core),
  let j := (i + n) % 4
  let q := x.dqueue i j
  let y := reserve i seq (.dq j) x
  let z := writeDst c i cyc seq sendto (.dq j) v y
  i < 4 → 1 ≤ n → n ≤ 3 →
    dstOf i rot (some (BitVec.ofNat 5 (28 + n))) = .dq j ∧
    (dstRoom i (.dq j) x = none ↔ q.length < 8) ∧
    ((∀ e ∈ q, e.seq ≠ seq) → z.dqueue i j = q ++ [⟨seq, some v⟩]) ∧
    (∀ r, q = r → r = [] → popSrc j (some (BitVec.ofNat 5 (32 - n))) x = none) ∧
    (∀ e r, q = e :: r → e.val = none → popSrc j (some (BitVec.ofNat 5 (32 - n))) x = none) ∧
    (∀ e r o, q = e :: r → e.val = some o →
      ∃ p, popSrc j (some (BitVec.ofNat 5 (32 - n))) x = some (o, p) ∧ p.dqueue i j = r ∧ p.strands = x.strands ∧
        (∀ a b, (a, b) ≠ (i, j) → a < 4 → b < 4 → p.dqueue a b = x.dqueue a b))

/-- Words written out from the spec's encodings (02 R35 to R47 and the sample encodings of the chapters) decode to the instructions that
they stand for, and unassigned, reserved and hint words are told apart. -/
def Obligations.SampleWordsDecode : Prop :=
  let h : Hdr := ⟨0, 0⟩
  decode 0x00000000#32 = .ok (.addi h 0 0 0) ∧ decode 0x00028001#32 = .ok (.addi h 5 0 1) ∧
  decode 0x01022468#32 = .ok (.li h 4 0x2468) ∧ decode 0x198FB000#32 = .ok (.add ⟨3, 0⟩ 31 12 0) ∧
  decode 0x6E006110#32 = .ok (.vadd ⟨1, 3⟩ 3 1 2 0) ∧ decode 0x40029C00#32 = .ok (.mma h 1 2 3 1 0 0 0 0 0) ∧
  decode 0xB829000B#32 = .ok (.win ⟨3, 0⟩ 1 4 1 3) ∧ decode 0x8020000B#32 = .ok (.fence h 2 3) ∧
  decode 0x800A440A#32 = .ok (.stg h 9 2 0 2 2) ∧ decode 0x80C29264#32 = .ok (.red h 10 9 6 1) ∧
  decode 0xC0100000#32 = .ok (.halt h) ∧ decode 0xC0328001#32 = .ok (.rdtime h 10 1) ∧
  decode 0x01B00000#32 = .error .unassigned ∧ decode 0xC0100001#32 = .error (.reserved (.halt h)) ∧ decode 0x00428040#32 = .ok (.slli h 5 0 64) ∧
  (Instr.slli h 5 0 64).wf = false ∧ (Instr.slli h 5 0 63).wf = true
end

