-- ==== Sys2Proof/Laws/State.lean ====
section
/-! SUPPORT. The laws of tables and of State's updates: reading after writing, and one lemma for each field that an update leaves. -/

namespace Sys2Proof.Machine

/-! ### Tables -/

@[simp] theorem tget_tput_self {β : Type} (d x : β) (t : Table β) (n : Nat) : tget d (tput t n x) n = x := by
  induction t with
  | nil => simp [tput, tget]
  | cons p r ih =>
    obtain ⟨k, v⟩ := p
    unfold tput
    split
    · simp [tget]
    · split
      · simp [tget]
      · rename_i h1 h2
        simp [tget, h1, h2, ih]

theorem tget_tput_ne {β : Type} (d x : β) (t : Table β) {n m : Nat} (h : m ≠ n) : tget d (tput t n x) m = tget d t m := by
  induction t with
  | nil =>
    simp only [tput, tget]
    split
    · rfl
    · simp
  | cons p r ih =>
    obtain ⟨k, v⟩ := p
    unfold tput
    split
    · rename_i h1
      simp only [tget]
      by_cases h2 : m < n
      · have : m < k := by omega
        simp [h2, this]
      · simp [h2, h]
    · split
      · rename_i h1 h2
        subst h2
        simp only [tget]
        split
        · rfl
        · simp
      · rename_i h1 h2
        simp only [tget]
        rw [ih]

theorem tget_tput {β : Type} (d x : β) (t : Table β) (n m : Nat) :
    tget d (tput t n x) m = if m = n then x else tget d t m := by
  split
  · subst_vars
    simp
  · exact tget_tput_ne d x t (by assumption)

/-- Filtering out one key of a table. -/
@[simp] theorem tget_nil {β : Type} (d : β) (n : Nat) : tget d [] n = d := rfl

theorem tget_tmod {β : Type} (d : β) (t : Table β) (n m : Nat) (f : β → β) :
    tget d (tmod d t n f) m = if m = n then f (tget d t n) else tget d t m := tget_tput d _ t n m

/-- Applying one function to every value of a table. -/
theorem tget_map {β γ : Type} (d : β) (f : β → γ) (t : Table β) (n : Nat) :
    tget (f d) (t.map (fun x => (x.1, f x.2))) n = f (tget d t n) := by
  induction t with
  | nil => rfl
  | cons p r ih =>
    obtain ⟨k, v⟩ := p
    simp only [List.map_cons, tget, ih]
    split
    · rfl
    · split <;> rfl

/-- A table written out over rising keys, with the default's cells left out, reads as the function it was written from. -/
theorem tget_filter_map {β : Type} [BEq β] [LawfulBEq β] (d : β) (f : Nat → β) (l : List Nat) (h : l.Pairwise (· < ·)) (n : Nat) :
    tget d ((l.map (fun m => (m, f m))).filter (fun e => e.2 != d)) n = if n ∈ l then f n else d := by
  induction l with
  | nil => rfl
  | cons k r ih =>
    obtain ⟨hk, hr⟩ := List.pairwise_cons.1 h
    have hn : k ∉ r := fun hm => Nat.lt_irrefl k (hk k hm)
    simp only [List.map_cons, List.filter_cons]
    by_cases hd : f k = d
    · rw [if_neg (by simp [hd]), ih hr]
      by_cases e : n = k
      · subst e
        simp [hn, hd]
      · simp [e]
    · rw [if_pos (by simpa using hd)]
      simp only [tget]
      by_cases hlt : n < k
      · have : n ∉ r := fun hm => by
          have := hk n hm
          omega
        rw [if_pos hlt, if_neg (by
          simp only [List.mem_cons, not_or]
          exact ⟨by omega, this⟩)]
      · rw [if_neg hlt]
        by_cases e : n = k
        · simp [e]
        · rw [if_neg e, ih hr]
          simp [e]

/-- The last of two writes of one key stands. -/
theorem tput_tput {β : Type} (t : Table β) (n : Nat) (x y : β) : tput (tput t n x) n y = tput t n y := by
  induction t with
  | nil => simp [tput]
  | cons p r ih =>
    obtain ⟨k, v⟩ := p
    simp only [tput]
    split
    · simp [tput]
    · split
      · simp [tput]
      · simp [tput, *]

/-! ### Reading a part after its update -/

@[simp] theorem core_modCore (s : State) (c : Nat) (f : Core → Core) : (s.modCore c f).core c = f (s.core c) := tget_tput_self _ _ _ _
theorem core_modCore_ne (s : State) {c c' : Nat} (f : Core → Core) (h : c' ≠ c) : (s.modCore c f).core c' = s.core c' :=
  tget_tput_ne _ _ _ h
@[simp] theorem die_modDie (s : State) (d : Nat) (f : Die → Die) : (s.modDie d f).die d = f (s.die d) := tget_tput_self _ _ _ _
theorem die_modDie_ne (s : State) {d d' : Nat} (f : Die → Die) (h : d' ≠ d) : (s.modDie d f).die d' = s.die d' :=
  tget_tput_ne _ _ _ h
@[simp] theorem region_modRegion (s : State) (g : Nat) (f : Region → Region) : (s.modRegion g f).region g = f (s.region g) := tget_tput_self _ _ _ _
theorem region_modRegion_ne (s : State) {g g' : Nat} (f : Region → Region) (h : g' ≠ g) : (s.modRegion g f).region g' = s.region g' :=
  tget_tput_ne _ _ _ h
@[simp] theorem ring_modRing (s : State) (r : Nat) (f : Ring → Ring) : (s.modRing r f).ring r = f (s.ring r) := tget_tput_self _ _ _ _
theorem ring_modRing_ne (s : State) {r r' : Nat} (f : Ring → Ring) (h : r' ≠ r) : (s.modRing r f).ring r' = s.ring r' :=
  tget_tput_ne _ _ _ h
@[simp] theorem link_modLink (s : State) (l : Nat) (f : Link → Link) : (s.modLink l f).link l = f (s.link l) := tget_tput_self _ _ _ _
theorem link_modLink_ne (s : State) {l l' : Nat} (f : Link → Link) (h : l' ≠ l) : (s.modLink l f).link l' = s.link l' :=
  tget_tput_ne _ _ _ h
@[simp] theorem slot_modSlot (s : State) (r n : Nat) (f : SyncSlot → SyncSlot) : (s.modSlot r n f).slot r n = f (s.slot r n) :=
  tget_tput_self _ _ _ _
@[simp] theorem slice_modSlice (s : State) (d n : Nat) (f : Slice → Slice) : (s.modSlice d n f).slice d n = f (s.slice d n) :=
  tget_tput_self _ _ _ _
@[simp] theorem strand_setStrand (x : Core) (k : Nat) (t : Strand) : (x.setStrand k t).strand k = t := tget_tput_self _ _ _ _
theorem strand_setStrand_ne (x : Core) {k j : Nat} (t : Strand) (h : j ≠ k) : (x.setStrand k t).strand j = x.strand j :=
  tget_tput_ne _ _ _ h
@[simp] theorem strand_coreModStrand (x : Core) (k : Nat) (f : Strand → Strand) : (x.modStrand k f).strand k = f (x.strand k) :=
  tget_tput_self _ _ _ _
theorem strand_coreModStrand_ne (x : Core) {k j : Nat} (f : Strand → Strand) (h : j ≠ k) :
    (x.modStrand k f).strand j = x.strand j := tget_tput_ne _ _ _ h
@[simp] theorem core_modStrand (s : State) (c k : Nat) (f : Strand → Strand) :
    (s.modStrand c k f).core c = (s.core c).modStrand k f := tget_tput_self _ _ _ _
theorem core_modStrand_ne (s : State) {c c' : Nat} (k : Nat) (f : Strand → Strand) (h : c' ≠ c) :
    (s.modStrand c k f).core c' = s.core c' := tget_tput_ne _ _ _ h
@[simp] theorem core_setCore (s : State) (c : Nat) (x : Core) : (s.setCore c x).core c = x := tget_tput_self _ _ _ _
theorem core_setCore_ne (s : State) {c c' : Nat} (x : Core) (h : c' ≠ c) : (s.setCore c x).core c' = s.core c' :=
  tget_tput_ne _ _ _ h
@[simp] theorem core_modCsr (s : State) (c : Nat) (f : CoreCsr → CoreCsr) :
    (s.modCsr c f).core c = { s.core c with csr := f (s.core c).csr } := tget_tput_self _ _ _ _
@[simp] theorem core_modData (s : State) (c : Nat) (f : CoreData → CoreData) :
    (s.modData c f).core c = { s.core c with d := f (s.core c).d } := tget_tput_self _ _ _ _
theorem core_modCsr_ne (s : State) {c c' : Nat} (f : CoreCsr → CoreCsr) (h : c' ≠ c) : (s.modCsr c f).core c' = s.core c' :=
  tget_tput_ne _ _ _ h
theorem core_modData_ne (s : State) {c c' : Nat} (f : CoreData → CoreData) (h : c' ≠ c) : (s.modData c f).core c' = s.core c' :=
  tget_tput_ne _ _ _ h
@[simp] theorem queue_setQueue (t : Strand) (e : Engine) (q : List QWord) : (t.setQueue e q).queue e = q := tget_tput_self _ _ _ _
theorem reg_setReg (t : Strand) (p n : Nat) (x : Word) :
    (t.setReg p x).reg n = if n = 0 then 0 else if n = p then x else t.reg n := by
  unfold Strand.setReg Strand.reg
  by_cases h : n = 0
  · simp [h]
  · by_cases hp : p = 0
    · subst hp
      simp [h]
    · by_cases e : n = p
      · subst e
        simp [h]
      · simp [h, hp, e, tget_tput_ne]
@[simp] theorem reg_zero (t : Strand) : t.reg 0 = 0 := rfl
@[simp] theorem getK_zero (x : CoreData) : x.getK 0 = BitVec.allOnes 256 := rfl
@[simp] theorem setK_zero (x : CoreData) (b : BitVec 256) : x.setK 0 b = x := rfl
@[simp] theorem getM_setM (x : CoreData) (n : Nat) (t : Tile) : (x.setM n t).getM n = t := tget_tput_self _ _ _ _
@[simp] theorem getA_setA (x : CoreData) (n : Nat) (t : Acc) : (x.setA n t).getA n = t := tget_tput_self _ _ _ _
theorem getA_setA_ne (x : CoreData) {n m : Nat} (t : Acc) (h : m ≠ n) : (x.setA n t).getA m = x.getA m := tget_tput_ne _ _ _ h
@[simp] theorem getV_setV (x : CoreData) (n : Nat) (t : BitVec 2048) : (x.setV n t).getV n = t := tget_tput_self _ _ _ _
@[simp] theorem port_setPort (x : CoreData) (n : Nat) (t : Port) : (x.setPort n t).port n = t := tget_tput_self _ _ _ _

/-! ### Updates that give the same value, and two updates of one part -/

theorem modCore_congr {s : State} {c : Nat} {f f' : Core → Core} (h : f (s.core c) = f' (s.core c)) :
    s.modCore c f = s.modCore c f' :=
  congrArg (fun x => { s with cores := tput s.cores c x }) h
theorem modCore_modCore (s : State) (c : Nat) (f f' : Core → Core) :
    (s.modCore c f).modCore c f' = s.modCore c (fun x => f' (f x)) := by
  simp only [State.modCore, State.setCore, State.core, tget_tput_self, tput_tput]

theorem modDie_congr {s : State} {d : Nat} {f f' : Die → Die} (h : f (s.die d) = f' (s.die d)) :
    s.modDie d f = s.modDie d f' :=
  congrArg (fun x => { s with dies := tput s.dies d x }) h
theorem modDie_modDie (s : State) (d : Nat) (f f' : Die → Die) :
    (s.modDie d f).modDie d f' = s.modDie d (fun x => f' (f x)) := by
  simp only [State.modDie, tmod, tget_tput_self, tput_tput]

theorem modRegion_congr {s : State} {g : Nat} {f f' : Region → Region} (h : f (s.region g) = f' (s.region g)) :
    s.modRegion g f = s.modRegion g f' :=
  congrArg (fun x => { s with regions := tput s.regions g x }) h
theorem modRegion_modRegion (s : State) (g : Nat) (f f' : Region → Region) :
    (s.modRegion g f).modRegion g f' = s.modRegion g (fun x => f' (f x)) := by
  simp only [State.modRegion, tmod, tget_tput_self, tput_tput]

theorem modRing_congr {s : State} {r : Nat} {f f' : Ring → Ring} (h : f (s.ring r) = f' (s.ring r)) :
    s.modRing r f = s.modRing r f' :=
  congrArg (fun x => { s with rings := tput s.rings r x }) h
theorem modRing_modRing (s : State) (r : Nat) (f f' : Ring → Ring) :
    (s.modRing r f).modRing r f' = s.modRing r (fun x => f' (f x)) := by
  simp only [State.modRing, tmod, tget_tput_self, tput_tput]

theorem modLink_congr {s : State} {l : Nat} {f f' : Link → Link} (h : f (s.link l) = f' (s.link l)) :
    s.modLink l f = s.modLink l f' :=
  congrArg (fun x => { s with links := tput s.links l x }) h
theorem modLink_modLink (s : State) (l : Nat) (f f' : Link → Link) :
    (s.modLink l f).modLink l f' = s.modLink l (fun x => f' (f x)) := by
  simp only [State.modLink, tmod, tget_tput_self, tput_tput]

theorem modSlot_congr {s : State} {r n : Nat} {f f' : SyncSlot → SyncSlot} (h : f (s.slot r n) = f' (s.slot r n)) :
    s.modSlot r n f = s.modSlot r n f' :=
  congrArg (fun x => { s with sync := tput s.sync (r * 64 + n) x }) h
theorem modSlot_modSlot (s : State) (r n : Nat) (f f' : SyncSlot → SyncSlot) :
    (s.modSlot r n f).modSlot r n f' = s.modSlot r n (fun x => f' (f x)) := by
  simp only [State.modSlot, tmod, tget_tput_self, tput_tput]

/-! ### The fields that an update leaves -/

@[simp] theorem modCore_agenda (s : State) (c : Nat) (f : Core → Core) : (s.modCore c f).agenda = s.agenda := rfl
@[simp] theorem modCore_cur (s : State) (c : Nat) (f : Core → Core) : (s.modCore c f).cur = s.cur := rfl
@[simp] theorem modCore_now (s : State) (c : Nat) (f : Core → Core) : (s.modCore c f).now = s.now := rfl
@[simp] theorem modCore_free (s : State) (c : Nat) (f : Core → Core) : (s.modCore c f).free = s.free := rfl
@[simp] theorem modCore_cycle (s : State) (c : Nat) (f : Core → Core) : (s.modCore c f).cycle = s.cycle := rfl
@[simp] theorem modCore_time (s : State) (c : Nat) (f : Core → Core) : (s.modCore c f).time = s.time := rfl
@[simp] theorem modCore_mem (s : State) (c : Nat) (f : Core → Core) : (s.modCore c f).mem = s.mem := rfl
@[simp] theorem modCore_poison (s : State) (c : Nat) (f : Core → Core) : (s.modCore c f).poison = s.poison := rfl
@[simp] theorem modCore_badCopy (s : State) (c : Nat) (f : Core → Core) : (s.modCore c f).badCopy = s.badCopy := rfl
@[simp] theorem modCore_slices (s : State) (c : Nat) (f : Core → Core) : (s.modCore c f).slices = s.slices := rfl
@[simp] theorem modCore_dies (s : State) (c : Nat) (f : Core → Core) : (s.modCore c f).dies = s.dies := rfl
@[simp] theorem modCore_regions (s : State) (c : Nat) (f : Core → Core) : (s.modCore c f).regions = s.regions := rfl
@[simp] theorem modCore_rings (s : State) (c : Nat) (f : Core → Core) : (s.modCore c f).rings = s.rings := rfl
@[simp] theorem modCore_ucie (s : State) (c : Nat) (f : Core → Core) : (s.modCore c f).ucie = s.ucie := rfl
@[simp] theorem modCore_reqs (s : State) (c : Nat) (f : Core → Core) : (s.modCore c f).reqs = s.reqs := rfl
@[simp] theorem modCore_reqNext (s : State) (c : Nat) (f : Core → Core) : (s.modCore c f).reqNext = s.reqNext := rfl
@[simp] theorem modCore_asks (s : State) (c : Nat) (f : Core → Core) : (s.modCore c f).asks = s.asks := rfl
@[simp] theorem modCore_sync (s : State) (c : Nat) (f : Core → Core) : (s.modCore c f).sync = s.sync := rfl
@[simp] theorem modCore_folds (s : State) (c : Nat) (f : Core → Core) : (s.modCore c f).folds = s.folds := rfl
@[simp] theorem modCore_links (s : State) (c : Nat) (f : Core → Core) : (s.modCore c f).links = s.links := rfl
@[simp] theorem modCore_launchNext (s : State) (c : Nat) (f : Core → Core) : (s.modCore c f).launchNext = s.launchNext := rfl
@[simp] theorem modCore_pkg (s : State) (c : Nat) (f : Core → Core) : (s.modCore c f).pkg = s.pkg := rfl
@[simp] theorem modCore_images (s : State) (c : Nat) (f : Core → Core) : (s.modCore c f).images = s.images := rfl
@[simp] theorem modDie_agenda (s : State) (d : Nat) (f : Die → Die) : (s.modDie d f).agenda = s.agenda := rfl
@[simp] theorem modDie_cur (s : State) (d : Nat) (f : Die → Die) : (s.modDie d f).cur = s.cur := rfl
@[simp] theorem modDie_now (s : State) (d : Nat) (f : Die → Die) : (s.modDie d f).now = s.now := rfl
@[simp] theorem modDie_free (s : State) (d : Nat) (f : Die → Die) : (s.modDie d f).free = s.free := rfl
@[simp] theorem modDie_cycle (s : State) (d : Nat) (f : Die → Die) : (s.modDie d f).cycle = s.cycle := rfl
@[simp] theorem modDie_time (s : State) (d : Nat) (f : Die → Die) : (s.modDie d f).time = s.time := rfl
@[simp] theorem modDie_mem (s : State) (d : Nat) (f : Die → Die) : (s.modDie d f).mem = s.mem := rfl
@[simp] theorem modDie_poison (s : State) (d : Nat) (f : Die → Die) : (s.modDie d f).poison = s.poison := rfl
@[simp] theorem modDie_badCopy (s : State) (d : Nat) (f : Die → Die) : (s.modDie d f).badCopy = s.badCopy := rfl
@[simp] theorem modDie_cores (s : State) (d : Nat) (f : Die → Die) : (s.modDie d f).cores = s.cores := rfl
@[simp] theorem modDie_slices (s : State) (d : Nat) (f : Die → Die) : (s.modDie d f).slices = s.slices := rfl
@[simp] theorem modDie_regions (s : State) (d : Nat) (f : Die → Die) : (s.modDie d f).regions = s.regions := rfl
@[simp] theorem modDie_rings (s : State) (d : Nat) (f : Die → Die) : (s.modDie d f).rings = s.rings := rfl
@[simp] theorem modDie_ucie (s : State) (d : Nat) (f : Die → Die) : (s.modDie d f).ucie = s.ucie := rfl
@[simp] theorem modDie_reqs (s : State) (d : Nat) (f : Die → Die) : (s.modDie d f).reqs = s.reqs := rfl
@[simp] theorem modDie_reqNext (s : State) (d : Nat) (f : Die → Die) : (s.modDie d f).reqNext = s.reqNext := rfl
@[simp] theorem modDie_asks (s : State) (d : Nat) (f : Die → Die) : (s.modDie d f).asks = s.asks := rfl
@[simp] theorem modDie_sync (s : State) (d : Nat) (f : Die → Die) : (s.modDie d f).sync = s.sync := rfl
@[simp] theorem modDie_folds (s : State) (d : Nat) (f : Die → Die) : (s.modDie d f).folds = s.folds := rfl
@[simp] theorem modDie_links (s : State) (d : Nat) (f : Die → Die) : (s.modDie d f).links = s.links := rfl
@[simp] theorem modDie_launchNext (s : State) (d : Nat) (f : Die → Die) : (s.modDie d f).launchNext = s.launchNext := rfl
@[simp] theorem modDie_pkg (s : State) (d : Nat) (f : Die → Die) : (s.modDie d f).pkg = s.pkg := rfl
@[simp] theorem modDie_images (s : State) (d : Nat) (f : Die → Die) : (s.modDie d f).images = s.images := rfl
@[simp] theorem modSlice_agenda (s : State) (d n : Nat) (f : Slice → Slice) : (s.modSlice d n f).agenda = s.agenda := rfl
@[simp] theorem modSlice_cur (s : State) (d n : Nat) (f : Slice → Slice) : (s.modSlice d n f).cur = s.cur := rfl
@[simp] theorem modSlice_now (s : State) (d n : Nat) (f : Slice → Slice) : (s.modSlice d n f).now = s.now := rfl
@[simp] theorem modSlice_free (s : State) (d n : Nat) (f : Slice → Slice) : (s.modSlice d n f).free = s.free := rfl
@[simp] theorem modSlice_cycle (s : State) (d n : Nat) (f : Slice → Slice) : (s.modSlice d n f).cycle = s.cycle := rfl
@[simp] theorem modSlice_time (s : State) (d n : Nat) (f : Slice → Slice) : (s.modSlice d n f).time = s.time := rfl
@[simp] theorem modSlice_mem (s : State) (d n : Nat) (f : Slice → Slice) : (s.modSlice d n f).mem = s.mem := rfl
@[simp] theorem modSlice_poison (s : State) (d n : Nat) (f : Slice → Slice) : (s.modSlice d n f).poison = s.poison := rfl
@[simp] theorem modSlice_badCopy (s : State) (d n : Nat) (f : Slice → Slice) : (s.modSlice d n f).badCopy = s.badCopy := rfl
@[simp] theorem modSlice_cores (s : State) (d n : Nat) (f : Slice → Slice) : (s.modSlice d n f).cores = s.cores := rfl
@[simp] theorem modSlice_dies (s : State) (d n : Nat) (f : Slice → Slice) : (s.modSlice d n f).dies = s.dies := rfl
@[simp] theorem modSlice_regions (s : State) (d n : Nat) (f : Slice → Slice) : (s.modSlice d n f).regions = s.regions := rfl
@[simp] theorem modSlice_rings (s : State) (d n : Nat) (f : Slice → Slice) : (s.modSlice d n f).rings = s.rings := rfl
@[simp] theorem modSlice_ucie (s : State) (d n : Nat) (f : Slice → Slice) : (s.modSlice d n f).ucie = s.ucie := rfl
@[simp] theorem modSlice_reqs (s : State) (d n : Nat) (f : Slice → Slice) : (s.modSlice d n f).reqs = s.reqs := rfl
@[simp] theorem modSlice_reqNext (s : State) (d n : Nat) (f : Slice → Slice) : (s.modSlice d n f).reqNext = s.reqNext := rfl
@[simp] theorem modSlice_asks (s : State) (d n : Nat) (f : Slice → Slice) : (s.modSlice d n f).asks = s.asks := rfl
@[simp] theorem modSlice_sync (s : State) (d n : Nat) (f : Slice → Slice) : (s.modSlice d n f).sync = s.sync := rfl
@[simp] theorem modSlice_folds (s : State) (d n : Nat) (f : Slice → Slice) : (s.modSlice d n f).folds = s.folds := rfl
@[simp] theorem modSlice_links (s : State) (d n : Nat) (f : Slice → Slice) : (s.modSlice d n f).links = s.links := rfl
@[simp] theorem modSlice_launchNext (s : State) (d n : Nat) (f : Slice → Slice) : (s.modSlice d n f).launchNext = s.launchNext := rfl
@[simp] theorem modSlice_pkg (s : State) (d n : Nat) (f : Slice → Slice) : (s.modSlice d n f).pkg = s.pkg := rfl
@[simp] theorem modSlice_images (s : State) (d n : Nat) (f : Slice → Slice) : (s.modSlice d n f).images = s.images := rfl
@[simp] theorem modRegion_agenda (s : State) (g : Nat) (f : Region → Region) : (s.modRegion g f).agenda = s.agenda := rfl
@[simp] theorem modRegion_cur (s : State) (g : Nat) (f : Region → Region) : (s.modRegion g f).cur = s.cur := rfl
@[simp] theorem modRegion_now (s : State) (g : Nat) (f : Region → Region) : (s.modRegion g f).now = s.now := rfl
@[simp] theorem modRegion_free (s : State) (g : Nat) (f : Region → Region) : (s.modRegion g f).free = s.free := rfl
@[simp] theorem modRegion_cycle (s : State) (g : Nat) (f : Region → Region) : (s.modRegion g f).cycle = s.cycle := rfl
@[simp] theorem modRegion_time (s : State) (g : Nat) (f : Region → Region) : (s.modRegion g f).time = s.time := rfl
@[simp] theorem modRegion_mem (s : State) (g : Nat) (f : Region → Region) : (s.modRegion g f).mem = s.mem := rfl
@[simp] theorem modRegion_poison (s : State) (g : Nat) (f : Region → Region) : (s.modRegion g f).poison = s.poison := rfl
@[simp] theorem modRegion_badCopy (s : State) (g : Nat) (f : Region → Region) : (s.modRegion g f).badCopy = s.badCopy := rfl
@[simp] theorem modRegion_cores (s : State) (g : Nat) (f : Region → Region) : (s.modRegion g f).cores = s.cores := rfl
@[simp] theorem modRegion_slices (s : State) (g : Nat) (f : Region → Region) : (s.modRegion g f).slices = s.slices := rfl
@[simp] theorem modRegion_dies (s : State) (g : Nat) (f : Region → Region) : (s.modRegion g f).dies = s.dies := rfl
@[simp] theorem modRegion_rings (s : State) (g : Nat) (f : Region → Region) : (s.modRegion g f).rings = s.rings := rfl
@[simp] theorem modRegion_ucie (s : State) (g : Nat) (f : Region → Region) : (s.modRegion g f).ucie = s.ucie := rfl
@[simp] theorem modRegion_reqs (s : State) (g : Nat) (f : Region → Region) : (s.modRegion g f).reqs = s.reqs := rfl
@[simp] theorem modRegion_reqNext (s : State) (g : Nat) (f : Region → Region) : (s.modRegion g f).reqNext = s.reqNext := rfl
@[simp] theorem modRegion_asks (s : State) (g : Nat) (f : Region → Region) : (s.modRegion g f).asks = s.asks := rfl
@[simp] theorem modRegion_sync (s : State) (g : Nat) (f : Region → Region) : (s.modRegion g f).sync = s.sync := rfl
@[simp] theorem modRegion_folds (s : State) (g : Nat) (f : Region → Region) : (s.modRegion g f).folds = s.folds := rfl
@[simp] theorem modRegion_links (s : State) (g : Nat) (f : Region → Region) : (s.modRegion g f).links = s.links := rfl
@[simp] theorem modRegion_launchNext (s : State) (g : Nat) (f : Region → Region) : (s.modRegion g f).launchNext = s.launchNext := rfl
@[simp] theorem modRegion_pkg (s : State) (g : Nat) (f : Region → Region) : (s.modRegion g f).pkg = s.pkg := rfl
@[simp] theorem modRegion_images (s : State) (g : Nat) (f : Region → Region) : (s.modRegion g f).images = s.images := rfl
@[simp] theorem modRing_agenda (s : State) (r : Nat) (f : Ring → Ring) : (s.modRing r f).agenda = s.agenda := rfl
@[simp] theorem modRing_cur (s : State) (r : Nat) (f : Ring → Ring) : (s.modRing r f).cur = s.cur := rfl
@[simp] theorem modRing_now (s : State) (r : Nat) (f : Ring → Ring) : (s.modRing r f).now = s.now := rfl
@[simp] theorem modRing_free (s : State) (r : Nat) (f : Ring → Ring) : (s.modRing r f).free = s.free := rfl
@[simp] theorem modRing_cycle (s : State) (r : Nat) (f : Ring → Ring) : (s.modRing r f).cycle = s.cycle := rfl
@[simp] theorem modRing_time (s : State) (r : Nat) (f : Ring → Ring) : (s.modRing r f).time = s.time := rfl
@[simp] theorem modRing_mem (s : State) (r : Nat) (f : Ring → Ring) : (s.modRing r f).mem = s.mem := rfl
@[simp] theorem modRing_poison (s : State) (r : Nat) (f : Ring → Ring) : (s.modRing r f).poison = s.poison := rfl
@[simp] theorem modRing_badCopy (s : State) (r : Nat) (f : Ring → Ring) : (s.modRing r f).badCopy = s.badCopy := rfl
@[simp] theorem modRing_cores (s : State) (r : Nat) (f : Ring → Ring) : (s.modRing r f).cores = s.cores := rfl
@[simp] theorem modRing_slices (s : State) (r : Nat) (f : Ring → Ring) : (s.modRing r f).slices = s.slices := rfl
@[simp] theorem modRing_dies (s : State) (r : Nat) (f : Ring → Ring) : (s.modRing r f).dies = s.dies := rfl
@[simp] theorem modRing_regions (s : State) (r : Nat) (f : Ring → Ring) : (s.modRing r f).regions = s.regions := rfl
@[simp] theorem modRing_ucie (s : State) (r : Nat) (f : Ring → Ring) : (s.modRing r f).ucie = s.ucie := rfl
@[simp] theorem modRing_reqs (s : State) (r : Nat) (f : Ring → Ring) : (s.modRing r f).reqs = s.reqs := rfl
@[simp] theorem modRing_reqNext (s : State) (r : Nat) (f : Ring → Ring) : (s.modRing r f).reqNext = s.reqNext := rfl
@[simp] theorem modRing_asks (s : State) (r : Nat) (f : Ring → Ring) : (s.modRing r f).asks = s.asks := rfl
@[simp] theorem modRing_sync (s : State) (r : Nat) (f : Ring → Ring) : (s.modRing r f).sync = s.sync := rfl
@[simp] theorem modRing_folds (s : State) (r : Nat) (f : Ring → Ring) : (s.modRing r f).folds = s.folds := rfl
@[simp] theorem modRing_links (s : State) (r : Nat) (f : Ring → Ring) : (s.modRing r f).links = s.links := rfl
@[simp] theorem modRing_launchNext (s : State) (r : Nat) (f : Ring → Ring) : (s.modRing r f).launchNext = s.launchNext := rfl
@[simp] theorem modRing_pkg (s : State) (r : Nat) (f : Ring → Ring) : (s.modRing r f).pkg = s.pkg := rfl
@[simp] theorem modRing_images (s : State) (r : Nat) (f : Ring → Ring) : (s.modRing r f).images = s.images := rfl
@[simp] theorem modSlot_agenda (s : State) (r n : Nat) (f : SyncSlot → SyncSlot) : (s.modSlot r n f).agenda = s.agenda := rfl
@[simp] theorem modSlot_cur (s : State) (r n : Nat) (f : SyncSlot → SyncSlot) : (s.modSlot r n f).cur = s.cur := rfl
@[simp] theorem modSlot_now (s : State) (r n : Nat) (f : SyncSlot → SyncSlot) : (s.modSlot r n f).now = s.now := rfl
@[simp] theorem modSlot_free (s : State) (r n : Nat) (f : SyncSlot → SyncSlot) : (s.modSlot r n f).free = s.free := rfl
@[simp] theorem modSlot_cycle (s : State) (r n : Nat) (f : SyncSlot → SyncSlot) : (s.modSlot r n f).cycle = s.cycle := rfl
@[simp] theorem modSlot_time (s : State) (r n : Nat) (f : SyncSlot → SyncSlot) : (s.modSlot r n f).time = s.time := rfl
@[simp] theorem modSlot_mem (s : State) (r n : Nat) (f : SyncSlot → SyncSlot) : (s.modSlot r n f).mem = s.mem := rfl
@[simp] theorem modSlot_poison (s : State) (r n : Nat) (f : SyncSlot → SyncSlot) : (s.modSlot r n f).poison = s.poison := rfl
@[simp] theorem modSlot_badCopy (s : State) (r n : Nat) (f : SyncSlot → SyncSlot) : (s.modSlot r n f).badCopy = s.badCopy := rfl
@[simp] theorem modSlot_cores (s : State) (r n : Nat) (f : SyncSlot → SyncSlot) : (s.modSlot r n f).cores = s.cores := rfl
@[simp] theorem modSlot_slices (s : State) (r n : Nat) (f : SyncSlot → SyncSlot) : (s.modSlot r n f).slices = s.slices := rfl
@[simp] theorem modSlot_dies (s : State) (r n : Nat) (f : SyncSlot → SyncSlot) : (s.modSlot r n f).dies = s.dies := rfl
@[simp] theorem modSlot_regions (s : State) (r n : Nat) (f : SyncSlot → SyncSlot) : (s.modSlot r n f).regions = s.regions := rfl
@[simp] theorem modSlot_rings (s : State) (r n : Nat) (f : SyncSlot → SyncSlot) : (s.modSlot r n f).rings = s.rings := rfl
@[simp] theorem modSlot_ucie (s : State) (r n : Nat) (f : SyncSlot → SyncSlot) : (s.modSlot r n f).ucie = s.ucie := rfl
@[simp] theorem modSlot_reqs (s : State) (r n : Nat) (f : SyncSlot → SyncSlot) : (s.modSlot r n f).reqs = s.reqs := rfl
@[simp] theorem modSlot_reqNext (s : State) (r n : Nat) (f : SyncSlot → SyncSlot) : (s.modSlot r n f).reqNext = s.reqNext := rfl
@[simp] theorem modSlot_asks (s : State) (r n : Nat) (f : SyncSlot → SyncSlot) : (s.modSlot r n f).asks = s.asks := rfl
@[simp] theorem modSlot_folds (s : State) (r n : Nat) (f : SyncSlot → SyncSlot) : (s.modSlot r n f).folds = s.folds := rfl
@[simp] theorem modSlot_links (s : State) (r n : Nat) (f : SyncSlot → SyncSlot) : (s.modSlot r n f).links = s.links := rfl
@[simp] theorem modSlot_launchNext (s : State) (r n : Nat) (f : SyncSlot → SyncSlot) : (s.modSlot r n f).launchNext = s.launchNext := rfl
@[simp] theorem modSlot_pkg (s : State) (r n : Nat) (f : SyncSlot → SyncSlot) : (s.modSlot r n f).pkg = s.pkg := rfl
@[simp] theorem modSlot_images (s : State) (r n : Nat) (f : SyncSlot → SyncSlot) : (s.modSlot r n f).images = s.images := rfl
@[simp] theorem modLink_agenda (s : State) (l : Nat) (f : Link → Link) : (s.modLink l f).agenda = s.agenda := rfl
@[simp] theorem modLink_cur (s : State) (l : Nat) (f : Link → Link) : (s.modLink l f).cur = s.cur := rfl
@[simp] theorem modLink_now (s : State) (l : Nat) (f : Link → Link) : (s.modLink l f).now = s.now := rfl
@[simp] theorem modLink_free (s : State) (l : Nat) (f : Link → Link) : (s.modLink l f).free = s.free := rfl
@[simp] theorem modLink_cycle (s : State) (l : Nat) (f : Link → Link) : (s.modLink l f).cycle = s.cycle := rfl
@[simp] theorem modLink_time (s : State) (l : Nat) (f : Link → Link) : (s.modLink l f).time = s.time := rfl
@[simp] theorem modLink_mem (s : State) (l : Nat) (f : Link → Link) : (s.modLink l f).mem = s.mem := rfl
@[simp] theorem modLink_poison (s : State) (l : Nat) (f : Link → Link) : (s.modLink l f).poison = s.poison := rfl
@[simp] theorem modLink_badCopy (s : State) (l : Nat) (f : Link → Link) : (s.modLink l f).badCopy = s.badCopy := rfl
@[simp] theorem modLink_cores (s : State) (l : Nat) (f : Link → Link) : (s.modLink l f).cores = s.cores := rfl
@[simp] theorem modLink_slices (s : State) (l : Nat) (f : Link → Link) : (s.modLink l f).slices = s.slices := rfl
@[simp] theorem modLink_dies (s : State) (l : Nat) (f : Link → Link) : (s.modLink l f).dies = s.dies := rfl
@[simp] theorem modLink_regions (s : State) (l : Nat) (f : Link → Link) : (s.modLink l f).regions = s.regions := rfl
@[simp] theorem modLink_rings (s : State) (l : Nat) (f : Link → Link) : (s.modLink l f).rings = s.rings := rfl
@[simp] theorem modLink_ucie (s : State) (l : Nat) (f : Link → Link) : (s.modLink l f).ucie = s.ucie := rfl
@[simp] theorem modLink_reqs (s : State) (l : Nat) (f : Link → Link) : (s.modLink l f).reqs = s.reqs := rfl
@[simp] theorem modLink_reqNext (s : State) (l : Nat) (f : Link → Link) : (s.modLink l f).reqNext = s.reqNext := rfl
@[simp] theorem modLink_asks (s : State) (l : Nat) (f : Link → Link) : (s.modLink l f).asks = s.asks := rfl
@[simp] theorem modLink_sync (s : State) (l : Nat) (f : Link → Link) : (s.modLink l f).sync = s.sync := rfl
@[simp] theorem modLink_folds (s : State) (l : Nat) (f : Link → Link) : (s.modLink l f).folds = s.folds := rfl
@[simp] theorem modLink_launchNext (s : State) (l : Nat) (f : Link → Link) : (s.modLink l f).launchNext = s.launchNext := rfl
@[simp] theorem modLink_pkg (s : State) (l : Nat) (f : Link → Link) : (s.modLink l f).pkg = s.pkg := rfl
@[simp] theorem modLink_images (s : State) (l : Nat) (f : Link → Link) : (s.modLink l f).images = s.images := rfl
@[simp] theorem takeFree_agenda (s : State) : (s.takeFree).agenda = s.agenda := rfl
@[simp] theorem takeFree_cur (s : State) : (s.takeFree).cur = s.cur := rfl
@[simp] theorem takeFree_now (s : State) : (s.takeFree).now = s.now := rfl
@[simp] theorem takeFree_cycle (s : State) : (s.takeFree).cycle = s.cycle := rfl
@[simp] theorem takeFree_time (s : State) : (s.takeFree).time = s.time := rfl
@[simp] theorem takeFree_mem (s : State) : (s.takeFree).mem = s.mem := rfl
@[simp] theorem takeFree_poison (s : State) : (s.takeFree).poison = s.poison := rfl
@[simp] theorem takeFree_badCopy (s : State) : (s.takeFree).badCopy = s.badCopy := rfl
@[simp] theorem takeFree_cores (s : State) : (s.takeFree).cores = s.cores := rfl
@[simp] theorem takeFree_slices (s : State) : (s.takeFree).slices = s.slices := rfl
@[simp] theorem takeFree_dies (s : State) : (s.takeFree).dies = s.dies := rfl
@[simp] theorem takeFree_regions (s : State) : (s.takeFree).regions = s.regions := rfl
@[simp] theorem takeFree_rings (s : State) : (s.takeFree).rings = s.rings := rfl
@[simp] theorem takeFree_ucie (s : State) : (s.takeFree).ucie = s.ucie := rfl
@[simp] theorem takeFree_reqs (s : State) : (s.takeFree).reqs = s.reqs := rfl
@[simp] theorem takeFree_reqNext (s : State) : (s.takeFree).reqNext = s.reqNext := rfl
@[simp] theorem takeFree_asks (s : State) : (s.takeFree).asks = s.asks := rfl
@[simp] theorem takeFree_sync (s : State) : (s.takeFree).sync = s.sync := rfl
@[simp] theorem takeFree_folds (s : State) : (s.takeFree).folds = s.folds := rfl
@[simp] theorem takeFree_links (s : State) : (s.takeFree).links = s.links := rfl
@[simp] theorem takeFree_launchNext (s : State) : (s.takeFree).launchNext = s.launchNext := rfl
@[simp] theorem takeFree_pkg (s : State) : (s.takeFree).pkg = s.pkg := rfl
@[simp] theorem takeFree_images (s : State) : (s.takeFree).images = s.images := rfl
@[simp] theorem modStrand_agenda (s : State) (c k : Nat) (f : Strand → Strand) : (s.modStrand c k f).agenda = s.agenda := rfl
@[simp] theorem modStrand_cur (s : State) (c k : Nat) (f : Strand → Strand) : (s.modStrand c k f).cur = s.cur := rfl
@[simp] theorem modStrand_now (s : State) (c k : Nat) (f : Strand → Strand) : (s.modStrand c k f).now = s.now := rfl
@[simp] theorem modStrand_free (s : State) (c k : Nat) (f : Strand → Strand) : (s.modStrand c k f).free = s.free := rfl
@[simp] theorem modStrand_cycle (s : State) (c k : Nat) (f : Strand → Strand) : (s.modStrand c k f).cycle = s.cycle := rfl
@[simp] theorem modStrand_time (s : State) (c k : Nat) (f : Strand → Strand) : (s.modStrand c k f).time = s.time := rfl
@[simp] theorem modStrand_mem (s : State) (c k : Nat) (f : Strand → Strand) : (s.modStrand c k f).mem = s.mem := rfl
@[simp] theorem modStrand_poison (s : State) (c k : Nat) (f : Strand → Strand) : (s.modStrand c k f).poison = s.poison := rfl
@[simp] theorem modStrand_badCopy (s : State) (c k : Nat) (f : Strand → Strand) : (s.modStrand c k f).badCopy = s.badCopy := rfl
@[simp] theorem modStrand_slices (s : State) (c k : Nat) (f : Strand → Strand) : (s.modStrand c k f).slices = s.slices := rfl
@[simp] theorem modStrand_dies (s : State) (c k : Nat) (f : Strand → Strand) : (s.modStrand c k f).dies = s.dies := rfl
@[simp] theorem modStrand_regions (s : State) (c k : Nat) (f : Strand → Strand) : (s.modStrand c k f).regions = s.regions := rfl
@[simp] theorem modStrand_rings (s : State) (c k : Nat) (f : Strand → Strand) : (s.modStrand c k f).rings = s.rings := rfl
@[simp] theorem modStrand_ucie (s : State) (c k : Nat) (f : Strand → Strand) : (s.modStrand c k f).ucie = s.ucie := rfl
@[simp] theorem modStrand_reqs (s : State) (c k : Nat) (f : Strand → Strand) : (s.modStrand c k f).reqs = s.reqs := rfl
@[simp] theorem modStrand_reqNext (s : State) (c k : Nat) (f : Strand → Strand) : (s.modStrand c k f).reqNext = s.reqNext := rfl
@[simp] theorem modStrand_asks (s : State) (c k : Nat) (f : Strand → Strand) : (s.modStrand c k f).asks = s.asks := rfl
@[simp] theorem modStrand_sync (s : State) (c k : Nat) (f : Strand → Strand) : (s.modStrand c k f).sync = s.sync := rfl
@[simp] theorem modStrand_folds (s : State) (c k : Nat) (f : Strand → Strand) : (s.modStrand c k f).folds = s.folds := rfl
@[simp] theorem modStrand_links (s : State) (c k : Nat) (f : Strand → Strand) : (s.modStrand c k f).links = s.links := rfl
@[simp] theorem modStrand_launchNext (s : State) (c k : Nat) (f : Strand → Strand) : (s.modStrand c k f).launchNext = s.launchNext := rfl
@[simp] theorem modStrand_pkg (s : State) (c k : Nat) (f : Strand → Strand) : (s.modStrand c k f).pkg = s.pkg := rfl
@[simp] theorem modStrand_images (s : State) (c k : Nat) (f : Strand → Strand) : (s.modStrand c k f).images = s.images := rfl
@[simp] theorem modCsr_agenda (s : State) (c : Nat) (f : CoreCsr → CoreCsr) : (s.modCsr c f).agenda = s.agenda := rfl
@[simp] theorem modCsr_cur (s : State) (c : Nat) (f : CoreCsr → CoreCsr) : (s.modCsr c f).cur = s.cur := rfl
@[simp] theorem modCsr_now (s : State) (c : Nat) (f : CoreCsr → CoreCsr) : (s.modCsr c f).now = s.now := rfl
@[simp] theorem modCsr_free (s : State) (c : Nat) (f : CoreCsr → CoreCsr) : (s.modCsr c f).free = s.free := rfl
@[simp] theorem modCsr_cycle (s : State) (c : Nat) (f : CoreCsr → CoreCsr) : (s.modCsr c f).cycle = s.cycle := rfl
@[simp] theorem modCsr_time (s : State) (c : Nat) (f : CoreCsr → CoreCsr) : (s.modCsr c f).time = s.time := rfl
@[simp] theorem modCsr_mem (s : State) (c : Nat) (f : CoreCsr → CoreCsr) : (s.modCsr c f).mem = s.mem := rfl
@[simp] theorem modCsr_poison (s : State) (c : Nat) (f : CoreCsr → CoreCsr) : (s.modCsr c f).poison = s.poison := rfl
@[simp] theorem modCsr_badCopy (s : State) (c : Nat) (f : CoreCsr → CoreCsr) : (s.modCsr c f).badCopy = s.badCopy := rfl
@[simp] theorem modCsr_slices (s : State) (c : Nat) (f : CoreCsr → CoreCsr) : (s.modCsr c f).slices = s.slices := rfl
@[simp] theorem modCsr_dies (s : State) (c : Nat) (f : CoreCsr → CoreCsr) : (s.modCsr c f).dies = s.dies := rfl
@[simp] theorem modCsr_regions (s : State) (c : Nat) (f : CoreCsr → CoreCsr) : (s.modCsr c f).regions = s.regions := rfl
@[simp] theorem modCsr_rings (s : State) (c : Nat) (f : CoreCsr → CoreCsr) : (s.modCsr c f).rings = s.rings := rfl
@[simp] theorem modCsr_ucie (s : State) (c : Nat) (f : CoreCsr → CoreCsr) : (s.modCsr c f).ucie = s.ucie := rfl
@[simp] theorem modCsr_reqs (s : State) (c : Nat) (f : CoreCsr → CoreCsr) : (s.modCsr c f).reqs = s.reqs := rfl
@[simp] theorem modCsr_reqNext (s : State) (c : Nat) (f : CoreCsr → CoreCsr) : (s.modCsr c f).reqNext = s.reqNext := rfl
@[simp] theorem modCsr_asks (s : State) (c : Nat) (f : CoreCsr → CoreCsr) : (s.modCsr c f).asks = s.asks := rfl
@[simp] theorem modCsr_sync (s : State) (c : Nat) (f : CoreCsr → CoreCsr) : (s.modCsr c f).sync = s.sync := rfl
@[simp] theorem modCsr_folds (s : State) (c : Nat) (f : CoreCsr → CoreCsr) : (s.modCsr c f).folds = s.folds := rfl
@[simp] theorem modCsr_links (s : State) (c : Nat) (f : CoreCsr → CoreCsr) : (s.modCsr c f).links = s.links := rfl
@[simp] theorem modCsr_launchNext (s : State) (c : Nat) (f : CoreCsr → CoreCsr) : (s.modCsr c f).launchNext = s.launchNext := rfl
@[simp] theorem modCsr_pkg (s : State) (c : Nat) (f : CoreCsr → CoreCsr) : (s.modCsr c f).pkg = s.pkg := rfl
@[simp] theorem modCsr_images (s : State) (c : Nat) (f : CoreCsr → CoreCsr) : (s.modCsr c f).images = s.images := rfl
@[simp] theorem modData_agenda (s : State) (c : Nat) (f : CoreData → CoreData) : (s.modData c f).agenda = s.agenda := rfl
@[simp] theorem modData_cur (s : State) (c : Nat) (f : CoreData → CoreData) : (s.modData c f).cur = s.cur := rfl
@[simp] theorem modData_now (s : State) (c : Nat) (f : CoreData → CoreData) : (s.modData c f).now = s.now := rfl
@[simp] theorem modData_free (s : State) (c : Nat) (f : CoreData → CoreData) : (s.modData c f).free = s.free := rfl
@[simp] theorem modData_cycle (s : State) (c : Nat) (f : CoreData → CoreData) : (s.modData c f).cycle = s.cycle := rfl
@[simp] theorem modData_time (s : State) (c : Nat) (f : CoreData → CoreData) : (s.modData c f).time = s.time := rfl
@[simp] theorem modData_mem (s : State) (c : Nat) (f : CoreData → CoreData) : (s.modData c f).mem = s.mem := rfl
@[simp] theorem modData_poison (s : State) (c : Nat) (f : CoreData → CoreData) : (s.modData c f).poison = s.poison := rfl
@[simp] theorem modData_badCopy (s : State) (c : Nat) (f : CoreData → CoreData) : (s.modData c f).badCopy = s.badCopy := rfl
@[simp] theorem modData_slices (s : State) (c : Nat) (f : CoreData → CoreData) : (s.modData c f).slices = s.slices := rfl
@[simp] theorem modData_dies (s : State) (c : Nat) (f : CoreData → CoreData) : (s.modData c f).dies = s.dies := rfl
@[simp] theorem modData_regions (s : State) (c : Nat) (f : CoreData → CoreData) : (s.modData c f).regions = s.regions := rfl
@[simp] theorem modData_rings (s : State) (c : Nat) (f : CoreData → CoreData) : (s.modData c f).rings = s.rings := rfl
@[simp] theorem modData_ucie (s : State) (c : Nat) (f : CoreData → CoreData) : (s.modData c f).ucie = s.ucie := rfl
@[simp] theorem modData_reqs (s : State) (c : Nat) (f : CoreData → CoreData) : (s.modData c f).reqs = s.reqs := rfl
@[simp] theorem modData_reqNext (s : State) (c : Nat) (f : CoreData → CoreData) : (s.modData c f).reqNext = s.reqNext := rfl
@[simp] theorem modData_asks (s : State) (c : Nat) (f : CoreData → CoreData) : (s.modData c f).asks = s.asks := rfl
@[simp] theorem modData_sync (s : State) (c : Nat) (f : CoreData → CoreData) : (s.modData c f).sync = s.sync := rfl
@[simp] theorem modData_folds (s : State) (c : Nat) (f : CoreData → CoreData) : (s.modData c f).folds = s.folds := rfl
@[simp] theorem modData_links (s : State) (c : Nat) (f : CoreData → CoreData) : (s.modData c f).links = s.links := rfl
@[simp] theorem modData_launchNext (s : State) (c : Nat) (f : CoreData → CoreData) : (s.modData c f).launchNext = s.launchNext := rfl
@[simp] theorem modData_pkg (s : State) (c : Nat) (f : CoreData → CoreData) : (s.modData c f).pkg = s.pkg := rfl
@[simp] theorem modData_images (s : State) (c : Nat) (f : CoreData → CoreData) : (s.modData c f).images = s.images := rfl
@[simp] theorem coreModStrand_code (x : Core) (k : Nat) (f : Strand → Strand) : (x.modStrand k f).code = x.code := rfl
@[simp] theorem coreModStrand_codeBad (x : Core) (k : Nat) (f : Strand → Strand) : (x.modStrand k f).codeBad = x.codeBad := rfl
@[simp] theorem coreModStrand_textTag (x : Core) (k : Nat) (f : Strand → Strand) : (x.modStrand k f).textTag = x.textTag := rfl
@[simp] theorem coreModStrand_profile (x : Core) (k : Nat) (f : Strand → Strand) : (x.modStrand k f).profile = x.profile := rfl
@[simp] theorem coreModStrand_csr (x : Core) (k : Nat) (f : Strand → Strand) : (x.modStrand k f).csr = x.csr := rfl
@[simp] theorem coreModStrand_d (x : Core) (k : Nat) (f : Strand → Strand) : (x.modStrand k f).d = x.d := rfl
@[simp] theorem coreModStrand_dq (x : Core) (k : Nat) (f : Strand → Strand) : (x.modStrand k f).dq = x.dq := rfl
@[simp] theorem coreModStrand_cq (x : Core) (k : Nat) (f : Strand → Strand) : (x.modStrand k f).cq = x.cq := rfl
@[simp] theorem coreModStrand_cqRes (x : Core) (k : Nat) (f : Strand → Strand) : (x.modStrand k f).cqRes = x.cqRes := rfl
@[simp] theorem coreModStrand_recv (x : Core) (k : Nat) (f : Strand → Strand) : (x.modStrand k f).recv = x.recv := rfl
@[simp] theorem coreModStrand_inj (x : Core) (k : Nat) (f : Strand → Strand) : (x.modStrand k f).inj = x.inj := rfl
@[simp] theorem coreModStrand_injRes (x : Core) (k : Nat) (f : Strand → Strand) : (x.modStrand k f).injRes = x.injRes := rfl
@[simp] theorem coreModStrand_injRide (x : Core) (k : Nat) (f : Strand → Strand) : (x.modStrand k f).injRide = x.injRide := rfl
@[simp] theorem coreModStrand_mcOut (x : Core) (k : Nat) (f : Strand → Strand) : (x.modStrand k f).mcOut = x.mcOut := rfl
@[simp] theorem coreModStrand_tok (x : Core) (k : Nat) (f : Strand → Strand) : (x.modStrand k f).tok = x.tok := rfl
@[simp] theorem coreModStrand_tlb (x : Core) (k : Nat) (f : Strand → Strand) : (x.modStrand k f).tlb = x.tlb := rfl
@[simp] theorem coreModStrand_pend (x : Core) (k : Nat) (f : Strand → Strand) : (x.modStrand k f).pend = x.pend := rfl
@[simp] theorem coreModStrand_latches (x : Core) (k : Nat) (f : Strand → Strand) : (x.modStrand k f).latches = x.latches := rfl
@[simp] theorem coreModStrand_evt (x : Core) (k : Nat) (f : Strand → Strand) : (x.modStrand k f).evt = x.evt := rfl
@[simp] theorem coreModStrand_held (x : Core) (k : Nat) (f : Strand → Strand) : (x.modStrand k f).held = x.held := rfl
@[simp] theorem coreModStrand_seq (x : Core) (k : Nat) (f : Strand → Strand) : (x.modStrand k f).seq = x.seq := rfl
@[simp] theorem coreModStrand_frzUntil (x : Core) (k : Nat) (f : Strand → Strand) : (x.modStrand k f).frzUntil = x.frzUntil := rfl
@[simp] theorem coreModStrand_frzPend (x : Core) (k : Nat) (f : Strand → Strand) : (x.modStrand k f).frzPend = x.frzPend := rfl
@[simp] theorem coreModStrand_stuck (x : Core) (k : Nat) (f : Strand → Strand) : (x.modStrand k f).stuck = x.stuck := rfl
@[simp] theorem coreModStrand_ending (x : Core) (k : Nat) (f : Strand → Strand) : (x.modStrand k f).ending = x.ending := rfl
@[simp] theorem coreModStrand_preempt (x : Core) (k : Nat) (f : Strand → Strand) : (x.modStrand k f).preempt = x.preempt := rfl
@[simp] theorem coreModStrand_records (x : Core) (k : Nat) (f : Strand → Strand) : (x.modStrand k f).records = x.records := rfl
@[simp] theorem coreModStrand_lastCode (x : Core) (k : Nat) (f : Strand → Strand) : (x.modStrand k f).lastCode = x.lastCode := rfl
@[simp] theorem coreModStrand_shadow (x : Core) (k : Nat) (f : Strand → Strand) : (x.modStrand k f).shadow = x.shadow := rfl
@[simp] theorem coreModStrand_hndSeq (x : Core) (k : Nat) (f : Strand → Strand) : (x.modStrand k f).hndSeq = x.hndSeq := rfl
@[simp] theorem coreModStrand_record (x : Core) (k : Nat) (f : Strand → Strand) : (x.modStrand k f).record = x.record := rfl
@[simp] theorem coreModStrand_entering (x : Core) (k : Nat) (f : Strand → Strand) : (x.modStrand k f).entering = x.entering := rfl
@[simp] theorem coreModStrand_failHeld (x : Core) (k : Nat) (f : Strand → Strand) : (x.modStrand k f).failHeld = x.failHeld := rfl
@[simp] theorem coreModStrand_raw (x : Core) (k : Nat) (f : Strand → Strand) : (x.modStrand k f).raw = x.raw := rfl
@[simp] theorem coreModStrand_node (x : Core) (k : Nat) (f : Strand → Strand) : (x.modStrand k f).node = x.node := rfl
@[simp] theorem coreModStrand_mark (x : Core) (k : Nat) (f : Strand → Strand) : (x.modStrand k f).mark = x.mark := rfl
@[simp] theorem setQueue_st (t : Strand) (e : Engine) (q : List QWord) : (t.setQueue e q).st = t.st := rfl
@[simp] theorem setQueue_prior (t : Strand) (e : Engine) (q : List QWord) : (t.setQueue e q).prior = t.prior := rfl
@[simp] theorem setQueue_under (t : Strand) (e : Engine) (q : List QWord) : (t.setQueue e q).under = t.under := rfl
@[simp] theorem setQueue_unused (t : Strand) (e : Engine) (q : List QWord) : (t.setQueue e q).unused = t.unused := rfl
@[simp] theorem setQueue_pc (t : Strand) (e : Engine) (q : List QWord) : (t.setQueue e q).pc = t.pc := rfl
@[simp] theorem setQueue_regs (t : Strand) (e : Engine) (q : List QWord) : (t.setQueue e q).regs = t.regs := rfl
@[simp] theorem setQueue_lc (t : Strand) (e : Engine) (q : List QWord) : (t.setQueue e q).lc = t.lc := rfl
@[simp] theorem setQueue_rotBase (t : Strand) (e : Engine) (q : List QWord) : (t.setQueue e q).rotBase = t.rotBase := rfl
@[simp] theorem setQueue_stagep (t : Strand) (e : Engine) (q : List QWord) : (t.setQueue e q).stagep = t.stagep := rfl
@[simp] theorem setQueue_latch (t : Strand) (e : Engine) (q : List QWord) : (t.setQueue e q).latch = t.latch := rfl
@[simp] theorem setQueue_cover (t : Strand) (e : Engine) (q : List QWord) : (t.setQueue e q).cover = t.cover := rfl
@[simp] theorem setQueue_coverNull (t : Strand) (e : Engine) (q : List QWord) : (t.setQueue e q).coverNull = t.coverNull := rfl
@[simp] theorem setQueue_loop (t : Strand) (e : Engine) (q : List QWord) : (t.setQueue e q).loop = t.loop := rfl
@[simp] theorem setQueue_loopMem (t : Strand) (e : Engine) (q : List QWord) : (t.setQueue e q).loopMem = t.loopMem := rfl
@[simp] theorem setQueue_stage (t : Strand) (e : Engine) (q : List QWord) : (t.setQueue e q).stage = t.stage := rfl
@[simp] theorem setQueue_vtype (t : Strand) (e : Engine) (q : List QWord) : (t.setQueue e q).vtype = t.vtype := rfl
@[simp] theorem setQueue_fmtA (t : Strand) (e : Engine) (q : List QWord) : (t.setQueue e q).fmtA = t.fmtA := rfl
@[simp] theorem setQueue_fmtB (t : Strand) (e : Engine) (q : List QWord) : (t.setQueue e q).fmtB = t.fmtB := rfl
@[simp] theorem setQueue_fmtC (t : Strand) (e : Engine) (q : List QWord) : (t.setQueue e q).fmtC = t.fmtC := rfl
@[simp] theorem setQueue_flags (t : Strand) (e : Engine) (q : List QWord) : (t.setQueue e q).flags = t.flags := rfl
@[simp] theorem setQueue_trapen (t : Strand) (e : Engine) (q : List QWord) : (t.setQueue e q).trapen = t.trapen := rfl
@[simp] theorem setQueue_round (t : Strand) (e : Engine) (q : List QWord) : (t.setQueue e q).round = t.round := rfl
@[simp] theorem setQueue_srSeed (t : Strand) (e : Engine) (q : List QWord) : (t.setQueue e q).srSeed = t.srSeed := rfl
@[simp] theorem setQueue_g (t : Strand) (e : Engine) (q : List QWord) : (t.setQueue e q).g = t.g := rfl
@[simp] theorem setQueue_timeLatch (t : Strand) (e : Engine) (q : List QWord) : (t.setQueue e q).timeLatch = t.timeLatch := rfl
@[simp] theorem setQueue_pauseEnd (t : Strand) (e : Engine) (q : List QWord) : (t.setQueue e q).pauseEnd = t.pauseEnd := rfl
@[simp] theorem setQueue_issueAt (t : Strand) (e : Engine) (q : List QWord) : (t.setQueue e q).issueAt = t.issueAt := rfl
@[simp] theorem setQueue_prio (t : Strand) (e : Engine) (q : List QWord) : (t.setQueue e q).prio = t.prio := rfl
@[simp] theorem setQueue_reason (t : Strand) (e : Engine) (q : List QWord) : (t.setQueue e q).reason = t.reason := rfl
@[simp] theorem setQueue_stopSeq (t : Strand) (e : Engine) (q : List QWord) : (t.setQueue e q).stopSeq = t.stopSeq := rfl
@[simp] theorem setQueue_stop (t : Strand) (e : Engine) (q : List QWord) : (t.setQueue e q).stop = t.stop := rfl
@[simp] theorem setQueue_bad (t : Strand) (e : Engine) (q : List QWord) : (t.setQueue e q).bad = t.bad := rfl
@[simp] theorem setReg_st (t : Strand) (p : Nat) (x : Word) : (t.setReg p x).st = t.st := by unfold Strand.setReg; split <;> rfl
@[simp] theorem setReg_prior (t : Strand) (p : Nat) (x : Word) : (t.setReg p x).prior = t.prior := by unfold Strand.setReg; split <;> rfl
@[simp] theorem setReg_under (t : Strand) (p : Nat) (x : Word) : (t.setReg p x).under = t.under := by unfold Strand.setReg; split <;> rfl
@[simp] theorem setReg_unused (t : Strand) (p : Nat) (x : Word) : (t.setReg p x).unused = t.unused := by unfold Strand.setReg; split <;> rfl
@[simp] theorem setReg_pc (t : Strand) (p : Nat) (x : Word) : (t.setReg p x).pc = t.pc := by unfold Strand.setReg; split <;> rfl
@[simp] theorem setReg_lc (t : Strand) (p : Nat) (x : Word) : (t.setReg p x).lc = t.lc := by unfold Strand.setReg; split <;> rfl
@[simp] theorem setReg_rotBase (t : Strand) (p : Nat) (x : Word) : (t.setReg p x).rotBase = t.rotBase := by unfold Strand.setReg; split <;> rfl
@[simp] theorem setReg_stagep (t : Strand) (p : Nat) (x : Word) : (t.setReg p x).stagep = t.stagep := by unfold Strand.setReg; split <;> rfl
@[simp] theorem setReg_latch (t : Strand) (p : Nat) (x : Word) : (t.setReg p x).latch = t.latch := by unfold Strand.setReg; split <;> rfl
@[simp] theorem setReg_cover (t : Strand) (p : Nat) (x : Word) : (t.setReg p x).cover = t.cover := by unfold Strand.setReg; split <;> rfl
@[simp] theorem setReg_coverNull (t : Strand) (p : Nat) (x : Word) : (t.setReg p x).coverNull = t.coverNull := by unfold Strand.setReg; split <;> rfl
@[simp] theorem setReg_loop (t : Strand) (p : Nat) (x : Word) : (t.setReg p x).loop = t.loop := by unfold Strand.setReg; split <;> rfl
@[simp] theorem setReg_loopMem (t : Strand) (p : Nat) (x : Word) : (t.setReg p x).loopMem = t.loopMem := by unfold Strand.setReg; split <;> rfl
@[simp] theorem setReg_stage (t : Strand) (p : Nat) (x : Word) : (t.setReg p x).stage = t.stage := by unfold Strand.setReg; split <;> rfl
@[simp] theorem setReg_vtype (t : Strand) (p : Nat) (x : Word) : (t.setReg p x).vtype = t.vtype := by unfold Strand.setReg; split <;> rfl
@[simp] theorem setReg_fmtA (t : Strand) (p : Nat) (x : Word) : (t.setReg p x).fmtA = t.fmtA := by unfold Strand.setReg; split <;> rfl
@[simp] theorem setReg_fmtB (t : Strand) (p : Nat) (x : Word) : (t.setReg p x).fmtB = t.fmtB := by unfold Strand.setReg; split <;> rfl
@[simp] theorem setReg_fmtC (t : Strand) (p : Nat) (x : Word) : (t.setReg p x).fmtC = t.fmtC := by unfold Strand.setReg; split <;> rfl
@[simp] theorem setReg_flags (t : Strand) (p : Nat) (x : Word) : (t.setReg p x).flags = t.flags := by unfold Strand.setReg; split <;> rfl
@[simp] theorem setReg_trapen (t : Strand) (p : Nat) (x : Word) : (t.setReg p x).trapen = t.trapen := by unfold Strand.setReg; split <;> rfl
@[simp] theorem setReg_round (t : Strand) (p : Nat) (x : Word) : (t.setReg p x).round = t.round := by unfold Strand.setReg; split <;> rfl
@[simp] theorem setReg_srSeed (t : Strand) (p : Nat) (x : Word) : (t.setReg p x).srSeed = t.srSeed := by unfold Strand.setReg; split <;> rfl
@[simp] theorem setReg_g (t : Strand) (p : Nat) (x : Word) : (t.setReg p x).g = t.g := by unfold Strand.setReg; split <;> rfl
@[simp] theorem setReg_timeLatch (t : Strand) (p : Nat) (x : Word) : (t.setReg p x).timeLatch = t.timeLatch := by unfold Strand.setReg; split <;> rfl
@[simp] theorem setReg_pauseEnd (t : Strand) (p : Nat) (x : Word) : (t.setReg p x).pauseEnd = t.pauseEnd := by unfold Strand.setReg; split <;> rfl
@[simp] theorem setReg_issueAt (t : Strand) (p : Nat) (x : Word) : (t.setReg p x).issueAt = t.issueAt := by unfold Strand.setReg; split <;> rfl
@[simp] theorem setReg_prio (t : Strand) (p : Nat) (x : Word) : (t.setReg p x).prio = t.prio := by unfold Strand.setReg; split <;> rfl
@[simp] theorem setReg_reason (t : Strand) (p : Nat) (x : Word) : (t.setReg p x).reason = t.reason := by unfold Strand.setReg; split <;> rfl
@[simp] theorem setReg_stopSeq (t : Strand) (p : Nat) (x : Word) : (t.setReg p x).stopSeq = t.stopSeq := by unfold Strand.setReg; split <;> rfl
@[simp] theorem setReg_stop (t : Strand) (p : Nat) (x : Word) : (t.setReg p x).stop = t.stop := by unfold Strand.setReg; split <;> rfl
@[simp] theorem setReg_queues (t : Strand) (p : Nat) (x : Word) : (t.setReg p x).queues = t.queues := by unfold Strand.setReg; split <;> rfl

/-! ### Parts that an update leaves -/

@[simp] theorem core_modDie (s : State) (j : Nat) (d : Nat) (f : Die → Die) : (s.modDie d f).core j = s.core j := rfl
@[simp] theorem core_modSlice (s : State) (j : Nat) (d n : Nat) (f : Slice → Slice) : (s.modSlice d n f).core j = s.core j := rfl
@[simp] theorem core_modRegion (s : State) (j : Nat) (g : Nat) (f : Region → Region) : (s.modRegion g f).core j = s.core j := rfl
@[simp] theorem core_modRing (s : State) (j : Nat) (r : Nat) (f : Ring → Ring) : (s.modRing r f).core j = s.core j := rfl
@[simp] theorem core_modSlot (s : State) (j : Nat) (r n : Nat) (f : SyncSlot → SyncSlot) : (s.modSlot r n f).core j = s.core j := rfl
@[simp] theorem core_modLink (s : State) (j : Nat) (l : Nat) (f : Link → Link) : (s.modLink l f).core j = s.core j := rfl
@[simp] theorem core_takeFree (s : State) (j : Nat)  : (s.takeFree).core j = s.core j := rfl
@[simp] theorem die_modCore (s : State) (j : Nat) (c : Nat) (f : Core → Core) : (s.modCore c f).die j = s.die j := rfl
@[simp] theorem die_modSlice (s : State) (j : Nat) (d n : Nat) (f : Slice → Slice) : (s.modSlice d n f).die j = s.die j := rfl
@[simp] theorem die_modRegion (s : State) (j : Nat) (g : Nat) (f : Region → Region) : (s.modRegion g f).die j = s.die j := rfl
@[simp] theorem die_modRing (s : State) (j : Nat) (r : Nat) (f : Ring → Ring) : (s.modRing r f).die j = s.die j := rfl
@[simp] theorem die_modSlot (s : State) (j : Nat) (r n : Nat) (f : SyncSlot → SyncSlot) : (s.modSlot r n f).die j = s.die j := rfl
@[simp] theorem die_modLink (s : State) (j : Nat) (l : Nat) (f : Link → Link) : (s.modLink l f).die j = s.die j := rfl
@[simp] theorem die_modStrand (s : State) (j : Nat) (c k : Nat) (f : Strand → Strand) : (s.modStrand c k f).die j = s.die j := rfl
@[simp] theorem die_modCsr (s : State) (j : Nat) (c : Nat) (f : CoreCsr → CoreCsr) : (s.modCsr c f).die j = s.die j := rfl
@[simp] theorem die_modData (s : State) (j : Nat) (c : Nat) (f : CoreData → CoreData) : (s.modData c f).die j = s.die j := rfl
@[simp] theorem die_takeFree (s : State) (j : Nat)  : (s.takeFree).die j = s.die j := rfl
@[simp] theorem slice_modCore (s : State) (i j : Nat) (c : Nat) (f : Core → Core) : (s.modCore c f).slice i j = s.slice i j := rfl
@[simp] theorem slice_modDie (s : State) (i j : Nat) (d : Nat) (f : Die → Die) : (s.modDie d f).slice i j = s.slice i j := rfl
@[simp] theorem slice_modRegion (s : State) (i j : Nat) (g : Nat) (f : Region → Region) : (s.modRegion g f).slice i j = s.slice i j := rfl
@[simp] theorem slice_modRing (s : State) (i j : Nat) (r : Nat) (f : Ring → Ring) : (s.modRing r f).slice i j = s.slice i j := rfl
@[simp] theorem slice_modSlot (s : State) (i j : Nat) (r n : Nat) (f : SyncSlot → SyncSlot) : (s.modSlot r n f).slice i j = s.slice i j := rfl
@[simp] theorem slice_modLink (s : State) (i j : Nat) (l : Nat) (f : Link → Link) : (s.modLink l f).slice i j = s.slice i j := rfl
@[simp] theorem slice_modStrand (s : State) (i j : Nat) (c k : Nat) (f : Strand → Strand) : (s.modStrand c k f).slice i j = s.slice i j := rfl
@[simp] theorem slice_modCsr (s : State) (i j : Nat) (c : Nat) (f : CoreCsr → CoreCsr) : (s.modCsr c f).slice i j = s.slice i j := rfl
@[simp] theorem slice_modData (s : State) (i j : Nat) (c : Nat) (f : CoreData → CoreData) : (s.modData c f).slice i j = s.slice i j := rfl
@[simp] theorem slice_takeFree (s : State) (i j : Nat)  : (s.takeFree).slice i j = s.slice i j := rfl
@[simp] theorem region_modCore (s : State) (j : Nat) (c : Nat) (f : Core → Core) : (s.modCore c f).region j = s.region j := rfl
@[simp] theorem region_modDie (s : State) (j : Nat) (d : Nat) (f : Die → Die) : (s.modDie d f).region j = s.region j := rfl
@[simp] theorem region_modSlice (s : State) (j : Nat) (d n : Nat) (f : Slice → Slice) : (s.modSlice d n f).region j = s.region j := rfl
@[simp] theorem region_modRing (s : State) (j : Nat) (r : Nat) (f : Ring → Ring) : (s.modRing r f).region j = s.region j := rfl
@[simp] theorem region_modSlot (s : State) (j : Nat) (r n : Nat) (f : SyncSlot → SyncSlot) : (s.modSlot r n f).region j = s.region j := rfl
@[simp] theorem region_modLink (s : State) (j : Nat) (l : Nat) (f : Link → Link) : (s.modLink l f).region j = s.region j := rfl
@[simp] theorem region_modStrand (s : State) (j : Nat) (c k : Nat) (f : Strand → Strand) : (s.modStrand c k f).region j = s.region j := rfl
@[simp] theorem region_modCsr (s : State) (j : Nat) (c : Nat) (f : CoreCsr → CoreCsr) : (s.modCsr c f).region j = s.region j := rfl
@[simp] theorem region_modData (s : State) (j : Nat) (c : Nat) (f : CoreData → CoreData) : (s.modData c f).region j = s.region j := rfl
@[simp] theorem region_takeFree (s : State) (j : Nat)  : (s.takeFree).region j = s.region j := rfl
@[simp] theorem ring_modCore (s : State) (j : Nat) (c : Nat) (f : Core → Core) : (s.modCore c f).ring j = s.ring j := rfl
@[simp] theorem ring_modDie (s : State) (j : Nat) (d : Nat) (f : Die → Die) : (s.modDie d f).ring j = s.ring j := rfl
@[simp] theorem ring_modSlice (s : State) (j : Nat) (d n : Nat) (f : Slice → Slice) : (s.modSlice d n f).ring j = s.ring j := rfl
@[simp] theorem ring_modRegion (s : State) (j : Nat) (g : Nat) (f : Region → Region) : (s.modRegion g f).ring j = s.ring j := rfl
@[simp] theorem ring_modSlot (s : State) (j : Nat) (r n : Nat) (f : SyncSlot → SyncSlot) : (s.modSlot r n f).ring j = s.ring j := rfl
@[simp] theorem ring_modLink (s : State) (j : Nat) (l : Nat) (f : Link → Link) : (s.modLink l f).ring j = s.ring j := rfl
@[simp] theorem ring_modStrand (s : State) (j : Nat) (c k : Nat) (f : Strand → Strand) : (s.modStrand c k f).ring j = s.ring j := rfl
@[simp] theorem ring_modCsr (s : State) (j : Nat) (c : Nat) (f : CoreCsr → CoreCsr) : (s.modCsr c f).ring j = s.ring j := rfl
@[simp] theorem ring_modData (s : State) (j : Nat) (c : Nat) (f : CoreData → CoreData) : (s.modData c f).ring j = s.ring j := rfl
@[simp] theorem ring_takeFree (s : State) (j : Nat)  : (s.takeFree).ring j = s.ring j := rfl
@[simp] theorem slot_modCore (s : State) (i j : Nat) (c : Nat) (f : Core → Core) : (s.modCore c f).slot i j = s.slot i j := rfl
@[simp] theorem slot_modDie (s : State) (i j : Nat) (d : Nat) (f : Die → Die) : (s.modDie d f).slot i j = s.slot i j := rfl
@[simp] theorem slot_modSlice (s : State) (i j : Nat) (d n : Nat) (f : Slice → Slice) : (s.modSlice d n f).slot i j = s.slot i j := rfl
@[simp] theorem slot_modRegion (s : State) (i j : Nat) (g : Nat) (f : Region → Region) : (s.modRegion g f).slot i j = s.slot i j := rfl
@[simp] theorem slot_modRing (s : State) (i j : Nat) (r : Nat) (f : Ring → Ring) : (s.modRing r f).slot i j = s.slot i j := rfl
@[simp] theorem slot_modLink (s : State) (i j : Nat) (l : Nat) (f : Link → Link) : (s.modLink l f).slot i j = s.slot i j := rfl
@[simp] theorem slot_modStrand (s : State) (i j : Nat) (c k : Nat) (f : Strand → Strand) : (s.modStrand c k f).slot i j = s.slot i j := rfl
@[simp] theorem slot_modCsr (s : State) (i j : Nat) (c : Nat) (f : CoreCsr → CoreCsr) : (s.modCsr c f).slot i j = s.slot i j := rfl
@[simp] theorem slot_modData (s : State) (i j : Nat) (c : Nat) (f : CoreData → CoreData) : (s.modData c f).slot i j = s.slot i j := rfl
@[simp] theorem slot_takeFree (s : State) (i j : Nat)  : (s.takeFree).slot i j = s.slot i j := rfl
@[simp] theorem link_modCore (s : State) (j : Nat) (c : Nat) (f : Core → Core) : (s.modCore c f).link j = s.link j := rfl
@[simp] theorem link_modDie (s : State) (j : Nat) (d : Nat) (f : Die → Die) : (s.modDie d f).link j = s.link j := rfl
@[simp] theorem link_modSlice (s : State) (j : Nat) (d n : Nat) (f : Slice → Slice) : (s.modSlice d n f).link j = s.link j := rfl
@[simp] theorem link_modRegion (s : State) (j : Nat) (g : Nat) (f : Region → Region) : (s.modRegion g f).link j = s.link j := rfl
@[simp] theorem link_modRing (s : State) (j : Nat) (r : Nat) (f : Ring → Ring) : (s.modRing r f).link j = s.link j := rfl
@[simp] theorem link_modSlot (s : State) (j : Nat) (r n : Nat) (f : SyncSlot → SyncSlot) : (s.modSlot r n f).link j = s.link j := rfl
@[simp] theorem link_modStrand (s : State) (j : Nat) (c k : Nat) (f : Strand → Strand) : (s.modStrand c k f).link j = s.link j := rfl
@[simp] theorem link_modCsr (s : State) (j : Nat) (c : Nat) (f : CoreCsr → CoreCsr) : (s.modCsr c f).link j = s.link j := rfl
@[simp] theorem link_modData (s : State) (j : Nat) (c : Nat) (f : CoreData → CoreData) : (s.modData c f).link j = s.link j := rfl
@[simp] theorem link_takeFree (s : State) (j : Nat)  : (s.takeFree).link j = s.link j := rfl

end Sys2Proof.Machine
end

