-- ==== Sys2Proof/Laws/Issue.lean ====
section
/-! SUPPORT. What the issue of a word can do, said once: the four ends of the gate, a word that runs at once, a word that queues. -/

namespace Sys2Proof.Machine

/-- A word that the gate lets through and that is no hint issues. -/
theorem issueWord_goes {i : Instr} {s : State} {w : QWord} {y : Core} (hg : goes i s = some (w, y))
    (hh : (specOf i).hint = false) : issueWord i (specOf i) s = issueGo s.cur.1 s.cur.2 (specOf i) w y s := by
  unfold goes at hg
  unfold issueWord
  cases h : gate s.cur.1 s.cur.2 i (specOf i) s <;> simp_all

/-- A hint that the gate lets through acts at its issue. -/
theorem issueWord_hint {i : Instr} {s : State} {w : QWord} {y : Core} (hg : goes i s = some (w, y))
    (hh : (specOf i).hint = true) : issueWord i (specOf i) s = issueHint s.cur.1 s.cur.2 (specOf i) w s := by
  unfold goes at hg
  unfold issueWord
  cases h : gate s.cur.1 s.cur.2 i (specOf i) s <;> simp_all

/-- A word that the gate stops takes its trap, and nothing else of it happens. -/
theorem issueWord_stops {i : Instr} {s : State} {t : Trap} (hg : stops i s = some t) :
    issueWord i (specOf i) s = takeFault s.cur.1 s.cur.2 (t.ofWord (encode i)) (encode i) (s.strand s.cur.1 s.cur.2).pc none s := by
  unfold stops at hg
  unfold issueWord
  cases h : gate s.cur.1 s.cur.2 i (specOf i) s <;> simp_all

/-- A word that waits for a CSR is blocked. -/
theorem blockOf_csrWait {x : Core} {k : Nat} {p : WordSpec} (h : csrWait (x.strand k) p = true) : blockOf x k p ≠ none := by
  unfold blockOf blocksOf
  dsimp only
  rw [h]
  by_cases hp : ((x.strand k).words.any (fun w => w.paging)) = true
  · rw [if_pos hp]; simp
  · rw [if_neg hp]; simp

/-- What `goes` says of a word that is no hint, taken apart: the strand may issue, no check of 02 R46 stops the word, it is not
nullified, nothing blocks it, and it has read its sources. -/
theorem goes_iff {i : Instr} {s : State} {w : QWord} {y : Core} (hh : (specOf i).hint = false) :
    goes i s = some (w, y) ↔
      (s.strand s.cur.1 s.cur.2).active = true ∧ (s.strand s.cur.1 s.cur.2).pauseEnd ≤ s.cycle ∧
      earlyTrap (s.core s.cur.1) s.cur.2 (specOf i) = none ∧ nullified (s.strand s.cur.1 s.cur.2) (specOf i) = false ∧
      (i.wf && ownerWait (s.strand s.cur.1 s.cur.2) (specOf i)) = false ∧
      lateTrap s s.cur.1 s.cur.2 i (specOf i) = none ∧ ownTrap s.cur.1 s.cur.2 i (specOf i) s = none ∧
      blockOf (s.core s.cur.1) s.cur.2 (specOf i) = none ∧ badSource (s.strand s.cur.1 s.cur.2) (specOf i) = false ∧
      ∃ va vb vd, popSrcs s.cur.2 (specOf i) (s.core s.cur.1) = some (va, vb, vd, y) ∧
        w = newWord s.cur.1 s.cur.2 i (specOf i) va vb vd s ∧
        (specOf i).check s.cur.1 s.cur.2 w s = none ∧
        jumpTrap ((specOf i).jump w (s.strand s.cur.1 s.cur.2)) = none ∧ (lateBlocks s.cur.1 s.cur.2 (specOf i) w s).head? = none := by
  have hst : (s.core s.cur.1).strand s.cur.2 = s.strand s.cur.1 s.cur.2 := rfl
  unfold goes gate
  simp only [hst, hh, Bool.false_eq_true, if_false]
  by_cases h1 : (s.strand s.cur.1 s.cur.2).active = true
  swap
  · simp [h1]
  by_cases h2 : (s.strand s.cur.1 s.cur.2).pauseEnd ≤ s.cycle
  swap
  · have : s.cycle < (s.strand s.cur.1 s.cur.2).pauseEnd := by omega
    simp [h1, h2, this]
  have h2' : ¬ s.cycle < (s.strand s.cur.1 s.cur.2).pauseEnd := by omega
  cases h3 : earlyTrap (s.core s.cur.1) s.cur.2 (specOf i) with
  | some t => simp [h1, h2, h2']
  | none =>
    cases h4 : nullified (s.strand s.cur.1 s.cur.2) (specOf i) with
    | true => simp [h1, h2, h2']
    | false =>
      unfold gateWord
      dsimp only
      rw [hst]
      cases h4b : (i.wf && ownerWait (s.strand s.cur.1 s.cur.2) (specOf i)) with
      | true => simp [h1, h2, h2']
      | false =>
      simp only [Bool.false_eq_true, if_false]
      cases h5 : lateTrap s s.cur.1 s.cur.2 i (specOf i) with
      | some t => simp [h1, h2, h2']
      | none =>
        have hcb : csrWait (s.strand s.cur.1 s.cur.2) (specOf i) = true → blockOf (s.core s.cur.1) s.cur.2 (specOf i) ≠ none :=
          blockOf_csrWait
        cases h6c : csrWait (s.strand s.cur.1 s.cur.2) (specOf i) with
        | true =>
          have := hcb h6c
          cases h7 : blockOf (s.core s.cur.1) s.cur.2 (specOf i) with
          | none => exact absurd h7 this
          | some t => simp [h1, h2, h2']
        | false =>
        simp only [Bool.false_eq_true, if_false]
        cases h6 : ownTrap s.cur.1 s.cur.2 i (specOf i) s with
        | some t => simp [h1, h2, h2']
        | none =>
          cases h7 : blockOf (s.core s.cur.1) s.cur.2 (specOf i) with
          | some t => simp [h1, h2, h2']
          | none =>
            simp only
            cases h8 : popSrcs s.cur.2 (specOf i) (s.core s.cur.1) with
            | none => simp [h1, h2, h2']
            | some q =>
              obtain ⟨va, vb, vd, y'⟩ := q
              unfold gateOperands
              simp only [h1, h2, h2']
              cases h8b : badSource (s.strand s.cur.1 s.cur.2) (specOf i) with
              | true => simp
              | false =>
              simp only [Bool.false_eq_true, if_false]
              constructor
              · intro h
                revert h
                cases h9 : (specOf i).check s.cur.1 s.cur.2 (newWord s.cur.1 s.cur.2 i (specOf i) va vb vd s) s with
                | some t => simp
                | none =>
                  cases h10 : jumpTrap ((specOf i).jump (newWord s.cur.1 s.cur.2 i (specOf i) va vb vd s) (s.strand s.cur.1 s.cur.2)) with
                  | some t => simp
                  | none =>
                    cases h11 : (lateBlocks s.cur.1 s.cur.2 (specOf i) (newWord s.cur.1 s.cur.2 i (specOf i) va vb vd s) s).head? with
                    | some t => simp
                    | none =>
                      intro h
                      simp only [Bool.not_true, Bool.false_eq_true, if_false, decide_false, Option.some.injEq, Prod.mk.injEq] at h
                      obtain ⟨rfl, rfl⟩ := h
                      exact ⟨trivial, trivial, trivial, trivial, trivial, trivial, trivial, trivial, trivial, va, vb, vd, rfl, rfl, h9, h10, h11⟩
              · rintro ⟨-, -, -, -, -, -, -, -, -, va', vb', vd', hq, rfl, h9, h10, h11⟩
                simp only [Option.some.injEq, Prod.mk.injEq] at hq
                obtain ⟨rfl, rfl, rfl, rfl⟩ := hq
                simp [h9, h10, h11]

/-- The fields of a word that goes: the instruction, its number, the pc, the strand's environment (17 R331), and that it is new. -/
theorem goes_fields {i : Instr} {s : State} {w : QWord} {y : Core} (hg : goes i s = some (w, y)) (hh : (specOf i).hint = false) :
    w.i = i ∧ w.seq = (s.core s.cur.1).seq ∧ w.pc = (s.strand s.cur.1 s.cur.2).pc ∧ w.phase = .queued ∧ w.idx = 0 ∧ w.due = 0 ∧
      w.req = 0 ∧ w.buf = [] ∧ w.paging = false ∧ w.res = (specOf i).pre s.cur.1 s.cur.2 s ∧
      w.trapen = (s.strand s.cur.1 s.cur.2).trapen ∧ w.round = (s.strand s.cur.1 s.cur.2).round ∧
      w.dst = dstOf s.cur.2 (s.strand s.cur.1 s.cur.2).rotBase (specOf i).dst ∧
      w.vtype = (s.strand s.cur.1 s.cur.2).vtype ∧ w.sendto = (s.core s.cur.1).csr.sendto ∧ w.race = [] := by
  obtain ⟨-, -, -, -, -, -, -, -, -, va, vb, vd, -, rfl, -⟩ := (goes_iff hh).1 hg
  exact ⟨rfl, rfl, rfl, rfl, rfl, rfl, rfl, rfl, rfl, rfl, rfl, rfl, rfl, rfl, rfl, rfl⟩

/-- Reading a source field changes no strand. -/
theorem popSrc_strands {k : Nat} {f : Option (BitVec 5)} {x y : Core} {v : Word} (h : popSrc k f x = some (v, y)) :
    y.strands = x.strands := by
  unfold popSrc at h
  split at h
  · cases h; rfl
  · split at h
    · cases h; rfl
    · split at h
      · split at h
        · cases h
        · cases h; rfl
      · dsimp only at h
        split at h
        · cases h
        · split at h
          · cases h; rfl
          · cases h

/-- A source field that names a register reads it, and pops nothing (01 R16, R18). -/
theorem popSrc_reg {k : Nat} {r : BitVec 5} (x : Core) (h : r.toNat < 28) :
    popSrc k (some r) x = some ((x.strand k).reg (physReg (x.strand k).rotBase r.toNat), x) := by
  simp only [popSrc, if_pos h]

/-- Reading the three source fields, taken apart. -/
theorem popSrcs_iff {k : Nat} {p : WordSpec} {x y : Core} {va vb vd : Word} :
    popSrcs k p x = some (va, vb, vd, y) ↔
      ∃ x1 x2, popSrc k p.a x = some (va, x1) ∧ popSrc k p.b x1 = some (vb, x2) ∧ popSrc k p.d x2 = some (vd, y) := by
  unfold popSrcs
  cases ha : popSrc k p.a x with
  | none => simp
  | some q =>
    obtain ⟨va', x1⟩ := q
    dsimp only
    cases hb : popSrc k p.b x1 with
    | none => simp [hb]
    | some q =>
      obtain ⟨vb', x2⟩ := q
      dsimp only
      cases hd : popSrc k p.d x2 with
      | none => simp [hb, hd]
      | some q =>
        obtain ⟨vd', x3⟩ := q
        simp only [Option.some.injEq, Prod.mk.injEq]
        constructor
        · rintro ⟨rfl, rfl, rfl, rfl⟩
          exact ⟨x1, x2, ⟨rfl, rfl⟩, hb, hd⟩
        · rintro ⟨y1, y2, ⟨rfl, rfl⟩, h2, h3⟩
          rw [hb] at h2
          cases h2
          rw [hd] at h3
          cases h3
          exact ⟨rfl, rfl, rfl, rfl⟩

theorem popSrcs_strands {k : Nat} {p : WordSpec} {x y : Core} {va vb vd : Word} (h : popSrcs k p x = some (va, vb, vd, y)) :
    y.strands = x.strands := by
  obtain ⟨x1, x2, h1, h2, h3⟩ := popSrcs_iff.1 h
  rw [popSrc_strands h3, popSrc_strands h2, popSrc_strands h1]

/-- A word that goes has changed no strand yet. -/
theorem goes_strands {i : Instr} {s : State} {w : QWord} {y : Core} (hg : goes i s = some (w, y)) (hh : (specOf i).hint = false) :
    y.strands = (s.core s.cur.1).strands := by
  obtain ⟨-, -, -, -, -, -, -, -, -, va, vb, vd, hp, -⟩ := (goes_iff hh).1 hg
  exact popSrcs_strands hp

@[simp] theorem setMark_strands (x : Core) (n : Nat) (f : CycleMark → CycleMark) : (x.setMark n f).strands = x.strands := rfl
@[simp] theorem setMark_strand (x : Core) (n : Nat) (f : CycleMark → CycleMark) (k : Nat) : (x.setMark n f).strand k = x.strand k := rfl

theorem popToken_strands (k : Nat) (h : Hdr) (x : Core) : (popToken k h x).strands = x.strands := by
  unfold popToken
  split <;> rfl

theorem reserve_strands (k seq : Nat) (d : Dst) (x : Core) : (reserve k seq d x).strands = x.strands := by
  unfold reserve
  split <;> rfl

/-- The strand just after the issue of a word whose own effect at issue is on its strand alone: its slot is taken, then that effect,
then the pc moves (01 R27, 03 R73). -/
theorem issued_strand {i : Instr} {s : State} {w : QWord} {y : Core} {f : Strand → Strand} (hg : goes i s = some (w, y))
    (hh : (specOf i).hint = false)
    (ht : ∀ u, (specOf i).take s.cur.1 s.cur.2 w u = u.modStrand s.cur.1 s.cur.2 f) :
    (issued i w y s).strand s.cur.1 s.cur.2
      = (f (s.strand s.cur.1 s.cur.2).slot).advance w.pc ((specOf i).jump w (s.strand s.cur.1 s.cur.2)) := by
  have hs := goes_strands hg hh
  unfold issued launch
  simp only [ht, State.strand, core_modStrand, strand_coreModStrand, core_setCore, setMark_strand]
  congr 2
  unfold Core.strand
  simp only [reserve_strands, popToken_strands, hs]

/-- What `runsNow` says, taken apart. -/
theorem runsNow_iff {i : Instr} {s : State} {w : QWord} {t : State} :
    runsNow i s = some (w, t) ↔ ∃ y, goes i s = some (w, y) ∧ (specOf i).hint = false ∧
      t = serveStrand s.cur.1 s.cur.2 (specOf i).engine (issued i w y s) ∧ atOnce s.cur.1 s.cur.2 i w (issued i w y s) = true := by
  unfold runsNow
  constructor
  · intro h
    split at h
    · cases h
    · rename_i w' y hg
      split at h
      · cases h
      · split at h
        · cases h
          exact ⟨y, hg, by simp_all, rfl, by assumption⟩
        · cases h
  · rintro ⟨y, hg, hh, rfl, ha⟩
    simp [hg, hh, ha]

/-- Being served changes no register that holds an error. -/
theorem serveStrand_regBad (c k : Nat) (e : Engine) (s : State) : ((serveStrand c k e s).core c).d.regBad = (s.core c).d.regBad := by
  unfold serveStrand
  split
  · simp
  · rfl

/-- A word that runs at once races no other: none stands before or behind it in its engine queue (05 R114). -/
theorem atOnce_racing {c k : Nat} {i : Instr} {w : QWord} {t : State} (hr : w.race = []) (ha : atOnce c k i w t = true) :
    racing (t.core c) k (specOf i) w = false := by
  unfold atOnce at ha
  simp only [Bool.and_eq_true, List.isEmpty_iff] at ha
  have hq := ha.1.1.1.1.2
  unfold racing
  by_cases he : (specOf i).engine = .l
  · have hv : rivals (t.core c) k w = [] := by
      unfold rivals
      rw [he] at hq
      split <;> simp [hq]
    simp [hr, hv]
  · simp [he]

/-- What a word that runs at once runs: its body, after which one of L that waits has not been served. -/
theorem issueWord_serves {i : Instr} {s : State} {w : QWord} {t : State} (h : runsNow i s = some (w, t)) :
    ∃ y, goes i s = some (w, y) ∧ issueWord i (specOf i) s = settleNow s.cur.1 s.cur.2 (specOf i) w
      (match (specOf i).body s.cur.1 s.cur.2 w t with
        | .wait w' u => .wait w' (if (specOf i).engine = .l
            then u.modData s.cur.1 (fun d => { d with lLast := ((issued i w y s).core s.cur.1).d.lLast }) else u)
        | r => r) := by
  obtain ⟨y, hg, hh, rfl, ha⟩ := runsNow_iff.1 h
  refine ⟨y, hg, ?_⟩
  rw [issueWord_goes hg hh]
  have hb : ((issued i w y s).core s.cur.1).d.regBad.isEmpty = true := by
    unfold atOnce at ha
    simp only [Bool.and_eq_true] at ha
    exact ha.1.2
  have hr : runBody s.cur.1 s.cur.2 (specOf i) w (serveStrand s.cur.1 s.cur.2 (specOf i).engine (issued i w y s))
      = (specOf i).body s.cur.1 s.cur.2 w (serveStrand s.cur.1 s.cur.2 (specOf i).engine (issued i w y s)) := by
    unfold runBody
    rw [serveStrand_regBad, if_pos hb]
  unfold issueGo
  refine (if_pos ?_).trans ?_
  · unfold atOnce at ha
    rw [hb, Bool.and_true] at ha
    exact ha
  · show settleNow _ _ _ _ (serveRun _ _ _ _ (issued i w y s)) = _
    unfold serveRun
    obtain ⟨-, -, -, -, -, -, -, -, -, -, -, -, -, -, -, hw⟩ := goes_fields hg hh
    dsimp only
    rw [atOnce_racing hw ha]
    simp only [Bool.false_eq_true, if_false, hr]
    all_goals cases (specOf i).body s.cur.1 s.cur.2 w (serveStrand s.cur.1 s.cur.2 (specOf i).engine (issued i w y s)) <;> rfl

/-- A word that goes and may not run at once joins its engine queue. -/
theorem issueWord_queues {i : Instr} {s : State} {w : QWord} {y : Core} (hg : goes i s = some (w, y))
    (hh : (specOf i).hint = false) (hb : ((issued i w y s).core s.cur.1).d.regBad = [])
    (ha : atOnce s.cur.1 s.cur.2 i w (issued i w y s) = false) :
    issueWord i (specOf i) s = enqueue s.cur.1 s.cur.2 (specOf i).engine w (issued i w y s) := by
  rw [issueWord_goes hg hh]
  unfold issueGo
  refine if_neg ?_
  unfold atOnce at ha
  rw [hb] at ha
  simp only [List.isEmpty_nil, Bool.and_true] at ha
  unfold issued at ha
  rw [ha]
  simp

/-- A word that runs at once and whose body is done has finished. -/
theorem runs_done {i : Instr} {s : State} {w : QWord} {t u : State} {v : Word} {b : Bool}
    (he : exec i s = .next (issueWord i (specOf i) s)) (h : runsNow i s = some (w, t))
    (hb : (specOf i).body s.cur.1 s.cur.2 w t = .done u v b) : exec i s = .next (finish s.cur.1 s.cur.2 i w v b u) := by
  obtain ⟨y, -, e⟩ := issueWord_serves h
  rw [he, e, hb]
  rfl

/-- A word that runs at once and whose body has begun waits for another event. -/
theorem runs_begun {i : Instr} {s : State} {w w' : QWord} {t u : State}
    (he : exec i s = .next (issueWord i (specOf i) s)) (h : runsNow i s = some (w, t))
    (hb : (specOf i).body s.cur.1 s.cur.2 w t = .begun w' u) : exec i s = .next (begun s.cur.1 s.cur.2 i w' u) := by
  obtain ⟨y, -, e⟩ := issueWord_serves h
  rw [he, e, hb]
  rfl

/-- A word that runs at once and whose body must wait stays queued. -/
theorem runs_wait {i : Instr} {s : State} {w w' : QWord} {t u : State}
    (he : exec i s = .next (issueWord i (specOf i) s)) (h : runsNow i s = some (w, t))
    (hb : (specOf i).body s.cur.1 s.cur.2 w t = .wait w' u) (hl : (specOf i).engine ≠ .l) :
    exec i s = .next (enqueue s.cur.1 s.cur.2 (specOf i).engine w' u) := by
  obtain ⟨y, -, e⟩ := issueWord_serves h
  rw [he, e, hb]
  simp only [settleNow, if_neg hl]

/-- A word that runs at once and whose body stops with an execution trap stays queued, and its fault is taken (17 R323). -/
theorem runs_trap {i : Instr} {s : State} {w w' : QWord} {t u : State} {e : Trap}
    (he : exec i s = .next (issueWord i (specOf i) s)) (h : runsNow i s = some (w, t))
    (hb : (specOf i).body s.cur.1 s.cur.2 w t = .trap e w' u) (h5 : e.cls ≠ 5) (h4 : e.cls ≠ 4) :
    exec i s = .next (takeFault s.cur.1 s.cur.2 e (encode w'.i) w'.pc (some w'.seq)
      (enqueue s.cur.1 s.cur.2 (specOf i).engine { w' with phase := .queued, req := 0 } u)) := by
  obtain ⟨y, -, e⟩ := issueWord_serves h
  rw [he, e, hb]
  simp only [settleNow, stopWord, if_neg h5, if_neg h4]

/-- A word whose body always answers `done` computes. -/
theorem computes_of_body {i : Instr} {v : QWord → Word} (he : ∀ s, exec i s = .next (issueWord i (specOf i) s))
    (hb : ∀ c k w t, (specOf i).body c k w t = .done t (v w) false) : Computes i v := by
  intro s w t h
  obtain ⟨y, -, e⟩ := issueWord_serves h
  rw [he, e, hb]; rfl

/-- A word whose body always answers `done` with an effect acts. -/
theorem acts_of_body {i : Instr} {f : Nat → Nat → QWord → State → State}
    (he : ∀ s, exec i s = .next (issueWord i (specOf i) s))
    (hb : ∀ c k w t, (specOf i).body c k w t = .done (f c k w t) 0 false) : Acts i f := by
  intro s w t h
  obtain ⟨y, -, e⟩ := issueWord_serves h
  rw [he, e, hb]; rfl

/-- A vector word that is one vRun computes. -/
theorem vComputes_of_body {i : Instr} {f : VFun} (he : ∀ s, exec i s = .next (issueWord i (specOf i) s))
    (hb : (specOf i).body = vRun f) : VComputes i f := by
  intro s w t h o hx ho
  obtain ⟨y, -, e⟩ := issueWord_serves h
  rw [he, e, hb]
  simp only [vRun, withFlags]
  erw [if_neg (by rw [hx]; simp), if_neg (by rw [ho]; simp)]
  rfl

/-- A vector word that is one vRun traps 0x14 where an event meets its trap enable. -/
theorem vTraps_of_body {i : Instr} {f : VFun} (he : ∀ s, exec i s = .next (issueWord i (specOf i) s))
    (hb : (specOf i).body = vRun f) : VTraps i f := by
  intro s w t h ho
  obtain ⟨y, -, e⟩ := issueWord_serves h
  rw [he, e, hb]
  simp only [vRun, withFlags]
  rcases ho with ho | ho
  · erw [if_pos ho]
    rfl
  · by_cases hx : trapped w.trapen (f w (t.core s.cur.1).d (t.strand s.cur.1 s.cur.2).g).ex = true
    · erw [if_pos hx]
      rfl
    · erw [if_neg hx, if_pos ho]
      rfl

set_option maxRecDepth 100000 in
set_option maxHeartbeats 4000000 in
/-- Every instruction word is issued by `issueWord` with its own operand form; the events of the table are no words. -/
theorem exec_word {i : Instr} (h : i.isWord = true) (s : State) : exec i s = .next (issueWord i (specOf i) s) := by
  cases i <;> first | (cases h; done) | rfl

/-- A Y word's read either comes to its end, and whatever follows goes on from there, or waits or stops whatever follows it. -/
theorem fetchVirt_ends {c k : Nat} {base : Word} {total : Nat} {x0 : Word} (fuel : Nat) (w : QWord) (s : State) :
    (∃ w' u, ∀ go, fetchVirt c k base total x0 go fuel w s = go w' u) ∨
      (∃ r : Run, (∀ u v b, r ≠ .done u v b) ∧ ∀ go, fetchVirt c k base total x0 go fuel w s = r) := by
  induction fuel generalizing w s with
  | zero => exact .inr ⟨.begun w s, by simp, fun _ => rfl⟩
  | succ f ih =>
    by_cases hl : w.buf.length ≥ total
    · exact .inl ⟨w, s, fun _ => by simp only [fetchVirt, hl, if_true]⟩
    · simp only [fetchVirt, hl, if_false]
      split
      · exact .inr ⟨_, by simp, fun _ => rfl⟩
      · split
        · exact .inr ⟨_, by simp, fun _ => rfl⟩
        · split
          · exact .inr ⟨_, by intros; split <;> simp, fun _ => rfl⟩
          · split
            · split
              · exact .inr ⟨_, by simp, fun _ => rfl⟩
              · exact ih _ _
            · exact .inr ⟨_, by simp, fun _ => rfl⟩
            · exact .inr ⟨_, by simp, fun _ => rfl⟩
            · split
              · exact .inr ⟨_, by simp, fun _ => rfl⟩
              · split
                · exact .inr ⟨_, by simp, fun _ => rfl⟩
                · exact ih _ _

theorem memReadN_length (m : Memory) (a n : Nat) : (memReadN m a n).length = n := by simp [memReadN]

/-- A read gives as many bytes as it asks for. -/
theorem readBytes_length {s u : State} {pa n : Nat} {b : List Byte} (h : readBytes s pa n = (none, u, b)) : b.length = n := by
  unfold readBytes at h
  dsimp only at h
  by_cases hb : ((linesOf pa n).any (fun l => homeReady s (l * 256) = some false) || s.poisoned pa n) = true
  · rw [if_pos hb] at h; simp at h
  · rw [if_neg hb] at h
    by_cases hc : (!inCarve s pa) = true
    · rw [if_pos hc] at h; simp only [Prod.mk.injEq] at h; rw [← h.2.2, List.length_replicate]
    · rw [if_neg hc] at h; simp only [Prod.mk.injEq] at h; rw [← h.2.2, memReadN_length]

/-- A Y word's read takes a whole 64 KiB page of homed storage in one go. -/
theorem fetchVirt_page {c k : Nat} {base : Word} {total j f : Nat} {x0 : Word} {go : QWord → State → Run} {w : QWord} {s u : State}
    {b : List Byte} {va : Word} (hb : w.bit = false) (hl : w.buf.length = 65536 * j) (ht : 65536 * (j + 1) ≤ total)
    (e : base + word (65536 * j) = va) (ha : va.toNat % 65536 = 0) (hr : ReadAtOnce c va 65536 s u b) :
    fetchVirt c k base total x0 go (f + 1) w s = fetchVirt c k base total x0 go f { w with buf := w.buf ++ b } u := by
  subst e
  obtain ⟨hv, pa, lf, sz, v, hx, hh, hq, hb'⟩ := hr
  have hn : Nat.min (total - 65536 * j) 65536 = 65536 := Nat.min_eq_right (by omega)
  have h1 : ¬ 65536 * j ≥ total := by omega
  have h2 : ¬ (base + word (65536 * j)).toNat ≥ 2 ^ 48 := by omega
  simp only [fetchVirt, hl, h1, if_false, hb, Bool.false_eq_true, h2, hx, ha, Nat.sub_zero, hn]
  cases ht : target pa with
  | crown d o => exact absurd ht (hh d o).1
  | host o => exact absurd ht (hh 0 o).2.1
  | peer d o => exact absurd ht (hh d o).2.2
  | hbm d o => simp only [hq, hb', Bool.not_true, Bool.false_eq_true, if_false]
  | carve d o p => simp only [hq, hb', Bool.not_true, Bool.false_eq_true, if_false]

end Sys2Proof.Machine
end

