-- ==== Sys2Proof/Laws/Memory.lean ====
section
/-! SUPPORT. Byte memory: its canonical form as two plain facts, read after write, and that every operation keeps the form. -/

namespace Sys2Proof.Machine

/-- The canonical form, as two facts about the list. -/
theorem Memory.wf_iff {m : Memory} :
    Memory.wf m = true ↔ m.Pairwise (fun x y => x.1 < y.1) ∧ ∀ c ∈ m, c.2 ≠ memDefault := by
  induction m with
  | nil => simp [Memory.wf]
  | cons c r ih =>
    obtain ⟨k, b⟩ := c
    cases r with
    | nil => simp [Memory.wf]
    | cons c' r =>
      obtain ⟨k', b'⟩ := c'
      simp only [Memory.wf, Bool.and_eq_true, bne_iff_ne, decide_eq_true_eq, ih]
      constructor
      · rintro ⟨⟨hb, hk⟩, hp, hd⟩
        refine ⟨List.pairwise_cons.2 ⟨?_, hp⟩, ?_⟩
        · intro c hc
          rcases List.mem_cons.1 hc with rfl | hc
          · exact hk
          · exact lt_trans hk ((List.pairwise_cons.1 hp).1 c hc)
        · intro c hc
          rcases List.mem_cons.1 hc with rfl | hc
          · exact hb
          · exact hd c hc
      · rintro ⟨hp, hd⟩
        obtain ⟨h1, h2⟩ := List.pairwise_cons.1 hp
        exact ⟨⟨hd (k, b) (by simp), h1 (k', b') (by simp)⟩, h2, fun c hc => hd c (by simp [hc])⟩

theorem memInsert_mem {m : Memory} {a : Nat} {b : Byte} {c : Host.Cell} (h : c ∈ memInsert m a b) : c = (a, b) ∨ c ∈ m := by
  induction m with
  | nil => simpa [memInsert] using h
  | cons e r ih =>
    obtain ⟨k, x⟩ := e
    simp only [memInsert] at h
    split at h
    · simpa using h
    · split at h
      · rcases List.mem_cons.1 h with rfl | h
        · exact .inl rfl
        · exact .inr (by simp [h])
      · rcases List.mem_cons.1 h with rfl | h
        · exact .inr (by simp)
        · exact (ih h).imp id (fun h => by simp [h])

theorem memInsert_pairwise {m : Memory} {a : Nat} {b : Byte} (h : m.Pairwise (fun x y => x.1 < y.1)) :
    (memInsert m a b).Pairwise (fun x y => x.1 < y.1) := by
  induction m with
  | nil => simp [memInsert]
  | cons e r ih =>
    obtain ⟨k, x⟩ := e
    obtain ⟨h1, h2⟩ := List.pairwise_cons.1 h
    simp only [memInsert]
    split
    · rename_i hk
      refine List.pairwise_cons.2 ⟨?_, h⟩
      intro c hc
      rcases List.mem_cons.1 hc with rfl | hc
      · exact hk
      · exact lt_trans hk (h1 c hc)
    · split
      · rename_i hk
        subst hk
        exact List.pairwise_cons.2 ⟨h1, h2⟩
      · rename_i hk hk'
        refine List.pairwise_cons.2 ⟨?_, ih h2⟩
        intro c hc
        rcases memInsert_mem hc with rfl | hc
        · dsimp only
          omega
        · exact h1 c hc

/-- Reading after inserting a cell. -/
theorem memRead_memInsert (m : Memory) (a : Nat) (b : Byte) (q : Nat) :
    memRead (memInsert m a b) q = if a = q then b else memRead m q := by
  induction m with
  | nil => simp [memInsert, memRead]
  | cons e r ih =>
    obtain ⟨k, x⟩ := e
    simp only [memInsert]
    split
    · simp [memRead]
    · split
      · rename_i hk
        subst hk
        simp only [memRead]
        split <;> rfl
      · rename_i hk hk'
        simp only [memRead, ih]
        split
        · rename_i hq
          subst hq
          rw [if_neg (by omega)]
        · rfl

/-- Reading after cells were dropped by their address. -/
theorem memRead_filter (m : Memory) (p : Nat → Bool) (a : Nat) :
    memRead (m.filter (fun c => p c.1)) a = if p a then memRead m a else memDefault := by
  induction m with
  | nil => simp [memRead]
  | cons c r ih =>
    obtain ⟨k, b⟩ := c
    by_cases h : p k <;> by_cases e : k = a <;> simp_all [memRead]

/-- Read after write, one byte. -/
theorem memRead_memWrite (m : Memory) (a : Nat) (b : Byte) (q : Nat) :
    memRead (memWrite m a b) q = if a = q then b else memRead m q := by
  unfold memWrite
  split
  · rename_i hb
    rw [memRead_filter m (fun k => k != a) q]
    by_cases h : a = q
    · simp [h, hb]
    · rw [if_neg h, if_pos (by simpa using fun e => h e.symm)]
  · exact memRead_memInsert m a b q

/-- Read after write, a byte string: the bytes written, and every other byte as it was. -/
theorem memRead_memWriteN (m : Memory) (a : Nat) (bs : List Byte) (q : Nat) :
    memRead (memWriteN m a bs) q = if a ≤ q ∧ q < a + bs.length then bs.getD (q - a) 0 else memRead m q := by
  induction bs generalizing m a with
  | nil => simp only [memWriteN, List.length_nil]; rw [if_neg (by omega)]
  | cons b bs ih =>
    simp only [memWriteN, ih, memRead_memWrite, List.length_cons]
    by_cases h : a + 1 ≤ q ∧ q < a + 1 + bs.length
    · rw [if_pos h, if_pos (by omega)]
      obtain ⟨n, rfl⟩ : ∃ n, q = a + 1 + n := ⟨q - (a + 1), by omega⟩
      rw [show a + 1 + n - (a + 1) = n by omega, show a + 1 + n - a = n + 1 by omega]
      simp
    · rw [if_neg h]
      by_cases e : a = q
      · subst e; simp
      · rw [if_neg e, if_neg (by omega)]

theorem memReadN_memWriteN (m : Memory) (a : Nat) (bs : List Byte) : memReadN (memWriteN m a bs) a bs.length = bs := by
  apply List.ext_getElem
  · simp [memReadN]
  · intro i h1 h2
    simp only [memReadN, List.getElem_map, List.getElem_range, memRead_memWriteN]
    rw [if_pos (by omega)]
    simp [List.getD_eq_getElem?_getD, h2]

theorem memReadN_memWriteN_ne (m : Memory) (a : Nat) (bs : List Byte) {q n : Nat} (h : q + n ≤ a ∨ a + bs.length ≤ q) :
    memReadN (memWriteN m a bs) q n = memReadN m q n := by
  simp only [memReadN, memRead_memWriteN]
  apply List.map_congr_left
  intro i hi
  rw [if_neg (by have := List.mem_range.1 hi; omega)]

theorem Memory.wf_filter {m : Memory} (p : Host.Cell → Bool) (h : Memory.wf m = true) : Memory.wf (m.filter p) = true := by
  rw [Memory.wf_iff] at *
  exact ⟨h.1.filter p, fun c hc => h.2 c (List.mem_filter.1 hc).1⟩

theorem Memory.wf_memWrite {m : Memory} (a : Nat) (b : Byte) (h : Memory.wf m = true) : Memory.wf (memWrite m a b) = true := by
  unfold memWrite
  split
  · exact Memory.wf_filter _ h
  · rename_i hb
    rw [Memory.wf_iff] at *
    refine ⟨memInsert_pairwise h.1, ?_⟩
    intro c hc
    rcases memInsert_mem hc with rfl | hc
    · exact hb
    · exact h.2 c hc

/-- Storing bytes keeps the canonical form. -/
theorem Memory.wf_memWriteN {m : Memory} (a : Nat) (bs : List Byte) (h : Memory.wf m = true) : Memory.wf (memWriteN m a bs) = true := by
  induction bs generalizing m a with
  | nil => exact h
  | cons b bs ih => exact ih _ (Memory.wf_memWrite a b h)

/-- Two canonical memories that read alike are equal. -/
theorem Memory.wf_ext {m n : Memory} (hm : Memory.wf m = true) (hn : Memory.wf n = true) (h : ∀ a, memRead m a = memRead n a) : m = n := by
  rw [Memory.wf_iff] at hm hn
  have low : ∀ (m : Memory) (k : Nat), (∀ c ∈ m, k < c.1) → memRead m k = memDefault := by
    intro m k hk
    induction m with
    | nil => rfl
    | cons c r ih =>
      have := hk c (by simp)
      obtain ⟨k', b⟩ := c
      simp only [memRead]
      rw [if_neg (by dsimp only at this; omega)]
      exact ih (fun c hc => hk c (by simp [hc]))
  induction m generalizing n with
  | nil =>
    cases n with
    | nil => rfl
    | cons c r =>
      obtain ⟨k, b⟩ := c
      have := h k
      simp [memRead] at this
      exact absurd this.symm (hn.2 (k, b) (by simp))
  | cons c r ih =>
    obtain ⟨k, b⟩ := c
    cases n with
    | nil =>
      have := h k
      simp [memRead] at this
      exact absurd this (hm.2 (k, b) (by simp))
    | cons c' r' =>
      obtain ⟨k', b'⟩ := c'
      obtain ⟨m1, m2⟩ := List.pairwise_cons.1 hm.1
      obtain ⟨n1, n2⟩ := List.pairwise_cons.1 hn.1
      have hb := hm.2 (k, b) (by simp)
      have hb' := hn.2 (k', b') (by simp)
      have ek : k = k' := by
        rcases lt_trichotomy k k' with hk | hk | hk
        · have := h k
          rw [low ((k', b') :: r') k (by
            intro c hc
            rcases List.mem_cons.1 hc with rfl | hc
            · exact hk
            · exact lt_trans hk (n1 c hc))] at this
          simp [memRead] at this
          exact absurd this hb
        · exact hk
        · have := h k'
          rw [low ((k, b) :: r) k' (by
            intro c hc
            rcases List.mem_cons.1 hc with rfl | hc
            · exact hk
            · exact lt_trans hk (m1 c hc))] at this
          simp [memRead] at this
          exact absurd this.symm hb'
      subst ek
      have eb : b = b' := by simpa [memRead] using h k
      subst eb
      congr 1
      refine ih ⟨m2, fun c hc => hm.2 c (by simp [hc])⟩ ⟨n2, fun c hc => hn.2 c (by simp [hc])⟩ ?_
      intro a
      by_cases e : k = a
      · subst e
        rw [low r k m1, low r' k n1]
      · simpa [memRead, e] using h a

@[simp] theorem memStore_mem (s : State) (pa : Nat) (bs : List Byte) : (s.memStore pa bs).mem = memWriteN s.mem pa bs := rfl

theorem memStore_wf {s : State} (pa : Nat) (bs : List Byte) (h : Memory.wf s.mem = true) : Memory.wf (s.memStore pa bs).mem = true :=
  Memory.wf_memWriteN pa bs h

theorem zeroRange_wf {s : State} (lo hi : Nat) (h : Memory.wf s.mem = true) : Memory.wf (zeroRange lo hi s).mem = true :=
  Memory.wf_filter _ h

/-- Zeroing a range: its bytes read zero, every other byte as it was. -/
theorem memRead_zeroRange (lo hi : Nat) (s : State) (a : Nat) :
    memRead (zeroRange lo hi s).mem a = if lo ≤ a ∧ a < hi then memDefault else memRead s.mem a := by
  have := memRead_filter s.mem (fun k => !decide (lo ≤ k ∧ k < hi)) a
  simp only [zeroRange]
  rw [this]
  by_cases h : lo ≤ a ∧ a < hi <;> simp [h]

theorem leBytes_length (n x : Nat) : (leBytes n x).length = n := by
  induction n generalizing x with
  | zero => rfl
  | succ n ih => simp [leBytes, ih]

/-- The little-endian bytes of a value give it back (00 R6). -/
theorem leNat_leBytes (n x : Nat) : leNat (leBytes n x) = x % 256 ^ n := by
  induction n generalizing x with
  | zero => simp [leBytes, leNat, Nat.mod_one]
  | succ n ih =>
    simp only [leBytes, leNat, ih, BitVec.toNat_ofNat]
    rw [show (2 : Nat) ^ 8 = 256 by norm_num, pow_succ, Nat.mul_comm (256 ^ n) 256, Nat.mod_mul]

end Sys2Proof.Machine
end

