-- ==== Sys2Proof/Laws/Ops.lean ====
section
/-! SUPPORT. The shared operations of Ops and Issue, each said once: what it can do to memory, and what it leaves. -/

namespace Sys2Proof.Machine

/-- The canonical form of the package's memory. -/
def Canonical (s : State) : Prop := Memory.wf s.mem = true

theorem canonical_of_mem {s t : State} (h : Canonical s) (e : t.mem = s.mem) : Canonical t := by
  unfold Canonical
  rw [e]
  exact h

/-- A fold keeps what each of its steps keeps. -/
theorem foldl_keeps {α β : Type} {P : β → Prop} {f : β → α → β} (hf : ∀ b a, P b → P (f b a)) (l : List α) :
    ∀ b, P b → P (l.foldl f b) := by
  induction l with
  | nil => exact fun _ h => h
  | cons a l ih => exact fun b h => ih _ (hf b a h)

/-- A fold whose steps leave a field leaves the field. -/
theorem foldl_field {α β γ : Type} {f : β → α → β} (g : β → γ) (hf : ∀ b a, g (f b a) = g b) (l : List α) :
    ∀ b, g (l.foldl f b) = g b := by
  induction l with
  | nil => exact fun _ => rfl
  | cons a l ih => exact fun b => (ih _).trans (hf b a)

/-- A fold whose steps change nothing. -/
theorem foldl_id {α β : Type} (f : β → α → β) (l : List α) (b : β) (h : ∀ a ∈ l, f b a = b) : l.foldl f b = b := by
  induction l generalizing b with
  | nil => rfl
  | cons a l ih =>
    simp only [List.foldl_cons]
    rw [h a (by simp)]
    exact ih _ (fun x hx => h x (by simp [hx]))

/-! ### Lines, stores (10 R222) -/

/-- An access changes what the slices hold, and which lines are poisoned, and nothing else. -/
theorem touch_state (s : State) (pa : Nat) (w : Bool) :
    ∃ p b l, s.touch pa w = { s with poison := p, badCopy := b, slices := l } := by
  unfold State.touch State.fillBad
  split
  · split <;> split <;> exact ⟨_, _, _, rfl⟩
  · exact ⟨_, _, _, rfl⟩

@[simp] theorem touch_mem (s : State) (pa : Nat) (w : Bool) : (s.touch pa w).mem = s.mem := by
  obtain ⟨p, b, l, e⟩ := touch_state s pa w
  rw [e]

@[simp] theorem touch_cores (s : State) (pa : Nat) (w : Bool) : (s.touch pa w).cores = s.cores := by
  obtain ⟨p, b, l, e⟩ := touch_state s pa w
  rw [e]

@[simp] theorem touch_dies (s : State) (pa : Nat) (w : Bool) : (s.touch pa w).dies = s.dies := by
  obtain ⟨p, b, l, e⟩ := touch_state s pa w
  rw [e]

@[simp] theorem touch_pkg (s : State) (pa : Nat) (w : Bool) : (s.touch pa w).pkg = s.pkg := by
  obtain ⟨p, b, l, e⟩ := touch_state s pa w
  rw [e]

/-- Accesses change what the slices hold, and which lines are poisoned, and nothing else. -/
theorem touches_state (w : Bool) (l : List Nat) (s : State) :
    ∃ p b x, l.foldl (fun s a => s.touch a w) s = { s with poison := p, badCopy := b, slices := x } := by
  induction l generalizing s with
  | nil => exact ⟨_, _, _, rfl⟩
  | cons a l ih =>
    obtain ⟨p, b, x, e⟩ := touch_state s a w
    obtain ⟨p', b', x', e'⟩ := ih { s with poison := p, badCopy := b, slices := x }
    exact ⟨p', b', x', by rw [List.foldl_cons, e, e']⟩

theorem touchAll_mem (s : State) (l : List Nat) : (l.foldl (fun s l => s.touch (l * 256) true) s).mem = s.mem :=
  foldl_field State.mem (fun s l => touch_mem s (l * 256) true) l s

theorem touchAll_cores (s : State) (l : List Nat) : (l.foldl (fun s l => s.touch (l * 256) true) s).cores = s.cores :=
  foldl_field State.cores (fun s l => touch_cores s (l * 256) true) l s

/-- Bytes written at the home slices: memory takes them where the address exists, and nothing else of memory changes. -/
theorem writeBytes_mem (s : State) (pa : Nat) (bs : List Byte) :
    (writeBytes s pa bs).mem = if inCarve s pa then memWriteN s.mem pa bs else s.mem := by
  unfold writeBytes
  cases inCarve s pa
  · rfl
  · simp [touchAll_mem]

@[simp] theorem writeBytes_cores (s : State) (pa : Nat) (bs : List Byte) : (writeBytes s pa bs).cores = s.cores := by
  unfold writeBytes
  split
  · rfl
  · simp only [State.memStore]
    exact touchAll_cores s _

/-- What `writeOut` does to memory: only at an address of HBM4 or of a carve-out. -/
theorem writeOut_mem (ctx : BitVec 16) (pa : Nat) (bs : List Byte) (s : State) :
    (writeOut ctx pa bs s).mem = s.mem ∨ (writeOut ctx pa bs s).mem = memWriteN s.mem pa bs := by
  unfold writeOut
  split
  · exact .inl rfl
  · exact .inl rfl
  · exact .inl rfl
  · rw [writeBytes_mem]
    split
    · exact .inr rfl
    · exact .inl rfl

@[simp] theorem writeOut_cores (ctx : BitVec 16) (pa : Nat) (bs : List Byte) (s : State) : (writeOut ctx pa bs s).cores = s.cores := by
  unfold writeOut
  split
  · rfl
  · rfl
  · rfl
  · exact writeBytes_cores s pa bs

theorem writeBytes_canonical {s : State} (pa : Nat) (bs : List Byte) (h : Canonical s) : Canonical (writeBytes s pa bs) := by
  unfold Canonical
  rw [writeBytes_mem]
  split
  · exact Memory.wf_memWriteN pa bs h
  · exact h

theorem writeOut_canonical {s : State} (ctx : BitVec 16) (pa : Nat) (bs : List Byte) (h : Canonical s) :
    Canonical (writeOut ctx pa bs s) := by
  unfold Canonical
  rcases writeOut_mem ctx pa bs s with e | e <;> rw [e]
  · exact h
  · exact Memory.wf_memWriteN pa bs h

/-! ### Translation through a core's cache (18 R344) -/

/-- A walk changes what the slices hold, their walk caches, and which lines are poisoned, and nothing else. -/
theorem sliceWalk_state (s : State) (fresh : Bool) (ctx : BitVec 16) (va : Nat) :
    ∃ p b l, (sliceWalk s fresh ctx va).2 = { s with poison := p, badCopy := b, slices := l } := by
  unfold sliceWalk
  split
  · exact ⟨_, _, _, rfl⟩
  · extract_lets w
    obtain ⟨p, b, l, e⟩ := touches_state false w.reads s
    by_cases h : w.out = .fail walkWaits
    · rw [if_pos h]
      exact ⟨_, _, _, rfl⟩
    · rw [if_neg h, e]
      exact ⟨_, _, _, rfl⟩

/-- A translation changes nothing but the core's cache and, where it walks, what the slices hold and which lines are poisoned. -/
theorem coreXlat_state (s : State) (c : Nat) (q : Access) (va : Nat) :
    ∃ p b x, (coreXlat s c q va).2 = { s with poison := p, badCopy := b, slices := x } ∨
      ∃ l, (coreXlat s c q va).2 = State.modCore { s with poison := p, badCopy := b, slices := x } c (fun y => { y with tlb := l }) := by
  unfold coreXlat
  extract_lets x r
  have hr : ∃ p b x, r.2 = { s with poison := p, badCopy := b, slices := x } ∨
      ∃ l, r.2 = State.modCore { s with poison := p, badCopy := b, slices := x } c (fun y => { y with tlb := l }) := by
    obtain ⟨p, b, l, e⟩ := sliceWalk_state s false q.ctx va
    dsimp only [r]
    split
    · exact ⟨_, _, _, .inl rfl⟩
    · split
      · rename_i h
        exact ⟨p, b, l, .inl (by rw [h] at e; exact e)⟩
      · rename_i h
        exact ⟨p, b, l, .inr ⟨_, by rw [h] at e; simp only at e; subst e; rfl⟩⟩
  split
  · exact hr
  · split <;> exact hr

@[simp] theorem coreXlat_mem (s : State) (c : Nat) (q : Access) (va : Nat) : (coreXlat s c q va).2.mem = s.mem := by
  obtain ⟨p, b, x, e | ⟨l, e⟩⟩ := coreXlat_state s c q va <;> rw [e]
  rfl

/-! ### Faults (01 R33, 17 R322 to R325) -/

@[simp] theorem sendUp_mem (s : State) (c l : Nat) (m : SyncUp) : (s.sendUp c l m).mem = s.mem := rfl

@[simp] theorem sendUp_cores (s : State) (c l : Nat) (m : SyncUp) : (s.sendUp c l m).cores = s.cores := rfl

@[simp] theorem faultSignals_mem (s : State) (c : Nat) : (s.faultSignals c).mem = s.mem := by
  unfold State.faultSignals
  exact foldl_field State.mem (fun s l => by split <;> rfl) _ s

@[simp] theorem faultSignals_cores (s : State) (c : Nat) : (s.faultSignals c).cores = s.cores := by
  unfold State.faultSignals
  exact foldl_field State.cores (fun s l => by split <;> rfl) _ s

/-- A later fault of a strand that has stopped waits: it writes no record. -/
theorem takeFault_again {c k : Nat} {t : Trap} {w pc : BitVec 32} {seq : Option Nat} {s : State}
    (h : (s.strand c k).st = .faulted) : ∃ n, takeFault c k t w pc seq s = s.modStrand c k (fun y => { y with stopSeq := some n }) := by
  have h' : ((s.core c).strand k).st = .faulted := h
  unfold takeFault
  rw [if_pos h']
  refine ⟨match (s.strand c k).stopSeq, seq with
      | some a, some b => Nat.min a b
      | some a, none => a
      | none, some b => b
      | none, none => (s.core c).seq, rfl⟩

/-- A stop that settles writes at most the record that waits. -/
theorem settleStop_mem (c : Nat) (s : State) :
    (settleStop c s).mem = s.mem ∨ ∃ pa bs, (s.core c).record = some bs ∧ (settleStop c s).mem = memWriteN s.mem pa bs := by
  unfold settleStop
  dsimp only
  split
  · exact .inl rfl
  · rename_i b hb
    have m := coreXlat_mem s c { coreAccess s c with write := true } (s.core c).csr.faultPtr.toNat
    split
    · rename_i pa leaf n s2 hx
      rw [hx] at m
      repeat' split
      all_goals first
        | exact .inl m
        | (rcases writeOut_mem (coreAccess s c).ctx pa b s2 with e | e
           · exact .inl (e.trans m)
           · exact .inr ⟨_, b, hb, e.trans (by rw [show s2.mem = s.mem from m])⟩)
    · rename_i e s2 hx
      rw [hx] at m
      split
      · exact .inl m
      · exact .inl m

theorem settleStop_canonical {c : Nat} {s : State} (h : Canonical s) : Canonical (settleStop c s) := by
  unfold Canonical
  rcases settleStop_mem c s with e | ⟨pa, bs, -, e⟩ <;> rw [e]
  · exact h
  · exact Memory.wf_memWriteN pa bs h

/-- Taking a fault writes at most the 64 bytes of its record. -/
theorem takeFault_mem (c k : Nat) (t : Trap) (w pc : BitVec 32) (seq : Option Nat) (s : State) :
    (takeFault c k t w pc seq s).mem = s.mem ∨
      ∃ pa bs, bs.length = 64 ∧ (takeFault c k t w pc seq s).mem = memWriteN s.mem pa bs := by
  by_cases h : (s.strand c k).st = .faulted
  · obtain ⟨n, e⟩ := takeFault_again (t := t) (w := w) (pc := pc) (seq := seq) h
    rw [e]
    exact .inl rfl
  · have h' : ¬ ((s.core c).strand k).st = .faulted := h
    unfold takeFault
    rw [if_neg h']
    extract_lets n handler record s1 s2
    have m1 : s2.mem = s.mem := by simp [s2, s1]
    have hr : (s2.core c).record = some record := by
      have : s2.cores = s1.cores := faultSignals_cores _ _
      unfold State.core
      rw [this]
      show (s1.core c).record = _
      simp [s1, Core.modStrand, Core.setStrand]
    split
    · rcases settleStop_mem c s2 with e | ⟨pa, bs, hb, e⟩
      · exact .inl (e.trans m1)
      · rw [hr] at hb
        cases hb
        exact .inr ⟨pa, record, by simp [record, faultRecord, leBytes_length], e.trans (by rw [m1])⟩
    · exact .inl m1

theorem takeFault_canonical {c k : Nat} {t : Trap} {w pc : BitVec 32} {seq : Option Nat} {s : State} (h : Canonical s) :
    Canonical (takeFault c k t w pc seq s) := by
  unfold Canonical
  rcases takeFault_mem c k t w pc seq s with e | ⟨pa, bs, -, e⟩ <;> rw [e]
  · exact h
  · exact Memory.wf_memWriteN pa bs h

/-! ### Issue, run, retirement (01 R26, R27, R31) -/

@[simp] theorem enqueue_mem (c k : Nat) (e : Engine) (w : QWord) (s : State) : (enqueue c k e w s).mem = s.mem := rfl
@[simp] theorem putWord_mem (c k : Nat) (e : Engine) (w : QWord) (s : State) : (putWord c k e w s).mem = s.mem := rfl
@[simp] theorem complete_mem (c k : Nat) (p : WordSpec) (w : QWord) (v : Word) (b : Bool) (s : State) :
    (complete c k p w v b s).mem = s.mem := rfl

/-- What a run leaves, a state. -/
def Run.state : Run → State
  | .done s _ _ => s
  | .wait _ s => s
  | .begun _ s => s
  | .trap _ _ s => s

theorem stopWord_canonical {c k : Nat} {t : Trap} {w : QWord} {put : QWord → State → State} {gone : State → State} {s : State}
    (hp : ∀ w s, (put w s).mem = s.mem) (hg : ∀ s, (gone s).mem = s.mem) (h : Canonical s) :
    Canonical (stopWord c k t w put gone s) := by
  unfold stopWord
  split
  · exact takeFault_canonical (canonical_of_mem h (hp _ _))
  · split
    · exact takeFault_canonical (canonical_of_mem h (hg _))
    · exact takeFault_canonical (canonical_of_mem h (hp _ _))

/-- A word that runs at its issue adds no store to its body's, but a fault record. -/
theorem settleNow_canonical {c k : Nat} {p : WordSpec} {w : QWord} {r : Run} (h : Canonical r.state) :
    Canonical (settleNow c k p w r) := by
  cases r with
  | done s v b =>
    simp only [settleNow]
    split
    · exact canonical_of_mem h (complete_mem ..)
    · exact canonical_of_mem h (enqueue_mem ..)
  | wait w s => exact canonical_of_mem h (enqueue_mem ..)
  | begun w s => exact canonical_of_mem h (enqueue_mem ..)
  | trap t w s => exact stopWord_canonical (fun _ _ => rfl) (fun _ => rfl) h

theorem settleQueued_canonical {c k : Nat} {e : Engine} {w : QWord} {r : Run} (h : Canonical r.state) :
    Canonical (settleQueued c k e w r) := by
  cases r with
  | done s v b => exact canonical_of_mem h (putWord_mem ..)
  | wait w s => exact canonical_of_mem h (putWord_mem ..)
  | begun w s => exact canonical_of_mem h (putWord_mem ..)
  | trap t w s => exact stopWord_canonical (fun _ _ => rfl) (fun _ => rfl) h

theorem serveStrand_mem {c k : Nat} {e : Engine} {s : State} : (serveStrand c k e s).mem = s.mem := by
  unfold serveStrand
  split <;> rfl

/-- A word's run adds no store to its body's. -/
theorem runBody_canonical {c k : Nat} {p : WordSpec} {w : QWord} {s : State}
    (hb : ∀ c k w s, Canonical s → Canonical (p.body c k w s).state) (h : Canonical s) : Canonical (runBody c k p w s).state := by
  unfold runBody
  dsimp only
  split
  · exact hb _ _ _ _ h
  · split
    · exact h
    · have hd := hb c k w _ h
      unfold mendRun
      split
      · rename_i he
        rw [he] at hd
        exact canonical_of_mem (s := _) hd rfl
      · exact hd

/-- A racing word's run touches only scratch and the words beside it. -/
theorem raceRun_canonical {c k : Nat} {p : WordSpec} {w : QWord} {s : State}
    (hb : ∀ c k w s, Canonical s → Canonical (p.body c k w s).state) (h : Canonical s) : Canonical (raceRun c k p w s).state := by
  have run : ∀ t : State, Canonical t → ∀ r, runBody c k p w t = r → Canonical r.state :=
    fun t ht r e => e ▸ runBody_canonical hb ht
  unfold raceRun
  dsimp only
  split
  · split
    · rename_i he
      exact canonical_of_mem (s := _) (run s h _ he) rfl
    · exact run s h _ rfl
  · split <;>
      (rename_i he
       have hd := run (s.modData c _) (canonical_of_mem (s := s) h rfl) _ he
       exact canonical_of_mem (s := _) hd rfl)

/-- A word that its engine runs adds no store to its body's. -/
theorem serveRun_canonical {c k : Nat} {p : WordSpec} {w : QWord} {s : State}
    (hb : ∀ c k w s, Canonical s → Canonical (p.body c k w s).state) (h : Canonical s) : Canonical (serveRun c k p w s).state := by
  have hs : Canonical (serveStrand c k p.engine s) := canonical_of_mem h serveStrand_mem
  have hr : Canonical (if racing (s.core c) k p w then raceRun c k p w (serveStrand c k p.engine s)
      else runBody c k p w (serveStrand c k p.engine s)).state := by
    split
    · exact raceRun_canonical hb hs
    · exact runBody_canonical hb hs
  unfold serveRun
  dsimp only
  split
  · rename_i he
    rw [he] at hr
    simp only [Run.state] at hr ⊢
    split
    · exact canonical_of_mem hr rfl
    · exact hr
  · exact hr

/-- Issuing keeps the canonical form where the word's own parts do. -/
theorem issueWord_canonical {i : Instr} {p : WordSpec} {s : State} (ht : ∀ c k w s, Canonical s → Canonical (p.take c k w s))
    (hb : ∀ c k w s, Canonical s → Canonical (p.body c k w s).state) (h : Canonical s) : Canonical (issueWord i p s) := by
  unfold issueWord
  dsimp only
  split
  · exact h
  · exact takeFault_canonical h
  · exact h
  · exact h
  · split
    · exact canonical_of_mem (ht _ _ _ (turned s.cur.1 s.cur.2 (s.modStrand s.cur.1 s.cur.2 (·.slot))) h) rfl
    · unfold issueGo
      dsimp only
      have hl : ∀ w y, Canonical (launch s.cur.1 s.cur.2 p w y s) := by
        intro w y
        unfold launch
        extract_lets old y1 y2 y3 y4 s1
        exact ht s.cur.1 s.cur.2 w s1 h
      split
      · exact settleNow_canonical (serveRun_canonical hb (hl _ _))
      · exact canonical_of_mem (hl _ _) (enqueue_mem ..)

end Sys2Proof.Machine
end

