-- ==== Sys2Proof/Tests/Slice0.lean ====
section
/-! SUPPORT. Tests. Decoding: words written out from the spec's encodings and sample encodings. Well-formedness: an ill-formed term for
each check. Steps: hand-computed results of single words. Witnesses: for every statement with hypotheses, states and operands that
meet them together, clause by clause where the clauses differ. -/

set_option Elab.async false

namespace Sys2Proof.Tests
open Sys2Proof.Machine

/-! ### Helpers -/

/-- No tokens. -/
def h0 : Hdr := ⟨0, 0⟩

/-- Strand `k` of core 0 runs at pc 0 in supervisor mode with every profile, and a word may run at once. -/
def at_ (k : Nat) : State :=
  { State.reset.modCore 0 (fun x => { x.modStrand k (fun t => { t with st := .running }) with profile := 7, csr := { x.csr with sup := true } })
    with now := true, cur := (0, k) }

/-- The same, with the strand changed. -/
def strandAt (k : Nat) (f : Strand → Strand) : State := (at_ k).modStrand 0 k f

/-- The same, with the core changed. -/
def coreAt (k : Nat) (f : Core → Core) : State := (at_ k).modCore 0 f

/-- The same, with the register files and engines changed. -/
def dataAt (k : Nat) (f : CoreData → CoreData) : State := (at_ k).modData 0 f

/-- The same, with the CSRs changed. -/
def csrAt (k : Nat) (f : CoreCsr → CoreCsr) : State := (at_ k).modCsr 0 f

/-- Does the word run at once, and does what issues meet `f`? -/
def runs (i : Instr) (s : State) (f : QWord → State → Bool) : Bool :=
  match runsNow i s with
  | some (w, t) => f w t
  | none => false

/-- Does the word run at once? -/
def runs0 (i : Instr) (s : State) : Bool := runs i s (fun _ _ => true)

/-- Does the word go? -/
def went (i : Instr) (s : State) : Bool := (goes i s).isSome

/-- Registers 1 and 2 of strand `k` of core 0 hold `a` and `b`. -/
def withRegs (k : Nat) (a b : Word) (s : State) : State := s.modStrand 0 k (fun t => (t.setReg 1 a).setReg 2 b)

/-- The state that an outcome gives, if it gives one. -/
def nextOf (o : Host.Outcome State Fault Refusal) : State :=
  match o with
  | .next s => s
  | _ => State.reset

/-- Register `n` of strand `k` of core 0 after an outcome. -/
def regAfter (k n : Nat) (o : Host.Outcome State Fault Refusal) : Word := ((nextOf o).strand 0 k).reg n

/-- The test of `ScratchOk`, as a Bool. -/
def okScr (a n : Nat) (t : State) : Bool := (t.core 0).d.absent a n = [] && !(t.core 0).d.scrPoisoned a n

theorem okScr_sound {a n : Nat} {t : State} (h : okScr a n t = true) : ScratchOk 0 a n t := by
  simpa [okScr, ScratchOk] using h

/-! ### Witnesses: scalar words -/

theorem wit_ScalarWordsComplete : ∀ i ∈ [Instr.addi h0 3 1 5, .andi h0 3 1 5, .ori h0 3 1 5, .xori h0 3 1 5, .slli h0 3 1 63, .srli h0 3 1 63,
    .srai h0 3 1 63, .slti h0 3 1 5, .sltiu h0 3 1 5, .add h0 3 1 2, .sub h0 3 1 2, .and h0 3 1 2, .or h0 3 1 2, .xor h0 3 1 2, .sll h0 3 1 2,
    .srl h0 3 1 2, .sra h0 3 1 2, .slt h0 3 1 2, .sltu h0 3 1 2, .min h0 3 1 2, .max h0 3 1 2, .minu h0 3 1 2, .maxu h0 3 1 2, .mul h0 3 1 2,
    .mulh h0 3 1 2, .mulhu h0 3 1 2, .clz h0 3 1, .ctz h0 3 1, .popc h0 3 1, .sextB h0 3 1, .sextH h0 3 1, .sextW h0 3 1, .zextW h0 3 1,
    .li h0 3 5, .lsh h0 3 5, .auipc h0 3 5, .rdlc h0 3, .cmovz h0 3 1 2, .cmovnz h0 3 1 2, .addSh1 h0 3 1 2, .addSh2 h0 3 1 2, .addSh3 h0 3 1 2,
    .addSh4 h0 3 1 2, .taddr h0 3 1 2], runs0 i (withRegs 3 7 9 (at_ 3)) = true := by decide +kernel

theorem wit_DivisionWordsComplete : ∀ i ∈ [Instr.div h0 3 1 2, .divu h0 3 1 2, .rem h0 3 1 2, .remu h0 3 1 2],
    runs i (withRegs 3 7 9 (at_ 3)) (fun w _ => w.vb ≠ 0) = true ∧
    runs i (withRegs 3 7 0 (at_ 3)) (fun w _ => w.vb = 0) = true ∧
    runs i (withRegs 3 7 0 (strandAt 3 (fun t => { t with trapen := Flags.dz }))) (fun w t => w.vb = 0 && trapped (t.strand 0 3).trapen Flags.dz) = true := by
  decide +kernel

/-- Boundary addresses: the first byte of scratch and the last. -/
theorem wit_ScratchAndCsrWordsComplete :
    runs (.ldxD h0 3 1 0) (at_ 0) (fun w t => okScr (w.va + sext (0 : BitVec 10) * 8).toNat 8 t) = true ∧
    runs (.ldxD h0 3 1 0) (withRegs 0 0x7FFF8 0 (at_ 0)) (fun w t => okScr (w.va + sext (0 : BitVec 10) * 8).toNat 8 t) = true ∧
    runs (.ldxW h0 3 1 0) (withRegs 0 0x7FFFC 0 (at_ 0)) (fun w t => okScr (w.va + sext (0 : BitVec 10) * 4).toNat 4 t) = true ∧
    runs (.stxD h0 3 1 0) (withRegs 0 0x7FFF8 0 (at_ 0)) (fun w t => (t.core 0).d.absent (w.va + sext (0 : BitVec 10) * 8).toNat 8 = []) = true ∧
    runs (.stxW h0 3 1 0) (withRegs 0 0x7FFFC 0 (at_ 0)) (fun w t => (t.core 0).d.absent (w.va + sext (0 : BitVec 10) * 4).toNat 4 = []) = true ∧
    runs0 (.csrr h0 3 0x00F) (at_ 3) = true ∧ runs0 (.csrw h0 1 0x00F) (at_ 3) = true ∧ runs0 (.csrx h0 3 1 0x00F) (at_ 3) = true := by
  decide +kernel

/-- A state with a condition bit for strand 3. -/
def withCq (b : Bool) : State := coreAt 3 (fun x => { x with cq := [b] })

theorem wit_ControlWordsComplete :
    (∀ i ∈ [Instr.beqz h0 1 4, .bnez h0 1 4, .bcq h0 4, .bncq h0 4, .blc h0 4, .setlc h0 4, .setlcS h0 1, .ifq h0 2, .elseq h0 2, .stgStage h0 2,
      .loopp h0 2 3, .setrb h0 1, .jal h0 3 4, .jalr h0 3 1], runs0 i (withCq true) = true ∧ went i (withCq true) = true) ∧
    went (.loopp h0 2 3) ((withCq false).modStrand 0 3 (fun t => { t with lc := 5 })) = true ∧
    (went (.stgStage h0 1) (strandAt 3 (fun t => { t with loop := some ⟨2, 2, 0, 3, 0⟩, stagep := 1 })) &&
      inBody ((strandAt 3 (fun t => { t with loop := some ⟨2, 2, 0, 3, 0⟩, stagep := 1 })).strand 0 3) 0) = true ∧
    (∀ i ∈ [Instr.prefG h0 1 1 0, .prefS h0 1 1 0, .prio h0 1 1 3, .pause h0 1 1 5], went i (at_ 3) = true) := by decide +kernel

/-- A data queue from strand 2 whose head is filled, a message for strand 3. -/
def withQueues : State :=
  coreAt 3 (fun x => { x with recv := [42], dq := tput x.dq (chan 2 3) [⟨0, some 7⟩], csr := { x.csr with sendto := 3 <<< 56 } })

theorem wit_SourceValues : went (.add h0 3 0 1) (at_ 3) = true ∧ went (.addi h0 3 28 1) withQueues = true ∧
    (∃ r : BitVec 5, 28 < r.toNat ∧ went (.addi h0 3 r 1) withQueues = true) ∧ (specOf (.add h0 3 0 1)).hint = false := by decide +kernel

/-! ### Witnesses: vector and matrix words -/

/-- Strand 1 with a type register. -/
def vt (n : BitVec 9) : State := strandAt 1 (fun t => { t with vtype := n })

theorem wit_ElementWordsComplete :
    (∀ i ∈ [Instr.vadd h0 3 1 2 0, .vsub h0 3 1 2 0, .vmul h0 3 1 2 0, .vfma h0 3 1 2 0, .vfms h0 3 1 2 0, .vmin h0 3 1 2 0, .vmax h0 3 1 2 0,
      .vclamp h0 3 1 2 0, .vabs h0 3 1 0, .vneg h0 3 1 0, .vand h0 3 1 2 0, .vor h0 3 1 2 0, .vxor h0 3 1 2 0, .vnot h0 3 1 0,
      .vshl h0 3 1 2 0, .vshr h0 3 1 2 0, .vsra h0 3 1 2 0, .vshli h0 3 1 7 0, .vshri h0 3 1 7 0, .vmov h0 3 1 0, .vbcast h0 3 1 0],
      runs i (vt 0) (fun w _ => w.trapen = 0) = true) ∧
    (∀ i ∈ [Instr.vrcp h0 3 1 0, .vrsq h0 3 1 0, .vexp2 h0 3 1 0, .vlog2 h0 3 1 0, .vscale h0 3 1 2 0],
      runs i (vt 0x29) (fun w _ => w.trapen = 0) = true) ∧
    (∀ f : Flags, trapped 0 f = false) := by
  refine ⟨by decide +kernel, by decide +kernel, fun f => by simp [trapped]⟩

/-- An addition that saturates, with the saturation trap enabled: 2^63 - 1 and 1 in every element of a 64-bit type. -/
theorem wit_ElementWordsTrap :
    runs (.vadd h0 3 1 1 0) (((vt 0x106).modStrand 0 1 (fun t => { t with trapen := Flags.sat })).modData 0
      (fun d => d.setV 1 0x7FFFFFFFFFFFFFFF)) (fun w t =>
        trapped w.trapen (elementwise (arith (fun x y _ => Val.add x y) (fun x y _ => x + y)) 3 (·.getV 1) (·.getV 1) 0 w (t.core 0).d
          (t.strand 0 1).g).fl) = true := by decide +kernel

theorem wit_VectorWordsComplete :
    (∀ i ∈ [Instr.vcmpEq h0 3 1 2 0, .vcmpNe h0 3 1 2 0, .vcmpLt h0 3 1 2 0, .vcmpLe h0 3 1 2 0, .vcmpUn h0 3 1 2 0, .vcqAny h0 1 0,
      .vcqAll h0 1 0, .vsel h0 3 1 2 0, .vext h0 3 1 2, .vins h0 3 1 2, .viota h0 3 0, .vcvt h0 3 1 0 0, .vpack h0 3 1 2, .vunpack h0 3 1 2,
      .vperm h0 3 1 2 0, .vslide h0 3 1 2 0, .vshuf h0 3 1 4 0, .vredSum h0 3 1 0, .vredMin h0 3 1 0, .vredMax h0 3 1 0, .vscan h0 3 1 0,
      .vcompress h0 3 1 0, .vexpand h0 3 1 0, .vprune h0 3 1 9 0, .vdot h0 3 1 2 0, .kand h0 1 2 3, .kor h0 1 2 3, .kxor h0 1 2 3,
      .knot h0 1 2, .kmov h0 1 2, .kpopc h0 3 2, .kfirst h0 3 2, .vtype h0 12 12 1],
      runs i (vt 0) (fun w _ => w.trapen = 0) = true ∧ went i (vt 0) = true) ∧
    runs (.vquant h0 3 1 2 0) ((vt 0x7A).modStrand 0 1 (fun t => { t with fmtA := 0x0443 })) (fun w _ => w.trapen = 0) = true := by
  decide +kernel

/-- A deferral area of four records at the start of scratch, 64-bit elements, mask 1 with `m`. -/
def dqState (cap : BitVec 12) (m : BitVec 256) : State :=
  ((vt 6).modCsr 0 (fun r => { r with dqCap := cap })).modData 0 (fun d => d.setK 1 m)

/-- No active lane, three that fit, three that do not, and a drain of an empty path. -/
theorem wit_DeferralWordsComplete :
    let lanes := fun (w : QWord) (t : State) =>
      ((List.range (2048 / vwidth w)).filter (fun i => active ((t.core 0).d.getK 1) (maskG (2048 / vwidth w)) i)).length
    let hc := fun (w : QWord) (t : State) => dqDesc (t.core 0).d (dqDescAt w 0)
    let there := fun (w : QWord) (t : State) => (t.core 0).d.absent (dqDescAt w 0) 8 = [] && !(t.core 0).d.scrPoisoned (dqDescAt w 0) 8
    let room := fun (w : QWord) (t : State) (n : Nat) => (List.range n).all (fun q =>
      (t.core 0).d.absent (dqRecord w 0 (((hc w t).1 + (hc w t).2 + q) % (dqArea w).2)) 64 = [])
    runs (.vdefer h0 1 0 0 1) (dqState 4 0) (fun w t => there w t && lanes w t = 0 && (hc w t).2 ≤ (dqArea w).2) = true ∧
    runs (.vdefer h0 1 0 0 1) (dqState 4 7) (fun w t => there w t && lanes w t = 3 && (hc w t).2 + 3 ≤ (dqArea w).2 && room w t 3) = true ∧
    runs (.vdefer h0 1 0 0 1) (dqState 2 7) (fun w t => there w t && lanes w t = 3 && (dqArea w).2 < (hc w t).2 + 3) = true ∧
    (∀ n ∈ [0, 1], runs (.vdrain h0 1 0 0 1) ((dqState 4 0).modData 0 (fun d => d.scrWrite 4 [n])) (fun w t => there w t &&
      (hc w t).2 = n.toNat && (List.range n.toNat).all (fun q => (t.core 0).d.absent (dqRecord w 0 (((hc w t).1 + q) % (dqArea w).2)) 64 = []) &&
      (drainRegs (t.core 0).d ((List.range n.toNat).map (fun q => dqRecord w 0 (((hc w t).1 + q) % (dqArea w).2))) 1 (vwidth w) 2 0 {}).2) = true) := by
  decide +kernel

/-- The matrix unit configured for BF16 operands and an FP32 accumulator. -/
def mat : State := csrAt 1 (fun r => { r with accMode := 0xAA })

/-- Rate 2 needs no permit, so the charge is none; no trap is enabled. -/
theorem wit_ProductWordsComplete :
    (∀ i ∈ [Instr.mma h0 1 2 3 1 0 0 0 0 2, .mma h0 0 0 0 0 0 0 0 0 2, .mrun h0 1 0 1 0 0 0 6 2, .mrun h0 1 7 7 1 0 0 0 2],
      runs i mat (fun w _ => w.trapen = 0) = true) ∧
    runs (.mma h0 1 2 3 0 0 0 0 0 0) (mat.modCsr 0 (fun r => { r with permHeld := true, permLeft := 0xFFFFFFFF })) (fun w t =>
      w.trapen = 0 && (charged 0 { acc := 1, mode := 0, tb := false, zs := false, bank := false, rate := 0, run := false
                                   tiles := [((t.core 0).d.getM 2, (t.core 0).d.getM 3)] } t).isSome) = true ∧
    (∀ (m : MulWord) (t : State), m.rate = 2 → charged 0 m t = some t) := by
  refine ⟨by decide +kernel, by decide +kernel, fun m t h => by simp [charged, h]⟩

theorem wit_DrainWordsComplete :
    (∀ i ∈ [Instr.mdrain h0 0 1 3 1, .mdrain h0 1 2 7 0, .mdrainV h0 0 1 1 1, .mdrainV h0 1 4 16 0, .mloada h0 1 4 16, .mloada h0 1 1 24],
      runs i mat (fun w t => w.trapen = 0 && (t.core 0).d.getA 0 = {} && ((t.core 0).d.getA 1).poison = 0 &&
        !copiesDiffer (matCfg (t.core 0).csr.accMode).red ((t.core 0).d.getA 1)) = true) := by decide +kernel

theorem wit_MatrixStateWordsComplete :
    (∀ i ∈ [Instr.mzero h0 1, .mtrans h0 1 2 0, .mscale h0 1 30, .mchk h0 1, .mlend h0 3, .mprobe h0 1 3, .mprobeAcc h0 1 3],
      runs0 i mat = true) ∧
    runs0 (.mcfg h0 1 1 2 1) (at_ 1) = true ∧ runs0 (.mret h0 3) (mat.modData 0 (fun d => { d with lend := 8 })) = true ∧
    runs (.mprobe h0 0 3) (mat.modData 0 (fun d => { d with runq := [5] })) (fun _ t => (t.core 0).d.runq = [5]) = true := by decide +kernel

/-! ### Witnesses: scratch, copies, blocks, fibres -/

/-- A range of scratch for a word that runs at once: from `w.va + w.vb`, `n` bytes. -/
def scrRange (n : Nat) (w : QWord) (t : State) : Bool := okScr (w.va + w.vb).toNat n t

/-- The first and the last place of scratch. -/
theorem wit_ScratchVectorWordsComplete :
    runs (.vld h0 3 1 0 0 0) (withRegs 0 0 0 (at_ 0)) (scrRange 256) = true ∧
    runs (.vld h0 3 1 0 0 0) (withRegs 0 0x7FF00 0 (at_ 0)) (scrRange 256) = true ∧
    runs (.vst h0 3 1 0 0 0) (withRegs 2 0 0 (at_ 2)) (scrRange 256) = true ∧
    runs (.vst h0 3 1 0 0 0) (withRegs 2 0x7FF00 0 (at_ 2)) (scrRange 256) = true ∧
    runs (.vld h0 3 1 0 0 3) (withRegs 0 0x7FFE0 0 (at_ 0)) (scrRange 32) = true ∧
    runs (.vst h0 3 1 0 0 3) (withRegs 2 0x7FFE0 0 (at_ 2)) (scrRange 32) = true ∧
    runs (.mld h0 7 1 0 0) (withRegs 0 0x7F800 0 (at_ 0)) (scrRange 2048) = true ∧
    runs (.mldT h0 7 1 0 0 3) (withRegs 0 0x7F800 0 (at_ 0)) (scrRange 2048) = true ∧
    runs (.mst h0 7 1 0 0) (withRegs 2 0x7F800 0 (at_ 2)) (fun w t => scrRange 2048 w t && ((t.core 0).d.getM 7).poison = 0) = true := by
  decide +kernel

/-- Every chunk of a strided access that runs at once. -/
def chunks (cb : Nat) (w : QWord) (t : State) : Bool := (List.range (256 / cb)).all (fun j => okScr (w.va + word j * w.vb).toNat cb t)

theorem wit_StridedWordsComplete :
    runs (.vldS h0 3 1 2 0 0) (withRegs 0 0x7FF00 32 (at_ 0)) (chunks 32) = true ∧
    runs (.vldS h0 3 1 2 0 3) (withRegs 0 0 4 (at_ 0)) (chunks 4) = true ∧
    runs (.vstS h0 3 1 2 0 0) (withRegs 2 0x7FF00 32 (at_ 2)) (chunks 32) = true ∧
    runs (.vstS h0 3 1 2 0 3) (withRegs 2 0 4 (at_ 2)) (chunks 4) = true := by decide +kernel

/-- A window of 8 by 8 positions of one channel. -/
def winA : Word := (1 <<< 34) + (7 <<< 22) + (7 <<< 10)
def winB : Word := 32 <<< 20

theorem wit_TransferWordsComplete :
    runs0 (.winCfg h0 1 2) (withRegs 0 winA winB (at_ 0)) = true ∧
    runs (.mldU h0 7 0) (((at_ 0).modCsr 0 (fun r => { r with accMode := 0xAA })).modData 0
        (fun d => { d with win := { cfg := true, a := winA, b := winB } })) (fun _ t =>
      let u := (t.core 0).d.win
      let g := winFields u.a u.b
      let m := matCfg (t.core 0).csr.accMode
      let rowB := g.wd * g.ch * (m.w / 8)
      u.cfg && m.cfg && 8 ≤ m.w && g.kh * g.kw * g.ch ≤ 512 / m.w && rowB * ((g.kh - 1) * g.dil + 1) ≤ 65536 &&
        g.base + (g.ht - 1) * g.pitch + rowB ≤ 0x80000 && (List.range g.ht).all (fun r => okScr (g.base + r * g.pitch) rowB t)) = true ∧
    (∀ i ∈ [Instr.cpyIn h0 3 1 2 0 3, .cpyOut h0 3 1 2 0 3, .cpyLoc h0 3 1 2 0 3],
      runs i (withRegs 0 0x1000 64 (at_ 0)) (fun _ t => (((t.core 0).d.hoop 3).alloc - ((t.core 0).d.hoop 3).rd).toNat < 16) = true) ∧
    runs (.awf h0 1 3) (withRegs 0 0 0 (at_ 0)) (fun w t => w.va.toNat ≤ (((t.core 0).d.hoop 3).wr - ((t.core 0).d.hoop 3).rd).toNat) = true ∧
    runs (.awf h0 1 3) ((withRegs 0 1 0 (at_ 0)).modData 0 (fun d => d.setHoop 3 { alloc := 1, wr := 1, slots := [(0, ⟨true, 0, 0⟩)] }))
      (fun w t => w.va = 1 && ((t.core 0).d.hoop 3).wr - ((t.core 0).d.hoop 3).rd = 1 &&
        (tget ({} : Slot) ((t.core 0).d.hoop 3).slots 0).code = 0) = true ∧
    runs (.rls h0 1 3) ((withRegs 0 1 0 (at_ 0)).modData 0 (fun d => d.setHoop 3 { alloc := 1, wr := 1, slots := [(0, ⟨true, 0, 0⟩)] }))
      (fun w t => w.va = 1 && ((t.core 0).d.hoop 3).wr - ((t.core 0).d.hoop 3).rd = 1) = true ∧
    (∀ i ∈ [Instr.agCfg h0 1 0 0, .agCfg h0 1 3 3, .agCfg h0 1 4 0],
      runs i (withRegs 0 32 0 (at_ 0)) (fun _ t => (tokensHeld (t.core 0).d 0).length < 4 && (tokensHeld (t.core 0).d 3).length < 4) = true) := by
  decide +kernel

/-- Strand `k` at a 64-bit type, scratch with bytes `b` at 0. -/
def scrWith (k : Nat) (b : List Byte) : State :=
  (strandAt k (fun t => { t with vtype := 6 })).modData 0 (fun d => d.scrWrite 0 b)

/-- A block of capacity 32: empty for the load, all of it for the store. -/
theorem wit_SparseBlocksComplete :
    runs (.vstBm h0 3 1 0 0 0) (scrWith 2 (bmHeader 0 32 6)) (fun _ t =>
      bmVo 32 + bmSize 32 64 ≤ 0x80000 && okScr 0 4 t && (t.core 0).d.absent 0 (bmVo 32 + bmSize 32 64) = [] &&
        leNat (memReadN (t.core 0).d.scratch 2 2) = 32 &&
        (((List.range 1).flatMap (fun j => velems 64 ((t.core 0).d.getV (3 + j)))).filter (· ≠ 0)).length ≤ 32) = true ∧
    runs (.vldBm h0 3 1 0 0 0) (scrWith 0 (bmHeader 0 32 6)) (fun w t =>
      (match bmRead w (t.core 0).d 0 32 with
        | .ok (n, m) => n = 0 && m = 0
        | .error _ => false) &&
        bmVo 32 + bmSize 0 64 ≤ 0x80000 && (t.core 0).d.absent 0 (bmVo 32) = [] && !(t.core 0).d.scrPoisoned (bmVo 32) (bmSize 0 64)) = true := by
  decide +kernel

theorem wit_SparseFibresComplete :
    runs (.fopen h0 3 1 0 0 0) (scrWith 0 (bmHeader 0 32 6)) (fun w t => !((t.core 0).d.getF 3).open_ && w.va = 0 &&
      (t.core 0).d.absent 0 (bmVo 32) = [] && (match bmRead w (t.core 0).d 0 32 with
        | .ok _ => true
        | .error _ => false)) = true ∧
    runs (.fopen h0 3 1 0 0 1) (scrWith 0 (leBytes 8 (2 ^ 32 + 64) ++ List.replicate 56 0 ++ leBytes 8 7)) (fun w t =>
      let r := leNat (memReadN (t.core 0).d.scratch 0 8)
      !((t.core 0).d.getF 3).open_ && w.va = 0 && okScr 0 8 t && r / 2 ^ 48 = 0 && r / 2 ^ 32 % 2 ^ 16 = 1 && r % 2 ^ 32 = 64 &&
        (t.core 0).d.absent 64 8 = [] && !(t.core 0).d.scrPoisoned 64 4 && fibrePlaces (t.core 0).d 64 1 0 none = some [7]) = true ∧
    runs (.fadv h0 30 1 2 0) ((withRegs 0 0 1 (at_ 0)).modData 0 (fun d => d.setF 1 { open_ := true, kind := 1, count := 1, vbase := 64, width := 32, places := [7] }))
      (fun w t => ((t.core 0).d.getF 1).open_ && w.vb = 1 && okScr 64 8 t) = true ∧
    (∀ i ∈ [Instr.fend h0 1, .fclose h0 1], runs i (dataAt 0 (fun d => d.setF 1 { open_ := true })) (fun _ t => ((t.core 0).d.getF 1).open_) = true) := by
  decide +kernel

/-! ### Witnesses: global words -/

theorem homed_hbm {pa : Nat} (h : bits pa 47 46 = 0) : homed pa := by
  intro d o
  simp [target, h]

/-- Page 0 of context 0 is plain memory at frame 0, page 1 is versioned memory at frame 1; memory holds `b` at 0; registers 1 and 2 of
strand 3 hold `x` and `y`. -/
def global (b : List Byte) (x y : Word) : State :=
  ((withRegs 3 x y (at_ 3)).modCore 0 (fun c => { c with tlb := [⟨0, 0, 16, 0x83⟩, ⟨0, 1, 16, 0x10483⟩] })).memStore 0 b

/-- Strand 3's waits of a release are over, the host's too. -/
def rel (w : QWord) (t : State) : Bool := earlierDone t 0 3 w.seq && transfersDone t 0 3 w.seq && !peerPending t 0 && !hostPending t 0

theorem rel_sound {w : QWord} {t : State} (h : rel w t = true) (b : Bool) : released 0 3 b w t := by
  simp only [rel, Bool.and_eq_true, Bool.not_eq_true'] at h
  exact ⟨h.1.1.1, h.1.1.2, fun _ => ⟨h.1.2, h.2⟩⟩

/-- The checks of an access give a physical address of HBM4, its waits are over and its home slice answers. -/
def served (g : GAcc) (va x : QWord → Word) (w : QWord) (t : State) : Bool :=
  match gCheck 0 g (va w) t with
  | (.ok pa, u) => bits pa 47 46 = 0 && rel w u && !lineMoved u 0 pa && (match serve u g.kind pa g.size (x w) (w.vd) with
    | .ok _ _ => true
    | _ => false)
  | (.error _, _) => false

theorem wit_GlobalWordsComplete :
    runs (.ldg h0 3 1 2 3 1) (global [] 0 0xFFF8) (served { kind := .load, size := 8, write := false } (fun w => w.va + w.vb) (fun _ => 0)) = true ∧
    runs (.lda h0 3 1 2 3) (global [] 0 0) (served { kind := .load, size := 8, write := false } (fun w => w.va + w.vb) (fun _ => 0)) = true ∧
    runs (.stg h0 3 1 2 3 2) (global [] 0 0xFFF8) (served { kind := .store, size := 8, write := true, relQ := true, system := true } (fun w => w.va + w.vb) (·.vd)) = true ∧
    runs (.strl h0 3 1 2 3) (global [] 0 0) (served { kind := .store, size := 8, write := true, relAll := true, system := true } (fun w => w.va + w.vb) (·.vd)) = true ∧
    runs (.amoAdd h0 3 1 2 3 3) (global [] 0xFFF8 1) (served { kind := .amo 0x05, size := 8, write := true, relQ := true, system := true } (·.va) (·.vb)) = true ∧
    (∀ i ∈ [Instr.amoAnd h0 3 1 2 0 0, .amoOr h0 3 1 2 0 0, .amoXor h0 3 1 2 0 0, .amoMin h0 3 1 2 0 0, .amoMax h0 3 1 2 0 0,
      .amoMinu h0 3 1 2 0 0, .amoMaxu h0 3 1 2 0 0, .amoSwap h0 3 1 2 0 0, .amoCas h0 3 1 2 0 0], runs i (global [] 8 1)
        (served { kind := .amo 0x0E, size := 8, write := true } (·.va) (·.vb)) = true) ∧
    runs (.amoFadd h0 3 1 2 3 3) (global [] 0xFFFC 1) (served { kind := .amo 0x0F, size := 4, write := true, relQ := true, system := true } (·.va) (·.vb)) = true ∧
    runs (.verst h0 3 1 2 3) (global [] 0x10000 5) (served { kind := .verst, size := 64, ctxKind := 1, write := true, relAll := true, system := true } (·.va) (·.vb)) = true ∧
    runs (.verld h0 3 1 2 3) (global [] 0x10000 0) (fun w t => wbits w.vb 63 32 = 0 &&
      served { kind := .verld, size := 64, ctxKind := 1, write := false, system := true } (·.va) (·.vb) w t) = true ∧
    runs (.verrcl h0 3 1 2 3) (global [] 0x1FFC0 0xFFFFFFFF) (fun w t => wbits w.vb 63 32 = 0 &&
      served { kind := .verrcl, size := 64, ctxKind := 1, write := true, relAll := true, system := true } (·.va) (·.vb) w t) = true := by
  decide +kernel

theorem wit_OrderingWordsComplete :
    runs (.fence h0 3 3) (at_ 3) (fun w t => rel w t && ((t.core 0).strand 3).words.isEmpty) = true ∧
    (∀ i ∈ [Instr.wbr h0 1 2, .invr h0 1 2, .wbwait h0 3], runs i (global [] 0 256) (fun _ t => (t.core 0).d.wbOps = []) = true) ∧
    runs (.mcast h0 3 1 2) (global [] 5 0) (fun w _ => w.vb = 0) = true ∧
    runs (.mcast h0 3 1 2) (global (List.replicate 32 0 ++ [1]) 5 0xFF) (fun w t => w.vb = 0xFF && (t.core 0).inj.length + (t.core 0).injRes + (t.core 0).injRide +
      popcount 16 w.vb.toNat ≤ 8) = true := by decide +kernel

/-- A handle of one tile whose one layer is at 0x1000, with a target at 0x2000 and a base at 0x800. -/
def oneLayer : Handle :=
  { gen := 4, tr := 1, tc := 1, count := 1, fmt := false, rest := 0, base := 0x800, dir := 0, target := 0x2000
    ptrs := [0x1000, 0, 0, 0, 0, 0, 0], vbase := 0 }

/-- The handle at 0 checks, its place answers, no fold is in progress, the waits are over, and `f` holds. -/
def handled (write : Bool) (f : QWord → Handle → Bool) (w : QWord) (t : State) : Bool :=
  match handleCheck 0 write w.va t with
  | (.ok (pa, hd), u) => rangeReady u pa 64 && !(tget {} u.folds pa).active && rel w u && hd == handleAt u pa && f w hd
  | (.error _, _) => false

theorem wit_LayeredWordsComplete :
    runs (.lat h0 3 1 2) (global oneLayer.bytes 0 0x1800) (handled true (fun w hd => w.vb.toNat % 256 = 0 && hd.count ≠ 7)) = true ∧
    runs (.ldt h0 3 1 2) (global oneLayer.bytes 0 0) (handled true (fun w hd => w.vb.toNat < hd.count)) = true ∧
    runs (.lfold h0 3 1 2) (global oneLayer.bytes 0 1) (handled true (fun w hd => (foldCheck w hd).isNone)) = true ∧
    (∀ i ∈ [Instr.lfwait h0 3 1, .lgen h0 3 1], runs i (global oneLayer.bytes 0 0) (handled false (fun _ _ => true)) = true) := by
  decide +kernel

/-- A queue descriptor at 0 with a ring of 4 slots at 0x1000; an empty packet in scratch at 0. -/
def queueDesc : List Byte := leBytes 8 0x1000 ++ List.replicate 32 0 ++ [2] ++ List.replicate 23 0

theorem wit_SubmitCompletes :
    runs (.submit h0 3 1 2) (global queueDesc 0 0) (fun w t =>
      let img := memReadN (t.core 0).d.scratch w.vb.toNat 64
      w.va = 0 && w.vb = 0 && okScr 0 64 t && packetOk img && bits (leNat (img.take 8)) 55 48 ≠ 4 && !replayNode t 0 &&
      (match coreXlat t 0 { coreAccess t 0 with write := true } 0 with
        | (.ok pa _ _, u) => pa = 0 && rangeReady u 0 64 && !u.poisoned 0 64 &&
          (match ringCheck 0 (u.memNat 0 8 % 2 ^ 48) 1 0 u with
            | (none, v) => rel w v && (match serveAmo v 0x05 8 8 1 0 with
              | .ok x n => (n - word (x.memNat 16 8)).toNat < queueSize (x.memNat 40 1) &&
                (match coreXlat x 0 { coreAccess x 0 with write := true } (x.memNat 0 8 % 2 ^ 48) with
                  | (.ok pa2 _ _, y) => bits pa2 47 46 = 0 && rangeReady y pa2 64 && !rangeLost y pa2 64
                  | _ => false)
              | _ => false)
            | _ => false)
        | _ => false)) = true := by decide +kernel

/-- Core 0 is member of domain 3 at level 0 (and of level 3, slot 5). -/
def member : State :=
  csrAt 3 (fun r => { r with dom := [(0, { member := true, slot := 3 }), (3, { member := true, slot := 5 })] })

/-- `SyncMay` of X's word `i` of level 0 or 3 in core 0, ten cycles after reset, as a Bool, and what `f` says. -/
def maySync (i : Instr) (l : BitVec 2) (s : State) (f : QWord → State → Bool) : Bool :=
  let w := { (default : QWord) with i := i }
  let s := { (s.modStrand 0 3 (fun t => t.setQueue .q [w])) with cycle := 10, now := false }
  !syncEarly s 0 w && !domGone s 0 l.toNat && startReady (s.core 0) 3 .q w && !preempting s 0 && !(s.core 0).frozen s.cycle &&
    !(s.core 0).faultAbove s.cycle 3 && (s.core 0).d.regBad.isEmpty && ((s.core 0).strand 3).queue .q = [w] && f w s

theorem wit_SyncWordsComplete :
    (∀ l ∈ [(0 : BitVec 2), 3],
      (∀ i ∈ [Instr.barW h0 l, .barA h0 l, .barT h0 3 l, .bcast h0 1 l, .brecv h0 3 l, .red h0 3 1 6 l, .evt h0 l], went i member = true) ∧
      maySync (.barW h0 l) l member (fun w t => !(t.core 0).pend.getLsbD l.toNat && rel w t) = true ∧
      maySync (.barW h0 l) l (member.modCore 0 (fun y => { y with pend := 9 })) (fun _ t => (t.core 0).pend.getLsbD l.toNat) = true ∧
      maySync (.barA h0 l) l member (fun w t => !(t.core 0).pend.getLsbD l.toNat && rel w t) = true ∧
      (∀ i ∈ [Instr.barT h0 3 l, .bcast h0 1 l, .red h0 3 1 6 l, .evt h0 l], maySync i l member (fun _ _ => true) = true) ∧
      maySync (.brecv h0 3 l) l (member.modCore 0 (fun y => { y with latches := [(0, [7]), (3, [8])] })) (fun _ t =>
        !(tget [] (t.core 0).latches l.toNat).isEmpty) = true) ∧
    runs (.wfe h0) (member.modCore 0 (fun y => { y with evt := true })) (fun _ t => (t.core 0).evt) = true ∧
    runs (.wfe h0) member (fun _ t => !(t.core 0).evt) = true ∧
    runs (.tkpush h0 1 3) (withRegs 3 1 0 (at_ 3)) (fun w t => earlierDone t 0 3 w.seq) = true ∧
    runs0 (.tkpop h0 1 3) (at_ 3) = true ∧ runs0 (.tkcnt h0 3 3) (at_ 3) = true := by decide +kernel

/-! ### Witnesses: ports, the system, contexts, regions -/

/-- Strand `k`, with the in-port and the out-port of core 0's tile side 1 bound; the in-port holds `bs`. -/
def ported (k : Nat) (bs : List Beat) : State :=
  dataAt k (fun d => (d.setPort (inPort 1) { bound := true, fifo := bs }).setPort (outPort 1) { bound := true })

theorem wit_PortWordsComplete :
    (∀ i ∈ [Instr.wout h0 1 31 1 0, .wout h0 1 31 0 3, .weos h0 1], runs i (ported 2 []) (fun _ t =>
      ((t.core 0).d.port (outPort 1)).bound && ((t.core 0).d.port (outPort 1)).cause = 0 &&
        ((t.core 0).d.port (outPort 1)).occ t.cycle + 4 ≤ 16) = true) ∧
    -- one beat that ends the frame early, and four without a flag
    runs (.win h0 1 31 0 3) (ported 0 [⟨5, true⟩]) (fun _ t => !inAhead t 0 1 false t.cycle && ((t.core 0).d.port (inPort 1)).cause = 0 &&
      ((t.core 0).d.port (inPort 1)).visible t.cycle = [⟨5, true⟩]) = true ∧
    runs (.win h0 1 31 0 3) (ported 0 [⟨5, false⟩, ⟨6, false⟩, ⟨7, false⟩, ⟨8, false⟩]) (fun _ t => !inAhead t 0 1 false t.cycle &&
      (((t.core 0).d.port (inPort 1)).visible t.cycle).length = 4) = true ∧
    (∀ i ∈ [Instr.wtest h0 1 0 16, .wtest h0 1 1 0, .wstat h0 1 3 0 1, .wstat h0 1 3 1 0], runs0 i (ported 3 []) = true) ∧
    runs (.wdrainIn h0 1) (ported 3 [⟨5, false⟩, ⟨6, true⟩]) (fun _ t => !inAhead t 0 1 true t.cycle &&
      (((t.core 0).d.port (inPort 1)).visible t.cycle)[1]? = some ⟨6, true⟩) = true ∧
    runs (.wdrainOut h0 1) (ported 3 []) (fun _ t => ((t.core 0).d.port (outPort 1)).bound && ((t.core 0).d.port (outPort 1)).occ t.cycle = 0) = true := by
  decide +kernel

/-- X runs its core's handler; the fault that it handles is of class `n`. -/
def handler (n : Nat) : State :=
  ((csrAt 3 (fun r => { r with hnd := true })).modStrand 0 0 (fun t => { t with st := .faulted, stop := some { code := 0x08, cls := n } }))

theorem wit_SystemWordsComplete :
    runs0 (.halt h0) (at_ 0) = true ∧
    runs (.trap h0 255) (at_ 3) (fun w t => earlierDone t 0 3 w.seq) = true ∧
    runs (.tretAbort h0) (handler 1) (fun w t => earlierDone t 0 3 w.seq) = true ∧
    runs (.tretResume h0) (handler 4) (fun w t => earlierDone t 0 3 w.seq && deferredStop (t.core 0)) = true ∧
    runs (.tretResume h0) (handler 1) (fun w t => earlierDone t 0 3 w.seq && !deferredStop (t.core 0)) = true ∧
    (∀ i ∈ [Instr.yield h0 3, .mperm h0 3 1], runs0 i (at_ 3) = true ∧ (at_ 3).cycle < 2 ^ 63) ∧
    runs (.yield h0 3) (at_ 3) (fun w t => decide (w.idx ≠ 1) && decide (w.res.toNat + 26 ≤ ({ t with cycle := t.cycle + 26 } : State).cycle)) = true ∧
    nodeRuns ((coreAt 3 (fun x => { x with node := some ⟨0, 1, 0⟩ })).modDie 0 (fun y => { y with
      launches := [{ stamp := 1, nodes := [{ st := .running }] }] })) 0 = true ∧
    runs (.wut h0 1) (at_ 3) (fun w _ => w.va.toNat ≤ timeLo (at_ 3)) = true ∧
    runs (.wut h0 1) (withRegs 3 1 0 (at_ 3)) (fun w _ => timeLo (at_ 3) < w.va.toNat) = true ∧
    runs0 (.rdtime h0 3 0) (at_ 3) = true ∧ runs0 (.rdtime h0 3 1) (at_ 3) = true := by decide +kernel

/-- A Y word of strand 3 that runs at once and reads `n` bytes at its address at its start. -/
def reads (n : Nat) (f : List Byte → Bool) (w : QWord) (t : State) : Bool :=
  w.va.toNat < 2 ^ 48 && (match coreXlat t 0 (coreAccess t 0) w.va.toNat with
    | (.ok pa _ _, v) => bits pa 47 46 = 0 && rangeReady v pa n && (match readBytes v pa n with
      | (none, _, b) => f b
      | _ => false)
    | _ => false)

/-- A domain descriptor of slot 1, level 1, die 0, with core 0 as its member. -/
def domBytes : List Byte := leBytes 8 (0x100 + 0x40 + 1) ++ [1] ++ List.replicate 55 0

/-- An interleave descriptor: one member, slice `m`, of the GiB from `b` to 4. -/
def ilBytes (m b : Nat) : List Byte := leBytes 8 (0x40000 + b * 256 + 8) ++ leBytes 1 m ++ List.replicate 55 0

/-- Interleave domain 3 of die 0 quiesced, the descriptor `b` at 0. -/
def quiet3 (b : List Byte) : State := (global b 0 0).modDie 0 (fun x => { x with il := tput x.il 3 { quiesced := true } })

theorem wit_DomainWordsComplete :
    (∀ i ∈ [Instr.domsetInstall h0 3 1, .domsetRemove h0 3 1], runs i (global domBytes 0 0) (reads 64 (fun b => b.length = 64)) = true) ∧
    domInvalid 0 (domDesc 0 domBytes) = false ∧ domConflict (at_ 3) 0 (domDesc 0 domBytes) = false ∧
    (∀ i ∈ [Instr.hmsetQuiesce h0 3 1 11, .hmsetResume h0 3 1 11], runs0 i (at_ 3) = true) ∧
    runs (.hmsetSwitch h0 3 1 11) (at_ 3) (fun _ t => !(tget {} (t.die 0).il 11).quiesced) = true ∧
    runs (.hmsetSwitch h0 3 1 3) (quiet3 (ilBytes 48 3)) (fun w t => (tget {} (t.die 0).il 3).quiesced &&
      reads 64 (fun b => (ilDesc b).isNone) w t) = true ∧
    runs (.hmsetSwitch h0 3 1 3) (quiet3 (ilBytes 0 3)) (fun w t => (tget {} (t.die 0).il 3).quiesced &&
      reads 64 (fun b => (match ilDesc b with | some x => ilConflict (t.die 0) 3 x | none => false)) w t) = true ∧
    runs (.hmsetSwitch h0 3 1 3) (quiet3 (List.replicate 64 0)) (fun w t => (tget {} (t.die 0).il 3).quiesced &&
      reads 64 (fun b => (match ilDesc b with | some x => !ilConflict (t.die 0) 3 x | none => false)) w t) = true := by decide +kernel

/-- Core 1 with every strand in a state. -/
def other (st : StrandState) (s : State) : State :=
  s.modCore 1 (fun x => { x with strands := (List.range 4).map (fun k => (k, { st := st })) })

/-- Four pages that hold a whole context image, mapped for writes. -/
def imageRoom : State :=
  (other .preempted (withRegs 3 0 0 (at_ 3))).modCore 0 (fun c => { c with tlb :=
    [⟨0, 0, 16, 0x83⟩, ⟨0, 1, 16, 0x10083⟩, ⟨0, 2, 16, 0x20083⟩, ⟨0, 3, 16, 0x30083⟩] })

theorem wit_ContextWordsComplete :
    runs (.rdst h0 3 1 1) (withRegs 3 0 0 (at_ 3)) (fun w t => w.va.toNat ≠ checkWord && (imageWord t 1 (t.core 1) w.va.toNat).isSome) = true ∧
    runs (.rdst h0 3 1 1) (withRegs 3 5120 0 (at_ 3)) (fun w t => w.va.toNat ≠ checkWord && (imageWord t 1 (t.core 1) w.va.toNat).isNone) = true ∧
    runs (.rdst h0 3 1 1) (withRegs 3 7683 0 (at_ 3)) (fun w _ => w.va.toNat = checkWord) = true ∧
    runs (.wrst h0 3 1 191) (withRegs 3 32767 0 (at_ 3)) (fun _ t => targetCore 0 191 ≠ 0 && coreIdle (t.core 191)) = true ∧
    runs (.wrst h0 3 1 0) (withRegs 3 383 0 (handler 1)) (fun w t => (t.core 0).csr.hnd && w.va.toNat < 384) = true ∧
    runs (.wrst h0 3 1 0) (withRegs 3 512 0 (handler 1)) (fun w t => (t.core 0).csr.hnd && 512 ≤ w.va.toNat) = true ∧
    (∀ i ∈ [Instr.ctxSave h0 3 1 1, .ctxLoad h0 3 1 1], runs i (other .running (at_ 3)) (fun _ t =>
      !(coreStopped (t.core 1) || corePreempted (t.core 1))) = true) ∧
    runs (.ctxSave h0 3 1 1) imageRoom (fun w t => corePreempted (t.core 1) && (match writePieces 0 10 w.va.toNat 262144 t with
      | (.ok ps, u) => ps.all (fun p => rangeReady u p.1 p.2) && rel w u
      | _ => false)) = true := by decide +kernel

/-- Region 47 of die 0. -/
def region (f : Region → Region) : State := (withRegs 3 0 0 (at_ 3)).modRegion 47 f

/-- A word of strand `k` in its queue. -/
def queued (i : Instr) (p : Phase) : QWord := { (default : QWord) with i := i, phase := p }

/-- The word `w` alone in X's Y queue, ten cycles after reset. -/
def rgState (w : QWord) (s : State) : State := { (s.modStrand 0 3 (fun t => t.setQueue .y [w])) with cycle := 10, now := false }

/-- `RgMay` of region 47, as a Bool, of the word `i` with its operand 0, in the state `s`: what `f` says of the word and that state. -/
def mayRg (i : Instr) (s : State) (f : QWord → State → Bool) : Bool :=
  let w := queued i .queued
  let s := rgState w s
  ((s.core 0).strand 3).queue .y = [w] && (rgReady s 0).map (·.2) = some 47 && startReady (s.core 0) 3 .y w && (s.core 0).d.regBad.isEmpty &&
    !lowerArrives s 0 47 && f w s

/-- `RgStarts` of region 47: what `f` says of the word and the state in which it runs. -/
def starts (i : Instr) (s : State) (f : QWord → State → Bool) : Bool :=
  mayRg i s (fun w s => firstInLine (joinLine 47 0 w.seq s) 47 0 w && f w (joinLine 47 0 w.seq s))

/-- An image whose swap is allowed at any edge. -/
def hotImage : Image := { header := List.replicate 16 0 ++ [1] ++ List.replicate 239 0 }

theorem wit_RegionWordsComplete :
    (∀ i ∈ [Instr.rgswapNow h0 3 47, .rgswapHot h0 3 47, .rgfreezeFreeze h0 3 47, .rgfreezeThaw h0 3 47, .rgreadStatus h0 3 47, .rgclk h0 3 5 47],
      went i (region id) = true ∧ (region id).cycle < 2 ^ 64) ∧
    starts (.rgswapNow h0 3 47) (region (fun r => { r with live := .running })) (fun _ t => (t.region 47).live = .running) = true ∧
    starts (.rgswapNow h0 3 47) (region id) (fun _ t => (t.region 47).live = .blank && (t.region 47).standby ≠ .staged) = true ∧
    starts (.rgswapNow h0 3 47) (region (fun r => { r with live := .frozen, standby := .staged })) (fun _ t => (t.region 47).standby = .staged) = true ∧
    starts (.rgswapNow h0 3 47) (region (fun r => { r with standby := .staged })) (fun _ t => (t.region 47).live = .blank) = true ∧
    starts (.rgswapHot h0 3 47) (region (fun r => { r with live := .pending })) (fun _ t => (t.region 47).live = .pending) = true ∧
    starts (.rgswapHot h0 3 47) (region id) (fun _ t => (t.region 47).live = .blank) = true ∧
    starts (.rgswapHot h0 3 47) (region (fun r => { r with live := .running })) (fun _ t => (t.region 47).img.swap = 0) = true ∧
    starts (.rgswapHot h0 3 47) (region (fun r => { r with live := .running, img := hotImage })) (fun _ t =>
      (t.region 47).img.swap ≠ 0 && (t.region 47).standby ≠ .staged) = true ∧
    starts (.rgfreezeFreeze h0 3 47) (region id) (fun _ t => (t.region 47).live = .blank) = true ∧
    starts (.rgfreezeFreeze h0 3 47) (region (fun r => { r with live := .running })) (fun _ t => (t.region 47).live = .running) = true ∧
    starts (.rgfreezeFreeze h0 3 47) (region (fun r => { r with live := .pending, swapper := some (1, 5), line := [(1, 5)] }))
      (fun _ t => (t.region 47).live = .pending) = true ∧
    starts (.rgfreezeThaw h0 3 47) (region id) (fun _ t => (t.region 47).live ≠ .frozen) = true ∧
    starts (.rgfreezeThaw h0 3 47) (region (fun r => { r with live := .frozen, err := true })) (fun _ t => (t.region 47).err) = true ∧
    starts (.rgfreezeThaw h0 3 47) (region (fun r => { r with live := .frozen })) (fun _ t => (t.region 47).live = .frozen && !(t.region 47).err) = true ∧
    starts (.rgreadStatus h0 3 47) (region id) (fun _ _ => true) = true ∧
    starts (.rgclk h0 3 5 47) (region (fun r => { r with live := .running })) (fun _ t => (t.region 47).live = .running) = true ∧
    starts (.rgclk h0 3 5 47) (region id) (fun _ t => (t.region 47).live = .blank) = true ∧
    (let w := { queued (.rgfreezeThaw h0 3 47) .started with idx := 1, due := 10 }
     w.phase = .started ∧ w.idx = 1 ∧ w.due ≤ (rgState w (region id)).cycle) := by decide +kernel

/-- The staged image of a hot swap: any image, with its own digest (14 R285). -/
def staged (b : List Byte) : Image := { header := b, digest := BitVec.ofNat 512 (leNat (shake256 (imageBytes { header := b }) 64)) }

theorem leNat_lt (l : List Byte) : leNat l < 256 ^ l.length := by
  induction l with
  | nil => simp [leNat]
  | cons b l ih =>
    have := b.isLt
    simp only [leNat, List.length_cons, Nat.pow_succ]
    omega

theorem staged_digest (b : List Byte) : leNat (shake256 (imageBytes (staged b)) 64) = (staged b).digest.toNat := by
  have h : imageBytes (staged b) = imageBytes { header := b } := rfl
  have l : (shake256 (imageBytes { header := b }) 64).length ≤ 64 := List.length_take_le ..
  have := leNat_lt (shake256 (imageBytes { header := b }) 64)
  have := Nat.pow_le_pow_right (show 0 < 256 by decide) l
  rw [h]
  simp only [staged, BitVec.toNat_ofNat]
  rw [Nat.mod_eq_of_lt]
  omega

theorem wit_RegionWordsHotSwap :
    starts (.rgswapHot h0 3 47) (region (fun r => { r with live := .running, img := hotImage, standby := .staged, stby := staged hotImage.header }))
      (fun _ t => (t.region 47).live = .running && (t.region 47).img.swap ≠ 0 &&
        (t.region 47).standby = .staged && (t.region 47).stby.header = hotImage.header) = true := by decide +kernel

/-- An image with `n` groups of the chain. -/
def chained (n : Nat) : Image := { header := List.replicate 64 0 ++ leBytes 8 (2 ^ n - 1) ++ List.replicate 184 0 }

/-- Pages 0 and 9 are mapped, and memory holds `b` at 0. -/
def loadRoom (b : List Byte) : State := (global b 0 0).modCore 0 (fun c => { c with tlb := ⟨0, 9, 16, 0x90083⟩ :: c.tlb })

/-- Page 0 is mapped, and the region has the parts that `f` gives it; the in buffer holds `b`. -/
def chain (b : List Word) (f : Region → Region) : State :=
  (((global [] 0 0).modRegion 47 f).modDie 0 (fun x => { x with inBuf := b }))

theorem wit_ChainWordsComplete :
    let ok := fun (w : QWord) (t : State) => !chainBusy t 0 w.seq && (t.die 0).wbPages.isNone
    let pieces := fun (n : Nat) (w : QWord) (t : State) =>
      match writePieces 0 10 w.va.toNat (8 * n) t with
      | (.ok _, u) => (match writePieces 0 10 w.va.toNat (8 * n) u with
        | (.ok _, _) => true
        | _ => false)
      | _ => false
    (∀ i ∈ [Instr.rgreadSave h0 3 1 47, .rgreadFetch h0 3 1 0 47, .rgreadRestore h0 3 0 47, .rgload h0 3 1 47], went i (chain [] id) = true) ∧
    starts (.rgreadSave h0 3 1 47) (chain [] id) (fun w t => ok w t && (t.region 47).live ≠ .frozen) = true ∧
    starts (.rgreadSave h0 3 1 47) (chain [] (fun r => { r with live := .frozen, img := chained 2 })) (fun w t =>
      ok w t && chainChunks (t.region 47).img = 2 && pieces 2 w t) = true ∧
    starts (.rgreadSave h0 3 1 47) (chain [] (fun r => { r with live := .frozen, img := chained 1 })) (fun w t =>
      ok w t && chainChunks (t.region 47).img = 1 && pieces 1 w t) = true ∧
    starts (.rgreadFetch h0 3 1 0 47) (chain [] id) (fun w t => ok w t && (t.region 47).live = .blank) = true ∧
    starts (.rgreadFetch h0 3 1 1 47) (chain [] id) (fun w t => ok w t && (t.region 47).standby ≠ .staged) = true ∧
    starts (.rgreadFetch h0 3 1 0 47) (chain [] (fun r => { r with live := .frozen })) (fun w t =>
      ok w t && chainChunks (t.region 47).img = 0) = true ∧
    starts (.rgreadFetch h0 3 1 1 47) (chain [] (fun r => { r with standby := .staged, stby := chained 2 })) (fun w t =>
      ok w t && chainChunks (t.region 47).stby = 2 && reads 16 (fun b => b.length = 16) w t) = true := by decide +kernel

theorem wit_ChainWordsRestore :
    let ok := fun (w : QWord) (t : State) => !chainBusy t 0 w.seq
    starts (.rgreadRestore h0 3 0 47) (chain [] id) (fun w t => ok w t && (t.region 47).live = .blank) = true ∧
    starts (.rgreadRestore h0 3 0 47) (chain [7] (fun r => { r with live := .frozen })) (fun w t =>
      ok w t && (t.die 0).inBuf.length ≠ chainChunks (t.region 47).img) = true ∧
    starts (.rgreadRestore h0 3 0 47) (chain [7] (fun r => { r with live := .frozen, img := chained 1 })) (fun w t =>
      ok w t && (t.die 0).inBuf.length = chainChunks (t.region 47).img && chainChunks (t.region 47).img = 1) = true ∧
    starts (.rgreadRestore h0 3 0 47) (chain [7, 8] (fun r => { r with live := .frozen, img := chained 2 })) (fun w t =>
      ok w t && (t.die 0).inBuf.length = chainChunks (t.region 47).img && chainChunks (t.region 47).img = 2) = true ∧
    starts (.rgreadRestore h0 3 1 47) (chain [] id) (fun w t => ok w t && (t.region 47).live = .blank && (t.region 47).standby ≠ .staged) = true ∧
    starts (.rgreadRestore h0 3 1 47) (chain [7, 8] (fun r => { r with live := .frozen, standby := .staged, stby := chained 2 })) (fun w t =>
      ok w t && (t.die 0).inBuf.length = chainChunks (t.region 47).stby && chainChunks (t.region 47).stby = 2) = true := by decide +kernel

/-- The header of an image whose fields are right, and a signature block of one byte. -/
def goodHead : List Byte := leBytes 4 0x31425657 ++ [1, 0, 1, 0] ++ leBytes 4 9721 ++ List.replicate 244 0
def goodSig : List Byte := [1, 0] ++ List.replicate 1534 0

/-- `Begun` of the word `w`, alone in X's Y queue of core 0, as a Bool: `f` says the rest of the state. -/
def runsOn (w : QWord) (s : State) (f : State → Bool) : Bool :=
  let s := rgState w s
  ((s.core 0).strand 3).queue .y = [w] && w.phase = .started && w.req = 0 && (s.core 0).d.regBad.isEmpty && !(s.core 0).frozen s.cycle &&
    !(s.core 0).faultAbove s.cycle 3 && f s

/-- Begun words that the engine runs on to their end: the region words' second parts, DOMSET, YIELD. -/
theorem wit_BegunWordsEnd :
    (∀ i ∈ [Instr.rgfreezeFreeze h0 3 47, .rgfreezeThaw h0 3 47, .rgreadRestore h0 3 0 47],
      runsOn { queued i .started with idx := 1, due := 10 } (region id) (fun s => s.cycle = 10) = true) ∧
    (let w := { queued (.rgreadSave h0 3 1 47) .started with idx := 1, due := 10 }
     runsOn w (chain [] (fun r => { r with live := .frozen, img := chained 2 })) (fun s =>
      (match writePieces 0 10 w.va.toNat (8 * chainChunks (s.region 47).img) s with
        | (.ok _, _) => true
        | _ => false)) = true) ∧
    (let w := { queued (.rgload h0 3 1 47) .started with idx := 1, due := 10, buf := List.replicate 1792 0 }
     runsOn w (region id) (fun s => w.due ≤ s.cycle && 1792 ≤ w.buf.length &&
      !(headFields { header := w.buf.take 256 } && sigFields ((w.buf.drop 256).take 1536))) = true) := by decide +kernel

theorem wit_DomsetRunsOn :
    let w := fun (i : Instr) (b : List Byte) => { queued i .started with buf := b, due := 10 }
    let set := Instr.domsetInstall h0 3 1
    let del := Instr.domsetRemove h0 3 1
    let placed := (at_ 3).modSlot 0 (domDesc 0 domBytes).slot (fun x => { x with installed := true, level := 1 })
    runsOn (w set (List.replicate 64 255)) (at_ 3) (fun s => domInvalid 0 (domDesc 0 (List.replicate 64 255)) && decide (10 ≤ s.cycle) &&
      (domsetsAhead 0 (w set (List.replicate 64 255)) s).isEmpty) = true ∧
    runsOn (w set domBytes) placed (fun s => !domInvalid 0 (domDesc 0 domBytes) && domConflict s 0 (domDesc 0 domBytes)) = true ∧
    runsOn (w set domBytes) (at_ 3) (fun s => !domInvalid 0 (domDesc 0 domBytes) && !domConflict s 0 (domDesc 0 domBytes) &&
      (domsetsAhead 0 (w set domBytes) s).isEmpty) = true ∧
    runsOn (w del domBytes) placed (fun s => (s.slot 0 (domDesc 0 domBytes).slot).installed &&
      (s.slot 0 (domDesc 0 domBytes).slot).level = (domDesc 0 domBytes).level) = true ∧
    runsOn (w del domBytes) (at_ 3) (fun s => !(s.slot 0 (domDesc 0 domBytes).slot).installed) = true ∧ domBytes.length = 64 := by
  decide +kernel

/-- Core 0 runs node 0 of a launch, whose node 1 is ready for the same core. -/
def yielding : State :=
  (coreAt 3 (fun x => { x with node := some ⟨0, 1, 0⟩ })).modDie 0 (fun y => { y with
    launches := [{ stamp := 1, nodes := [{ st := .running, clusters := 1, cores := 1 }, { st := .ready, clusters := 1, cores := 1 }] }] })

theorem wit_YieldRunsOn :
    let w := queued (.yield h0 3) .started
    let s := fun (s : State) (f : State → Bool) => runsOn w s (fun s => f { s with cycle := 26 })
    s yielding (fun s => (s.core 0).node = some ⟨0, 1, 0⟩ && (yieldsTo s ⟨0, 1, 0⟩) = some ⟨0, 1, 1⟩ && decide (w.res.toNat + 26 ≤ s.cycle)
      && !(s.core 0).frozen s.cycle) = true ∧
    s (at_ 3) (fun s => ((s.core 0).node.bind (yieldsTo s)).isNone && decide (w.res.toNat + 26 ≤ s.cycle)) = true ∧
    runsOn { w with idx := 1 } yielding (fun s => nodeRuns s 0) = true := by decide +kernel

theorem wit_RegionLoads :
    mayRg (.rgload h0 3 1 47) (chain [] (fun r => { r with standby := .loading })) (fun _ s => (s.region 47).standby = .loading) = true ∧
    mayRg (.rgload h0 3 1 47) (loadRoom []) (fun w s => (s.region 47).standby ≠ .loading && (s.region 47).live ≠ .pending &&
      w.va.toNat % 65536 + 256 ≤ 65536 && (w.va.toNat + 622400) % 65536 + 1536 ≤ 65536 &&
      reads 256 (fun b => !headFields { header := b }) w (setStandby 47 .loading {} s) &&
      reads 1536 (fun _ => true) { w with va := w.va + 622400 } s) = true ∧
    headFields { header := goodHead.take 256 } = true ∧ sigFields goodSig = true ∧ goodHead.length = 256 ∧ goodSig.length = 1536 := by
  decide +kernel

/-- A whole image, as RGLOAD holds it once it is read. -/
theorem wit_RegionLoadEnds :
    let b := goodHead ++ goodSig ++ List.replicate 622144 0
    imageSize ≤ b.length ∧ b.take 256 = goodHead ∧ (b.drop 256).take 1536 = goodSig := by
  have h : goodHead.length = 256 := by decide +kernel
  have g : goodSig.length = 1536 := by decide +kernel
  refine ⟨?_, ?_, ?_⟩
  · rw [List.length_append, List.length_append, List.length_replicate, h, g]; decide
  · rw [List.append_assoc, List.take_append_of_le_length (Nat.le_of_eq h.symm), List.take_of_length_le (Nat.le_of_eq h)]
  · rw [List.append_assoc, ← h, List.drop_left, ← g, List.take_left]

/-- Four pages of a carve-out, mapped for reads. -/
def carveRoom : State :=
  (imageRoom.modSlice 0 0 (fun x => { x with carve := 1 })).modCore 0 (fun c =>
    { c with tlb := (List.range 4).map (fun v => ⟨0, v, 16, 0x400000000083⟩) })

/-- What core 0's read of a whole page of a carve-out leaves of the state; none where it cannot be made at once. -/
def readsPage (va : Word) (s : State) : Option State :=
  match coreXlat s 0 (coreAccess s 0) va.toNat with
  | (.ok pa _ _, v) => match target pa with
    | .carve _ _ _ => if va.toNat < 2 ^ 48 ∧ rangeReady v pa 65536 = true ∧ (readBytes v pa 65536).1 = none
        then some (readBytes v pa 65536).2.1 else none
    | _ => none
  | _ => none

theorem readsPage_spec {va : Word} {s u : State} (h : readsPage va s = some u) : ∃ b, ReadAtOnce 0 va 65536 s u b := by
  unfold readsPage at h
  split at h
  · rename_i pa lf sz v hx
    split at h
    · rename_i d n o ht
      split at h
      · rename_i hc
        refine ⟨(readBytes v pa 65536).2.2, hc.1, pa, lf, sz, v, hx, fun d o => by simp [ht], hc.2.1, ?_⟩
        rw [← Option.some.inj h, ← hc.2.2]
      · simp at h
    · simp at h
  · simp at h

/-- A read of four whole pages from address 0 ends at once. -/
theorem fetches_pages {w : QWord} {s a b c d : State} (hw : w.va = 0) (hl : w.buf = []) (hb : w.bit = false)
    (h0 : readsPage 0 s = some a) (h1 : readsPage 65536 a = some b) (h2 : readsPage 131072 b = some c) (h3 : readsPage 196608 c = some d) :
    ∃ w' u, Fetches 0 3 w.va 262144 40000 w s w' u := by
  obtain ⟨x0, h0⟩ := readsPage_spec h0
  obtain ⟨x1, h1⟩ := readsPage_spec h1
  obtain ⟨x2, h2⟩ := readsPage_spec h2
  obtain ⟨x3, h3⟩ := readsPage_spec h3
  have l := fun {va : Word} {s u : State} {b : List Byte} (h : ReadAtOnce 0 va 65536 s u b) => (by
    obtain ⟨_, _, _, _, _, _, _, _, e⟩ := h; exact readBytes_length e : b.length = 65536)
  have l0 := l h0; have l1 := l h1; have l2 := l h2; have l3 := l h3
  refine ⟨{ w with buf := w.buf ++ x0 ++ x1 ++ x2 ++ x3 }, d, fun go => ?_⟩
  have step := fun (j f : Nat) (w : QWord) (s u : State) (b : List Byte) (va : Word) (hb : w.bit = false) (hl : w.buf.length = 65536 * j)
      (hj : j < 4) (e : 0 + word (65536 * j) = va) (ha : va.toNat % 65536 = 0) (h : ReadAtOnce 0 va 65536 s u b) =>
    fetchVirt_page (k := 3) (total := 262144) (f := f) (x0 := 0) (go := go) hb hl (by omega) e ha h
  rw [hw]
  refine (step 0 39999 w s a x0 _ hb (by rw [hl]; rfl) (by decide) (by decide +kernel) (by decide +kernel) h0).trans
    ((step 1 39998 { w with buf := w.buf ++ x0 } a b x1 _ hb (by simp only [hl, List.nil_append, l0]) (by decide) (by decide +kernel)
      (by decide +kernel) h1).trans
    ((step 2 39997 { w with buf := w.buf ++ x0 ++ x1 } b c x2 _ hb (by simp only [hl, List.nil_append, List.length_append, l0, l1])
      (by decide) (by decide +kernel) (by decide +kernel) h2).trans
    ((step 3 39996 { w with buf := w.buf ++ x0 ++ x1 ++ x2 } c d x3 _ hb
      (by simp only [hl, List.nil_append, List.length_append, l0, l1, l2]) (by decide) (by decide +kernel) (by decide +kernel) h3).trans ?_)))
  rw [fetchVirt, if_pos (by simp only [hl, List.nil_append, List.length_append, l0, l1, l2, l3]; decide)]
  simp only [hw]

theorem wit_ContextLoads : ∃ w t w' u, runsNow (.ctxLoad h0 3 1 1) carveRoom = some (w, t) ∧ corePreempted (t.core 1) = true ∧
    Fetches 0 3 w.va 262144 40000 w t w' u := by
  have h : runs (.ctxLoad h0 3 1 1) carveRoom (fun w t => w.va = 0 && w.buf.isEmpty && !w.bit && corePreempted (t.core 1) &&
    (readsPage 0 t).any (fun a => (readsPage 65536 a).any (fun b => (readsPage 131072 b).any (fun c => (readsPage 196608 c).isSome)))) = true := by
    decide +kernel
  unfold runs at h
  split at h
  · rename_i w t hr
    simp only [Bool.and_eq_true, decide_eq_true_eq, Bool.not_eq_true', List.isEmpty_iff, Option.any_eq_true, Option.isSome_iff_exists] at h
    obtain ⟨⟨⟨⟨ha, hb⟩, hc⟩, hd⟩, a, h0, b, h1, c, h2, d, h3⟩ := h
    obtain ⟨w', u, hf⟩ := fetches_pages ha hb hc h0 h1 h2 h3
    exact ⟨w, t, w', u, hr, hd, hf⟩
  · simp at h

/-! ### Witnesses: events of cores, rings, slices and regions -/

/-- Core 0 with one word in queue `e` of strand `k`, at cycle 100. -/
def holding (k : Nat) (e : Engine) (w : QWord) : State :=
  { (strandAt k (fun t => t.setQueue e [w])) with cycle := 100, now := false }

/-- Does a body finish? -/
def finishes (c k : Nat) (w : QWord) (s : State) (f : State → Bool) : Bool :=
  match (specOf w.i).body c k w s with
  | .done u _ _ => f u
  | _ => false

theorem wit_EngineEventsAct :
    let i := Instr.addi h0 3 1 5
    let v := Instr.vadd h0 3 1 2 0
    let a := holding 3 .x (queued i .queued)
    let f := (holding 1 .v (queued v .queued)).modData 0 (fun d => { d with regBad := [(0, 2)] })
    let b := holding 3 .q { queued (.bcast h0 1 0) .started with idx := 1 }
    let d := holding 3 .x (queued i .done)
    let e := holding 3 .x (queued (.csrr h0 3 0x00F) .done)
    let ok := fun (s : State) (k : Nat) => !(s.core 0).frozen s.cycle && !(s.core 0).faultAbove s.cycle k && !preempting s 0
    (ok a 3 && startReady (a.core 0) 3 .x (queued i .queued) && turnOf 0 3 .x a && !racing (a.core 0) 3 (specOf i) (queued i .queued) && !(specOf i).late && (a.core 0).d.regBad.isEmpty &&
      finishes 0 3 (queued i .queued) (serveStrand 0 3 .x a) (fun _ => true)) = true ∧
    (ok f 1 && startReady (f.core 0) 1 .v (queued v .queued) && turnOf 0 1 .v f && !racing (f.core 0) 1 (specOf v) (queued v .queued) && !(specOf v).late &&
      (readsOf (queued v .queued)).any (fun r => (f.core 0).d.regBad.contains r.key)) = true ∧
    (ok b 3 && (specOf (.bcast h0 1 0)).engine != .l && finishes 0 3 { queued (.bcast h0 1 0) .started with idx := 1 } (serveStrand 0 3 .q b) (fun u =>
      ((u.core 0).strand 3).queue .q == ((b.core 0).strand 3).queue .q)) = true ∧
    (ok d 3 && retirable d 0 3 .x) = true ∧
    (ok e 3 && (specOf (.csrr h0 3 0x00F)).late && retirable e 0 3 .x && finishes 0 3 (queued (.csrr h0 3 0x00F) .done) e (fun _ => true)) = true := by decide +kernel

/-- A transfer within scratch of one chunk of 32 bytes, in ring 3, slot 15. -/
def xfer (f : Xfer → Xfer) : Xfer :=
  f { (default : Xfer) with hoop := 3, slot := 15, kind := .loc, dst := 0x7FFE0, src := 0, len := 32 }

theorem wit_CoreEventsAct :
    let stuck := { (coreAt 3 (fun x => { ((x.modStrand 3 (fun t => { t with st := .blocked, reason := some .dq })).setDqueue 3 0 (List.replicate 8 ⟨0, some 1⟩)) with
      stuck := some 0, code := memWriteN [] 0xC000 (bytesOfWord (encode (.addi h0 29 0 1))) })) with cycle := 65536 }
    let frz := { (coreAt 3 (fun x => { x with frzPend := [5] })) with cycle := 5 }
    let thaw := { (coreAt 3 (fun x => { x with frzUntil := some 37 })) with cycle := 37 }
    let refill := dataAt 3 (fun d => { d with refills := [127] })
    let pause := strandAt 3 (fun t => { t with st := .blocked, reason := some .pause })
    let acc := holding 1 .m (queued (.mma h0 1 2 3 1 0 0 0 0 2) .started)
    let perm := holding 3 .y { queued (.mperm h0 3 1) .started with due := 100 }
    let wut := (fun (s : State) => { s with time := { s.time with count := 0x100000000 } }) (holding 3 .y { queued (.wut h0 1) .started with va := 1 })
    (lowestBlocked (stuck.core 0) = some 3 && coreStuck stuck 0 && !(stuck.core 0).frozen stuck.cycle) = true ∧
    ((at_ 3).core 0).csr.frzScope = false ∧
    ((frz.core 0).frzUntil.isNone && (frz.core 0).frzPend.find? (fun t => decide (t ≤ frz.cycle)) = some 5) = true ∧
    ((thaw.core 0).frzUntil = some thaw.cycle && (thaw.core 0).held.isEmpty && (thaw.core 0).failHeld.isEmpty) = true ∧
    ((refill.core 0).d.refills.contains 127 && !(refill.core 0).frozen refill.cycle) = true ∧
    ((pause.strand 0 3).st = .blocked && (pause.strand 0 3).reason = some .pause && (pause.strand 0 3).pauseEnd ≤ pause.cycle) = true ∧
    (!(acc.core 0).frozen acc.cycle && !(acc.core 0).faultAbove acc.cycle 1 && (mulOf (.mma h0 1 2 3 1 0 0 0 0 2) (acc.core 0).d).isSome &&
      (queued (.mma h0 1 2 3 1 0 0 0 0 2) .started).trapen = 0) = true ∧
    (mpermDue perm 0).isSome = true ∧ coreIdx 0 = 0 ∧ (wutDue wut 0).isSome = true := by decide +kernel

theorem wit_CopyEventsAct :
    let s := fun (f : Xfer → Xfer) => dataAt 0 (fun d => { d with xfers := [xfer f] })
    ∀ f ∈ [(id : Xfer → Xfer), fun x => { x with started := true }, fun x => { x with started := true, pos := 32 }],
      (xferAt ((s f).core 0).d 3 15 = some (xfer f) && !((s f).core 0).frozen (s f).cycle && !preempting (s f) 0 && !(xfer f).stopped &&
        (xfer f).gen = 0 && !((s f).core 0).d.xfers.any (waitsFor (xfer f)) &&
        ((s f).strand 0 0).words.isEmpty && okScr 0 32 (s f) && ((s f).core 0).d.absent 0x7FFE0 32 = [] && (xfer f).acks = [] &&
        (xfer f).fail = 0) = true := by decide +kernel

/-- A message of core 1 for core 0, and a state whose core 0 runs a node with `l` messages received. -/
def mail : Item := { src := 1, pkg := 0, die := 0, cluster := 0, station := 0, body := .msg 7 0, launch := 0 }
def mailed (l : List Word) : State :=
  { ((coreAt 3 (fun x => { x with node := some ⟨0, 1, 0⟩, recv := l })).modRing 0 (fun r => { r with slots := [(0, { items := [mail] })] }))
    with cycle := 24 }

theorem wit_RingEventsAct :
    let inj := { ((at_ 3).modCore 1 (fun x => { x with inj := [mail] })) with cycle := 1 }
    let n := slotAt (mailed []) 0
    let at0 := fun (l : List Word) => (mailed l).modRing 0 (fun r => { r with slots := [(n, { items := [mail] })] })
    ((tget {} (inj.ring 0).slots (slotAt inj 1)).items.isEmpty && (tget {} (inj.ring 0).slots (slotAt inj 1)).left ≠ inj.cycle + 1 &&
      slotUsable inj 0 1 && !(takeFlits [] inj.cycle 8 [] (sourceQueue inj 0 1)).1.isEmpty && !(inj.core (stationCore 0 1)).frozen inj.cycle) = true ∧
    ((tget {} ((at0 []).ring 0).slots n).items = [mail] && (at0 []).cycle ≠ 0 && goesTo (at0 []) 0 0 mail && accepts (at0 []) 0 0 mail) = true ∧
    ((tget {} ((at0 (List.replicate 32 0)).ring 0).slots n).items = [mail] && !accepts (at0 (List.replicate 32 0)) 0 0 mail) = true := by
  decide +kernel

/-- A load of core 0 at address 0, and its item in a slice's queue. -/
def load0 : Req := { id := 1, core := 0, strand := 3, seq := 0, kind := .load, pa := 0, size := 8, x := 0, cmp := 0 }
def item0 : Item := { src := 0, pkg := 0, die := 0, cluster := 0, station := 16, body := .req 1, launch := 0 }
def sliced (n : Nat) (q : Req) : State := { (at_ 3).modSlice 0 n (fun x => { x with queue := [item0] }) with reqs := [q] }

theorem wit_SliceEventsAct :
    let ok := sliced 0 load0
    let bad := { sliced 0 load0 with poison := [0] }
    let moved := sliced 1 load0
    let lay := sliced 0 { load0 with kind := .lay }
    let cell := sliced 0 { load0 with kind := .verst, size := 64 }
    let again := { at_ 3 with reqs := [{ load0 with bounced := true }] }
    let answered := fun (s : State) (k : ReqKind) (n : Nat) => match serve s k 0 n 0 0 with
      | .ok _ _ => 1
      | .fail _ => 2
      | .wait => 0
    let asked := fun (s : State) (n : Nat) => nextItem s 0 n [] (s.slice 0 n).queue = some item0 && (itemReq s item0).isSome && lineAsked s 0 n 0
    (asked ok 0 && homeOf ok 0 = some (0, 0) && answered ok .load 8 = 1) = true ∧ (asked bad 0 && answered bad .load 8 = 2) = true ∧
    (asked lay 0 && asked cell 0 && answered (cell.memStore 0 [1]) .verst 64 ≠ 2) = true ∧
    (asked moved 1 && homeOf moved 0 ≠ some (0, 1)) = true ∧
    (!(again.core 0).frozen again.cycle && (again.core 0).injRoom && again.reqs.length = 1) = true ∧
    (stackLine 0 && !lineHeld (at_ 3) 0 && homeReady (at_ 3) 0 = some true && ((at_ 3).die 0).stack = .ok && homeOf ok 0 = some (0, 0)) = true ∧
    (let s := (at_ 3).modSlice 0 0 (·.insert 0 0 none false)
     (stackLine 0 && lineHeld s 0 && !lineDirty s 0 && (s.die 0).stack = .ok) = true) ∧
    (({ at_ 3 with reqs := [{ load0 with kind := .verst, since := some 0 }], cycle := 2 ^ 20 } : State).findReq 1).isSome = true := by decide +kernel

/-- Context 0's tables map the first GiB to itself, writable; memory holds `l` beside them. -/
def paged (l : List (Nat × List Byte)) : State :=
  ([(0, leBytes 8 0x1001), (0x1000, leBytes 8 0x2001), (0x2000, leBytes 8 0x83)] ++ l).foldl (fun (s : State) (p : Nat × List Byte) => s.memStore p.1 p.2) State.reset

def walks (s : State) (va : Nat) : Bool :=
  match sliceWalk s true 0 va with
  | (.ok _ _ _, _) => true
  | (.fail _, _) => false

theorem wit_TranslationEventsAct :
    walks (paged []) 0x3FFFFFFF = true ∧
    (((dataAt 3 (fun d => { d with wbOps := [{ order := 0, inval := false, base := 0, len := 0 }] })).core 0).d.wbOps.find? (fun o => !o.fin)).isSome = true ∧
    (match coreXlat (paged []) 0 (coreAccess (paged []) 0) 0xFF00 with
      | (.ok pa _ _, u) => bits pa 47 46 = 0 && rangeReady u pa 256
      | _ => false) = true := by decide +kernel

/-- A fold of a handle of one tile, without layers, at its first tile and at its end. -/
def folding (n : Nat) : State :=
  { paged [(0x8000, { oneLayer with base := 0x8800, target := 0x9000 }.bytes)] with
    folds := [(0x8000, { active := true, snap := { oneLayer with base := 0x8800, target := 0x9000 }.bytes, tile := n })] }

theorem wit_FoldEventsAct :
    let f := tget {} (folding 1).folds 0x8000
    (f.active && 1 ≤ f.tile && rangeReady (folding 1) 0x8000 64 && !(folding 1).poisoned 0x8000 64 && !(handleAt (folding 1) 0x8000).malformed) = true ∧
    (tget {} (folding 0).folds 0x8000).tile < (Handle.parse (tget {} (folding 0).folds 0x8000).snap).tr := by decide +kernel

/-- Region 47 at an edge of its clock with one update of each kind to make. -/
def edgeOf : Edge := { at_ := 0, withies := [⟨31, false, some (5, true)⟩], lanes := [⟨7, false, ⟨1, true⟩⟩, ⟨7, true, ⟨2, false⟩⟩] }
def edged : State := (at_ 3).modRegion 47 (fun r => { r with live := .running, edge := some edgeOf })

theorem wit_RegionEdgesAct :
    sampleEdge 47 edged = edged ∧
    (match (edged.region 47).edge with
      | some e => e.at_ = edged.cycle && e.clock && (e.withies.find? (fun o => o.w = 31)).isSome &&
          (e.lanes.find? (fun o => o.k = 7 && o.egress = false)).isSome && (e.lanes.find? (fun o => o.k = 7 && o.egress = true)).isSome
      | none => false) = true ∧
    (let s := (at_ 3).modRegion 47 (fun r => { r with live := .running })
     edgeDue s (s.region 47) && (s.region 47).edge.isNone && !swapHold s (s.region 47) && (List.range 8).all (fun k =>
       (laneIn (tget {} (s.region 47).lanes k) (laneOffer (regionEnv s 47) k) ((regionEnv s 47).ready k)).2.1.isNone)) = true := by decide +kernel

theorem wit_RegionEventsAct :
    let p := (at_ 3).modRegion 383 (fun r => { r with live := .pending, lastEdge := some 0, edge := some { at_ := 0, clock := false } })
    let x := { (at_ 3).modRegion 383 (fun r => { r with live := .pending, swapAt := some 0 }) with cycle := 66 }
    ((p.region 383).live = .pending && p.cycle % divider (p.region 383).clk.toNat = 0 && !edgePending p 383 && atBoundary (p.region 383)) = true ∧
    ((x.region 383).live = .pending && 0 + 64 < x.cycle && x.cycle % divider ((x.region 383).stby.hdr 7 1) = 0) = true ∧
    ((edged.region 47).live = .running) = true ∧
    (rangeReady ((at_ 3).modDie 7 (fun y => { y with wbPages := some (0, [(0, 8)]) })) 0 8) = true := by decide +kernel

/-- The first tile of a fold without layers can be summed and written: the tiles of zeros. -/
theorem wit_FoldEventsTile :
    let s := folding 0
    let g := Handle.parse (tget {} s.folds 0x8000).snap
    (match sumTile s { q := { ctx := 0, sup := false } } g 0 0 with
      | .ok b => (match virtWrite s { ctx := 0, sup := false } g.target b with
        | .ok _ => true
        | _ => false)
      | _ => false) = true := by decide +kernel

/-! ### Witnesses: packets, loads, nodes, the sync network, the host, links and resets -/

/-- A queue's descriptor at 0x4000: ring 0x5000, index `w` published, records at 0x6000, `lgs` as given. -/
def queueAt (w lgs : Nat) : List (Nat × List Byte) :=
  [(0x4000, leBytes 8 0x5000 ++ leBytes 8 w ++ leBytes 8 0 ++ leBytes 8 0x6000 ++ leBytes 8 0 ++ leBytes 1 lgs),
   (0x5000, leBytes 8 (2 ^ 63))]

/-- Entry 63 of die 0 names that queue. -/
def queueState (w lgs : Nat) (l : List Packet) : State :=
  (paged (queueAt w lgs)).modDie 0 (fun y => { y with qtab := tput y.qtab 63 0x4001, packets := l })

/-- A COPY packet of two rows from `src`, at row `n`. -/
def copyPacket (src n : Nat) : Packet :=
  { entry := 63, n := 0, header := 1 <<< 48, body := leBytes 8 src ++ leBytes 8 0x8000 ++ leBytes 8 512 ++ List.replicate 32 0, accepted := 0,
    begun := true, row := n, tab := 0x4001 }

def moved (s : State) (p : Packet) : Nat :=
  match moveRow 0 p s with
  | .ok _ => 1
  | .error (some _) => 2
  | .error none => 0

theorem wit_PacketEventsAct :
    let s := queueState 1 4 []
    let q := readDesc s (descAddr 0x4001)
    (tget 0 (s.die 0).qtab 63 = 0x4001 && rangeReady s 0x4000 64 && descAddr 0x4001 = 0x4000 && descOk s 0x4000 && q.stamp < q.wi &&
      (q.stamp + 2 ^ 64 - q.cri) % 2 ^ 64 < q.size && (s.die 0).acceptNext ≤ s.cycle &&
      (List.range 63).all (fun k => !canAccept s 0 k) &&
      (match objRead s { ctx := q.ctx, sup := true, own := [5, 0, 63] } (q.ring + 64 * (q.stamp % q.size)) 64 with
        | .ok b => (word (leNat (b.take 8))).getLsbD 63 && wbits (word (leNat (b.take 8))) 47 0 = q.stamp % 2 ^ 48 &&
          (match virtWrite (dropAsks [5, 0, 63] s) q.access (q.ring + 64 * (q.stamp % q.size)) (leBytes 8 (wbits (word (leNat (b.take 8))) 62 0)) with
            | .ok _ => true
            | _ => false)
        | _ => false)) = true ∧
    (rangeReady (queueState 1 3 []) 0x4000 64 && !descOk (queueState 1 3 []) 0x4000) = true ∧
    ((runningCopies ((queueState 1 4 [copyPacket 0x7000 2]).die 0))[0]? = some (copyPacket 0x7000 2) && (copyPacket 0x7000 2).rows = 2) = true ∧
    moved (queueState 1 4 [copyPacket 0x7000 0]) (copyPacket 0x7000 0) = 1 ∧
    (match moveRow 0 (copyPacket 0x7000 1) (queueState 1 4 [copyPacket 0x7000 1]) with
      | .ok v => ((v.die 0).packets.find? (fun r => r.id = (copyPacket 0 0).id)).isSome
      | _ => false) = true ∧ (copyPacket 0x7000 1).row + 1 = (copyPacket 0x7000 1).rows ∧
    (let p := { copyPacket 0 2 with result := some (0, false) }
     let s := queueState 1 4 [p]
     (nextRecord (s.die 0) 63 = some p && (packetOwns 0 p).all (fun o => peersDone s o && hostDone s o)) = true) ∧
    ({ at_ 3 with pkg := { (at_ 3).pkg with bootCode := 3 } } : State).pkg.bootCode ≠ 0 ∧
    moved (queueState 1 4 [copyPacket 0x7000000000 0]) (copyPacket 0x7000000000 0) = 2 ∧
    (match virtWrite (queueState 1 4 []) { ctx := 0, sup := true } 0x6000 (recordBytes { copyPacket 0 2 with result := some (0, false) } 0) with
      | .ok _ => true
      | _ => false) = true := by decide +kernel

/-- An object at 0x7000 with one section of a type, one word of code, and a load stamp. -/
def objAt (type stamp : Nat) : List (Nat × List Byte) :=
  [(0x7000, leBytes 4 0x31464F43 ++ leBytes 4 1 ++ leBytes 8 1 ++ leBytes 8 64 ++ List.replicate 24 0 ++ leBytes 8 100 ++ leBytes 8 stamp ++
    leBytes 8 type ++ leBytes 8 96 ++ leBytes 8 4 ++ leBytes 8 0 ++ leBytes 4 0xC0100000)]

def loading (type stamp : Nat) (run : Bool) : State :=
  (paged (objAt type stamp)).modDie 0 (fun y => { y with crown := { y.crown with ldObj := 0x7000, ldRun := run } })

/-- What the load of the object at 0x7000 comes to: 1 its checks pass, 2 one fails before the notes, 3 one fails past them. -/
def checked (s : State) : Nat :=
  let q : Access := { ctx := 0, sup := true, own := [4, 0] }
  match loadHead s q 0x7000 with
  | .ok b => (match loadRead s q 0x7000 [(objHeader b).notes] b with
    | .ok b => (match loadTail s q 0x7000 b with
      | .ok l => (match applyRelocs 0x7000 l s with
        | .ok v => (match putStamp 0 1 v with
          | .ok _ => 1
          | _ => 0)
        | _ => 0)
      | .error (some _) => 3
      | .error none => 0)
    | _ => 0)
  | .error (some _) => 2
  | .error none => 0

/-- A launch of one tile node on core 0, in a state. -/
def tile (f : Node → Node) : Node := f { clusters := 1, cores := 1, arg := 0x7000, entries := 0x00FFFFFFFFFFC000 }
def launched (n : Node) : State :=
  (paged (objAt 1 1 ++ [(32, leBytes 12 1)])).modDie 0 (fun y => { y with launches := [{ stamp := 1, object := 0x7000, nodes := [n] }] })

theorem wit_LoaderEventsAct :
    (match objRead (loading 1 0 false) loaderAccess 0x7038 8, putStamp 0 2 (loading 1 0 false) with
      | .ok b, .ok _ => leNat b % 4 = 0
      | _, _ => false) = true ∧
    (match objRead (loading 1 2 false) loaderAccess 0x7038 8 with
      | .ok b => leNat b % 4 ≠ 0
      | _ => false) = true ∧
    checked (loading 1 2 true) = 1 ∧ checked (loading 9 2 true) = 2 ∧ checked (loading 7 2 true) = 3 ∧
    (let n := tile id
     (((launched n).die 0).launches.map (·.nodes) = [[n]] && (launched n).asks.isEmpty && n.kind.leaf && n.st = .waiting &&
      (({ stamp := 1, object := 0x7000, nodes := [n] } : Launch).leafMayStart 0) && (match operandMet (launched n) {} n with
        | .ok b => b
        | _ => false))) = true := by decide +kernel

/-- The same, with a second ready node of priority 3 on the same core. -/
def two : Launch :=
  { stamp := 1, object := 0x7000, nodes := [tile (fun n => { n with st := .running }), tile (fun n => { n with st := .ready, own := 3 })] }
def contested : State := (launched (tile id)).modDie 0 (fun y => { y with launches := [two] })

theorem wit_NodeEventsAct :
    let r : NodeRef := ⟨0, 1, 0⟩
    let s := fun (f : Node → Node) => launched (tile f)
    let ready := s (fun n => { n with st := .ready })
    let text := fun (s : State) => match launchOf s r with
      | some l => (match unitText s l (unitOf s r) with
        | .ok _ => (unitOf s r).all (fun x => clustersAllowed s l x.2) && l.abort.isNone
        | _ => false)
      | none => false
    let loaded := fun (s : State) => match launchOf s r with
      | some l => (match stampOf s l, objWith s l.reads 0x7000 objMaps, objRead s l.reads 0x7000 64 with
        | .ok v, .ok _, .ok _ => if (unitOf s r).all (fun x => !x.2.replay) && l.fresh then v + 1 else 0
        | _, _, _ => 0)
      | none => 0
    (nodeOf ready r).isSome = true ∧ ({ ready with cycle := 2 ^ 20 } : State).cycle ≥ 2 ^ 20 ∧ (isNext ready r && text ready) = true ∧
    (let p := s (fun n => { n with st := .reserved })
     (poolOf p 0 (· = .reserved)).length = 1 ∧ (match launchOf p r with
      | some l => (match liveUnit l (unitOf p r) p with
        | (.ok _, none) => true
        | _ => false)
      | none => false) = true) ∧
    (let p := s (fun n => { n with st := .placed })
     let u := (paged (objAt 1 0)).modDie 0 (fun _ => p.die 0)
     ((unitOf p r).length = 1 && (unitOf u r).length = 1 && loaded p = 2 && loaded u = 1) = true) ∧
    (let q : NodeRef := ⟨0, 1, 1⟩
     let occ := (unitOf contested q).flatMap (fun x => occupants contested x.2)
     ((unitOf contested q).all (fun x => x.2.st = .ready) && occ.any (fun x => x.2.2.st = .running) && occ.all (fun x =>
      preemptible contested x && effPrio contested (prioFuel contested) x.1 < effPrio contested (prioFuel contested) q)) = true) ∧
    (let p := s (fun n => { n with st := .saving })
     ((nodeOf p r).map (·.cores_) = some [0] && !(p.core 0).frozen p.cycle && !(p.core 0).preempt && (p.core 0).ending.isNone && (p.core 0).record.isNone) = true) ∧
    (let p := (s (fun n => { n with st := .saving, fireAt := some 0 })).modCore 0 (fun x => { x with preempt := true })
     (savable (p.core 0) && (nodeOf p r).map (·.fireAt) = some (some 0) && (unitOf p r).length = 1) = true) ∧
    (nodeOf (s (fun n => { n with st := .resuming })) r).map (·.st) = some .resuming ∧
    (let p := s (fun n => { n with st := .running, fireAt := some 0 })
     let o := { p with pkg := { p.pkg with hostReqs := [{ id := 1, fn := 0, addr := 0, size := 8, write := true, op := none, x := 0, cmp := 0,
                                                          data := [], core := some 0 }] } }
     ((nodeOf p r).map (·.fireAt) = some (some 0) && (p.core 0).ending.isNone && (o.core 0).ending.isNone && (nodeOf o r).map (·.fireAt) = some (some 0) &&
       (nodeOf p r).map (canComplete p r) = some true && (nodeOf o r).map (canComplete o r) = some false) = true) := by decide +kernel

/-- Slot 3 of die 0's root: a live domain of level 0 whose members are cores 0 and 1, with a signal at the root or under way. -/
def rooted (ms : List Nat) (up : List (Nat × SyncUp)) (down : List (Nat × SyncDown)) : State :=
  member.modSlot 0 3 (fun x => { x with installed := true, members := ms, up := up, down := down })

theorem wit_SyncRootEventsAct : ∀ u ∈ [SyncUp.arrive 0, .credit 0, .fault 0],
    let a := (rooted [0] [(0, u)] []).slot 0 3
    let b := (rooted [0, 1] [(0, u)] []).slot 0 3
    (a.installed && !a.broken && a.level < 3 && a.up = [(0, u)] && a.redOp.isNone && a.waiting.isEmpty && a.contribs.isEmpty &&
      a.members.all (fun m => (a.arrived ++ [0]).contains m) && b.members.any (fun m => !(b.arrived ++ [0]).contains m)) = true := by
  decide +kernel

/-- A word of core 0 that waits, in a core with a delivery under way. -/
def waitingAt (i : Instr) (m : SyncDown) : State :=
  (rooted [0] [] [(0, m)]).modStrand 0 3 (fun t => t.setQueue .y [{ queued i .started with idx := 1 }])

theorem wit_SyncDeliveriesAct :
    let ok := fun (s : State) => (s.slot 0 3).members = [0] && memberOf (s.core 0) 0 3 && !coreHeld s 0
    let bar := waitingAt (.barW h0 0) (.release 1 false)
    (ok bar && (waitingWord (bar.core 0) (barWaiting 0)).isSome) = true ∧
    (mergeCopies (fun y => y.level = (bar.slot 0 3).level && (bar.slot 0 3).members.any (fun c => c % 2048 = y.issuer)) bar).cores = bar.cores ∧
    (let s := waitingAt (.red h0 3 1 0 0) (.result 5)
     (ok s && (waitingWord (s.core 0) (redWaiting 0)).isSome) = true) ∧
    ok (rooted [0] [] [(0, .bcast 5)]) = true ∧
    (let s := waitingAt (.wfe h0) (.event 1)
     let u := s.modCore 0 (·.tookEvent s.cycle)
     (ok s && !((s.core 0).markAt s.cycle).wfe && (waitingWord (s.core 0) wfeWaiting).isSome && ok u && ((u.core 0).markAt u.cycle).wfe &&
       (waitingWord ((rooted [0] [] [(0, .event 1)]).core 0) wfeWaiting).isNone) = true) ∧
    (let s := waitingAt (.brecv h0 3 0) .broken
     (ok s && (waitingWord (s.core 0) (syncWaiting 0)).isSome) = true) := by decide +kernel

/-- A request of a load of core 0 to the host, sent in cycle 0. -/
def hostLoad (t : Nat) : State :=
  { at_ 3 with reqs := [load0], cycle := t,
               pkg := { (at_ 3).pkg with hostReqs := [{ id := 1, fn := 0, addr := 0, size := 8, write := false, op := none, x := 0, cmp := 0, data := [] }] } }

theorem wit_HostEventsAct :
    let s := at_ 3
    (s.pkg.bootCode = 0 && !((s.die 0).crown.tibRun) && s.cores.all (fun c => !usesOld s (s.die 0).crown c.1 c.2) && carveFree (s.modDie 0 (fun y => { y with il := [] })) 0 47 && !s.pkg.devLock) = true ∧
    wbits (7 : Word) 3 0 ≤ 7 ∧ 7 < wbits (8 : Word) 3 0 ∧ carveFree s 0 0 = false ∧
    (rangeReady s 0 8 && !rangeLost s 0 8 && (0 : Nat) + 8 ≤ 2 ^ 39 && (match serveAmo s (hostOpCode .fetchAdd) 0 8 1 0 with
      | .ok _ _ => true
      | _ => false)) = true ∧
    ((hostLoad 0).pkg.hostReqs.find? (fun r => r.id = 1 && !r.write)).map (·.size) = some 8 ∧ (hostLoad 0).findReq 1 = some load0 ∧
    (((hostLoad 0).core 0).strand 3).queue .y = [] ∧ 0 + 90000000 ≤ (hostLoad 90000000).cycle := by decide +kernel

theorem wit_LinkEventsAct :
    (rangeReady (at_ 3) 0 256 && !rangeLost (at_ 3) 0 256 && (match readBytes (countLate 31 true (at_ 3)) 0 8 with
      | (none, _, _) => true
      | _ => false)) = true ∧
    (let s := ((at_ 3).modSlot 8 5 (fun x => { x with installed := true })).modLink 31 (fun l => { l with hold := [(0, .token 4 0 0 []), (0, .token 5 0 0 [])] })
     heldToken s (s.link 31) = some (0, 5, 0, 0, [])) ∧
    linkNodes (at_ 3) 31 = [] ∧ ((at_ 3).dies.all (fun d => d.2.packets.isEmpty)) = true ∧
    (tget [] ((at_ 3).ring 103).bridge 16).length < 64 ∧
    (let s := (at_ 3).modRing 103 (fun r => { r with bridge := tput r.bridge 16 (List.replicate 64 mail) })
     64 ≤ (tget [] (s.ring 103).bridge 16).length) ∧
    (∀ x ∈ ((at_ 3).link 31).wait, x.1 ≠ 2) ∧
    (let s := (at_ 3).modLink 31 (fun l => { l with wait := [(2, .credit 1)] })
     (s.link 31).wait = [(2, .credit 1)] ∧ tget 0 (s.link 31).credits 2 - 1 = 0) ∧ (at_ 3).pkg.bootCode = 0 := by decide +kernel

theorem wit_PackageEventsAct :
    (at_ 3).pkg.bootCode = 0 ∧ ({ (at_ 3).time with en := true, lock := true } : TimeState).en = true ∧ (at_ 3).time.lock = false ∧
    (at_ 3).time.sync = none ∧ (let s := { at_ 3 with time := { (at_ 3).time with sync := some 0 }, cycle := 112499999 }
      s.time.sync = some 0 ∧ s.cycle < 0 + 112500000) ∧ bootHalt { (default : Boot) with image := [], second := [], failed := 0 } 0 = 3 ∧
    (at_ 3).cycle % 2 ^ 21 = 0 ∧ (16 : BitVec 5).toNat ≤ 16 ∧ (at_ 3).pkg.repGo = false ∧
    (dieCores 7).all (fun c => ((at_ 3).core c).node.isNone) = true ∧ (List.range 64).all (fun n => !((at_ 3).slot 7 n).installed) = true ∧
    allNodes (at_ 3) = [] ∧ ((at_ 3).die 7).packets = [] ∧ ((at_ 3).die 7).stack = .ok ∧
    (((at_ 3).modDie 7 (fun x => { x with stack := .resetting })).die 7).packets = [] := by decide +kernel

/-! ### Witnesses: the machine as a whole -/

/-- The reset state with a word placed at core 0, and strand `k` to move. -/
def placed (w : Nat) : State := State.reset.withFetchWord 32 w

def isNext_ (o : Host.Outcome State Fault Refusal) : Bool :=
  match o with
  | .next _ => true
  | _ => false

theorem wit_StepsKeepMemoryCanonical : Memory.wf (placed 0x00028001).mem = true ∧ isNext_ (step (placed 0x00028001)) = true := by decide +kernel

/-- What the moves at an empty agenda are is open (`Config.nextTurn`); at this agenda the strand moves. -/
theorem wit_StepRunsDecoded :
    let s := placed 0x00028001
    let x := s.core 0
    let k := homeStrand (decodeTableWord 32 0x00028001)
    (s.pkg.powered && (x.strand k).active && !x.frozen s.cycle && !preempting s 0 && x.ending.isNone && x.mayIssue s.cycle k && decide ((x.strand k).pauseEnd ≤ s.cycle) && decide ((x.strand k).pc.toNat < 0x4000) &&
      x.codeBad.isEmpty && s.agenda = [.strand 0 k true]) = true ∧
    decode (wordOfBytes (memRead x.code (k * 0x4000)) (memRead x.code (k * 0x4000 + 1)) (memRead x.code (k * 0x4000 + 2))
      (memRead x.code (k * 0x4000 + 3))) = .ok (.addi h0 5 0 1) ∧
    ({ at_ 3 with agenda := [.event .timeStRead] } : State).pkg.powered = true ∧ Instr.isWord .timeStRead = false ∧
    Instr.wf .timeStRead = true := by
  refine ⟨by decide +kernel, by rfl, by decide +kernel, by decide +kernel, by decide +kernel⟩

/-- Past the section, an uncorrectable error, an unassigned word, a reserved bit, an operand outside its file. -/
theorem wit_FetchTraps :
    (let s := { (strandAt 3 (fun t => { t with pc := 0x4000 })) with agenda := [.strand 0 3 true] }
     (s.strand 0 3).active = true ∧ (s.core 0).frozen s.cycle = false ∧ preempting s 0 = false ∧ (s.core 0).ending = none ∧ (s.core 0).mayIssue s.cycle 3 = true ∧
       (s.strand 0 3).words.isEmpty = true ∧ (s.strand 0 3).pc.toNat = 0x4000) ∧
    (let s := strandAt 3 (fun t => { t.setQueue .x [{ queued (.halt h0) .queued with pc := 0x3FFC }] with pc := 0x4000 })
     ∃ v ∈ (s.strand 0 3).words, v.pc = 0x3FFC) ∧
    (let s := { (coreAt 3 (fun x => { x with codeBad := [3 * 0x1000] })) with agenda := [.strand 0 3 true] }
     3 * 0x1000 + (s.strand 0 3).pc.toNat / 4 ∈ (s.core 0).codeBad) ∧
    decode (codeWord ((placed 0x01B00000).core 0) 0 0) = .error .unassigned ∧
    decode (codeWord ((placed 0xC0100001).core 0) 0 0) = .error (.reserved (.halt h0)) ∧
    decode 0x40600060#32 = .error (.operand (.mprobe h0 1 0)) ∧ earlyTrap ((at_ 1).core 0) 1 (specOf (.mprobe h0 1 0)) = none ∧
    nullified ((at_ 1).strand 0 1) (specOf (.mprobe h0 1 0)) = false := by
  refine ⟨by decide +kernel, by decide +kernel, by decide +kernel, by rfl, by rfl, by rfl, by rfl, by rfl⟩

theorem wit_EncodingRoundTrip :
    Instr.wf (.mma ⟨15, 15⟩ 3 7 7 1 2 1 0 0 2) = true ∧ Instr.isWord (.mma ⟨15, 15⟩ 3 7 7 1 2 1 0 0 2) = true ∧
    decode 0x6E006110#32 = .ok (.vadd ⟨1, 3⟩ 3 1 2 0) := ⟨by decide, by decide, by rfl⟩

theorem wit_RolesTrap :
    ((specOf (.vadd h0 3 1 2 0)).hint = false ∧ ((at_ 3).strand 0 3).active = true ∧ ((at_ 3).strand 0 3).pauseEnd ≤ (at_ 3).cycle) ∧
    (stops (.vadd h0 3 1 2 0) (at_ 3)).map (·.code) = some 0x01 ∧ (stops (.vld h0 3 1 2 0 0) (at_ 2)).map (·.code) = some 0x01 ∧
    (stops (.vst h0 3 1 2 0 0) (at_ 0)).map (·.code) = some 0x01 ∧ (stops (.ldg h0 3 1 2 0 0) (at_ 1)).map (·.code) = some 0x01 ∧
    (stops (.wtest h0 1 0 0) (at_ 0)).map (·.code) = some 0x01 ∧ (stops (.mzero h0 0) (at_ 3)).map (·.code) = some 0x01 := by decide +kernel

/-- User mode. -/
def user (k : Nat) : State := csrAt k (fun r => { r with sup := false })

theorem wit_SupervisorWordsTrap :
    (∀ i ∈ [Instr.domsetInstall h0 3 1, .hmsetQuiesce h0 3 1 0, .rdst h0 3 1 0, .ctxSave h0 3 1 0, .rgload h0 3 1 0,
      .rgclk h0 3 0 0, .csrr h0 3 0x100, .csrw h0 1 0x1FF], (stops i (user 3)).map (·.code) = some 0x17 ∧ (specOf i).sup = true) ∧
    (specOf (.csrr h0 3 0x0FF)).sup = false ∧ (specOf (.csrr h0 3 0x200)).sup = false := by decide +kernel

/-- Strand 3 idle, paused, stopped by a check, held by a full queue, and with a word that does not run in its step. -/
theorem wit_IssueOutcomes :
    (State.reset.strand 0 3).active = false ∧
    (let s := strandAt 3 (fun t => { t with pauseEnd := 9 })
     (s.strand 0 3).active = true ∧ s.cycle < (s.strand 0 3).pauseEnd) ∧
    (stops (.slli h0 3 1 64) (at_ 3)).isSome = true ∧
    (let s := coreAt 3 (fun x => { x with dq := tput x.dq (chan 3 0) (List.replicate 8 ⟨0, some 1⟩) })
     (earlyTrap (s.core 0) 3 (specOf (.addi h0 29 0 1))).isNone && !nullified (s.strand 0 3) (specOf (.addi h0 29 0 1)) &&
       !ownerWait (s.strand 0 3) (specOf (.addi h0 29 0 1)) && !csrWait (s.strand 0 3) (specOf (.addi h0 29 0 1)) &&
       (lateTrap s 0 3 (.addi h0 29 0 1) (specOf (.addi h0 29 0 1))).isNone && (ownTrap 0 3 (.addi h0 29 0 1) (specOf (.addi h0 29 0 1)) s).isNone &&
       (blockOf (s.core 0) 3 (specOf (.addi h0 29 0 1))).isSome) = true ∧
    (let s := strandAt 3 (fun t => t.setQueue .x [queued (.csrw h0 1 0x00F) .queued])
     (earlyTrap (s.core 0) 3 (specOf (.csrr h0 3 0x00F))).isNone && !nullified (s.strand 0 3) (specOf (.csrr h0 3 0x00F)) &&
       Instr.wf (.csrr h0 3 0x00F) && csrWait (s.strand 0 3) (specOf (.csrr h0 3 0x00F)) && !ownerWait (s.strand 0 3) (specOf (.csrr h0 3 0x00F)) &&
       (lateTrap s 0 3 (.csrr h0 3 0x00F) (specOf (.csrr h0 3 0x00F))).isNone && (blockOf (s.core 0) 3 (specOf (.csrr h0 3 0x00F))).isSome) = true ∧
    (let s := strandAt 3 (fun t => t.setQueue .x [queued (.csrw h0 1 0x010) .queued])
     (earlyTrap (s.core 0) 3 (specOf (.addi h0 3 28 1))).isNone && !nullified (s.strand 0 3) (specOf (.addi h0 3 28 1)) &&
       Instr.wf (.addi h0 3 28 1) && ownerWait (s.strand 0 3) (specOf (.addi h0 3 28 1))) = true ∧
    (match goes (.addi h0 3 1 1) { at_ 3 with now := false } with
      | some (w, y) => ((issued (.addi h0 3 1 1) w y { at_ 3 with now := false }).core 0).d.regBad.isEmpty && !atOnce 0 3 (.addi h0 3 1 1) w (issued (.addi h0 3 1 1) w y { at_ 3 with now := false })
      | none => false) = true := by decide +kernel

/-- Strand 3 in covered positions that are nullified. -/
def covered : State := strandAt 3 (fun t => { t with cover := 2, coverNull := true })

theorem wit_NullifiedAndHintWords :
    (nullified (covered.strand 0 3) (specOf (.addi h0 29 30 1)) && (earlyTrap (covered.core 0) 3 (specOf (.addi h0 29 30 1))).isNone &&
      (covered.strand 0 3).loop.isNone) = true ∧
    ((specOf (.prefG h0 1 29 0)).hint && !nullified ((at_ 3).strand 0 3) (specOf (.prefG h0 1 29 0)) && ((at_ 3).strand 0 3).active) = true := by
  decide +kernel

theorem wit_ConditionalMoves : ∀ i ∈ [Instr.cmovz h0 27 1 2, .cmovnz h0 27 1 2],
    (match goes i { at_ 3 with now := false } with
      | some (w, y) => ((at_ 3).core 0).d.regBad.isEmpty && !atOnce 0 3 i w (issued i w y { at_ 3 with now := false })
      | none => false) = true ∧
    28 ≤ (28 : BitVec 5).toNat ∧ (earlyTrap ((at_ 3).core 0) 3 (specOf (.cmovz h0 28 1 2))).isNone = true ∧
    (earlyTrap ((at_ 3).core 0) 3 (specOf (.cmovnz h0 28 1 2))).isNone = true ∧
    nullified ((at_ 3).strand 0 3) (specOf (.cmovz h0 28 1 2)) = false ∧ nullified ((at_ 3).strand 0 3) (specOf (.cmovnz h0 28 1 2)) = false := by
  decide +kernel

/-- SETRB with 11 and with 12, the boundary; a word of it with a reserved bit. -/
theorem wit_SetRotationBase :
    went (.setrb h0 1) (withRegs 3 11 0 (at_ 3)) = true ∧
    (let s := withRegs 3 12 0 (at_ 3)
     (11 < ((s.strand 0 3).reg (physReg (s.strand 0 3).rotBase 1)).toNat && (earlyTrap (s.core 0) 3 (specOf (.setrb h0 1))).isNone &&
       !nullified (s.strand 0 3) (specOf (.setrb h0 1)) && (lateTrap s 0 3 (.setrb h0 1) (specOf (.setrb h0 1))).isNone &&
       (blockOf (s.core 0) 3 (specOf (.setrb h0 1))).isNone && (s.strand 0 3).bad.isEmpty) = true) ∧
    (0x019F8009#32 &&& 0xE1F0001F#32 = 0x01900009#32 ∧ 0x019F8009#32 &&& 0x000F83E0#32 ≠ 0) ∧ (11 : BitVec 4).toNat < 12 := by decide +kernel

/-- Strand 2 ready at the last boundary of its tokens; the fields name registers 0 to 27. -/
theorem wit_PlainWordEffect :
    let s := at_ 2
    (s.now && (s.strand 0 2).active && (s.strand 0 2).cover = 0 && (s.strand 0 2).loop.isNone && (s.strand 0 2).words.isEmpty &&
      (s.strand 0 2).stopSeq.isNone && (s.strand 0 2).issueAt.isNone && (s.strand 0 3).issueAt.isNone && (s.strand 0 2).bad.isEmpty && (s.core 0).d.regBad.isEmpty && (List.range 4).all (fun i => (s.core 0).tokens 2 i ≤ 15)) = true ∧ (27 : BitVec 5).toNat < 28 ∧
    (let u := withRegs 2 0x7FFF8 0 s
     (((u.strand 0 2).reg 1).toNat + 8 ≤ 0x80000 && (u.core 0).d.absent 0x7FFF8 8 = [] && !(u.core 0).d.scrPoisoned 0x7FFF8 8) = true) ∧
    csrKnown 0x101 = true ∧ csrKnown 0x01B = true ∧ (s.core 0).csr.sup = true := by
  decide +kernel

theorem wit_ScalarWordsKeep : ∀ i ∈ [Instr.addi h0 29 30 1, .add h0 3 28 2, .li h0 27 5, .div h0 3 1 2],
    stops i (at_ 3) = none ∧ trapped ((at_ 3).strand 0 3).trapen Flags.dz = false := by decide +kernel

theorem wit_VectorWordsKeep : ((vt 0).strand 0 1).trapen = 0 ∧ ((vt 0).core 0).d.regBad = [] ∧
    (∀ i ∈ [Instr.vadd h0 3 1 2 0, .vfma h0 31 31 31 7, .vcmpEq h0 7 1 2 0], stops i (vt 0) = none) := by decide +kernel

theorem wit_ElementsMerge : vwidth { (default : QWord) with vtype := 6 } = 64 ∧ 31 < 2048 / 64 := by decide +kernel

/-- The last bytes of scratch. -/
theorem wit_ScratchStoresKeep :
    runs (.stxD h0 3 1 0) (withRegs 0 0x7FFF8 0 (at_ 0)) (fun _ t => (t.core 0).d.absent 0x7FFF8 8 = []) = true ∧
    runs (.stxW h0 3 1 0) (withRegs 0 0x7FFFC 0 (at_ 0)) (fun _ t => (t.core 0).d.absent 0x7FFFC 4 = []) = true ∧
    runs (.vst h0 3 1 2 0 3) (withRegs 2 0x7FFE0 0 (at_ 2)) (fun _ t => (t.core 0).d.absent 0x7FFE0 32 = []) = true ∧
    runs (.mst h0 7 1 2 0) (withRegs 2 0x7F800 0 (at_ 2)) (fun _ t => (t.core 0).d.absent 0x7F800 2048 = [] && ((t.core 0).d.getM 7).poison = 0) = true := by
  decide +kernel

theorem wit_GlobalStoresReadBack :
    runs (.stg h0 3 1 2 3 2) (global [] 0 0xFFF8) (fun w t =>
      match gCheck 0 { kind := .store, size := 8, write := true, relQ := true, system := true } (w.va + w.vb) t with
      | (.ok pa, u) => bits pa 47 46 = 0 && rel w u && !lineMoved u 0 pa && homeReady u pa = some true && inCarve u pa && (match serve u .load pa 8 0 0 with
        | .ok _ _ => true
        | _ => false)
      | _ => false) = true := by decide +kernel

/-- Core 0 with its fault address on a mapped page, with and without an enabled handler. -/
def faultable (tv : BitVec 14) : State :=
  ((global [] 0 0).modCsr 0 (fun r => { r with faultPtr := 0x8000, tvec := tv })).modCore 0 (fun x =>
    { x with strands := (List.range 4).map (fun k => (k, { st := if k = 2 then .halted else .running })) })

theorem wit_TrapsTaken :
    let s := faultable 0x101
    (!(s.core 0).preempt && (List.range 4).all (fun j => ((s.core 0).strand j).st ≠ .faulted) && (s.core 0).strands.map (·.1) = [0, 1, 2, 3] && (s.core 0).node.isNone &&
      (tlbFind (s.core 0).tlb (s.core 0).csr.partition 0x8000).isSome && (protect s { coreAccess s 0 with write := true } 0x8000 0x83).isNone &&
      bits 0x8000 47 46 = 0 && rangeReady s 0x8000 64 && !rangeLost s 0x8000 64) = true ∧
    (s.core 0).csr.tvec.getLsbD 0 = true ∧ (s.core 0).csr.hnd = false ∧ (s.core 0).ending = none ∧ ((faultable 0).core 0).csr.tvec.getLsbD 0 = false ∧
    ((List.range 4).all (fun j => ((s.core 0).strand j).words.isEmpty) && (s.core 0).d.xfers.isEmpty && !hostPending s 0 && !peerPending s 0) = true ∧
    (∀ j < 4, ((s.modStrand 0 j (fun t => t.setQueue .q [queued (.barW h0 1) .started])).strand 0 j).words ≠ []) := by decide +kernel

theorem wit_TrapReturns : deferredStop ((handler 4).core 0) = true ∧ deferredStop ((handler 1).core 0) = false := by decide +kernel

theorem wit_TimePasses :
    cycleOpen { at_ 3 with agenda := [] } = false ∧ cycleOpen (rooted [0] [(0, .arrive 0)] []) = true ∧
    ({ at_ 3 with pkg := { (at_ 3).pkg with powered := false } } : State).pkg.powered = false := by decide +kernel

theorem wit_DataQueues :
    let x := ((at_ 3).core 0).setDqueue 3 0 [⟨0, some 7⟩, ⟨1, none⟩]
    x.dqueue 3 0 = [⟨0, some 7⟩, ⟨1, none⟩] ∧ (∀ e ∈ x.dqueue 3 0, e.seq ≠ 2) ∧ (3 + 1) % 4 = 0 := by decide +kernel

/-! ### Decoding: sample words of the spec, with the fields its tables name -/

/-- The instruction of a word. -/
def dec (w : BitVec 32) : Option Instr := decodeTableWord 32 w.toNat

-- 01 sample (lines of the queue-port program); 02 R61; 03 R62, R66; 24 sample.
theorem test_decode_x_alu : dec 0x00028028#32 = some (.addi h0 5 0 40) ∧ dec 0x000E8001#32 = some (.addi h0 29 0 1) ∧
    dec 0x00018FFF#32 = some (.addi h0 3 3 0x3FF) ∧ dec 0x018E9400#32 = some (.add h0 29 5 0) ∧ dec 0x0183FFE0#32 = some (.add h0 7 31 31) ∧
    dec 0x018631A3#32 = some (.or h0 12 12 13) ∧ dec 0x018318EE#32 = some (.mul h0 6 6 7) ∧ dec 0x0017380F#32 = some (.andi h0 14 14 15) ∧
    dec 0x00421027#32 = some (.slli h0 4 4 39) ∧ dec 0x01A52822#32 = some (.addSh3 h0 10 10 1) := by decide
-- 03 R63, R64, R70-R77, R81 and the loop sample; 01 R25 pop field; 24 sample.
theorem test_decode_x_control : dec 0x01022468#32 = some (.li h0 4 0x2468) ∧ dec 0x01125678#32 = some (.lsh h0 4 0x5678) ∧
    dec 0x01250003#32 = some (.auipc h0 10 3) ∧ dec 0x01300002#32 = some (.setlc h0 2) ∧ dec 0x0151FFFF#32 = some (.bnez h0 3 0x7FFF) ∧
    dec 0x01497FFF#32 = some (.beqz h0 18 0x7FFF) ∧ dec 0x01700008#32 = some (.jal h0 0 8) ∧ dec 0x01902800#32 = some (.jalr h0 0 10) ∧
    dec 0x01908005#32 = some (.ifq h0 1) ∧ dec 0x01910005#32 = some (.ifq h0 2) ∧ dec 0x01908006#32 = some (.elseq h0 1) ∧
    dec 0x01910007#32 = some (.stgStage h0 2) ∧ dec 0x019180E8#32 = some (.loopp h0 3 7) := by decide
theorem test_decode_x_memory : dec 0x00982400#32 = some (.ldxD h0 16 9 0) ∧ dec 0x00B28040#32 = some (.stxD h0 5 0 0x40) ∧
    dec 0x00D60001#32 = some (.csrr h0 12 1) ∧ dec 0x00E02405#32 = some (.csrw h0 9 5) ∧ dec 0x00E02501#32 = some (.csrw h0 9 0x101) ∧
    dec 0x02000000#32 = some (.addi ⟨0, 1⟩ 0 0 0) ∧ dec 0#32 = some (.addi h0 0 0 0) := by decide
-- 05, 12 and 18 samples.
theorem test_decode_q_memory : dec 0x80024859#32 = some (.ldg h0 9 4 5 2 1) ∧ dec 0x8002CA0D#32 = some (.ldg h0 11 5 0 3 1) ∧
    dec 0x800A440A#32 = some (.stg h0 9 2 0 2 2) ∧ dec 0x800A4A06#32 = some (.stg h0 9 5 0 1 2) ∧ dec 0x80128408#32 = some (.lda h0 10 2 0 2) ∧
    dec 0x8020000B#32 = some (.fence h0 2 3) ∧ dec 0x80828298#32 = some (.verst h0 10 1 9 2) ∧ dec 0x808B0298#32 = some (.verld h0 12 1 9 2) ∧
    dec 0x8092C298#32 = some (.verrcl h0 11 1 9 2) ∧ dec 0x80E00290#32 = some (.wbr h0 1 9) ∧ dec 0x80F2C000#32 = some (.wbwait h0 11) ∧
    dec 0x80FA8220#32 = some (.lat h0 10 1 2) ∧ dec 0x811B8200#32 = some (.lgen h0 14 1) := by decide
theorem test_decode_q_sync : dec 0x81200A10#32 = some (.tkpush h0 5 1) ∧ dec 0x81280C30#32 = some (.tkpop h0 6 3) ∧
    dec 0x81320030#32 = some (.tkcnt h0 8 3) ∧ dec 0x80980004#32 = some (.barW h0 1) ∧ dec 0x80C29264#32 = some (.red h0 10 9 6 1) ∧
    dec 0x80B01600#32 = some (.bcast h0 11 0) ∧ dec 0x80BA8000#32 = some (.brecv h0 10 0) := by decide
-- 06 sample.
theorem test_decode_matrix : dec 0x40029C00#32 = some (.mma h0 1 2 3 1 0 0 0 0 0) ∧ dec 0x40012800#32 = some (.mma h0 0 4 5 0 0 0 0 0 0) ∧
    dec 0x4000510E#32 = some (.mma h0 0 1 2 0 1 0 1 1 2) ∧ dec 0x40100000#32 = some (.mzero h0 0) ∧ dec 0x4038002A#32 = some (.mcfg h0 1 1 1 0) ∧
    dec 0x40204001#32 = some (.mdrainV h0 0 1 0 1) ∧ dec 0x40204060#32 = some (.mdrainV h0 0 1 24 0) ∧ dec 0x40580000#32 = some (.mchk h0 0) ∧
    dec 0x46400001#32 = some (.mlend ⟨0, 3⟩ 1) ∧ dec 0x40600029#32 = some (.mprobe h0 1 9) := by decide
-- 02 R61, 07 R175 sample, 09 and 15 programs.
theorem test_decode_vector : dec 0x6E006110#32 = some (.vadd ⟨1, 3⟩ 3 1 2 0) ∧ dec 0x60D12900#32 = some (.vtype h0 9 9 0) ∧
    dec 0x60BC2250#32 = some (.vprune h0 1 2 10 0) ∧ dec 0x60A46400#32 = some (.vredSum h0 3 4 0) ∧ dec 0x60E52100#32 = some (.kpopc h0 9 1) ∧
    dec 0x60880000#32 = some (.viota h0 0 0) ∧ dec 0x68396B60#32 = some (.vor ⟨1, 0⟩ 11 11 12 0) ∧ dec 0x603D2948#32 = some (.vxor h0 9 9 9 0) := by decide
-- 08 sample, 09 and 15 programs.
theorem test_decode_copy : dec 0x20514260#32 = some (.cpyIn h0 5 1 6 0 0) ∧ dec 0x20584090#32 = some (.cpyOut h0 1 0 9 0 0) ∧
    dec 0x20680E00#32 = some (.awf h0 7 0) ∧ dec 0x20700E00#32 = some (.rls h0 7 0) ∧ dec 0x20020A00#32 = some (.vld h0 8 5 0 0 0) ∧
    dec 0x30005200#32 = some (.vld ⟨2, 0⟩ 1 9 0 0 0) ∧ dec 0x24450202#32 = some (.vldBm ⟨0, 2⟩ 20 1 0 0 2) := by decide
-- 13 and 15 samples.
theorem test_decode_weave : dec 0xA4000007#32 = some (.wout ⟨0, 2⟩ 0 0 1 3) ∧ dec 0xA0004007#32 = some (.wout h0 0 1 1 3) ∧
    dec 0xB829000B#32 = some (.win ⟨3, 0⟩ 1 4 1 3) ∧ dec 0xA02A0003#32 = some (.win h0 1 8 0 3) ∧ dec 0xA2898000#32 = some (.wstat ⟨0, 1⟩ 1 6 0 0) := by decide
-- 01, 06, 10, 11, 14, 17, 22 and 25 samples.
theorem test_decode_system : dec 0xC0100000#32 = some (.halt h0) ∧ dec 0xD8100000#32 = some (.halt ⟨3, 0⟩) ∧ dec 0xC0000005#32 = some (.trap h0 5) ∧
    dec 0xC0280200#32 = some (.wut h0 1) ∧ dec 0xC0328001#32 = some (.rdtime h0 10 1) ∧ dec 0xC03A9200#32 = some (.mperm h0 10 9) ∧
    dec 0xC04ADA00#32 = some (.wrst h0 11 13 0) ∧ dec 0xC0634400#32 = some (.domsetInstall h0 13 2) ∧ dec 0xC06B5600#32 = some (.hmsetQuiesce h0 13 11 0) ∧
    dec 0xC06C0613#32 = some (.hmsetSwitch h0 16 3 3) ∧ dec 0xC06C8020#32 = some (.hmsetResume h0 18 0 0) := by decide
theorem test_decode_region : dec 0xC082C005#32 = some (.rgfreezeFreeze h0 11 5) ∧ dec 0xC0838045#32 = some (.rgfreezeThaw h0 14 5) ∧
    dec 0xC08B0205#32 = some (.rgreadSave h0 12 1 5) ∧ dec 0xC08B4185#32 = some (.rgreadRestore h0 13 1 5) ∧
    dec 0xC08BC0C5#32 = some (.rgreadStatus h0 15 5) := by decide
-- 02 R61, 12 sample.
theorem test_decode_hint : dec 0xE0000802#32 = some (.prefG h0 0 4 2) ∧ dec 0xE0180012#32 = some (.pause h0 0 0 18) := by decide

/-! ### Decoding: one word for each row of the opcode table

The fixed bits are the table's, the token distances 1 and 2, and every field holds a value of its own. -/

/-- Each word decodes to the instruction beside it. -/
def decAll (l : List (BitVec 32 × Instr)) : Bool := l.all (fun p => decide (dec p.1 = some p.2))

theorem test_words_x0 : decAll [
    (0x0C029A01#32, .addi ⟨1, 2⟩ 5 6 513), (0x0C129A01#32, .andi ⟨1, 2⟩ 5 6 513), (0x0C229A01#32, .ori ⟨1, 2⟩ 5 6 513),
    (0x0C329A01#32, .xori ⟨1, 2⟩ 5 6 513), (0x0C429A01#32, .slli ⟨1, 2⟩ 5 6 513), (0x0C529A01#32, .srli ⟨1, 2⟩ 5 6 513),
    (0x0C629A01#32, .srai ⟨1, 2⟩ 5 6 513), (0x0C729A01#32, .slti ⟨1, 2⟩ 5 6 513), (0x0C829A01#32, .sltiu ⟨1, 2⟩ 5 6 513),
    (0x0C929A01#32, .ldxD ⟨1, 2⟩ 5 6 513), (0x0CA29A01#32, .ldxW ⟨1, 2⟩ 5 6 513), (0x0CB29A01#32, .stxD ⟨1, 2⟩ 5 6 513),
    (0x0CC29A01#32, .stxW ⟨1, 2⟩ 5 6 513), (0x0CD28203#32, .csrr ⟨1, 2⟩ 5 515), (0x0CE01603#32, .csrw ⟨1, 2⟩ 5 515),
    (0x0CF29A01#32, .csrx ⟨1, 2⟩ 5 6 513), (0x0D02C003#32, .li ⟨1, 2⟩ 5 16387), (0x0D12C003#32, .lsh ⟨1, 2⟩ 5 16387),
    (0x0D22C003#32, .auipc ⟨1, 2⟩ 5 16387), (0x0D304006#32, .setlc ⟨1, 2⟩ 16390)] = true := by decide
theorem test_words_x1 : decAll [
    (0x0D42C003#32, .beqz ⟨1, 2⟩ 5 16387), (0x0D52C003#32, .bnez ⟨1, 2⟩ 5 16387), (0x0D604006#32, .bcq ⟨1, 2⟩ 16390),
    (0x0D60C006#32, .bncq ⟨1, 2⟩ 16390), (0x0D614006#32, .blc ⟨1, 2⟩ 16390), (0x0D72C003#32, .jal ⟨1, 2⟩ 5 16387),
    (0x0D829860#32, .add ⟨1, 2⟩ 5 6 3), (0x0D829861#32, .sub ⟨1, 2⟩ 5 6 3), (0x0D829862#32, .and ⟨1, 2⟩ 5 6 3),
    (0x0D829863#32, .or ⟨1, 2⟩ 5 6 3), (0x0D829864#32, .xor ⟨1, 2⟩ 5 6 3), (0x0D829865#32, .sll ⟨1, 2⟩ 5 6 3),
    (0x0D829866#32, .srl ⟨1, 2⟩ 5 6 3), (0x0D829867#32, .sra ⟨1, 2⟩ 5 6 3), (0x0D829868#32, .slt ⟨1, 2⟩ 5 6 3),
    (0x0D829869#32, .sltu ⟨1, 2⟩ 5 6 3), (0x0D82986A#32, .min ⟨1, 2⟩ 5 6 3), (0x0D82986B#32, .max ⟨1, 2⟩ 5 6 3),
    (0x0D82986C#32, .minu ⟨1, 2⟩ 5 6 3), (0x0D82986D#32, .maxu ⟨1, 2⟩ 5 6 3)] = true := by decide
theorem test_words_x2 : decAll [
    (0x0D82986E#32, .mul ⟨1, 2⟩ 5 6 3), (0x0D82986F#32, .mulh ⟨1, 2⟩ 5 6 3), (0x0D829870#32, .mulhu ⟨1, 2⟩ 5 6 3),
    (0x0D829871#32, .div ⟨1, 2⟩ 5 6 3), (0x0D829872#32, .divu ⟨1, 2⟩ 5 6 3), (0x0D829873#32, .rem ⟨1, 2⟩ 5 6 3),
    (0x0D829874#32, .remu ⟨1, 2⟩ 5 6 3), (0x0D829815#32, .clz ⟨1, 2⟩ 5 6), (0x0D829816#32, .ctz ⟨1, 2⟩ 5 6),
    (0x0D829817#32, .popc ⟨1, 2⟩ 5 6), (0x0D829818#32, .sextB ⟨1, 2⟩ 5 6), (0x0D829819#32, .sextH ⟨1, 2⟩ 5 6),
    (0x0D82981A#32, .sextW ⟨1, 2⟩ 5 6), (0x0D82981B#32, .zextW ⟨1, 2⟩ 5 6), (0x0D929800#32, .jalr ⟨1, 2⟩ 5 6),
    (0x0D901401#32, .setlcS ⟨1, 2⟩ 5), (0x0D928002#32, .rdlc ⟨1, 2⟩ 5), (0x0D929863#32, .cmovz ⟨1, 2⟩ 5 6 3),
    (0x0D929864#32, .cmovnz ⟨1, 2⟩ 5 6 3), (0x0D928005#32, .ifq ⟨1, 2⟩ 5)] = true := by decide
theorem test_words_x3 : decAll [
    (0x0D928006#32, .elseq ⟨1, 2⟩ 5), (0x0D928007#32, .stgStage ⟨1, 2⟩ 5), (0x0D92C068#32, .loopp ⟨1, 2⟩ 5 515),
    (0x0D901409#32, .setrb ⟨1, 2⟩ 5), (0x0DA29860#32, .addSh1 ⟨1, 2⟩ 5 6 3), (0x0DA29861#32, .addSh2 ⟨1, 2⟩ 5 6 3),
    (0x0DA29862#32, .addSh3 ⟨1, 2⟩ 5 6 3), (0x0DA29863#32, .addSh4 ⟨1, 2⟩ 5 6 3), (0x0DA29864#32, .taddr ⟨1, 2⟩ 5 6 3)] = true := by decide
theorem test_words_v0 : decAll [
    (0x6C00A619#32, .vadd ⟨1, 2⟩ 5 6 3 1), (0x6C04A619#32, .vsub ⟨1, 2⟩ 5 6 3 1), (0x6C08A619#32, .vmul ⟨1, 2⟩ 5 6 3 1),
    (0x6C0CA619#32, .vfma ⟨1, 2⟩ 5 6 3 1), (0x6C10A619#32, .vfms ⟨1, 2⟩ 5 6 3 1), (0x6C14A619#32, .vmin ⟨1, 2⟩ 5 6 3 1),
    (0x6C18A619#32, .vmax ⟨1, 2⟩ 5 6 3 1), (0x6C1CA603#32, .vabs ⟨1, 2⟩ 5 6 3), (0x6C20A603#32, .vneg ⟨1, 2⟩ 5 6 3),
    (0x6C24A603#32, .vrcp ⟨1, 2⟩ 5 6 3), (0x6C28A603#32, .vrsq ⟨1, 2⟩ 5 6 3), (0x6C2CA603#32, .vexp2 ⟨1, 2⟩ 5 6 3),
    (0x6C30A603#32, .vlog2 ⟨1, 2⟩ 5 6 3), (0x6C34A619#32, .vand ⟨1, 2⟩ 5 6 3 1), (0x6C38A619#32, .vor ⟨1, 2⟩ 5 6 3 1),
    (0x6C3CA619#32, .vxor ⟨1, 2⟩ 5 6 3 1), (0x6C40A603#32, .vnot ⟨1, 2⟩ 5 6 3), (0x6C44A619#32, .vshl ⟨1, 2⟩ 5 6 3 1),
    (0x6C48A619#32, .vshr ⟨1, 2⟩ 5 6 3 1), (0x6C4CA619#32, .vsra ⟨1, 2⟩ 5 6 3 1)] = true := by decide
theorem test_words_v1 : decAll [
    (0x6C50A619#32, .vshli ⟨1, 2⟩ 5 6 3 1), (0x6C54A619#32, .vshri ⟨1, 2⟩ 5 6 3 1), (0x6C58A619#32, .vcmpEq ⟨1, 2⟩ 5 6 3 1),
    (0x6C5CA619#32, .vcmpNe ⟨1, 2⟩ 5 6 3 1), (0x6C60A619#32, .vcmpLt ⟨1, 2⟩ 5 6 3 1), (0x6C64A619#32, .vcmpLe ⟨1, 2⟩ 5 6 3 1),
    (0x6C68A619#32, .vcmpUn ⟨1, 2⟩ 5 6 3 1), (0x6C6C0506#32, .vcqAny ⟨1, 2⟩ 5 6), (0x6C700506#32, .vcqAll ⟨1, 2⟩ 5 6),
    (0x6C74A619#32, .vsel ⟨1, 2⟩ 5 6 3 1), (0x6C78A603#32, .vmov ⟨1, 2⟩ 5 6 3), (0x6C7CA603#32, .vbcast ⟨1, 2⟩ 5 6 3),
    (0x6C80A618#32, .vext ⟨1, 2⟩ 5 6 3), (0x6C84A618#32, .vins ⟨1, 2⟩ 5 6 3), (0x6C88A006#32, .viota ⟨1, 2⟩ 5 6),
    (0x6C8CA619#32, .vcvt ⟨1, 2⟩ 5 6 3 1), (0x6C90A618#32, .vpack ⟨1, 2⟩ 5 6 3), (0x6C94A618#32, .vunpack ⟨1, 2⟩ 5 6 3),
    (0x6C98A619#32, .vperm ⟨1, 2⟩ 5 6 3 1), (0x6C9CA619#32, .vshuf ⟨1, 2⟩ 5 6 3 1)] = true := by decide
theorem test_words_v2 : decAll [
    (0x6CA0A619#32, .vslide ⟨1, 2⟩ 5 6 3 1), (0x6CA4A603#32, .vredSum ⟨1, 2⟩ 5 6 3), (0x6CA8A603#32, .vredMin ⟨1, 2⟩ 5 6 3),
    (0x6CACA603#32, .vredMax ⟨1, 2⟩ 5 6 3), (0x6CB0A603#32, .vscan ⟨1, 2⟩ 5 6 3), (0x6CB4A603#32, .vcompress ⟨1, 2⟩ 5 6 3),
    (0x6CB8A603#32, .vexpand ⟨1, 2⟩ 5 6 3), (0x6CBCA619#32, .vprune ⟨1, 2⟩ 5 6 3 1), (0x6CC0A619#32, .vquant ⟨1, 2⟩ 5 6 3 1),
    (0x6CC4A619#32, .vscale ⟨1, 2⟩ 5 6 3 1), (0x6CC80599#32, .vdefer ⟨1, 2⟩ 5 2 3 1), (0x6CCCA099#32, .vdrain ⟨1, 2⟩ 5 2 3 1),
    (0x6CD0A608#32, .vtype ⟨1, 2⟩ 5 6 1), (0x6CD4A618#32, .kand ⟨1, 2⟩ 5 6 3), (0x6CD8A618#32, .kor ⟨1, 2⟩ 5 6 3),
    (0x6CDCA618#32, .kxor ⟨1, 2⟩ 5 6 3), (0x6CE0A600#32, .knot ⟨1, 2⟩ 5 6), (0x6CE4A600#32, .kpopc ⟨1, 2⟩ 5 6),
    (0x6CE8A600#32, .kfirst ⟨1, 2⟩ 5 6), (0x6CECA600#32, .kmov ⟨1, 2⟩ 5 6)] = true := by decide
theorem test_words_v3 : decAll [
    (0x6CF0A619#32, .vclamp ⟨1, 2⟩ 5 6 3 1), (0x6CF4A619#32, .vdot ⟨1, 2⟩ 5 6 3 1)] = true := by decide
theorem test_words_m0 : decAll [
    (0x4C039E85#32, .mma ⟨1, 2⟩ 1 6 3 1 2 1 0 1 1), (0x4C0B9E81#32, .mrun ⟨1, 2⟩ 1 6 3 1 2 1 0 1), (0x4C120000#32, .mzero ⟨1, 2⟩ 1),
    (0x4C1B9801#32, .mdrain ⟨1, 2⟩ 1 6 3 1), (0x4C23800D#32, .mdrainV ⟨1, 2⟩ 1 6 3 1), (0x4C2B800C#32, .mloada ⟨1, 2⟩ 1 6 3),
    (0x4C314018#32, .mscale ⟨1, 2⟩ 5 6), (0x4C380037#32, .mcfg ⟨1, 2⟩ 1 2 3 1), (0x4C400001#32, .mlend ⟨1, 2⟩ 1),
    (0x4C480001#32, .mret ⟨1, 2⟩ 1), (0x4C517003#32, .mtrans ⟨1, 2⟩ 5 6 3), (0x4C5A0000#32, .mchk ⟨1, 2⟩ 1),
    (0x4C600026#32, .mprobe ⟨1, 2⟩ 1 6), (0x4C620046#32, .mprobeAcc ⟨1, 2⟩ 1 6)] = true := by decide
theorem test_words_l0 : decAll [
    (0x2C014C36#32, .vld ⟨1, 2⟩ 5 6 3 1 2), (0x2C094C36#32, .vldS ⟨1, 2⟩ 5 6 3 1 2), (0x2C114C36#32, .vst ⟨1, 2⟩ 5 6 3 1 2),
    (0x2C194C36#32, .vstS ⟨1, 2⟩ 5 6 3 1 2), (0x2C214C34#32, .mld ⟨1, 2⟩ 5 6 3 1), (0x2C294C36#32, .mldT ⟨1, 2⟩ 5 6 3 1 2),
    (0x2C314008#32, .mldU ⟨1, 2⟩ 5 2), (0x2C394C34#32, .mst ⟨1, 2⟩ 5 6 3 1), (0x2C414C36#32, .vldBm ⟨1, 2⟩ 5 6 3 1 2),
    (0x2C494C36#32, .vstBm ⟨1, 2⟩ 5 6 3 1 2), (0x2C514C36#32, .cpyIn ⟨1, 2⟩ 5 6 3 1 2), (0x2C594C36#32, .cpyOut ⟨1, 2⟩ 5 6 3 1 2),
    (0x2C614C36#32, .cpyLoc ⟨1, 2⟩ 5 6 3 1 2), (0x2C680A02#32, .awf ⟨1, 2⟩ 5 2), (0x2C700A02#32, .rls ⟨1, 2⟩ 5 2),
    (0x2C780A63#32, .agCfg ⟨1, 2⟩ 5 6 3), (0x2C800A60#32, .winCfg ⟨1, 2⟩ 5 6), (0x2C894C34#32, .fopen ⟨1, 2⟩ 5 6 3 1 0),
    (0x2C914C34#32, .fadv ⟨1, 2⟩ 5 6 3 1), (0x2C980A00#32, .fend ⟨1, 2⟩ 5)] = true := by decide
theorem test_words_l1 : decAll [
    (0x2CA00A00#32, .fclose ⟨1, 2⟩ 5)] = true := by decide
theorem test_words_q0 : decAll [
    (0x8C014C36#32, .ldg ⟨1, 2⟩ 5 6 3 1 2), (0x8C094C36#32, .stg ⟨1, 2⟩ 5 6 3 1 2), (0x8C114C34#32, .lda ⟨1, 2⟩ 5 6 3 1),
    (0x8C194C34#32, .strl ⟨1, 2⟩ 5 6 3 1), (0x8C200006#32, .fence ⟨1, 2⟩ 1 2), (0x8C294C36#32, .amoAdd ⟨1, 2⟩ 5 6 3 1 2),
    (0x8C314C36#32, .amoAnd ⟨1, 2⟩ 5 6 3 1 2), (0x8C394C36#32, .amoOr ⟨1, 2⟩ 5 6 3 1 2), (0x8C414C36#32, .amoXor ⟨1, 2⟩ 5 6 3 1 2),
    (0x8C494C36#32, .amoMin ⟨1, 2⟩ 5 6 3 1 2), (0x8C514C36#32, .amoMax ⟨1, 2⟩ 5 6 3 1 2), (0x8C594C36#32, .amoMinu ⟨1, 2⟩ 5 6 3 1 2),
    (0x8C614C36#32, .amoMaxu ⟨1, 2⟩ 5 6 3 1 2), (0x8C694C36#32, .amoSwap ⟨1, 2⟩ 5 6 3 1 2), (0x8C714C36#32, .amoCas ⟨1, 2⟩ 5 6 3 1 2),
    (0x8C794C36#32, .amoFadd ⟨1, 2⟩ 5 6 3 1 2), (0x8C814C34#32, .verst ⟨1, 2⟩ 5 6 3 1), (0x8C894C34#32, .verld ⟨1, 2⟩ 5 6 3 1),
    (0x8C914C34#32, .verrcl ⟨1, 2⟩ 5 6 3 1), (0x8C980004#32, .barW ⟨1, 2⟩ 1)] = true := by decide
theorem test_words_q1 : decAll [
    (0x8CA00004#32, .barA ⟨1, 2⟩ 1), (0x8CA94008#32, .barT ⟨1, 2⟩ 5 2), (0x8CB00A08#32, .bcast ⟨1, 2⟩ 5 2),
    (0x8CB94008#32, .brecv ⟨1, 2⟩ 5 2), (0x8CC14C34#32, .red ⟨1, 2⟩ 5 6 3 1), (0x8CC80004#32, .evt ⟨1, 2⟩ 1),
    (0x8CD14C30#32, .submit ⟨1, 2⟩ 5 6 3), (0x8CD94C30#32, .mcast ⟨1, 2⟩ 5 6 3), (0x8CE00A60#32, .wbr ⟨1, 2⟩ 5 6),
    (0x8CE80A60#32, .invr ⟨1, 2⟩ 5 6), (0x8CF14000#32, .wbwait ⟨1, 2⟩ 5), (0x8CF94C30#32, .lat ⟨1, 2⟩ 5 6 3),
    (0x8D014C30#32, .ldt ⟨1, 2⟩ 5 6 3), (0x8D094C30#32, .lfold ⟨1, 2⟩ 5 6 3), (0x8D114C00#32, .lfwait ⟨1, 2⟩ 5 6),
    (0x8D194C00#32, .lgen ⟨1, 2⟩ 5 6), (0x8D200A60#32, .tkpush ⟨1, 2⟩ 5 6), (0x8D280A60#32, .tkpop ⟨1, 2⟩ 5 6),
    (0x8D314060#32, .tkcnt ⟨1, 2⟩ 5 6)] = true := by decide
theorem test_words_y0 : decAll [
    (0xCC000005#32, .trap ⟨1, 2⟩ 5), (0xCC080000#32, .tretResume ⟨1, 2⟩), (0xCC080001#32, .tretAbort ⟨1, 2⟩),
    (0xCC100000#32, .halt ⟨1, 2⟩), (0xCC194000#32, .yield ⟨1, 2⟩ 5), (0xCC200000#32, .wfe ⟨1, 2⟩),
    (0xCC280A00#32, .wut ⟨1, 2⟩ 5), (0xCC314000#32, .rdtime ⟨1, 2⟩ 5 0), (0xCC394C00#32, .mperm ⟨1, 2⟩ 5 6),
    (0xCC414C03#32, .rdst ⟨1, 2⟩ 5 6 3), (0xCC494C03#32, .wrst ⟨1, 2⟩ 5 6 3), (0xCC514C03#32, .ctxSave ⟨1, 2⟩ 5 6 3),
    (0xCC594C03#32, .ctxLoad ⟨1, 2⟩ 5 6 3), (0xCC614C00#32, .domsetInstall ⟨1, 2⟩ 5 6), (0xCC614C01#32, .domsetRemove ⟨1, 2⟩ 5 6),
    (0xCC694C03#32, .hmsetQuiesce ⟨1, 2⟩ 5 6 3), (0xCC694C13#32, .hmsetSwitch ⟨1, 2⟩ 5 6 3), (0xCC694C23#32, .hmsetResume ⟨1, 2⟩ 5 6 3),
    (0xCC714C03#32, .rgload ⟨1, 2⟩ 5 6 3), (0xCC794006#32, .rgswapHot ⟨1, 2⟩ 5 6)] = true := by decide
theorem test_words_y1 : decAll [
    (0xCC794046#32, .rgswapNow ⟨1, 2⟩ 5 6), (0xCC814006#32, .rgfreezeFreeze ⟨1, 2⟩ 5 6), (0xCC814046#32, .rgfreezeThaw ⟨1, 2⟩ 5 6),
    (0xCC894C03#32, .rgreadSave ⟨1, 2⟩ 5 6 3), (0xCC894D41#32, .rgreadFetch ⟨1, 2⟩ 5 6 1 1), (0xCC894083#32, .rgreadRestore ⟨1, 2⟩ 5 0 3),
    (0xCC8940C6#32, .rgreadStatus ⟨1, 2⟩ 5 6), (0xCC914183#32, .rgclk ⟨1, 2⟩ 5 6 3)] = true := by decide
theorem test_words_w0 : decAll [
    (0xAC098005#32, .wout ⟨1, 2⟩ 1 6 1 1), (0xAC298009#32, .win ⟨1, 2⟩ 1 6 1 1), (0xAC480000#32, .weos ⟨1, 2⟩ 1),
    (0xAC680003#32, .wtest ⟨1, 2⟩ 1 0 3), (0xAC89A001#32, .wstat ⟨1, 2⟩ 1 6 1 1), (0xACA80000#32, .wdrainIn ⟨1, 2⟩ 1),
    (0xACA82000#32, .wdrainOut ⟨1, 2⟩ 1)] = true := by decide
theorem test_words_hint0 : decAll [
    (0xEC014D01#32, .prefG ⟨1, 2⟩ 5 6 257), (0xEC094D01#32, .prefS ⟨1, 2⟩ 5 6 257), (0xEC114D01#32, .prio ⟨1, 2⟩ 5 6 257),
    (0xEC194D01#32, .pause ⟨1, 2⟩ 5 6 257)] = true := by decide

/-! ### Well-formedness: an ill-formed term for each check -/

/-- Every one of the terms is refused. -/
def noneWf (l : List Instr) : Bool := l.all (fun i => !i.wf)

theorem test_wf_x : noneWf [.slli h0 1 2 64, .srli h0 1 2 64, .srai h0 1 2 1023, .lsh h0 28 1, .cmovz h0 29 1 2, .cmovnz h0 31 1 2,
    .ifq h0 0, .elseq h0 0, .loopp h0 0 4, .loopp h0 9 4, .loopp h0 2 0, .tkpush h0 1 0, .tkpop h0 1 4, .tkcnt h0 1 0] = true := by decide
theorem test_wf_v : noneWf [.vcmpEq h0 8 1 2 0, .vcmpNe h0 8 1 2 0, .vcmpLt h0 8 1 2 0, .vcmpLe h0 8 1 2 0, .vcmpUn h0 8 1 2 0, .vcqAny h0 8 0,
    .vcqAll h0 31 0, .vpack h0 1 2 3, .vunpack h0 1 2 3, .vshuf h0 1 2 5 0, .vprune h0 8 1 1 0, .vprune h0 1 1 0 0, .vprune h0 1 1 2 0,
    .vprune h0 1 1 25 0, .vdefer h0 31 1 0 0, .vdrain h0 30 1 0 0, .vtype h0 13 0 0, .vtype h0 0 13 0, .kand h0 8 0 0, .kor h0 0 8 0,
    .kxor h0 0 0 8, .knot h0 8 0, .kmov h0 0 8, .kpopc h0 1 8, .kfirst h0 1 8] = true := by decide
theorem test_wf_m : noneWf [.mma h0 0 0 0 0 3 0 0 0 0, .mma h0 0 0 0 0 0 0 0 0 3, .mma h0 0 4 0 0 0 0 1 0 0, .mma h0 0 0 4 0 0 0 0 1 0,
    .mrun h0 0 0 0 0 3 0 0 0, .mrun h0 0 0 0 0 0 0 0 3, .mrun h0 0 4 0 0 0 0 4 0, .mrun h0 0 0 4 0 0 0 4 0, .mdrain h0 0 3 0 0,
    .mdrainV h0 0 5 0 0, .mdrainV h0 0 1 25 0, .mdrainV h0 0 3 17 0, .mloada h0 0 5 0, .mloada h0 0 2 25, .mscale h0 0 31, .mcfg h0 3 0 0 0,
    .mcfg h0 0 3 0 0, .mcfg h0 0 0 3 0, .mtrans h0 2 2 0] = true := by decide
theorem test_wf_l : noneWf [.mld h0 8 1 2 0, .mldT h0 8 1 2 0 0, .mst h0 8 1 2 0, .mldU h0 8 0, .vldBm h0 31 1 2 0 1, .vstBm h0 25 1 2 0 3,
    .agCfg h0 1 5 0, .fopen h0 4 1 0 0 0, .fopen h0 0 1 1 0 1, .fopen h0 0 1 0 0 2, .fadv h0 0 4 1 0, .fadv h0 31 0 1 0, .fend h0 4,
    .fclose h0 4] = true := by decide
theorem test_wf_q_w : noneWf [.ldg h0 1 2 3 0 2, .ldg h0 1 2 3 0 3, .stg h0 1 2 3 0 1, .stg h0 1 2 3 0 3, .fence h0 0 0, .amoCas h0 28 1 2 0 0,
    .red h0 1 2 7 0, .wout h0 2 0 0 0, .win h0 2 0 0 0, .weos h0 3, .wdrainIn h0 2, .wdrainOut h0 2, .wtest h0 2 0 0, .wtest h0 0 0 17,
    .wstat h0 2 0 0 0] = true := by decide
theorem test_wf_y : noneWf [.rdst h0 1 2 192, .wrst h0 1 2 192, .ctxSave h0 1 2 192, .ctxLoad h0 1 2 255, .hmsetQuiesce h0 1 2 12,
    .hmsetSwitch h0 1 2 12, .hmsetResume h0 1 2 15, .rgload h0 1 2 48, .rgreadSave h0 1 2 48, .rgswapHot h0 1 48, .rgswapNow h0 1 48,
    .rgfreezeFreeze h0 1 48, .rgfreezeThaw h0 1 48, .rgreadStatus h0 1 63, .rgreadFetch h0 1 2 0 48, .rgreadRestore h0 1 0 48, .rgclk h0 1 6 0,
    .rgclk h0 1 0 48] = true := by decide
theorem test_wf_core_events : noneWf [.engineWordStart 192 0 .x, .wordRetire 0 4 .x, .pauseEnd 2048 0, .deadlockDetect 192,
    .correctableError 192, .freezeBegin 192, .freezeEnd 192, .accumulatorWriteback 192, .permitDecision 192, .wbrInvrFinish 192, .wutCrossing 192,
    .pageRefillComplete 0 128 true 0, .transferStart 0 4 0, .transferChunk 0 0 16, .slotFill 192 0 0, .rehomeResend 192 0,
    .translationWalkDone 192 0, .fifoCrossing 0 4, .flitInject 104 0, .flitOffer 0 24] = true := by decide
theorem test_wf_die_events : noneWf [.sliceAccess 0 48, .carveWrite 8 0 0, .invalidationRequest 8, .invalidationDone 8, .loadGo 8,
    .loadComplete 8, .operandWordPoll 8, .nodePlace 8, .saveWritebackDone 8, .thermalHold 8, .dieReset 8, .stackReset 8 .start,
    .queueTableWrite 0 64 0, .packetAccept 0 64, .completionRecordWrite 8 0, .registerWrite 0 0x200000 0, .copyPacketRow 0 4,
    .priorityAging 8 0 0, .textRewrite 8 0 0, .dispatch 8 0 0, .preemptDecision 8 0 0, .preemptSignal 8 0 0, .contextSaved 8 0 0,
    .nodeResume 8 0 0, .haltTreeFire 8 0 0, .governorCapUpdate 0 12 0, .governorCapUpdate 0 0 17] = true := by decide
theorem test_wf_fabric_events : noneWf [.syncArrival 9 0, .barrierRelease 0 64, .reductionResult 9 0, .broadcastDelivery 9 0,
    .broadcastCreditReturn 0 64, .eventDelivery 9 0, .syncFaultSignal 9 0, .brokenVerdict 0 64, .beatTransfer 384 0 true, .beatTransfer 0 8 false,
    .withyTransfer 0 32, .regionRamError 384 true, .swapBoundary 384, .planeExchange 384, .regionClockEdge 384] = true := by decide
theorem test_wf_host_events : noneWf [.hostWrite 2 0 0 [] false, .hostRead 0 32 0 0, .hostAtomicop 0 0 0 16 .swap 0 0, .linkBeatArrival 32 0 false
    (.credit 0), .linkBeatArrival 0 4 false (.credit 0), .treeTokenForward 32 0, .ptpMessage 32 true 0, .linkReset 32 64, .linkReset 0 63,
    .linkReset 0 1081, .msixVectorUnmask 64 0, .msixVectorUnmask 0 2048] = true := by decide

/-! ### Steps: single words with hand-computed results -/

/-- Register 3 of strand 3 after the word, with registers 1 and 2 holding `a` and `b`. -/
def r3 (i : Instr) (a b : Word) : Word := regAfter 3 3 (exec i (withRegs 3 a b (at_ 3)))

-- 03 R62: sums wrap, immediates sign-extend, SLTIU compares the sign-extended immediate as unsigned.
theorem test_addi_wraps : r3 (.addi h0 3 1 1) 0xFFFFFFFFFFFFFFFF 0 = 0 ∧ r3 (.addi h0 3 1 0x3FF) 5 0 = 4 := by decide +kernel
theorem test_logic_imm : r3 (.andi h0 3 1 0x200) 0xFFFFFFFFFFFFFFFF 0 = 0xFFFFFFFFFFFFFE00 ∧ r3 (.ori h0 3 1 0x200) 1 0 = 0xFFFFFFFFFFFFFE01 ∧
    r3 (.xori h0 3 1 0x3FF) 5 0 = 0xFFFFFFFFFFFFFFFA := by decide +kernel
theorem test_shift_imm : r3 (.slli h0 3 1 63) 3 0 = 0x8000000000000000 ∧ r3 (.srli h0 3 1 63) 0x8000000000000000 0 = 1 ∧
    r3 (.srai h0 3 1 63) 0x8000000000000000 0 = 0xFFFFFFFFFFFFFFFF := by decide +kernel
theorem test_slt_imm : r3 (.slti h0 3 1 0x3FF) 0xFFFFFFFFFFFFFFFE 0 = 1 ∧ r3 (.sltiu h0 3 1 0x3FF) 5 0 = 1 ∧
    r3 (.slti h0 3 1 0x3FF) 5 0 = 0 := by decide +kernel
-- 03 R66: registers.
theorem test_sub_borrow : r3 (.sub h0 3 1 2) 1 2 = 0xFFFFFFFFFFFFFFFF := by decide +kernel
theorem test_shift_mod_64 : r3 (.sll h0 3 1 2) 1 65 = 2 ∧ r3 (.srl h0 3 1 2) 4 66 = 1 ∧ r3 (.sra h0 3 1 2) 0xFFFFFFFFFFFFFFFC 65 = 0xFFFFFFFFFFFFFFFE := by
  decide +kernel
theorem test_signed_order : r3 (.slt h0 3 1 2) 0xFFFFFFFFFFFFFFFF 0 = 1 ∧ r3 (.sltu h0 3 1 2) 0xFFFFFFFFFFFFFFFF 0 = 0 ∧
    r3 (.min h0 3 1 2) 0xFFFFFFFFFFFFFFFF 0 = 0xFFFFFFFFFFFFFFFF ∧ r3 (.max h0 3 1 2) 0xFFFFFFFFFFFFFFFF 0 = 0 ∧
    r3 (.minu h0 3 1 2) 0xFFFFFFFFFFFFFFFF 0 = 0 ∧ r3 (.maxu h0 3 1 2) 0xFFFFFFFFFFFFFFFF 0 = 0xFFFFFFFFFFFFFFFF := by decide +kernel
theorem test_products : r3 (.mul h0 3 1 2) 0x100000001 0x100000001 = 0x200000001 ∧ r3 (.mulh h0 3 1 2) 0xFFFFFFFFFFFFFFFF 1 = 0xFFFFFFFFFFFFFFFF ∧
    r3 (.mulhu h0 3 1 2) 0xFFFFFFFFFFFFFFFF 2 = 1 := by decide +kernel
-- 03 R67: the zero divisor and the overflow.
theorem test_division : r3 (.div h0 3 1 2) 7 0 = 0xFFFFFFFFFFFFFFFF ∧ r3 (.rem h0 3 1 2) 7 0 = 7 ∧
    r3 (.div h0 3 1 2) 0x8000000000000000 0xFFFFFFFFFFFFFFFF = 0x8000000000000000 ∧ r3 (.rem h0 3 1 2) 0x8000000000000000 0xFFFFFFFFFFFFFFFF = 0 ∧
    r3 (.div h0 3 1 2) 0xFFFFFFFFFFFFFFF9 2 = 0xFFFFFFFFFFFFFFFD ∧ r3 (.rem h0 3 1 2) 0xFFFFFFFFFFFFFFF9 2 = 0xFFFFFFFFFFFFFFFF ∧
    r3 (.divu h0 3 1 2) 0xFFFFFFFFFFFFFFFF 16 = 0x0FFFFFFFFFFFFFFF ∧ r3 (.remu h0 3 1 2) 23 5 = 3 := by decide +kernel
theorem test_counts : r3 (.clz h0 3 1) 0 0 = 64 ∧ r3 (.ctz h0 3 1) 0 0 = 64 ∧ r3 (.clz h0 3 1) 1 0 = 63 ∧ r3 (.ctz h0 3 1) 0x100 0 = 8 ∧
    r3 (.popc h0 3 1) 0xFF 0 = 8 := by decide +kernel
theorem test_extend : r3 (.sextB h0 3 1) 0x180 0 = 0xFFFFFFFFFFFFFF80 ∧ r3 (.sextH h0 3 1) 0x18000 0 = 0xFFFFFFFFFFFF8000 ∧
    r3 (.sextW h0 3 1) 0x180000000 0 = 0xFFFFFFFF80000000 ∧ r3 (.zextW h0 3 1) 0x180000000 0 = 0x80000000 := by decide +kernel
-- 03 R63: the constant of the section's table; LI sign-extends.
theorem test_constants : regAfter 3 3 (exec (.lsh h0 3 0x5678) (strandAt 3 (fun t => t.setReg 3 0x2468))) = 0x12345678 ∧
    r3 (.li h0 3 0x7FFF) 0 0 = 0xFFFFFFFFFFFFFFFF := by decide +kernel
-- 03 R68, R69: address sums; conditional moves test sB.
theorem test_address : r3 (.addSh3 h0 3 1 2) 0x100 2 = 0x110 ∧ r3 (.cmovz h0 3 1 2) 5 0 = 5 ∧ r3 (.cmovz h0 3 1 2) 5 1 = 0 ∧
    r3 (.cmovnz h0 3 1 2) 5 1 = 5 := by decide +kernel
-- 01 R17: s0 reads zero and discards writes.
theorem test_s0 : regAfter 3 0 (exec (.addi h0 0 0 5) (at_ 3)) = 0 := by decide +kernel
-- 03 R70, R72: a branch counts words from its own address.
theorem test_branch : ((nextOf (exec (.beqz h0 1 4) (at_ 3))).strand 0 3).pc = 16 ∧ ((nextOf (exec (.bnez h0 1 4) (at_ 3))).strand 0 3).pc = 4 ∧
    ((nextOf (exec (.jal h0 3 4) (at_ 3))).strand 0 3).pc = 16 ∧ regAfter 3 3 (exec (.jal h0 3 4) (at_ 3)) = 4 := by decide +kernel
-- 03 R64: LDX.W sign-extends what STX.D stored; bytes lie little-endian.
theorem test_scratch : regAfter 0 3 (exec (.ldxW h0 3 0 2) (dataAt 0 (fun d => d.scrWrite 8 (leBytes 4 0x80000001)))) = 0xFFFFFFFF80000001 := by
  decide +kernel
-- 17 R326, 01 R21: HALT stops the strand.
theorem test_halt : ((nextOf (exec (.halt h0) (at_ 0))).strand 0 0).st = .halted := by decide +kernel

/-- The first word after reset: the word of 01's sample, stored where the step fetches. -/
theorem test_first_step : (((nextOf (step (State.reset.withFetchWord 32 0x00028028))).strand 0 (homeStrand (some (.addi h0 5 0 40)))).reg 5) = 40 := by decide +kernel

end Sys2Proof.Tests
end

section
/-! PROOFS. A core cycle passes (00 R7, 22 R415): what the end of a cycle leaves, and the statement `TimePasses`. -/

namespace Sys2Proof.Machine

/-! ### What leaves the clock -/

/-- What only a step itself sets: the cycle, package time (22 R415), and who moves next. -/
def clock (s : State) : Nat × TimeState × List Turn := (s.cycle, s.time, s.agenda)

theorem clock_eq_iff {s t : State} : clock t = clock s ↔ t.cycle = s.cycle ∧ t.time = s.time ∧ t.agenda = s.agenda := by
  simp [clock]

@[simp] theorem modCore_clock (s : State) (c : Nat) (f : Core → Core) : clock (s.modCore c f) = clock s := rfl

@[simp] theorem memStore_clock (s : State) (pa : Nat) (bs : List Byte) : clock (s.memStore pa bs) = clock s := rfl

@[simp] theorem touch_clock (s : State) (pa : Nat) (w : Bool) : clock (s.touch pa w) = clock s := by
  obtain ⟨p, b, l, e⟩ := touch_state s pa w
  rw [e]
  rfl

@[simp] theorem writeBytes_clock (s : State) (pa : Nat) (bs : List Byte) : clock (writeBytes s pa bs) = clock s := by
  unfold writeBytes
  split
  · rfl
  · rw [memStore_clock]
    exact foldl_field clock (fun s l => touch_clock s (l * 256) true) _ s

@[simp] theorem sendHost_clock (p : BitVec 16) (core : Option Nat) (off size : Nat) (write : Bool) (op : Option Nat) (x cmp : Word)
    (data : List Byte) (s : State) (own : List Nat) :
    clock (sendHost p core off size write op x cmp data s own).2 = clock s := rfl

@[simp] theorem sendPeer_clock (idx : Nat) (m : LinkItem) (s : State) : clock (sendPeer idx m s) = clock s := rfl

@[simp] theorem writeOut_clock (ctx : BitVec 16) (pa : Nat) (bs : List Byte) (s : State) : clock (writeOut ctx pa bs s) = clock s := by
  unfold writeOut
  split
  · exact sendHost_clock ..
  · exact sendPeer_clock ..
  · rfl
  · exact writeBytes_clock s pa bs

@[simp] theorem coreXlat_clock (s : State) (c : Nat) (q : Access) (va : Nat) : clock (coreXlat s c q va).2 = clock s := by
  obtain ⟨p, b, x, e | ⟨l, e⟩⟩ := coreXlat_state s c q va <;> rw [e] <;> rfl

/-! ### The stopped cores (17 R322, R325) -/

theorem settleStop_failed_clock (c : Nat) (e : BitVec 8) (s : State) : clock (settleStop.failed c e s) = clock s := rfl

theorem settleStop_clock (c : Nat) (s : State) : clock (settleStop c s) = clock s := by
  unfold settleStop
  dsimp only
  split
  · rfl
  · have m := coreXlat_clock s c { coreAccess s c with write := true } (s.core c).csr.faultPtr.toNat
    split
    · rename_i pa leaf n s2 hx
      rw [hx] at m
      split
      · exact (settleStop_failed_clock ..).trans m
      · rw [if_neg Bool.false_ne_true]
        split
        · exact (settleStop_failed_clock ..).trans m
        · split
          · exact m
          · exact (writeOut_clock ..).trans m
    · rename_i e s2 hx
      rw [hx] at m
      split
      · exact m
      · exact (settleStop_failed_clock ..).trans m

theorem flushCore_clock (c : Nat) (s : State) : clock (flushCore c s) = clock s := by
  unfold flushCore
  split
  · rfl
  · exact sendHost_clock ..

theorem settleCore_clock (c : Nat) (s : State) : clock (settleCore c s) = clock s := by
  unfold settleCore
  dsimp only
  split
  · rfl
  · split
    · exact flushCore_clock c s
    · exact settleStop_clock c s

@[simp] theorem settleAll_clock (s : State) : clock (settleAll s) = clock s :=
  foldl_field clock (fun s (x : Nat × Core) => settleCore_clock x.1 s) s.cores s

/-- A core without a waiting record has nothing to settle. -/
theorem settleCore_of_no_record {c : Nat} {s : State} (h : (s.core c).record = none) : settleCore c s = s := by
  simp [settleCore, h]

theorem settleAll_of_no_record {s : State} (h : ∀ c, (s.core c).record = none) : settleAll s = s :=
  foldl_id _ _ s (fun x _ => settleCore_of_no_record (h x.1))

/-! ### The crossed domains (12 R255, R256) -/

/-- What no signal of the sync network changes: the clock, memory and the cores. -/
def syncFrame (s : State) : (Nat × TimeState × List Turn) × Memory × Table Core := (clock s, s.mem, s.cores)

@[simp] theorem modSlot_syncFrame (root n : Nat) (f : SyncSlot → SyncSlot) (s : State) :
    syncFrame (s.modSlot root n f) = syncFrame s := rfl

@[simp] theorem sendDown_syncFrame (root n : Nat) (m : SyncDown) (s : State) : syncFrame (sendDown root n m s) = syncFrame s := rfl

@[simp] theorem sendToken_syncFrame (link n kind : Nat) (data : List Word) (s : State) :
    syncFrame (sendToken link n kind data s) = syncFrame s := rfl

@[simp] theorem noteSent_syncFrame (n : Nat) (ks : List Nat) (s : State) : syncFrame (noteSent n ks s) = syncFrame s := rfl

@[simp] theorem toChildren_syncFrame (n kind : Nat) (data : List Word) (s : State) :
    syncFrame (toChildren n kind data s) = syncFrame s :=
  foldl_field syncFrame (fun s l => sendToken_syncFrame l n kind data s) _ s

/-- A domain that breaks tells its members, and its neighbours in the tree, and does no more. -/
theorem breakWith_syncFrame (inc : Option Nat) (root n : Nat) (s : State) : syncFrame (breakWith inc root n s) = syncFrame s := by
  unfold breakWith
  extract_lets x left s1 s2 e kind data s3
  split
  · rfl
  · have h1 : syncFrame s1 = syncFrame s := by
      dsimp only [s1]
      generalize left = o
      cases o <;> rfl
    have h2 : syncFrame s2 = syncFrame s := (sendDown_syncFrame ..).trans ((modSlot_syncFrame ..).trans h1)
    have h3 : syncFrame s3 = syncFrame s := (toChildren_syncFrame ..).trans h2
    split
    · split
      · exact h3
      · exact (sendToken_syncFrame ..).trans h3
    · exact h2

theorem breakCrossed_syncFrame (root n : Nat) (s : State) : syncFrame (breakCrossed root n s) = syncFrame s := by
  unfold breakCrossed
  dsimp only
  split
  · rfl
  · split
    · split
      · rfl
      · rw [noteSent_syncFrame, sendToken_syncFrame]
    · split
      · exact breakWith_syncFrame none root n s
      · rfl

theorem breakAll_syncFrame (s : State) : syncFrame (breakAll s) = syncFrame s :=
  foldl_field syncFrame (fun s (x : Nat × SyncSlot) => breakCrossed_syncFrame (x.1 / 64) (x.1 % 64) s) s.sync s

@[simp] theorem breakAll_clock (s : State) : clock (breakAll s) = clock s := congrArg Prod.fst (breakAll_syncFrame s)

@[simp] theorem breakAll_mem (s : State) : (breakAll s).mem = s.mem := congrArg (·.2.1) (breakAll_syncFrame s)

@[simp] theorem breakAll_core (s : State) (c : Nat) : (breakAll s).core c = s.core c :=
  congrArg (fun f : (Nat × TimeState × List Turn) × Memory × Table Core => tget ({} : Core) f.2.2 c) (breakAll_syncFrame s)

/-! ### The end of a cycle -/

/-- A field that a function of key and value leaves in every value reads the same after the function is applied to a whole table. -/
theorem tget_map_field {β γ : Type} (d : β) (f : Nat → β → β) (g : β → γ) (hf : ∀ k v, g (f k v) = g v) (t : Table β) (n : Nat) :
    g (tget d (t.map (fun x => (x.1, f x.1 x.2))) n) = g (tget d t n) := by
  induction t with
  | nil => rfl
  | cons p r ih =>
    obtain ⟨k, v⟩ := p
    simp only [List.map_cons, tget]
    split
    · rfl
    · split
      · exact hf k v
      · exact ih

/-- The state that `tick` counts on from: the crossed domains have broken, and the stopped cores have settled. -/
def cycleEnd (s : State) : State := settleAll (breakAll s)

theorem cycleEnd_clock (s : State) : clock (cycleEnd s) = clock s := (settleAll_clock _).trans (breakAll_clock s)

/-- Where no record waits, only the domains that break are left to do anything. -/
theorem cycleEnd_of_no_record {s : State} (h : ∀ c, (s.core c).record = none) : cycleEnd s = breakAll s :=
  settleAll_of_no_record (fun c => by rw [breakAll_core, h c])

theorem cycleEnd_mem_of_no_record {s : State} (h : ∀ c, (s.core c).record = none) : (cycleEnd s).mem = s.mem := by
  rw [cycleEnd_of_no_record h, breakAll_mem]

theorem cycleEnd_core_of_no_record {s : State} (h : ∀ c, (s.core c).record = none) (c : Nat) : (cycleEnd s).core c = s.core c := by
  rw [cycleEnd_of_no_record h, breakAll_core]

theorem tick_open {s : State} (h : cycleOpen s = true) : tick s = s := if_pos h

theorem tick_closed {s : State} (h : cycleOpen s = false) : tick s = { cycleEnd s with
    cycle := (cycleEnd s).cycle + 1
    time := { (cycleEnd s).time with count := (cycleEnd s).time.count + (cycleEnd s).time.rate.setWidth 96 }
    cores := (cycleEnd s).cores.map (fun x => (x.1, coreTick (cycleEnd s) x.1 x.2))
    reqs := (cycleEnd s).reqs.map (fun q => if q.home.isNone then { q with home := homeOf (cycleEnd s) q.pa } else q)
    dies := (cycleEnd s).dies.map (fun d => (d.1, dieTick (cycleEnd s) d.2)) } :=
  if_neg (by simp [h])

theorem tick_cycle {s : State} (h : cycleOpen s = false) : (tick s).cycle = s.cycle + 1 := by
  obtain ⟨hc, -, -⟩ := clock_eq_iff.1 (cycleEnd_clock s)
  rw [tick_closed h, hc]

/-- Package time advances by the rate (22 R415). -/
theorem tick_count {s : State} (h : cycleOpen s = false) : (tick s).time.count = s.time.count + s.time.rate.setWidth 96 := by
  obtain ⟨-, ht, -⟩ := clock_eq_iff.1 (cycleEnd_clock s)
  rw [tick_closed h, ht]

theorem tick_agenda {s : State} (h : cycleOpen s = false) : (tick s).agenda = s.agenda := by
  obtain ⟨-, -, ha⟩ := clock_eq_iff.1 (cycleEnd_clock s)
  rw [tick_closed h, ha]

theorem tick_mem {s : State} (h : cycleOpen s = false) : (tick s).mem = (cycleEnd s).mem := by rw [tick_closed h]

theorem tick_pkg {s : State} (h : cycleOpen s = false) : (tick s).pkg = (cycleEnd s).pkg := by rw [tick_closed h]

theorem tick_sync {s : State} (h : cycleOpen s = false) : (tick s).sync = (cycleEnd s).sync := by rw [tick_closed h]

/-- What `coreTick` leaves of every core, the passing of a cycle leaves of every core. -/
theorem tick_core_field {γ : Type} (g : Core → γ) (hg : ∀ s c x, g (coreTick s c x) = g x) {s : State} (h : cycleOpen s = false)
    (c : Nat) : g ((tick s).core c) = g ((cycleEnd s).core c) := by
  rw [tick_closed h]
  exact tget_map_field {} (coreTick (cycleEnd s)) g (hg (cycleEnd s)) _ c

/-! ### A tick as the machine's step -/

theorem step_tick {s : State} {rest : List Turn} (hp : s.pkg.powered = true) (ha : s.agenda = .tick :: rest) :
    step s = .next (tick { s with agenda := rest }) := by
  simp [step, takeTurn, ha, hp, move]

theorem step_tick_unpowered {s : State} {rest : List Turn} (hp : s.pkg.powered = false) (ha : s.agenda = .tick :: rest) :
    step s = .fault .powerOff := by
  simp [step, takeTurn, ha, hp, repowers]

/-- Settles O58: the end of a cycle sets the clock, and `coreTick` leaves what the statement names of every core; where no record waits
the cores settle nothing, and a broken domain touches neither memory nor a core. -/
theorem timePasses : Obligations.TimePasses := by
  intro s rest
  refine ⟨fun hp ha hc => ?closed, fun hp ha hc => ?stillOpen, step_tick_unpowered⟩
  case closed =>
    have same {γ : Type} (g : Core → γ) (hg : ∀ s c x, g (coreTick s c x) = g x) (c : Nat) := tick_core_field g hg hc c
    have quiet (hr : ∀ c, (s.core c).record = none) (c : Nat) : (cycleEnd { s with agenda := rest }).core c = s.core c :=
      cycleEnd_core_of_no_record (s := { s with agenda := rest }) hr c
    refine ⟨tick { s with agenda := rest }, step_tick hp ha, tick_cycle hc, tick_count hc, tick_mem hc, ?strands, ?data,
      tick_pkg hc, tick_sync hc, tick_agenda hc, fun hr => ⟨cycleEnd_mem_of_no_record hr, fun c k => ?quietStrand, fun c => ?quietData⟩⟩
    case strands => exact fun c k => same (·.strand k) (fun _ _ _ => rfl) c
    case data =>
      exact fun c => ⟨same (·.d) (fun _ _ _ => rfl) c, same (·.dq) (fun _ _ _ => rfl) c, same (·.cq) (fun _ _ _ => rfl) c,
        same (·.tok) (fun _ _ _ => rfl) c⟩
    case quietStrand => exact congrArg (·.strand k) (quiet hr c)
    case quietData =>
      exact ⟨congrArg (·.d) (quiet hr c), congrArg (·.dq) (quiet hr c), congrArg (·.cq) (quiet hr c), congrArg (·.tok) (quiet hr c)⟩
  case stillOpen => rw [step_tick hp ha, tick_open hc]

end Sys2Proof.Machine
end

section
/-! PROOFS. Data queues and source fields (01 R16 to R20): the statements `DataQueues` and `SourceValues`. -/

namespace Sys2Proof.Machine

/-! ### Data queues (01 R18, R19) -/

/-- Channels of different strand pairs are different: the writer's number is read off the key, and then the reader's. -/
theorem chan_inj {a b i j : Nat} (hb : b < 4) (hj : j < 4) : chan a b = chan i j ↔ a = i ∧ b = j := by
  unfold chan
  omega

@[simp] theorem dqueue_setDqueue (x : Core) (j i : Nat) (q : List DqEntry) : (x.setDqueue j i q).dqueue j i = q :=
  tget_tput_self _ _ _ _

theorem dqueue_setDqueue_ne (x : Core) {a b j i : Nat} (q : List DqEntry) (h : chan a b ≠ chan j i) :
    (x.setDqueue j i q).dqueue a b = x.dqueue a b :=
  tget_tput_ne _ _ _ h

@[simp] theorem setDqueue_setDqueue (x : Core) (j i : Nat) (p q : List DqEntry) :
    (x.setDqueue j i p).setDqueue j i q = x.setDqueue j i q := by
  simp only [Core.setDqueue, tput_tput]

/-- What strand `i` pushes through qn, strand `i + n` reads through q(4 − n). -/
theorem dist_dist_back {i n : Nat} (hi : i < 4) (h1 : 1 ≤ n) (h3 : n ≤ 3) : dist (dist i n) (4 - n) = i := by
  unfold dist
  omega

/-- A fill goes past the entries of other words to the one that its word reserved. -/
theorem dqFill_append_reserved {seq : Nat} {v : Word} {q : List DqEntry} (h : ∀ e ∈ q, e.seq ≠ seq) :
    dqFill seq v (q ++ [⟨seq, none⟩]) = q ++ [⟨seq, some v⟩] := by
  induction q with
  | nil => simp [dqFill]
  | cons e r ih =>
    obtain ⟨he, hr⟩ := List.forall_mem_cons.1 h
    simp [dqFill, he, ih hr]

/-- A read through q1 to q3 takes the oldest entry of its queue, which must be filled (01 R19). -/
theorem popSrc_port_iff {k : Nat} {r : BitVec 5} {x y : Core} {v : Word} (h : 28 < r.toNat) :
    popSrc k (some r) x = some (v, y) ↔ ∃ e rest, x.dqueue (dist k (r.toNat - 28)) k = e :: rest ∧ e.val = some v ∧
      y = x.setDqueue (dist k (r.toNat - 28)) k rest := by
  have h1 : ¬ r.toNat < 28 := by omega
  have h2 : ¬ r.toNat = 28 := by omega
  simp only [popSrc, h1, h2, if_false]
  cases hq : x.dqueue (dist k (r.toNat - 28)) k with
  | nil => simp
  | cons e rest => cases he : e.val <;> simp [he, eq_comm]

/-- A read through q0 takes the oldest message flit received (01 R20). -/
theorem popSrc_net_iff {k : Nat} {x y : Core} {v : Word} :
    popSrc k (some 28) x = some (v, y) ↔ ∃ rest, x.recv = v :: rest ∧ y = { x with recv := rest } := by
  cases hq : x.recv <;> simp [popSrc, hq, eq_comm]

/-- The field that names qn, n from 1 to 3, is 28 + n. -/
theorem toNat_port {n : Nat} (h1 : 1 ≤ n) (h3 : n ≤ 3) : (BitVec.ofNat 5 (28 + n)).toNat = 28 + n := by
  rw [BitVec.toNat_ofNat]
  omega

/-- The reader's side of a data queue: strand `i + n` reads through q(4 − n) what strand `i` has pushed through qn. -/
theorem popSrc_back_iff {i n : Nat} {x y : Core} {v : Word} (hi : i < 4) (h1 : 1 ≤ n) (h3 : n ≤ 3) :
    popSrc (dist i n) (some (BitVec.ofNat 5 (32 - n))) x = some (v, y) ↔
      ∃ e rest, x.dqueue i (dist i n) = e :: rest ∧ e.val = some v ∧ y = x.setDqueue i (dist i n) rest := by
  have hr : (BitVec.ofNat 5 (32 - n)).toNat = 28 + (4 - n) := by
    rw [BitVec.toNat_ofNat]
    omega
  rw [popSrc_port_iff (by omega), hr, Nat.add_sub_cancel_left, dist_dist_back hi h1 h3]

/-- Settles O59: a push appends to the queue that the reader's port names, a pop takes its head, and no other queue has its key. -/
theorem dataQueues : Obligations.DataQueues := by
  intro c i n cyc seq rot sendto v x j q y z hi h1 h3
  have hpop {u : Word} {p : Core} := popSrc_back_iff (x := x) (y := p) (v := u) hi h1 h3
  have none_of (h : ∀ u p, popSrc j (some (BitVec.ofNat 5 (32 - n))) x ≠ some (u, p)) :
      popSrc j (some (BitVec.ofNat 5 (32 - n))) x = none := Option.eq_none_iff_forall_ne_some.2 (fun o => h o.1 o.2)
  refine ⟨?named, ?room, fun hq => ?filled, fun r hq hr => none_of ?empty, fun e r hq he => none_of ?unfilled,
    fun e r o hq he => ?popped⟩
  case named =>
    have hn := toNat_port h1 h3
    simp only [dstOf, hn, show ¬ 28 + n < 28 by omega, show ¬ 28 + n = 28 by omega, if_false, Nat.add_sub_cancel_left]
    rfl
  case room => simp [dstRoom, q]
  case filled => simp [z, y, writeDst, reserve, dqFill_append_reserved hq, q]
  case empty =>
    rintro u p hp
    obtain ⟨e, rest, he, -⟩ := hpop.1 hp
    exact absurd (he.symm.trans (hq.trans hr)) (by simp)
  case unfilled =>
    rintro u p hp
    obtain ⟨e', rest, he', hv, -⟩ := hpop.1 hp
    cases he'.symm.trans hq
    simp [he] at hv
  case popped =>
    refine ⟨_, hpop.2 ⟨e, r, hq, he, rfl⟩, dqueue_setDqueue .., rfl, fun a b hab _ hb => dqueue_setDqueue_ne _ _ ?_⟩
    have hj : dist i n < 4 := Nat.mod_lt _ (by omega)
    rw [Ne, chan_inj hb hj]
    exact fun h => hab (Prod.ext h.1 h.2)

/-! ### Source fields (01 R16 to R20) -/

/-- The value of a field that is absent, is s0, or names a register: no pop before it has changed the strand's registers. -/
theorem popSrc_value {k : Nat} {f : Option (BitVec 5)} {x x' y : Core} {v : Word} (hs : x'.strands = x.strands)
    (h : popSrc k f x' = some (v, y)) :
    (f = none → v = 0) ∧ (f = some 0 → v = 0) ∧
      ∀ r : BitVec 5, r.toNat < 28 → f = some r → v = (x.strand k).reg (physReg (x.strand k).rotBase r.toNat) := by
  have hk : x'.strand k = x.strand k := congrArg (fun t => tget ({} : Strand) t k) hs
  have hreg {r : BitVec 5} (hr : r.toNat < 28) (hf : f = some r) :
      v = (x.strand k).reg (physReg (x.strand k).rotBase r.toNat) := by
    rw [hf, popSrc_reg x' hr, hk] at h
    cases h
    rfl
  refine ⟨?absent, fun hf => (hreg (by decide) hf).trans (reg_zero _), fun r => hreg⟩
  case absent =>
    rintro rfl
    cases h
    rfl

/-- Settles O5: the three fields are read in the order a, b, d, and a pop changes no register. -/
theorem sourceValues : Obligations.SourceValues := by
  intro i s w y hg hh p o x reg
  obtain ⟨-, -, -, -, -, -, -, -, -, va, vb, vd, hp, rfl, -⟩ := (goes_iff hh).1 hg
  obtain ⟨x1, x2, ha, hb, hd⟩ := popSrcs_iff.1 hp
  obtain ⟨a0, az, ar⟩ := popSrc_value rfl ha
  obtain ⟨b0, bz, br⟩ := popSrc_value (popSrc_strands ha) hb
  obtain ⟨d0, dz, dr⟩ := popSrc_value ((popSrc_strands hb).trans (popSrc_strands ha)) hd
  refine ⟨a0, b0, d0, az, bz, dz, fun r hr => ⟨ar r hr, br r hr, dr r hr⟩, fun hf => ?net, fun r hr hf => ?port⟩
  case net =>
    rw [show (specOf i).a = some 28 from hf, popSrc_net_iff] at ha
    obtain ⟨rest, hrecv, -⟩ := ha
    exact ⟨rest, hrecv⟩
  case port =>
    rw [show (specOf i).a = some r from hf, popSrc_port_iff hr] at ha
    obtain ⟨e, rest, hq, he, -⟩ := ha
    exact ⟨e, rest, hq, he⟩

end Sys2Proof.Machine
end

section
/-! PROOFS. The ends of issue (01 R26 to R29, 02 R46): the statements `IssueOutcomes` and `RolesTrap`. -/

namespace Sys2Proof.Machine

/-! ### The gate of issue (01 R26, R29, 02 R46) -/

section Gate

variable {i : Instr} {s : State} {c k : Nat} {p : WordSpec}

/-- A strand that is active and in no pause, with a word that is no hint, meets the checks of rows 2, 4 and 5. -/
theorem gate_early (ha : (s.strand c k).active = true) (hp : (s.strand c k).pauseEnd ≤ s.cycle) (hh : p.hint = false) {e : Trap}
    (he : earlyTrap (s.core c) k p = some e) : gate c k i p s = .stop e := by
  have ha' : ((s.core c).strand k).active = true := ha
  have hp' : ¬ s.cycle < ((s.core c).strand k).pauseEnd := Nat.not_lt.2 hp
  simp [gate, ha', hp', hh, he]

/-- A word past those checks, and not nullified, meets the others. -/
theorem gate_open (ha : (s.strand c k).active = true) (hp : (s.strand c k).pauseEnd ≤ s.cycle) (hh : p.hint = false)
    (he : earlyTrap (s.core c) k p = none) (hn : nullified (s.strand c k) p = false) : gate c k i p s = gateWord c k i p s := by
  have ha' : ((s.core c).strand k).active = true := ha
  have hp' : ¬ s.cycle < ((s.core c).strand k).pauseEnd := Nat.not_lt.2 hp
  have hn' : nullified ((s.core c).strand k) p = false := hn
  simp [gate, ha', hp', hh, he, hn']

theorem gate_idle (ha : (s.strand c k).active = false) : gate c k i p s = .idle := by
  have ha' : ((s.core c).strand k).active = false := ha
  simp [gate, ha']

theorem gate_paused (ha : (s.strand c k).active = true) (hp : s.cycle < (s.strand c k).pauseEnd) : gate c k i p s = .block .pause := by
  have ha' : ((s.core c).strand k).active = true := ha
  have hp' : s.cycle < ((s.core c).strand k).pauseEnd := hp
  simp [gate, ha', hp']

/-- The owner of q0 or of cq that an earlier word still has to write comes before the checks that read it (03 R82). -/
theorem gateWord_owner (hw : i.wf = true) (ho : ownerWait (s.strand c k) p = true) : gateWord c k i p s = .block .hold := by
  have ho' : ownerWait ((s.core c).strand k) p = true := ho
  simp [gateWord, hw, ho']

/-- What blocks a word comes after its checks, but for its own where a CSR that they read is still to be written (03 R82). -/
theorem gateWord_block (ho : ownerWait (s.strand c k) p = false) (hl : lateTrap s c k i p = none)
    (hc : csrWait (s.strand c k) p = true ∨ ownTrap c k i p s = none) {b : Block} (hb : blockOf (s.core c) k p = some b) :
    gateWord c k i p s = .block b := by
  have ho' : ownerWait ((s.core c).strand k) p = false := ho
  have hown : (if csrWait ((s.core c).strand k) p = true then none else ownTrap c k i p s) = none := ite_eq_left_iff.2 hc.resolve_left
  simp [gateWord, ho', hl, hown, hb]

/-- A word that the gate blocks only leaves its mark on the strand. -/
theorem issueWord_blocks {b : Block} (h : gate s.cur.1 s.cur.2 i p s = .block b) :
    issueWord i p s = s.modStrand s.cur.1 s.cur.2 (fun u => { u with st := .blocked, reason := some b, issueAt := none }) := by
  simp only [issueWord, h]

end Gate

/-- Settles O45: each outcome is one end of the gate. -/
theorem issueOutcomes : Obligations.IssueOutcomes := by
  intro i s c k t hw hh
  rw [exec_word hw]
  refine ⟨fun ha => ?idle, fun ha hp => ?paused, fun e he => ?stopped, fun ha hp he hn hwf ho => ?owner,
    fun b ha hp he hn ho hl hc hb => ?blocked, fun w y hg hr hq => ?queued⟩
  case idle => simp only [issueWord, gate_idle (c := s.cur.1) (k := s.cur.2) ha]
  case paused => rw [issueWord_blocks (gate_paused ha hp)]
  case stopped => rw [issueWord_stops he]
  case owner => rw [issueWord_blocks ((gate_open ha hp hh he hn).trans (gateWord_owner hwf ho))]
  case blocked => rw [issueWord_blocks ((gate_open ha hp hh he hn).trans (gateWord_block ho hl hc hb))]
  case queued => exact congrArg _ (issueWord_queues hg hh hr hq)

/-! ### Roles (01 R26) -/

/-- A word of another strand's role traps 0x01, before any other check of 02 R46. -/
theorem earlyTrap_of_role {x : Core} {k : Nat} {p : WordSpec} (h : k ∉ p.strands) : earlyTrap x k p = some (issueTrap 0x01) := by
  simp [earlyTrap, h]

/-- Settles O43: the specification of each word lists the strands of its role. -/
theorem rolesTrap : Obligations.RolesTrap := by
  intro i s t roles hw hh ha hp hk
  have hroles : (specOf i).strands = roles := by cases i <;> rfl
  have hstop : stops i s = some (issueTrap 0x01) := by
    rw [stops, gate_early ha hp hh (earlyTrap_of_role (hroles ▸ hk))]
  rw [exec_word hw, issueWord_stops hstop]

end Sys2Proof.Machine
end

section
/-! PROOFS. A strand's turn (01 R14, R15, R26, 02 R46 rows 1 to 3): what the fetch comes to, and the statements `FetchTraps` and
`StepRunsDecoded`. -/

namespace Sys2Proof.Machine

/-! ### The fetch, case by case -/

/-- Strand `k` of core `c` may take its turn: it is a strand of the package, is active and in no pause, has not had its turn in this cycle,
and neither a freeze (05 R119), a pre-emption (17 R332) nor the end of its node (17 R326) stops its core. -/
structure TurnOpen (s : State) (c k : Nat) : Prop where
  die : c / 256 < 8
  cluster : c / 16 % 16 < 12
  strand : k < 4
  active : ((s.core c).strand k).active = true
  thawed : (s.core c).frozen s.cycle = false
  kept : preempting s c = false
  goesOn : (s.core c).ending = none
  turn : (s.core c).mayIssue s.cycle k = true
  unpaused : ((s.core c).strand k).pauseEnd ≤ s.cycle

section Fetch

variable {s : State} {c k : Nat}

/-- Past the end of the section a strand blocks until the section's last word has retired, and then traps 0x05 (01 R15). -/
theorem fetch_past (o : TurnOpen s c k) (hp : 0x4000 ≤ ((s.core c).strand k).pc.toNat) :
    fetch c k s = if lastWordQueued ((s.core c).strand k)
      then .rest (s.modStrand c k (fun t => { t with st := .blocked, reason := some .hold, issueAt := none }))
      else .rest (takeFault c k (issueTrap 0x05) 0 ((s.core c).strand k).pc none s) := by
  simp [fetch, o.die, o.cluster, o.strand, o.active, o.thawed, o.kept, o.goesOn, o.turn, Nat.not_lt.2 o.unpaused, hp]

/-- An uncorrectable error in the word at the pc traps 0x08 (01 R15). -/
theorem fetch_bad (o : TurnOpen s c k) (hp : ((s.core c).strand k).pc.toNat < 0x4000)
    (hb : k * 0x1000 + ((s.core c).strand k).pc.toNat / 4 ∈ (s.core c).codeBad) :
    fetch c k s = .rest
      (takeFault c k (issueTrap 0x08) (codeWord (s.core c) k ((s.core c).strand k).pc) ((s.core c).strand k).pc none s) := by
  simp [fetch, o.die, o.cluster, o.strand, o.active, o.thawed, o.kept, o.goesOn, o.turn, Nat.not_lt.2 o.unpaused, Nat.not_le.2 hp, hb]

/-- The word at the pc, whole, is an instruction. -/
theorem fetch_decoded (o : TurnOpen s c k) (hp : ((s.core c).strand k).pc.toNat < 0x4000)
    (hb : k * 0x1000 + ((s.core c).strand k).pc.toNat / 4 ∉ (s.core c).codeBad) {i : Instr}
    (hd : decode (codeWord (s.core c) k ((s.core c).strand k).pc) = .ok i) : fetch c k s = .word i := by
  simp [fetch, o.die, o.cluster, o.strand, o.active, o.thawed, o.kept, o.goesOn, o.turn, Nat.not_lt.2 o.unpaused, Nat.not_le.2 hp, hb, hd]

/-- The word at the pc, whole, is none. -/
theorem fetch_rejected (o : TurnOpen s c k) (hp : ((s.core c).strand k).pc.toNat < 0x4000)
    (hb : k * 0x1000 + ((s.core c).strand k).pc.toNat / 4 ∉ (s.core c).codeBad) {r : Reject}
    (hd : decode (codeWord (s.core c) k ((s.core c).strand k).pc) = .error r) :
    fetch c k s = rejected c k (codeWord (s.core c) k ((s.core c).strand k).pc) r s := by
  simp [fetch, o.die, o.cluster, o.strand, o.active, o.thawed, o.kept, o.goesOn, o.turn, Nat.not_lt.2 o.unpaused, Nat.not_le.2 hp, hb, hd]

/-- Has a word at the end of the section issued and not retired? -/
theorem lastWordQueued_iff {t : Strand} : lastWordQueued t = true ↔ ∃ v ∈ t.words, v.pc = 0x3FFC := by
  simp [lastWordQueued]

end Fetch

/-! ### The steps that the agenda names -/

section Turn

variable {s : State} {c k : Nat} {now : Bool} {rest : List Turn}

theorem step_move {t : Turn} (hp : s.pkg.powered = true) (ha : s.agenda = t :: rest) : step s = move t { s with agenda := rest } := by
  simp [step, takeTurn, ha, hp]

/-- Where the agenda is empty, the surroundings choose. -/
theorem step_chosen (hp : s.pkg.powered = true) (ha : s.agenda = []) :
    step s = move (Config.nextTurn s.free) { s with free := s.free + 1 } := by
  simp [step, takeTurn, ha, hp]

theorem move_rest {u : State} (hf : fetch c k s = .rest u) : move (.strand c k now) s = .next u := by simp [move, hf]

theorem move_word {i : Instr} (hf : fetch c k s = .word i) : move (.strand c k now) s = exec i { s with cur := (c, k), now := now } := by
  simp [move, hf]

theorem move_event {i : Instr} (hw : i.isWord = false) (hf : i.wf = true) : move (.event i) s = exec i { s with now := false } := by
  simp [move, hw, hf]

end Turn

/-- Settles O41: each clause is one case of the fetch, in a state that differs from the step's by its agenda alone. -/
theorem fetchTraps : Obligations.FetchTraps := by
  intro s c k now rest x t w u hp ha hd hcl hk hact hfr hpre hend hmay hpause
  have o : TurnOpen u c k := ⟨hd, hcl, hk, hact, hfr, hpre, hend, hmay, hpause⟩
  have rests {v : State} (hf : fetch c k u = .rest v) : step s = .next v := (step_move hp ha).trans (move_rest hf)
  refine ⟨fun hpc hv => ?past, fun hpc hv => ?lastWord, fun hpc hb => rests (fetch_bad o hpc hb), fun hpc hb => ?noInstruction⟩
  case past =>
    have hl : ¬ lastWordQueued t = true := by
      rw [lastWordQueued_iff]
      exact fun ⟨v, hm, e⟩ => hv v hm e
    exact rests ((fetch_past o hpc).trans (if_neg hl))
  case lastWord => exact rests ((fetch_past o hpc).trans (if_pos (lastWordQueued_iff.2 hv)))
  case noInstruction =>
    have rej {r : Reject} (hr : decode w = .error r) : fetch c k u = rejected c k w r u := fetch_rejected o hpc hb hr
    refine ⟨fun hr => rests (rej hr), fun near hr => rests (rej hr), fun near hr => ⟨fun e he => ?early, fun he hn => ?operand⟩⟩
    case early =>
      refine rests ((rej hr).trans ?_)
      simp only [rejected, show earlyTrap (u.core c) k (specOf near) = some e from he]
      rfl
    case operand =>
      refine rests ((rej hr).trans ?_)
      simp only [rejected, show earlyTrap (u.core c) k (specOf near) = none from he,
        show nullified ((u.core c).strand k) (specOf near) = false from hn]
      rfl

/-- Settles O40: taking a turn changes the agenda or the count of free values, of which the fetch reads neither. -/
theorem stepRunsDecoded : Obligations.StepRunsDecoded := by
  intro s c k now i rest x t hp
  refine ⟨?strand, fun hw hf ha => ?event⟩
  case strand =>
    intro hd hcl hk hact hfr hpre hend hmay hpause hpc hb a hi
    refine ⟨fun ha => ?named, fun ha hn => ?chosen⟩
    case named =>
      have o : TurnOpen { s with agenda := rest } c k := ⟨hd, hcl, hk, hact, hfr, hpre, hend, hmay, hpause⟩
      exact (step_move hp ha).trans (move_word (fetch_decoded o hpc hb hi))
    case chosen =>
      have o : TurnOpen { s with free := s.free + 1 } c k := ⟨hd, hcl, hk, hact, hfr, hpre, hend, hmay, hpause⟩
      rw [step_chosen hp ha, hn]
      exact move_word (fetch_decoded o hpc hb hi)
  case event => exact (step_move hp ha).trans (move_event hw hf)

end Sys2Proof.Machine
end

section
/-! PROOFS. The engines (01 R27, R31, 05 R124): starts, runs and retirements of queued words, and the statement `EngineEventsAct`. -/

namespace Sys2Proof.Machine

section Engine

variable {c k : Nat} {e : Engine} {s : State} {w : QWord}

/-- A word that races no other runs its body, served by its engine, where no register of the shared files holds an error. -/
theorem serveRun_of_intact {p : WordSpec} (hr : racing (s.core c) k p w = false) (hb : (s.core c).d.regBad = [])
    {u : State} {v : Word} {b : Bool} (hd : p.body c k w (serveStrand c k p.engine s) = .done u v b) :
    serveRun c k p w s = .done u v b := by
  simp [serveRun, hr, runBody, serveStrand_regBad, hb, hd]

/-- It stops with 0x08 where a register that it reads holds an error (05 R124). -/
theorem serveRun_of_bad {p : WordSpec} (hr : racing (s.core c) k p w = false)
    (hb : (readsOf w).any (fun r => (s.core c).d.regBad.contains r.key) = true) :
    serveRun c k p w s = .trap (runTrap 0x08) w (serveStrand c k p.engine s) := by
  have hne : (s.core c).d.regBad.isEmpty = false := by
    obtain ⟨r, -, hr⟩ := List.any_eq_true.1 hb
    cases h : (s.core c).d.regBad with
    | nil => simp [h] at hr
    | cons a l => rfl
  simp only [serveRun, hr, runBody, serveStrand_regBad, hne, hb, Bool.false_eq_true, if_false, if_true]

/-- In a core that goes on, the engine first runs on what it has begun, and then starts the next word. -/
theorem exec_engineWordStart (hf : (s.core c).frozen s.cycle = false) (ha : (s.core c).faultAbove s.cycle k = false) :
    exec (.engineWordStart c k e) s = .next (startWord c k e (continueWord c k e s)) := by
  have h : engineStartEv c k e s = startWord c k e (continueWord c k e s) := by simp [engineStartEv, hf, ha]
  exact congrArg _ h

/-- Nothing begun can go on. -/
theorem continueWord_none (h : (((s.core c).strand k).queue e).find? (fun z => z.phase = .started && z.req = 0) = none) :
    continueWord c k e s = s := by
  simp only [continueWord, h, ite_self]

/-- A begun word of Q, W or Y goes on (13 R274: one of W only while nothing stops its strand). -/
theorem continueWord_some (he : e = .q ∨ e = .w ∨ e = .y)
    (hw : e = .w → ((s.core c).strand k).st ≠ .faulted ∧ preempting s c = false)
    (h : (((s.core c).strand k).queue e).find? (fun z => z.phase = .started && z.req = 0) = some w) :
    continueWord c k e s = settleQueued c k e w (serveRun c k (specOf w.i) w s) := by
  have hp : polled e = true := by rcases he with rfl | rfl | rfl <;> rfl
  have hg : (e = .w && (((s.core c).strand k).st = .faulted || preempting s c)) = false := by
    by_cases hew : e = .w
    · obtain ⟨h1, h2⟩ := hw hew
      simp [h1, h2]
    · simp [hew]
  simp only [continueWord, hp, hg, h, Bool.not_true, Bool.or_false, Bool.false_eq_true, if_false]

/-- No word is left to start. -/
theorem startWord_none (h : (((s.core c).strand k).queue e).find? (fun z => z.phase = .queued) = none) : startWord c k e s = s := by
  simp only [startWord, h]

/-- The first queued word starts where it may, and what its run comes to is settled: not a wait here. -/
theorem startWord_some (h : (((s.core c).strand k).queue e).find? (fun z => z.phase = .queued) = some w)
    (hp : preempting s c = false) (hs : startReady (s.core c) k e w = true) (ht : turnOf c k e s = true)
    (hl : (specOf w.i).late = false) {r : Run} (hr : serveRun c k (specOf w.i) w s = r) (hnw : ∀ w' t, r ≠ .wait w' t) :
    startWord c k e s = settleQueued c k e w r := by
  cases r with
  | wait w' t => exact absurd rfl (hnw w' t)
  | _ => simp only [startWord, h, hp, hs, ht, hl, hr, Bool.and_self, Bool.not_true, Bool.or_self, Bool.false_eq_true, if_false]

/-- The queue of a word that has been put back. -/
theorem queue_putWord (w : QWord) (s : State) : (((putWord c k e w s).core c).strand k).queue e =
    (((s.core c).strand k).queue e).map (fun z => if z.seq = w.seq then w else z) := by
  simp [putWord, Strand.modWord]

/-- The finished word at the head of its queue retires (01 R31): one that does not act at its retirement has its result already. -/
theorem exec_wordRetire (hq : (((s.core c).strand k).queue e).head? = some w) (hr : retirable s c k e = true)
    (hl : (specOf w.i).late = false) :
    exec (.wordRetire c k e) s = .next (complete c k (specOf w.i) w w.res w.bit (s.modStrand c k (fun t => t.dropWord e w.seq))) := by
  obtain ⟨r, hq⟩ := List.head?_eq_some_iff.1 hq
  have h : retireEv c k e s = complete c k (specOf w.i) w w.res w.bit (s.modStrand c k (fun t => t.dropWord e w.seq)) := by
    simp only [retireEv, hq, hr, hl, Bool.not_true, Bool.false_eq_true, if_false]
  exact congrArg _ h

/-- A late word acts at its retirement (03 R83). -/
theorem exec_wordRetire_late (hq : (((s.core c).strand k).queue e).head? = some w) (hr : retirable s c k e = true)
    (hl : (specOf w.i).late = true) {u : State} {v : Word} {b : Bool} (hd : (specOf w.i).body c k w s = .done u v b) :
    exec (.wordRetire c k e) s = .next (complete c k (specOf w.i) w v b (u.modStrand c k (fun t => t.dropWord e w.seq))) := by
  obtain ⟨r, hq⟩ := List.head?_eq_some_iff.1 hq
  have h : retireEv c k e s = complete c k (specOf w.i) w v b (u.modStrand c k (fun t => t.dropWord e w.seq)) := by
    simp only [retireEv, hq, hr, hl, hd, Bool.not_true, Bool.false_eq_true, if_false, if_true]
  exact congrArg _ h

end Engine

/-- Settles O26: a start finds nothing begun and runs the first queued word; a word that runs on is alone in its queue, so nothing starts
after it; a retirement is one case of `retireEv`. -/
theorem engineEventsAct : Obligations.EngineEventsAct := by
  intro c k e s u w v b x q served mayStart mayRetire hf ha
  refine ⟨?starts, ?stops, ?runsOn, fun ⟨hq, hr⟩ hl => exec_wordRetire hq hr hl, fun ⟨hq, hr⟩ hl hd => exec_wordRetire_late hq hr hl hd⟩
  case starts =>
    rintro ⟨hnone, hfirst, hpre, hready, hturn, hlate, hrace⟩ hb hd
    rw [exec_engineWordStart hf ha, continueWord_none hnone,
      startWord_some hfirst hpre hready hturn hlate (serveRun_of_intact hrace hb hd) (by simp)]
    rfl
  case stops =>
    rintro ⟨hnone, hfirst, hpre, hready, hturn, hlate, hrace⟩ hb
    rw [exec_engineWordStart hf ha, continueWord_none hnone,
      startWord_some hfirst hpre hready hturn hlate (serveRun_of_bad hrace hb) (by simp)]
    rfl
  case runsOn =>
    intro he hl hq hph hreq hb hw hd hu
    have hrace : racing x k (specOf w.i) w = false := by simp [racing, hl]
    have hgo : q.find? (fun z => z.phase = .started && z.req = 0) = some w := by simp [hq, hph, hreq]
    rw [exec_engineWordStart hf ha, continueWord_some he hw hgo, serveRun_of_intact hrace hb hd]
    refine congrArg _ (startWord_none ?_)
    simp only [settleQueued, queue_putWord, hu, hq, List.map_cons, List.map_nil, if_true]
    rfl

end Sys2Proof.Machine
end

section
/-! PROOFS. The life of a node (01 R30, 16 R312 to R316, 17 R332 to R334, 23 R428, R429): the statement `NodeEventsAct`. -/

namespace Sys2Proof.Machine

section Node

variable {s : State} {r : NodeRef} {n : Node} {l : Launch}

/-! ### What a dispatch reads, for a unit that is one tile (23 R428, 16 R455) -/

/-- The argument blocks of a tile that is its own unit. -/
theorem unitArgs_tile (hk : n.kind = .tile) {args : List Byte} (ha : objRead s l.reads n.arg.toNat 64 = .ok args) :
    unitArgs s l [(r, n)] = [((r, n), .ok args)] := by
  simp only [unitArgs, List.map_cons, List.map_nil, hk, if_true, ha]

/-- A dispatch whose reads have all been answered waits for nothing. -/
theorem dispatchWaits_tile (hk : n.kind = .tile) (hr : n.replay = false) {v : Nat} {b args : List Byte} (hv : stampOf s l = .ok v)
    (hb : objWith s l.reads l.object.toNat objMaps = .ok b) (ha : objRead s l.reads n.arg.toNat 64 = .ok args) :
    dispatchWaits s l [(r, n)] = false := by
  simp [dispatchWaits, SumRes.waits, unitArgs_tile hk ha, hv, hb, hr]

/-- What the dispatch of such a tile comes to: the launch ends with 0x02 where its object is not loaded at its first dispatch (23 R428), and
otherwise every core of the tile takes its state (01 R30). -/
theorem dispatchEv_tile (hn : nodeOf s r = some n) (hl : launchOf s r = some l) (hs : n.st = .placed) (hd : n.ctxDue ≤ s.cycle)
    (hu : unitOf s r = [(r, n)]) (hk : n.kind = .tile) (hr : n.replay = false) {v : Nat} {b args : List Byte} (hv : stampOf s l = .ok v)
    (hb : objWith s l.reads l.object.toNat objMaps = .ok b) (ha : objRead s l.reads n.arg.toNat 64 = .ok args) :
    dispatchEv r s = if l.fresh && v ≠ 1 then abortLaunch r.die r.launch 0x02 (dropAsks l.reads.own s)
      else wake r.die (bindPorts ((n.cores_.foldl (fun s c =>
        s.modCore c (dispatchCore r l n (wordsOf args) (argMap b (objHeader b)))) (dropAsks l.reads.own s)).modNode r
          (fun n => { n with st := .running, fireAt := none }))) := by
  have hguard : (n.st ≠ .placed || decide (s.cycle < n.ctxDue)) = false := by simp [hs, hd]
  have hreplay : ([(r, n)].any (fun x => x.2.replay) && !poolOk s l) = false := by simp [hr]
  simp only [dispatchEv, hn, hl, hguard, hu, dispatchWaits_tile hk hr hv hb ha, hv, hb, unitArgs_tile hk ha, hreplay, Bool.false_eq_true,
    if_false]
  rfl

/-! ### Pre-emption and the end of a node (17 R324, R332) -/

/-- A node of which no core has been stopped for good ends with no code. -/
theorem deadCode_none (h : ∀ c ∈ n.cores_, (s.core c).ending = none) : deadCode s n = none :=
  List.findSome?_eq_none_iff.2 (fun c hc => by rw [h c hc])

/-- The halt lines of a running tile have been up long enough (16 R316): it completes, once what its cores sent out is acknowledged. -/
theorem haltTreeEv_tile (hn : nodeOf s r = some n) (hk : n.kind = .tile) (hs : n.st = .running)
    (he : ∀ c ∈ n.cores_, (s.core c).ending = none) (hf : ∃ t, n.fireAt = some t ∧ t ≤ s.cycle) :
    haltTreeEv r s = if canComplete s r n then completeNode r s else n.cores_.foldl (fun s c => flushCore c s) s := by
  obtain ⟨t, ht, hle⟩ := hf
  simp [haltTreeEv, hn, deadCode_none he, hk, hs, ht, hle]

end Node

/-- Settles O32: each clause is one path through its event, whose guards the clause's premises decide. -/
theorem nodeEventsAct : Obligations.NodeEventsAct := by
  intro die launch node s n l r u t hn hl
  refine ⟨fun hs hage => ?aging, fun b hs hab hnext hcl htext => ?rewrite, fun v hpool hlive => ?place, ?dispatch, ?decision,
    fun c hs hdue hc hfr hpre hend hrec => ?signal, ?saved, fun hs => ?resume, fun hk hs hend hfire => ?complete⟩
  case aging =>
    refine congrArg Host.Outcome.next (?_ : agingEv r s = _)
    have hdue : agingDue s n = true := by simpa [agingDue, hs] using hage
    simp only [agingEv, hn, hdue, if_true]
  case rewrite =>
    refine congrArg Host.Outcome.next (?_ : textRewriteEv r s = _)
    have hguard : (n.st ≠ .ready || l.abort.isSome || !isNext s r) = false := by simp [hs, hab, hnext]
    have hallowed : (unitOf s r).any (fun x => !clustersAllowed s l x.2) = false := by simpa [u] using hcl
    simp only [textRewriteEv, hn, hl, hguard, hallowed, show unitText s l (unitOf s r) = .ok b from htext, Bool.false_eq_true, if_false]
    rfl
  case place =>
    refine congrArg Host.Outcome.next (?_ : nodePlaceEv die s = _)
    simp only [nodePlaceEv, hpool, show liveUnit l (unitOf s r) s = (.ok v, none) from hlive]
    rfl
  case dispatch =>
    intro b args v hs hdue hu hk hr hv hb ha
    have hev := dispatchEv_tile hn hl hs hdue hu hk hr hv hb ha
    refine ⟨fun hf => congrArg Host.Outcome.next (hev.trans (if_neg ?loaded)),
      fun hf hne => congrArg Host.Outcome.next (hev.trans (if_pos ?notLoaded))⟩
    case loaded =>
      rw [Bool.and_eq_true, decide_eq_true_eq, not_and, not_not]
      exact fun hfresh => hf.resolve_left (by simp [hfresh])
    case notLoaded => simp [hf, hne]
  case decision =>
    intro occ hs hall hrun hpre
    refine congrArg Host.Outcome.next (?_ : preemptDecisionEv r s = _)
    have hguard : ((n.st = .ready || n.st = .saved) && u.all (fun x => x.2.st = n.st) && occ.any (fun x => x.2.2.st = .running)
        && occ.all (fun x => preemptible s x && decide (effPrio s (prioFuel s) x.1 < effPrio s (prioFuel s) r))) = true := by
      simp only [Bool.and_eq_true, Bool.or_eq_true, decide_eq_true_eq, List.all_eq_true, List.any_eq_true]
      exact ⟨⟨⟨hs, hall⟩, hrun⟩, hpre⟩
    simp only [preemptDecisionEv, hn]
    exact if_pos hguard
  case signal =>
    refine congrArg Host.Outcome.next (?_ : preemptSignalEv r s = _)
    have hguard : (n.st ≠ .saving || decide (s.cycle < n.ctxDue)) = false := by simp [hs, hdue]
    have hcore : ((s.core c).frozen s.cycle || (s.core c).preempt || (s.core c).ending.isSome || (s.core c).record.isSome) = false := by
      simp [hfr, hpre, hend, hrec]
    simp only [preemptSignalEv, hn, hguard, hc, List.foldl_cons, List.foldl_nil, hcore, Bool.false_eq_true, if_false]
  case saved =>
    intro cs v hs hfire hsav
    refine congrArg Host.Outcome.next (?_ : contextSavedEv r s = _)
    simp only [contextSavedEv, hn, hs, ne_eq, not_true_eq_false, if_false]
    refine if_neg ?_
    rw [Bool.or_eq_true, Bool.not_eq_true', Bool.not_eq_true', List.all_eq_false, List.all_eq_false]
    rintro (⟨c, hc, hbad⟩ | ⟨x, hx, hbad⟩)
    · exact hbad (hsav c hc)
    · obtain ⟨t, ht, hle⟩ := hfire x hx
      simp only [ht] at hbad
      exact hbad (decide_eq_true hle)
  case resume =>
    refine congrArg Host.Outcome.next (?_ : nodeResumeEv r s = _)
    simp only [nodeResumeEv, hn, hl, hs, if_true]
    rfl
  case complete =>
    have hev := haltTreeEv_tile hn hk hs hend hfire
    exact ⟨fun hc => congrArg Host.Outcome.next (hev.trans (if_pos hc)),
      fun hc => congrArg Host.Outcome.next (hev.trans (if_neg (by simp [hc])))⟩

end Sys2Proof.Machine
end

section
/-! PROOFS. Plain scalar words (01 R16, 03 R60 to R69): what each does on one of a core's four strands, and the refutation of
`PlainWordEffect`, which does not say that the strand is one of the four. -/

namespace Sys2Proof.Machine

/-! ### A strand that stands ready, and a plain word -/

/-- The strand that `s` names stands ready: it is one of the four (01 R13), may issue, and nothing that came before is left to wait for. -/
structure StandsReady (s : State) : Prop where
  strand : s.cur.2 < 4
  now : s.now = true
  active : (s.strand s.cur.1 s.cur.2).active = true
  unpaused : (s.strand s.cur.1 s.cur.2).pauseEnd ≤ s.cycle
  uncovered : (s.strand s.cur.1 s.cur.2).cover = 0
  noLoop : (s.strand s.cur.1 s.cur.2).loop = none
  noWord : (s.strand s.cur.1 s.cur.2).words = []
  notStopped : (s.strand s.cur.1 s.cur.2).stopSeq = none
  unfixed : (s.strand s.cur.1 s.cur.2).issueAt = none
  unfixedX : ((s.core s.cur.1).strand 3).issueAt = none
  intact : (s.strand s.cur.1 s.cur.2).bad = []
  intactFiles : (s.core s.cur.1).d.regBad = []
  room : ∀ i < 4, (s.core s.cur.1).tokens s.cur.2 i ≤ 15

/-- A field that names no queue port (01 R17). -/
def NoPort (f : Option (BitVec 5)) : Prop := ∀ r, f = some r → r.toNat < 28

/-- A plain word of X: any strand may issue it, its fields name registers, and it uses nothing of the core's besides scratch and CSRs. -/
structure PlainSpec (p : WordSpec) : Prop where
  engine : p.engine = .x
  hdr : p.hdr = ⟨0, 0⟩
  strands : p.strands = [0, 1, 2, 3]
  hint : p.hint = false
  a : NoPort p.a
  b : NoPort p.b
  d : NoPort p.d
  dst : NoPort p.dst
  cqPush : p.cqPush = false
  cqPop : p.cqPop = false
  rd : p.rd = []
  wr : p.wr = []
  rdw : ∀ w, p.rdw w = []
  wrw : ∀ w, p.wrw w = []
  bankWait : p.bankWait = none
  tokens : ∀ w, p.tokens w = (0, 0)
  ready : ∀ c k w s, p.ready c k w s = none
  jump : ∀ w t, p.jump w t = none
  take : ∀ c k w s, p.take c k w s = s

/-- What a field reads on a strand: zero where the word has none, else the register that the rotation names (03 R78). -/
def Strand.field (t : Strand) (f : Option (BitVec 5)) : Word :=
  match f with
  | none => 0
  | some r => t.reg (physReg t.rotBase r.toNat)

theorem popSrc_noPort {k : Nat} {f : Option (BitVec 5)} (x : Core) (h : NoPort f) : popSrc k f x = some ((x.strand k).field f, x) := by
  cases f with
  | none => rfl
  | some r => exact popSrc_reg x (h r rfl)

/-- The queued form of a plain word. -/
def plainWord (i : Instr) (s : State) : QWord :=
  let u := s.strand s.cur.1 s.cur.2
  newWord s.cur.1 s.cur.2 i (specOf i) (u.field (specOf i).a) (u.field (specOf i).b) (u.field (specOf i).d) s

/-! ### A strand without words -/

theorem tget_mem {β : Type} (d : β) (t : Table β) (n : Nat) : tget d t n = d ∨ ∃ k, (k, tget d t n) ∈ t := by
  induction t with
  | nil => exact .inl rfl
  | cons p r ih =>
    obtain ⟨k, v⟩ := p
    simp only [tget]
    split
    · exact .inl rfl
    · split
      · exact .inr ⟨k, .head _⟩
      · exact ih.imp id (fun ⟨k', h⟩ => ⟨k', .tail _ h⟩)

theorem queue_of_noWord {t : Strand} (h : t.words = []) (e : Engine) : t.queue e = [] := by
  rcases tget_mem [] t.queues (engNum e) with h' | ⟨n, hm⟩
  · exact h'
  · exact List.flatMap_eq_nil_iff.1 h _ hm

/-! ### The gate lets a plain word through -/

section Plain

variable {i : Instr} {s : State}

theorem dstOf_noPort {k : Nat} {rot : BitVec 4} {f : Option (BitVec 5)} (h : NoPort f) :
    dstOf k rot f = .none ∨ ∃ n, dstOf k rot f = .reg n := by
  cases f with
  | none => exact .inl rfl
  | some r => exact .inr ⟨_, if_pos (h r rfl)⟩

theorem noPort_ne_net {f : Option (BitVec 5)} (h : NoPort f) : (f == some 28#5) = false := by
  cases f with
  | none => rfl
  | some r =>
    have := h r rfl
    rw [beq_eq_false_iff_ne]
    rintro ⟨⟩
    simp at this

theorem earlyTrap_plain (r : StandsReady s) {p : WordSpec} (hp : PlainSpec p) (hsup : p.sup = true → (s.core s.cur.1).csr.sup = true) :
    earlyTrap (s.core s.cur.1) s.cur.2 p = none := by
  have hs : s.cur.2 ∈ p.strands := by
    rw [hp.strands]
    exact List.mem_range.2 r.strand
  have hc : ((s.core s.cur.1).strand s.cur.2).cover = 0 := r.uncovered
  have hl : ∀ pc, inBody ((s.core s.cur.1).strand s.cur.2) pc = false := fun pc => by
    have : ((s.core s.cur.1).strand s.cur.2).loop = none := r.noLoop
    simp [inBody, this]
  have hu : (p.sup && !(s.core s.cur.1).csr.sup) = false := by
    cases h : p.sup
    · rfl
    · simp [hsup h]
  simp [earlyTrap, profileOff, hp.engine, hs, hu, hc, hl]

theorem nullified_plain (r : StandsReady s) (p : WordSpec) : nullified (s.strand s.cur.1 s.cur.2) p = false := by
  simp [nullified, r.uncovered, inBody, r.noLoop]

theorem lateTrap_plain {p : WordSpec} (hp : PlainSpec p) (hw : i.wf = true) (hc : ∀ n, p.csr = some n → csrKnown n = true) :
    lateTrap s s.cur.1 s.cur.2 i p = none := by
  have hd : p.dst ≠ some 28#5 := beq_eq_false_iff_ne.1 (noPort_ne_net hp.dst)
  have hv : namesLent (s.core s.cur.1) p = false := by simp [namesLent, vectorsOf, hp.rd, hp.wr]
  have hr : readsNet p = false := by simp only [readsNet, noPort_ne_net hp.a, noPort_ne_net hp.b, noPort_ne_net hp.d, Bool.or_self]
  cases h : p.csr with
  | none => simp [lateTrap, hw, hr, hp.cqPop, hv, hd, h]
  | some n => simp [lateTrap, hw, hr, hp.cqPop, hv, hd, h, hc n h]

theorem scalarWait_of_noWord {t : Strand} (h : t.words = []) (p : WordSpec) : scalarWait t p = false := by
  have hp (n : Nat) : pendingScalar t n = 0 := by simp [pendingScalar, h]
  rw [scalarWait, Bool.or_eq_false_iff, List.any_eq_false]
  refine ⟨fun f _ => ?_, ?_⟩ <;> split <;> simp [hp]

theorem csrWait_of_noWord {t : Strand} (h : t.words = []) (p : WordSpec) : csrWait t p = false := by
  rw [csrWait, Bool.or_eq_false_iff]
  refine ⟨?_, ?_⟩
  · split <;> simp [h]
  · simp [h]

theorem pendingReturn_of_noVector {x : Core} {p : WordSpec} (h : vectorsOf p = []) : pendingReturn x p = false := by
  rw [pendingReturn, Bool.and_eq_false_iff, List.any_eq_false]
  exact .inr (fun w _ => by split <;> simp [h])

theorem blockOf_plain (r : StandsReady s) {p : WordSpec} (hp : PlainSpec p) : blockOf (s.core s.cur.1) s.cur.2 p = none := by
  have hw : ((s.core s.cur.1).strand s.cur.2).words = [] := r.noWord
  have hd : dstRoom s.cur.2 (dstOf s.cur.2 ((s.core s.cur.1).strand s.cur.2).rotBase p.dst) (s.core s.cur.1) = none := by
    rcases dstOf_noPort (k := s.cur.2) (rot := ((s.core s.cur.1).strand s.cur.2).rotBase) hp.dst with h | ⟨n, h⟩ <;> rw [h] <;> rfl
  have hv : vectorsOf p = [] := by simp [vectorsOf, hp.rd, hp.wr]
  simp [blockOf, blocksOf, hw, hd, scalarWait_of_noWord hw, csrWait_of_noWord hw, pendingReturn_of_noVector hv, holdWait,
    queue_of_noWord hw, tokenReady, hp.hdr, hp.cqPop, hp.cqPush]

/-- A plain word names no register of the shared files. -/
theorem readsOf_plain {w : QWord} (hp : PlainSpec (specOf w.i)) : readsOf w = [] := by simp [readsOf, hp.rd, hp.rdw]

theorem writesOf_plain {w : QWord} (hp : PlainSpec (specOf w.i)) : writesOf w = [] := by simp [writesOf, hp.wr, hp.wrw]

/-- It takes no token, and gives none. -/
theorem pushCount_plain {k : Nat} {p : WordSpec} (hp : PlainSpec p) (w : QWord) (j : Nat) : pushCount k p.hdr (p.tokens w) j = 0 := by
  simp [pushCount, hp.hdr, hp.tokens]

theorem lateBlocks_plain (r : StandsReady s) {w : QWord} (hp : PlainSpec (specOf w.i)) :
    lateBlocks s.cur.1 s.cur.2 (specOf w.i) w s = [] := by
  have hsc : scratchWait s.cur.1 s.cur.2 (specOf w.i) w s = false := by simp [scratchWait, queue_of_noWord r.noWord]
  simp [lateBlocks, registerWait, readsOf_plain hp, writesOf_plain hp, hsc, hp.ready]

theorem goes_plain (r : StandsReady s) (hp : PlainSpec (specOf i)) (hw : i.wf = true)
    (hsup : (specOf i).sup = true → (s.core s.cur.1).csr.sup = true) (hcsr : ∀ n, (specOf i).csr = some n → csrKnown n = true)
    (hcheck : ∀ w, ((specOf i).a ≠ none → w.va = (s.strand s.cur.1 s.cur.2).field (specOf i).a) →
      (specOf i).check s.cur.1 s.cur.2 w s = none) :
    goes i s = some (plainWord i s, s.core s.cur.1) := by
  rw [goes_iff hp.hint]
  refine ⟨r.active, r.unpaused, earlyTrap_plain r hp hsup, nullified_plain r _, ?owner, lateTrap_plain hp hw hcsr, ?own,
    blockOf_plain r hp, ?bad, _, _, _, ?sources, rfl, hcheck _ (fun _ => rfl), ?jump,
    congrArg List.head? (lateBlocks_plain r (w := plainWord i s) hp)⟩
  case owner => simp [ownerWait, r.noWord]
  case own =>
    unfold ownTrap
    split
    · rename_i h
      rw [Bool.and_eq_true, Bool.and_eq_true, Option.isNone_iff_eq_none] at h
      exact hcheck _ (fun hf => absurd h.1.1 hf)
    · rfl
  case bad => simp [badSource, r.intact]
  case sources => exact popSrcs_iff.2 ⟨_, _, popSrc_noPort _ hp.a, popSrc_noPort _ hp.b, popSrc_noPort _ hp.d⟩
  case jump => simp [hp.jump, jumpTrap]

/-- A strand that has issued a plain word: its pc is that of the next word. -/
def Strand.stepped (t : Strand) : Strand := { t with st := .running, reason := none, coverNull := false, pc := t.pc + 4 }

/-- A core just after the issue of a plain word. -/
def issuedCore (k cyc : Nat) (x : Core) : Core :=
  ({ x with seq := x.seq + 1 }.modStrand k Strand.stepped).setMark cyc (fun m => { m with issued := k + 1 })

theorem slot_advance_ready {t : Strand} (hc : t.cover = 0) (hl : t.loop = none) (hi : t.issueAt = none) :
    t.slot.advance t.pc none = t.stepped := by
  simp [Strand.stepped, Strand.slot, Strand.advance, hc, hl, hi]

theorem setCore_modStrand (s : State) (c k : Nat) (y : Core) (f : Strand → Strand) :
    (s.setCore c y).modStrand c k f = s.setCore c (y.modStrand k f) := by
  simp only [State.modStrand, State.modCore, State.setCore, State.core, tget_tput_self, tput_tput]

theorem modStrand_modStrand (x : Core) (k : Nat) (f g : Strand → Strand) :
    (x.modStrand k f).modStrand k g = x.modStrand k (fun t => g (f t)) := by
  simp only [Core.modStrand, Core.setStrand, Core.strand, tget_tput_self, tput_tput]

/-- The strand of a plain word at its issue: its slot is taken, and the pc moves to the next word. -/
theorem slot_advance_core (r : StandsReady s) {x : Core} (h : x.strand s.cur.2 = s.strand s.cur.1 s.cur.2) :
    (x.modStrand s.cur.2 Strand.slot).modStrand s.cur.2 (fun t => t.advance (s.strand s.cur.1 s.cur.2).pc none) =
      x.modStrand s.cur.2 Strand.stepped := by
  rw [modStrand_modStrand]
  refine congrArg (x.setStrand s.cur.2) ?_
  dsimp only
  rw [h]
  exact slot_advance_ready r.uncovered r.noLoop r.unfixed

theorem issued_plain (r : StandsReady s) (hp : PlainSpec (specOf i)) :
    issued i (plainWord i s) (s.core s.cur.1) s = s.modCore s.cur.1 (issuedCore s.cur.2 s.cycle) := by
  have hres : reserve s.cur.2 (plainWord i s).seq (plainWord i s).dst (s.core s.cur.1) = s.core s.cur.1 := by
    rcases dstOf_noPort (k := s.cur.2) (rot := (s.strand s.cur.1 s.cur.2).rotBase) hp.dst with h | ⟨n, h⟩ <;>
      rw [show (plainWord i s).dst = _ from h] <;> rfl
  simp only [issued, launch, hp.cqPop, hp.cqPush, popToken, hp.hdr, hp.take, hp.jump, setCore_modStrand, Bool.false_eq_true,
    if_false, if_true]
  rw [hres]
  exact congrArg (fun y => s.setCore s.cur.1 (Core.setMark y s.cycle (fun m => { m with issued := s.cur.2 + 1 })))
    (slot_advance_core r (x := { s.core s.cur.1 with seq := (s.core s.cur.1).seq + 1 }) rfl)

theorem strand_issuedCore (k cyc : Nat) (x : Core) : (issuedCore k cyc x).strand k = (x.strand k).stepped := by
  rw [issuedCore, setMark_strand, strand_coreModStrand]
  rfl

theorem strand_issuedCore_ne {k j : Nat} (cyc : Nat) (x : Core) (h : j ≠ k) : (issuedCore k cyc x).strand j = x.strand j := by
  rw [issuedCore, setMark_strand, strand_coreModStrand_ne _ _ h]
  rfl

theorem noWord_issuedCore (r : StandsReady s) : ((issuedCore s.cur.2 s.cycle (s.core s.cur.1)).strand s.cur.2).words = [] := by
  rw [strand_issuedCore]
  exact r.noWord

/-- No wait for time has fixed X's next issue (22 R418), whether X is the strand or not. -/
theorem unfixed_issuedCore (r : StandsReady s) : ((issuedCore s.cur.2 s.cycle (s.core s.cur.1)).strand 3).issueAt = none := by
  by_cases h : 3 = s.cur.2
  · rw [h, strand_issuedCore]
    exact r.unfixed
  · rw [strand_issuedCore_ne _ _ h]
    exact r.unfixedX

theorem startReady_plain {x : Core} {k : Nat} {e : Engine} {w : QWord} (he : e = .x) (hs : (x.strand k).stopSeq = none)
    (hq : (x.strand k).words = []) (hst : w.stopped = false) (hp : PlainSpec (specOf w.i)) : startReady x k e w = true := by
  have hm (v : QWord) : regsMeet v w = false := by simp [regsMeet, readsOf_plain hp, writesOf_plain hp]
  simp [startReady, heldByStop, hs, hst, queue_of_noWord hq, hm, drawsBefore, he, bankFree, hp.bankWait, hq]

theorem retireReady_plain {x : Core} {k : Nat} {w : QWord} {p : WordSpec} (hp : PlainSpec p) (hq : (x.strand k).words = [])
    (ht : ∀ j < 4, x.tokens k j ≤ 15) : retireReady x k p w = true := by
  simpa [retireReady, hq, tokenRoom, pushCount_plain hp] using ht

/-- A plain word on a strand that stands ready runs in the step that issues it. -/
theorem runsNow_plain (r : StandsReady s) (hp : PlainSpec (specOf i)) (hg : goes i s = some (plainWord i s, s.core s.cur.1)) :
    runsNow i s = some (plainWord i s, s.modCore s.cur.1 (issuedCore s.cur.2 s.cycle)) := by
  refine runsNow_iff.2 ⟨_, hg, hp.hint, ?_, ?_⟩
  · rw [issued_plain r hp, hp.engine]
    rfl
  · rw [issued_plain r hp]
    have hw := noWord_issuedCore r
    have hst : ((issuedCore s.cur.2 s.cycle (s.core s.cur.1)).strand s.cur.2).stopSeq = none := by
      rw [strand_issuedCore]
      exact r.notStopped
    have hb : (issuedCore s.cur.2 s.cycle (s.core s.cur.1)).d.regBad = [] := r.intactFiles
    simp [atOnce, hp.engine, issueDue, unfixed_issuedCore r, queue_of_noWord hw, turnOf, retireReady_plain hp hw r.room, r.now,
      startReady_plain rfl hst hw rfl (w := plainWord i s) hp, hb]

/-- The whole of what a plain word changes: its strand's destination, pc and state; of its core the words' count and the cycle's mark. -/
structure WholeEffect (s t : State) (d : BitVec 5) (v : Word) : Prop where
  strand : t.strand s.cur.1 s.cur.2 = (s.strand s.cur.1 s.cur.2).stepped.setReg (physReg (s.strand s.cur.1 s.cur.2).rotBase d.toNat) v
  strands : ∀ j, j ≠ s.cur.2 → t.strand s.cur.1 j = s.strand s.cur.1 j
  seq : (t.core s.cur.1).seq = (s.core s.cur.1).seq + 1
  core : { t.core s.cur.1 with strands := (s.core s.cur.1).strands, seq := (s.core s.cur.1).seq, mark := (s.core s.cur.1).mark }
    = s.core s.cur.1
  cores : ∀ e, e ≠ s.cur.1 → t.core e = s.core e
  rest : { t with cores := s.cores } = s

theorem pushTokens_plain {k : Nat} {p : WordSpec} (hp : PlainSpec p) (w : QWord) (x : Core) : pushTokens k p.hdr (p.tokens w) x = x := by
  simp only [pushTokens, pushCount_plain hp, if_true]
  exact foldl_id _ _ _ (fun _ _ => rfl)

/-- The core of a strand that stands ready, once its plain word has retired. -/
def retiredCore (k cyc : Nat) (p : WordSpec) (n : Nat) (v : Word) (x : Core) : Core :=
  ((issuedCore k cyc x).modStrand k (fun t => t.setReg n v)).setMark cyc (fun m =>
    { m with closed := true
             last := Nat.max m.last (retireKey k p.engine)
             yDone := m.yDone || (p.engine = .y && k = 3)
             qDone := m.qDone || (p.engine = .q && k = 3) })

theorem complete_plain (hp : PlainSpec (specOf i)) {d : BitVec 5} (hd : (specOf i).dst = some d) (v : Word) :
    WholeEffect s (complete s.cur.1 s.cur.2 (specOf i) (plainWord i s) v false (s.modCore s.cur.1 (issuedCore s.cur.2 s.cycle))) d v := by
  have hdst : (plainWord i s).dst = .reg (physReg (s.strand s.cur.1 s.cur.2).rotBase d.toNat) := by
    have : d.toNat < 28 := hp.dst d hd
    show dstOf s.cur.2 _ (specOf i).dst = _
    rw [hd]
    exact if_pos this
  have he : complete s.cur.1 s.cur.2 (specOf i) (plainWord i s) v false (s.modCore s.cur.1 (issuedCore s.cur.2 s.cycle)) =
      s.modCore s.cur.1 (retiredCore s.cur.2 s.cycle (specOf i) (physReg (s.strand s.cur.1 s.cur.2).rotBase d.toNat) v) := by
    simp only [complete, hdst, writeDst, hp.cqPush, pushTokens_plain hp, Bool.false_eq_true, if_false, modCore_modCore]
    rfl
  rw [he]
  refine ⟨?_, fun j hj => ?_, ?_, ?_, fun e h => core_modCore_ne _ _ h, rfl⟩
  · simp only [State.strand, core_modCore, retiredCore, setMark_strand, strand_coreModStrand, strand_issuedCore]
  · simp only [State.strand, core_modCore, retiredCore, setMark_strand, strand_coreModStrand_ne _ _ hj, strand_issuedCore_ne _ _ hj]
  · rw [core_modCore]
    rfl
  · rw [core_modCore]
    rfl

/-- A plain word on a strand that stands ready writes its result, moves the pc, and changes nothing else (01 R16, 03 R60). -/
theorem exec_plain (r : StandsReady s) (hi : i.isWord = true) (hp : PlainSpec (specOf i)) (hw : i.wf = true)
    (hsup : (specOf i).sup = true → (s.core s.cur.1).csr.sup = true) (hcsr : ∀ n, (specOf i).csr = some n → csrKnown n = true)
    (hcheck : ∀ w, ((specOf i).a ≠ none → w.va = (s.strand s.cur.1 s.cur.2).field (specOf i).a) →
      (specOf i).check s.cur.1 s.cur.2 w s = none)
    {d : BitVec 5} (hd : (specOf i).dst = some d) {v : Word}
    (hb : ∀ t, (t.core s.cur.1).d = (s.core s.cur.1).d → (specOf i).body s.cur.1 s.cur.2 (plainWord i s) t = .done t v false) :
    ∃ t, exec i s = .next t ∧ WholeEffect s t d v := by
  have hrun := runsNow_plain r hp (goes_plain r hp hw hsup hcsr hcheck)
  refine ⟨_, runs_done (exec_word hi s) hrun (hb _ ?_), ?_⟩
  · rw [core_modCore]
    rfl
  · unfold finish
    rw [core_modCore, if_pos (retireReady_plain hp (noWord_issuedCore r) r.room)]
    exact complete_plain hp hd v

end Plain

/-! ### The plain words, each by its specification -/

theorem noPort_none : NoPort none := fun _ h => nomatch h

theorem noPort_some {r : BitVec 5} (h : r.toNat < 28) : NoPort (some r) := fun _ e => Option.some.inj e ▸ h

/-- A specification that leaves every other field at its default is plain where its fields name registers. -/
theorem plainSpec_of_noPort {a b d dst : Option (BitVec 5)} (ha : NoPort a) (hb : NoPort b) (hd : NoPort d) (hdst : NoPort dst)
    {body check pre scr hold sup csr late csrW noLoop uses} :
    PlainSpec { engine := .x, a := a, b := b, d := d, dst := dst, body := body, check := check, pre := pre, scr := scr, hold := hold
                sup := sup, csr := csr, late := late, csrW := csrW, noLoop := noLoop, uses := uses } where
  engine := rfl
  hdr := rfl
  strands := rfl
  hint := rfl
  a := ha
  b := hb
  d := hd
  dst := hdst
  cqPush := rfl
  cqPop := rfl
  rd := rfl
  wr := rfl
  rdw _ := rfl
  wrw _ := rfl
  bankWait := rfl
  tokens _ := rfl
  ready _ _ _ _ := rfl
  jump _ _ := rfl
  take _ _ _ _ := rfl

/-- A plain word that has no check of its own, names no CSR, and computes `v`. -/
theorem exec_computes {i : Instr} {s : State} (r : StandsReady s) (hi : i.isWord = true) (hp : PlainSpec (specOf i)) (hw : i.wf = true)
    (hsup : (specOf i).sup = false) (hcsr : (specOf i).csr = none) (hcheck : ∀ c k w s, (specOf i).check c k w s = none)
    {d : BitVec 5} (hd : (specOf i).dst = some d) {v v' : Word}
    (hb : ∀ t, (specOf i).body s.cur.1 s.cur.2 (plainWord i s) t = .done t v' false) (hv : v' = v) :
    ∃ t, exec i s = .next t ∧ WholeEffect s t d v :=
  exec_plain r hi hp hw (by simp [hsup]) (by simp [hcsr]) (fun w _ => hcheck _ _ w s) hd (fun t _ => hv ▸ hb t)

section PlainWords

variable {d a b : BitVec 5} {im : BitVec 10} {il : BitVec 15} {s : State}

/-- An X word of one source, on a strand that stands ready. -/
theorem exec_alu1 (f : Word → Word) {i : Instr} {v : Word} (r : StandsReady s) (hd : d.toNat < 28) (ha : a.toNat < 28)
    (hi : i.isWord = true) (hw : i.wf = true) (hs : specOf i = alu1 ⟨0, 0⟩ d a f) (hv : f ((s.strand s.cur.1 s.cur.2).field (some a)) = v) :
    ∃ t, exec i s = .next t ∧ WholeEffect s t d v := by
  have hp : PlainSpec (alu1 ⟨0, 0⟩ d a f) := plainSpec_of_noPort (noPort_some ha) noPort_none noPort_none (noPort_some hd)
  refine exec_computes r hi (hs ▸ hp) hw (hs ▸ rfl) (hs ▸ rfl) (hs ▸ fun _ _ _ _ => rfl) (hs ▸ rfl)
    (v' := f (plainWord i s).va) (hs ▸ fun _ => rfl) ?_
  rw [← hv, plainWord, hs]
  rfl

/-- An X word of two sources. -/
theorem exec_alu2 (f : Word → Word → Word) {i : Instr} {v : Word} (r : StandsReady s) (hd : d.toNat < 28) (ha : a.toNat < 28)
    (hb : b.toNat < 28) (hi : i.isWord = true) (hw : i.wf = true) (hs : specOf i = alu2 ⟨0, 0⟩ d a b f)
    (hv : f ((s.strand s.cur.1 s.cur.2).field (some a)) ((s.strand s.cur.1 s.cur.2).field (some b)) = v) :
    ∃ t, exec i s = .next t ∧ WholeEffect s t d v := by
  have hp : PlainSpec (alu2 ⟨0, 0⟩ d a b f) := plainSpec_of_noPort (noPort_some ha) (noPort_some hb) noPort_none (noPort_some hd)
  refine exec_computes r hi (hs ▸ hp) hw (hs ▸ rfl) (hs ▸ rfl) (hs ▸ fun _ _ _ _ => rfl) (hs ▸ rfl)
    (v' := f (plainWord i s).va (plainWord i s).vb) (hs ▸ fun _ => rfl) ?_
  rw [← hv, plainWord, hs]
  rfl

theorem wbool_slt (x y : Word) : wbool (x.slt y) = if x.toInt < y.toInt then 1 else 0 := by
  simp [wbool, BitVec.slt]

theorem wbool_ult (x y : Word) : wbool (x.ult y) = if x.toNat < y.toNat then 1 else 0 := by
  simp [wbool, BitVec.ult]

/-- The plain words of 03 R62, R63, R66 and R68 without the shifts by an immediate, and what each computes of its sources. -/
def plainWords (d a b : BitVec 5) (im : BitVec 10) (il : BitVec 15) (s : State) : List (Instr × Word) :=
  let h : Hdr := ⟨0, 0⟩
  let u := s.strand s.cur.1 s.cur.2
  let ra := u.field (some a)
  let rb := u.field (some b)
  let rd := u.field (some d)
  [(.addi h d a im, ra + sext im), (.andi h d a im, ra &&& sext im), (.ori h d a im, ra ||| sext im), (.xori h d a im, ra ^^^ sext im),
   (.slti h d a im, if ra.toInt < im.toInt then 1 else 0), (.sltiu h d a im, if ra.toNat < (sext im).toNat then 1 else 0),
   (.li h d il, sext il), (.lsh h d il, rd <<< 15 ||| zext il), (.auipc h d il, zext u.pc + sext il * 4), (.rdlc h d, u.lc),
   (.add h d a b, ra + rb), (.sub h d a b, ra - rb), (.and h d a b, ra &&& rb), (.or h d a b, ra ||| rb), (.xor h d a b, ra ^^^ rb),
   (.sll h d a b, ra <<< (rb.toNat % 64)), (.srl h d a b, ra >>> (rb.toNat % 64)), (.sra h d a b, ra.sshiftRight (rb.toNat % 64)),
   (.slt h d a b, if ra.toInt < rb.toInt then 1 else 0), (.sltu h d a b, if ra.toNat < rb.toNat then 1 else 0),
   (.mul h d a b, BitVec.ofInt 64 (ra.toInt * rb.toInt)), (.zextW h d a, word (ra.toNat % 2 ^ 32)),
   (.cmovz h d a b, if rb = 0 then ra else rd), (.cmovnz h d a b, if rb ≠ 0 then ra else rd)]

/-- Each of them, on a strand that stands ready, has that result for its whole effect. -/
theorem exec_plainWords (r : StandsReady s) (hd : d.toNat < 28) (ha : a.toNat < 28) (hb : b.toNat < 28) :
    ∀ p ∈ plainWords d a b im il s, ∃ t, exec p.1 s = .next t ∧ WholeEffect s t d p.2 := by
  have nd := noPort_some hd
  have hnd : notPort d = true := decide_eq_true hd
  simp only [plainWords, List.forall_mem_cons]
  refine ⟨exec_alu1 (· + sext im) r hd ha rfl rfl rfl rfl, exec_alu1 (· &&& sext im) r hd ha rfl rfl rfl rfl,
    exec_alu1 (· ||| sext im) r hd ha rfl rfl rfl rfl, exec_alu1 (· ^^^ sext im) r hd ha rfl rfl rfl rfl,
    exec_alu1 (fun x => wbool (x.slt (sext im))) r hd ha rfl rfl rfl ?slti,
    exec_alu1 (fun x => wbool (x.ult (sext im))) r hd ha rfl rfl rfl (wbool_ult _ _),
    ?li, ?lsh, ?auipc, ?rdlc,
    exec_alu2 (· + ·) r hd ha hb rfl rfl rfl rfl, exec_alu2 (· - ·) r hd ha hb rfl rfl rfl rfl,
    exec_alu2 (· &&& ·) r hd ha hb rfl rfl rfl rfl, exec_alu2 (· ||| ·) r hd ha hb rfl rfl rfl rfl,
    exec_alu2 (· ^^^ ·) r hd ha hb rfl rfl rfl rfl, exec_alu2 (fun x y => x <<< (y.toNat % 64)) r hd ha hb rfl rfl rfl rfl,
    exec_alu2 (fun x y => x >>> (y.toNat % 64)) r hd ha hb rfl rfl rfl rfl,
    exec_alu2 (fun x y => x.sshiftRight (y.toNat % 64)) r hd ha hb rfl rfl rfl rfl,
    exec_alu2 (fun x y => wbool (x.slt y)) r hd ha hb rfl rfl rfl (wbool_slt _ _),
    exec_alu2 (fun x y => wbool (x.ult y)) r hd ha hb rfl rfl rfl (wbool_ult _ _),
    exec_alu2 (· * ·) r hd ha hb rfl rfl rfl ?mul, exec_alu1 (fun x => zext (x.setWidth 32)) r hd ha rfl rfl rfl ?zextW,
    ?cmovz, ?cmovnz, List.forall_mem_nil _⟩
  case slti => exact (wbool_slt _ _).trans (by rw [sext, BitVec.toInt_signExtend_of_le (by decide)])
  case mul => rw [BitVec.ofInt_mul, BitVec.ofInt_toInt, BitVec.ofInt_toInt]
  case zextW =>
    apply BitVec.eq_of_toNat_eq
    simp [zext, word]
  case li =>
    have hp : PlainSpec (specOf (.li ⟨0, 0⟩ d il)) := plainSpec_of_noPort noPort_none noPort_none noPort_none nd
    exact exec_computes r rfl hp rfl rfl rfl (fun _ _ _ _ => rfl) rfl (fun _ => rfl) rfl
  case lsh =>
    have hp : PlainSpec (specOf (.lsh ⟨0, 0⟩ d il)) := plainSpec_of_noPort noPort_none noPort_none nd nd
    exact exec_computes r rfl hp hnd rfl rfl (fun _ _ _ _ => rfl) rfl (fun _ => rfl) rfl
  case auipc =>
    have hp : PlainSpec (specOf (.auipc ⟨0, 0⟩ d il)) := plainSpec_of_noPort noPort_none noPort_none noPort_none nd
    exact exec_computes r rfl hp rfl rfl rfl (fun _ _ _ _ => rfl) rfl (fun _ => rfl) rfl
  case rdlc =>
    have hp : PlainSpec (specOf (.rdlc ⟨0, 0⟩ d)) := plainSpec_of_noPort noPort_none noPort_none noPort_none nd
    exact exec_computes r rfl hp rfl rfl rfl (fun _ _ _ _ => rfl) rfl (fun _ => rfl) rfl
  case cmovz =>
    have hp : PlainSpec (specOf (.cmovz ⟨0, 0⟩ d a b)) := plainSpec_of_noPort (noPort_some ha) (noPort_some hb) nd nd
    exact exec_computes r rfl hp hnd rfl rfl (fun _ _ _ _ => rfl) rfl (fun _ => rfl) rfl
  case cmovnz =>
    have hp : PlainSpec (specOf (.cmovnz ⟨0, 0⟩ d a b)) := plainSpec_of_noPort (noPort_some ha) (noPort_some hb) nd nd
    exact exec_computes r rfl hp hnd rfl rfl (fun _ _ _ _ => rfl) rfl (fun _ => rfl) (ite_not _ _ _).symm

/-- So have the shifts by an immediate (03 R62) of a distance below 64. -/
theorem exec_shifts (r : StandsReady s) (hd : d.toNat < 28) (ha : a.toNat < 28) (him : im.toNat < 64) :
    let ra := (s.strand s.cur.1 s.cur.2).field (some a)
    ∀ p ∈ [(Instr.slli ⟨0, 0⟩ d a im, ra <<< im.toNat), (.srli ⟨0, 0⟩ d a im, ra >>> im.toNat),
        (.srai ⟨0, 0⟩ d a im, ra.sshiftRight im.toNat)],
      ∃ t, exec p.1 s = .next t ∧ WholeEffect s t d p.2 := by
  have hw : decide (im.toNat ≤ 63) = true := decide_eq_true (by omega)
  simp only [List.forall_mem_cons]
  exact ⟨exec_alu1 (· <<< im.toNat) r hd ha rfl hw rfl rfl, exec_alu1 (· >>> im.toNat) r hd ha rfl hw rfl rfl,
    exec_alu1 (·.sshiftRight im.toNat) r hd ha rfl hw rfl rfl, List.forall_mem_nil _⟩

/-- An LDX whose address is aligned and in scratch, whose pages are there and whose lines hold no error (03 R64). -/
theorem exec_ldx {i : Instr} {n : Nat} {ext : Nat → Word} (r : StandsReady s) (hd : d.toNat < 28) (ha : a.toNat < 28) (hi : i.isWord = true)
    (hw : i.wf = true) (hs : specOf i = ldx ⟨0, 0⟩ d a im n ext) {ad : Nat}
    (had : ((s.strand s.cur.1 s.cur.2).field (some a) + sext im * word n).toNat = ad) (hal : ad % n = 0) (hin : ad + n ≤ 0x80000)
    (hpg : (s.core s.cur.1).d.absent ad n = []) (hok : (s.core s.cur.1).d.scrPoisoned ad n = false) :
    ∃ t, exec i s = .next t ∧ WholeEffect s t d (ext (leNat (memReadN (s.core s.cur.1).d.scratch ad n))) := by
  subst had
  have hp : PlainSpec (ldx ⟨0, 0⟩ d a im n ext) := plainSpec_of_noPort (noPort_some ha) noPort_none noPort_none (noPort_some hd)
  refine exec_plain r hi (hs ▸ hp) hw (hs ▸ nofun) (hs ▸ nofun) ?_ (hs ▸ rfl) ?_
  · rw [hs]
    intro w hva
    have hva := hva nofun
    show scrCheck 1 (w.va + sext im * word n) n n = none
    rw [hva]
    exact (if_neg (not_not.2 hal)).trans (if_neg (Nat.not_lt.2 hin))
  · intro t ht
    have hva : (plainWord i s).va = (s.strand s.cur.1 s.cur.2).field (some a) := by
      rw [plainWord, hs]
      rfl
    rw [hs]
    simp only [ldx, withPages, hva, ht, hpg, hok, CoreData.scrRead, List.isEmpty_nil, if_true, Bool.false_eq_true, if_false]

/-- A CSR word of a known CSR, in supervisor mode where the CSR is a supervisor's, runs in the step that issues it (03 R81, 17 R320). -/
theorem runsNow_csr {i : Instr} {n : BitVec 10} (r : StandsReady s) (hp : PlainSpec (specOf i)) (hw : i.wf = true)
    (hc : (specOf i).csr = some n.toNat) (hsup : (specOf i).sup = decide (0x100 ≤ n.toNat ∧ n.toNat ≤ 0x1FF))
    (hcheck : ∀ c k w s, (specOf i).check c k w s = if csrKnown n.toNat then none else some (issueTrap 0x02))
    (hn : csrKnown n.toNat = true) (hs : 0x100 ≤ n.toNat → n.toNat ≤ 0x1FF → (s.core s.cur.1).csr.sup = true) :
    runsNow i s = some (plainWord i s, s.modCore s.cur.1 (issuedCore s.cur.2 s.cycle)) := by
  refine runsNow_plain r hp (goes_plain r hp hw ?_ ?_ ?_)
  · rw [hsup, decide_eq_true_eq]
    exact fun h => hs h.1 h.2
  · rw [hc]
    rintro _ ⟨⟩
    exact hn
  · intro w _
    rw [hcheck, if_pos hn]

/-- And it completes: CSRR gives the CSR, CSRW writes the source, CSRX does both (03 R81, R83). -/
theorem exec_csrWords (r : StandsReady s) (hd : d.toNat < 28) (ha : a.toNat < 28) (n : BitVec 10) (hn : csrKnown n.toNat = true)
    (hs : 0x100 ≤ n.toNat → n.toNat ≤ 0x1FF → (s.core s.cur.1).csr.sup = true) :
    let c := s.cur.1
    let k := s.cur.2
    let ra := (s.strand c k).field (some a)
    (∃ w t, runsNow (.csrr ⟨0, 0⟩ d n) s = some (w, t) ∧ exec (.csrr ⟨0, 0⟩ d n) s = .next (finish c k (.csrr ⟨0, 0⟩ d n) w
        (if loopCsr n then csrGet s c k n.toNat else csrGet t c k n.toNat) false (csrReadEffect c k n.toNat t))) ∧
      (∃ w t, runsNow (.csrw ⟨0, 0⟩ a n) s = some (w, t) ∧
        exec (.csrw ⟨0, 0⟩ a n) s = .next (finish c k (.csrw ⟨0, 0⟩ a n) w 0 false (csrWrite c k n.toNat ra t))) ∧
      (∃ w t, runsNow (.csrx ⟨0, 0⟩ d a n) s = some (w, t) ∧
        exec (.csrx ⟨0, 0⟩ d a n) s = .next (finish c k (.csrx ⟨0, 0⟩ d a n) w (csrBefore t c k n.toNat) false
          (csrWrite c k n.toNat ra t))) := by
  intro c k ra
  have nd := noPort_some hd
  have na := noPort_some ha
  have hr : PlainSpec (specOf (.csrr ⟨0, 0⟩ d n)) := plainSpec_of_noPort noPort_none noPort_none noPort_none nd
  have hw : PlainSpec (specOf (.csrw ⟨0, 0⟩ a n)) := plainSpec_of_noPort na noPort_none noPort_none noPort_none
  have hx : PlainSpec (specOf (.csrx ⟨0, 0⟩ d a n)) := plainSpec_of_noPort na noPort_none noPort_none nd
  have runR := runsNow_csr r hr rfl rfl rfl (fun _ _ _ _ => rfl) hn hs
  have runW := runsNow_csr r hw rfl rfl rfl (fun _ _ _ _ => rfl) hn hs
  have runX := runsNow_csr r hx rfl rfl rfl (fun _ _ _ _ => rfl) hn hs
  refine ⟨⟨_, _, runR, runs_done (exec_word rfl s) runR ?_⟩, ⟨_, _, runW, runs_done (exec_word rfl s) runW rfl⟩,
    ⟨_, _, runX, runs_done (exec_word rfl s) runX rfl⟩⟩
  show Run.done _ (if loopCsr n then (if loopCsr n then csrGet s c k n.toNat else 0) else csrGet _ c k n.toNat) false = _
  split <;> rfl

end PlainWords

/-! ### A strand that is none of the four (01 R13) -/

/-- A machine whose core 0 holds a fifth strand, running, and whose step issues for that strand. A copy transfer of the core has started:
until it ends, the record of a fault waits (17 R322), so that a fault only stops the strand. -/
def fifthStrand : State :=
  let x : Core := { strands := [(4, { st := .running })], d := { xfers := [{ (default : Xfer) with started := true }] } }
  { State.reset with cur := (0, 4), now := true, cores := [(0, x)] }

/-- ADDI s0, s0, 0. -/
def addiZero : Instr := .addi ⟨0, 0⟩ 0 0 0

/-- The roles of 01 R26 name strands 0 to 3, so the fifth strand's ADDI stops. -/
theorem exec_addiZero_fifthStrand :
    exec addiZero fifthStrand = .next (takeFault 0 4 ((issueTrap 0x01).ofWord (encode addiZero)) (encode addiZero) 0 none fifthStrand) :=
  rolesTrap addiZero fifthStrand rfl rfl rfl (by decide) (by decide)

theorem fifthStrand_faults :
    ((takeFault 0 4 ((issueTrap 0x01).ofWord (encode addiZero)) (encode addiZero) 0 none fifthStrand).strand 0 4).st = .faulted := by
  decide +kernel

/-- Refutes O50: its premises do not say that the strand which issues is one of the four (01 R13). ADDI on a running fifth strand meets them
all, traps 0x01 as a word of no role of that strand (R26), and leaves the strand faulted where the statement has it running. Of the four
strands `exec_plainWords`, `exec_shifts`, `exec_ldx` and `exec_csrWords` say what the statement says. -/
theorem not_plainWordEffect : ¬ Obligations.PlainWordEffect := by
  intro h
  obtain ⟨hwords, -⟩ := h 0 0 0 0 0 fifthStrand (by decide) (by decide) (by decide) rfl rfl (by decide) rfl rfl rfl rfl rfl rfl rfl rfl
    (by decide)
  obtain ⟨t, ht, hstrand, -⟩ := hwords (addiZero, _) (List.mem_append_left _ (List.mem_append_left _ (List.mem_append_left _ (.head _))))
  rw [exec_addiZero_fifthStrand] at ht
  injection ht with ht
  have hst : (t.strand fifthStrand.cur.1 fifthStrand.cur.2).st = .faulted := ht ▸ fifthStrand_faults
  rw [hstrand, setReg_st] at hst
  cases hst

end Sys2Proof.Machine
end

section
/-! PROOFS. The decoder and the encoder (02 R35 to R45): how the fields of a word read back, and the statement `EncodingRoundTrip`. -/

namespace Sys2Proof

open Machine

/-! ### Fields of a word (00 R6) -/

theorem fld_or (v w : BitVec 32) (lo n : Nat) : fld (v ||| w) lo n = fld v lo n ||| fld w lo n :=
  BitVec.extractLsb'_or

theorem fld_put_same {n : Nat} (lo : Nat) (x : BitVec n) (h : lo + n ≤ 32) : fld (put lo x) lo n = x := by
  apply BitVec.eq_of_getLsbD_eq
  intro i hi
  simp [fld, put, hi, show lo + i < 32 by omega]

theorem fld_put_disjoint {m : Nat} (lo lo' n : Nat) (x : BitVec m) (h : lo + m ≤ lo' ∨ lo' + n ≤ lo) :
    fld (put lo x) lo' n = 0#n := by
  apply BitVec.eq_of_getLsbD_eq
  intro i hi
  rcases h with h | h
  · simp [fld, put, BitVec.getLsbD_of_ge x (lo' + i - lo) (by omega)]
  · simp [fld, put, show lo' + i < lo by omega]

theorem fld_ofNat {x lo n : Nat} : fld (BitVec.ofNat 32 x) lo n = BitVec.ofNat n ((x % 2 ^ 32) >>> lo) := by
  apply BitVec.eq_of_toNat_eq
  simp [fld, Nat.shiftRight_eq_div_pow]

/-- A field has no bit at a reserved place. -/
theorem put_and_eq_zero {n lo : Nat} (x : BitVec n) {m : BitVec 32} (h : fld m lo n = 0#n) : put lo x &&& m = 0#32 := by
  apply BitVec.eq_of_getLsbD_eq
  intro i hi
  by_cases hlo : i < lo
  · simp [put, hlo]
  · by_cases hn : i - lo < n
    · have hbit := congrArg (fun b => b.getLsbD (i - lo)) h
      simp only [fld, BitVec.getLsbD_extractLsb', hn, decide_true, Bool.true_and, show lo + (i - lo) = i by omega,
        BitVec.getLsbD_zero] at hbit
      simp [hbit]
    · simp [put, BitVec.getLsbD_of_ge x (i - lo) (by omega)]

theorem put_zero (n lo : Nat) : put lo (0#n) = 0#32 := by simp [put]

theorem rsv_of_clear {w m : BitVec 32} {i : Instr} (h : w &&& m = 0#32) : rsv w m i = .ok i := if_pos h

theorem rsv2_of_clear {w m n : BitVec 32} {i : Instr} (h : w &&& m = 0#32) (h' : w &&& n = 0#32) : rsv2 w m n i = .ok i :=
  (if_pos h).trans (if_pos h')

/-! ### A well-formed word decodes from its encoding, engine by engine -/

section Decodes

variable {i : Instr}

theorem decode_encode_x (hw : i.isWord = true) (he : (specOf i).engine = .x) : decode (encode i) = .ok i := by
  cases i with
  | addi | andi | ori | xori | slli | srli | srai | slti | sltiu | ldxD | ldxW | stxD | stxW | csrr | csrw | csrx | li | lsh | auipc | setlc
  | beqz | bnez | bcq | bncq | blc | jal | add | sub | and | or | xor | sll | srl | sra | slt | sltu | min | max | minu | maxu | mul | mulh
  | mulhu | div | divu | rem | remu | clz | ctz | popc | sextB | sextH | sextW | zextW | jalr | setlcS | rdlc | cmovz | cmovnz | ifq | elseq
  | stgStage | loopp | setrb | addSh1 | addSh2 | addSh3 | addSh4 | taddr | prefG | prefS | prio | pause =>
    show decode (_ ||| _) = _
    simp (disch := decide) only [decode, decodeX, decodeBq, decodeAlu, decodeControl, decodeAddress, decodeH, rsv, hdrOf, putHdr, fld_or,
      fld_put_same, fld_put_disjoint, fld_ofNat, BitVec.or_zero, BitVec.zero_or, BitVec.and_or_distrib_right, put_and_eq_zero, seval]
  | _ => cases hw <;> cases he

theorem decode_encode_l (hf : i.wf = true) (he : (specOf i).engine = .l) : decode (encode i) = .ok i := by
  cases i with
  | vld | vldS | vst | vstS | mld | mldT | mldU | mst | vldBm | vstBm | cpyIn | cpyOut | cpyLoc | awf | rls | agCfg | winCfg | fadv | fend
  | fclose =>
    show decode (_ ||| _) = _
    simp (disch := decide) only [decode, decodeL, rsv, hdrOf, putHdr, fld_or, fld_put_same, fld_put_disjoint, fld_ofNat, BitVec.or_zero,
      BitVec.zero_or, BitVec.and_or_distrib_right, put_and_eq_zero, seval]
  | fopen h d a n c k =>
    -- 08 R200: the kind is 0, or it is 1 and the count is 0.
    have hk : k = 0#2 ∨ k = 1#2 ∧ n = 0#2 := by simp [Instr.wf] at hf; exact hf.2
    show decode (_ ||| _) = _
    rcases hk with rfl | ⟨rfl, rfl⟩ <;>
      simp (disch := decide) only [decode, decodeL, rsv, hdrOf, putHdr, fld_or, fld_put_same, fld_put_disjoint, fld_ofNat, BitVec.or_zero,
        BitVec.zero_or, BitVec.and_or_distrib_right, put_and_eq_zero, put_zero, seval]
  | _ => cases he

theorem decode_encode_m (he : (specOf i).engine = .m) : decode (encode i) = .ok i := by
  cases i with
  | mma | mrun | mzero | mdrain | mdrainV | mloada | mscale | mcfg | mlend | mret | mtrans | mchk | mprobeAcc =>
    show decode (_ ||| _) = _
    simp (disch := decide) only [decode, decodeM, rsv, hdrOf, putHdr, fld_or, fld_put_same, fld_put_disjoint, fld_ofNat, BitVec.or_zero,
      BitVec.zero_or, BitVec.and_or_distrib_right, put_and_eq_zero, seval]
  | mprobe h s d =>
    show decode (_ ||| _) = _
    rcases BitVec.eq_zero_or_eq_one s with rfl | rfl <;>
      simp (disch := decide) only [decode, decodeM, rsv, hdrOf, putHdr, fld_or, fld_put_same, fld_put_disjoint, fld_ofNat, BitVec.or_zero,
        BitVec.zero_or, BitVec.and_or_distrib_right, put_and_eq_zero, seval]
  | _ => cases he

theorem decode_encode_q (he : (specOf i).engine = .q) : decode (encode i) = .ok i := by
  cases i with
  | ldg | stg | lda | strl | fence | amoAdd | amoAnd | amoOr | amoXor | amoMin | amoMax | amoMinu | amoMaxu | amoSwap | amoCas | amoFadd
  | verst | verld | verrcl | barW | barA | barT | bcast | brecv | red | evt | submit | mcast | wbr | invr | wbwait | lat | ldt | lfold
  | lfwait | lgen | tkpush | tkpop | tkcnt =>
    show decode (_ ||| _) = _
    simp (disch := decide) only [decode, decodeQ, rsv, hdrOf, putHdr, fld_or, fld_put_same, fld_put_disjoint, fld_ofNat, BitVec.or_zero,
      BitVec.zero_or, BitVec.and_or_distrib_right, put_and_eq_zero, seval]
  | _ => cases he

theorem decode_encode_w (he : (specOf i).engine = .w) : decode (encode i) = .ok i := by
  cases i with
  | win | wout | weos | wtest | wstat | wdrainIn | wdrainOut =>
    show decode (_ ||| _) = _
    simp (disch := decide) only [decode, decodeW, rsv, hdrOf, putHdr, fld_or, fld_put_same, fld_put_disjoint, fld_ofNat, BitVec.or_zero,
      BitVec.zero_or, BitVec.and_or_distrib_right, put_and_eq_zero, seval]
  | _ => cases he

theorem decode_encode_y (he : (specOf i).engine = .y) : decode (encode i) = .ok i := by
  cases i with
  | trap | tretResume | tretAbort | halt | yield | wfe | wut | rdtime | mperm | rdst | wrst | ctxSave | ctxLoad | domsetInstall
  | domsetRemove | hmsetQuiesce | hmsetSwitch | hmsetResume | rgload | rgswapHot | rgswapNow | rgfreezeFreeze | rgfreezeThaw | rgreadSave
  | rgreadFetch | rgreadRestore | rgreadStatus | rgclk =>
    show decode (_ ||| _) = _
    simp (disch := decide) only [decode, decodeY, rsv, rsv2, hdrOf, putHdr, fld_or, fld_put_same, fld_put_disjoint, fld_ofNat,
      BitVec.or_zero, BitVec.zero_or, BitVec.and_or_distrib_right, put_and_eq_zero, seval]
  | _ => cases he

theorem decode_of_decodeV {w : BitVec 32} {r : Except Reject Instr} (h : fld w 29 3 = 3#3) (hr : decodeV w = r) : decode w = r := by
  rw [← hr, decode, h]
  rfl

/-- Of the V words, the opcode first picks the answer, by evaluation: to simplify with all 62 answers in the goal costs too much. -/
theorem decode_encode_v (he : (specOf i).engine = .v) : decode (encode i) = .ok i := by
  cases i with
  | vadd | vsub | vmul | vfma | vfms | vmin | vmax | vand | vor | vxor | vshl | vshr | vsra | vshli | vshri | vcmpEq | vcmpNe | vcmpLt
  | vcmpLe | vcmpUn | vsel | vcvt | vperm | vshuf | vslide | vprune | vquant | vscale | vclamp | vdot =>
    show decode (_ ||| _) = _
    refine decode_of_decodeV (by simp (disch := decide) only [putHdr, fld_or, fld_put_disjoint, fld_ofNat, BitVec.or_zero, seval]) ?_
    rw [decodeV, show fld _ 18 7 = _ from by simp (disch := decide) only [putHdr, fld_or, fld_put_disjoint, BitVec.or_zero]; rfl]
    refine Eq.trans (show _ = Except.ok _ from rfl) ?_
    simp (disch := decide) only [hdrOf, putHdr, fld_or, fld_put_same, fld_put_disjoint, fld_ofNat, BitVec.or_zero, BitVec.zero_or, seval]
  | vabs | vneg | vrcp | vrsq | vexp2 | vlog2 | vnot | vmov | vbcast | vext | vins | viota | vpack | vunpack | vredSum | vredMin | vredMax
  | vscan | vcompress | vexpand | vcqAny | vcqAll | kand | kor | kxor | knot | kpopc | kfirst | kmov =>
    show decode (_ ||| _) = _
    refine decode_of_decodeV (by simp (disch := decide) only [putHdr, fld_or, fld_put_disjoint, fld_ofNat, BitVec.or_zero, seval]) ?_
    rw [decodeV, show fld _ 18 7 = _ from by simp (disch := decide) only [putHdr, fld_or, fld_put_disjoint, BitVec.or_zero]; rfl]
    refine (rsv_of_clear ?_).trans ?_ <;>
      simp (disch := decide) only [hdrOf, putHdr, fld_or, fld_put_same, fld_put_disjoint, fld_ofNat, BitVec.or_zero, BitVec.zero_or,
        BitVec.and_or_distrib_right, put_and_eq_zero, seval]
  | vdefer | vdrain | vtype =>
    show decode (_ ||| _) = _
    refine decode_of_decodeV (by simp (disch := decide) only [putHdr, fld_or, fld_put_disjoint, fld_ofNat, BitVec.or_zero, seval]) ?_
    rw [decodeV, show fld _ 18 7 = _ from by simp (disch := decide) only [putHdr, fld_or, fld_put_disjoint, BitVec.or_zero]; rfl]
    refine (rsv2_of_clear ?_ ?_).trans ?_ <;>
      simp (disch := decide) only [hdrOf, putHdr, fld_or, fld_put_same, fld_put_disjoint, fld_ofNat, BitVec.or_zero, BitVec.zero_or,
        BitVec.and_or_distrib_right, put_and_eq_zero, seval]
  | _ => cases he

theorem decode_encode (hw : i.isWord = true) (hf : i.wf = true) : decode (encode i) = .ok i := by
  cases he : (specOf i).engine with
  | x => exact decode_encode_x hw he
  | l => exact decode_encode_l hf he
  | m => exact decode_encode_m he
  | v => exact decode_encode_v he
  | q => exact decode_encode_q he
  | w => exact decode_encode_w he
  | y => exact decode_encode_y he

end Decodes

/-! ### A word that decodes is the encoding of what it decodes to, decoder by decoder -/

/-- The bits of a word that a field of `n` bits from `lo` covers. -/
def fieldMask (lo n : Nat) : BitVec 32 := put lo (BitVec.allOnes n)

/-- The bits that the common header covers (02 R35). -/
def hdrMask : BitVec 32 := fieldMask 27 2 ||| fieldMask 25 2

theorem put_fld (w : BitVec 32) (lo n : Nat) : put lo (fld w lo n) = w &&& fieldMask lo n := by
  apply BitVec.eq_of_getLsbD_eq
  intro i hi
  by_cases hlo : i < lo
  · simp [put, fieldMask, hlo]
  · by_cases hn : i - lo < n
    · simp [put, fld, fieldMask, hi, hlo, hn, show lo + (i - lo) = i by omega]
    · simp [put, fld, fieldMask, hi, hlo, hn]

theorem putHdr_hdrOf (w : BitVec 32) : putHdr (hdrOf w) = w &&& hdrMask := by
  rw [hdrMask, BitVec.and_or_distrib_left, ← put_fld, ← put_fld]
  rfl

/-- The operands of a word, put back one after the other. -/
theorem or_and_or_and (c w m n : BitVec 32) : c ||| w &&& m ||| w &&& n = c ||| w &&& (m ||| n) := by
  rw [BitVec.and_or_distrib_left, BitVec.or_assoc]

/-- A field of a known value fixes the bits that it covers. -/
theorem and_fieldMask_of_fld {w : BitVec 32} {lo n k : Nat} (h : (fld w lo n).toNat = k) :
    w &&& fieldMask lo n = put lo (BitVec.ofNat n k) := by
  rw [← put_fld, ← h, BitVec.ofNat_toNat, BitVec.setWidth_eq]

theorem and_or_of_and {w a b f g : BitVec 32} (ha : w &&& a = f) (hb : w &&& b = g) : w &&& (a ||| b) = f ||| g := by
  rw [BitVec.and_or_distrib_left, ha, hb]

/-- An instruction word is encoded to `w` where it has `w`'s operands (those at `m`), `w` its opcode (at `a` and in the field at `lo`), and
every other bit of `w` is clear. -/
theorem encode_of_fields {w a f r m : BitVec 32} {lo n k : Nat} {i : Instr} (ha : w &&& a = f) (hk : (fld w lo n).toNat = k)
    (hi : encode i = f ||| put lo (BitVec.ofNat n k) ||| w &&& m) (hall : a ||| fieldMask lo n ||| r ||| m = BitVec.allOnes 32)
    (hw : i.isWord = true) (hr : w &&& r = 0#32) : encode i = w ∧ i.isWord = true := by
  have h := and_or_of_and (and_or_of_and (and_or_of_and ha (and_fieldMask_of_fld hk)) hr) (rfl : w &&& m = _)
  rw [hall, BitVec.and_allOnes, BitVec.or_zero] at h
  exact ⟨by rw [hi, ← h], hw⟩

/-- What an answer of the decoder to the word `w` must be: an instruction word whose encoding is `w`, or an error. -/
def EncodesBack (w : BitVec 32) (r : Except Reject Instr) : Prop := ∀ i, r = .ok i → encode i = w ∧ i.isWord = true

theorem encodesBack_error (w : BitVec 32) (e : Reject) : EncodesBack w (.error e) := fun _ h => by cases h

/-- Every answer that is no error says: where certain bits are clear, the word is the encoding. -/
theorem encodesBack_ok {w : BitVec 32} {i : Instr} : EncodesBack w (.ok i) ↔
    (w &&& 0#32 = 0#32 → encode i = w ∧ i.isWord = true) := by
  simp [EncodesBack]

theorem encodesBack_rsv {w m : BitVec 32} {i : Instr} :
    EncodesBack w (rsv w m i) ↔ (w &&& m = 0#32 → encode i = w ∧ i.isWord = true) := by
  unfold rsv
  split <;> simp [EncodesBack, *]

theorem encodesBack_rsv2 {w m n : BitVec 32} {i : Instr} :
    EncodesBack w (rsv2 w m n i) ↔ (w &&& (m ||| n) = 0#32 → encode i = w ∧ i.isWord = true) := by
  rw [BitVec.and_or_distrib_left, BitVec.or_eq_zero_iff]
  unfold rsv2
  split
  · split <;> simp [EncodesBack, *]
  · simp [EncodesBack, *]

section EncodesBack

variable {w : BitVec 32}

theorem and_fieldMask_of_eq {lo n : Nat} {x : BitVec n} (h : fld w lo n = x) : w &&& fieldMask lo n = put lo x := by
  rw [← put_fld, h]

/-- An answer that one bit of the word chooses. -/
theorem encodesBack_bit {lo : Nat} {r s : Except Reject Instr} (h0 : w &&& fieldMask lo 1 = put lo 0#1 → EncodesBack w r)
    (h1 : w &&& fieldMask lo 1 = put lo 1#1 → EncodesBack w s) : EncodesBack w (if fld w lo 1 = 0#1 then r else s) := by
  rcases BitVec.eq_zero_or_eq_one (fld w lo 1) with h | h
  · rw [if_pos h]
    exact h0 (and_fieldMask_of_eq h)
  · rw [if_neg (by simp [h])]
    exact h1 (and_fieldMask_of_eq h)

theorem fld_toNat (lo n : Nat) : (fld w lo n).toNat = w.toNat / 2 ^ lo % 2 ^ n := by
  simp [fld, Nat.shiftRight_eq_div_pow]

theorem decodeBq_encodesBack (ha : w &&& (fieldMask 29 3 ||| fieldMask 20 5) = put 29 0#3 ||| put 20 22#5) :
    EncodesBack w (decodeBq w) := by
  unfold decodeBq
  split
  case h_4 => exact encodesBack_error w _
  all_goals
    rw [encodesBack_ok]
    exact encode_of_fields ha ‹_› (by unfold encode; simp only [putHdr_hdrOf, put_fld, or_and_or_and]; rfl) (by decide) rfl

theorem decodeAlu_encodesBack (ha : w &&& (fieldMask 29 3 ||| fieldMask 20 5) = put 29 0#3 ||| put 20 24#5) :
    EncodesBack w (decodeAlu w) := by
  unfold decodeAlu
  split
  case h_29 => exact encodesBack_error w _
  all_goals
    simp only [encodesBack_ok, encodesBack_rsv]
    exact encode_of_fields ha ‹_› (by unfold encode; simp only [putHdr_hdrOf, put_fld, or_and_or_and]; rfl) (by decide) rfl

theorem decodeControl_encodesBack (ha : w &&& (fieldMask 29 3 ||| fieldMask 20 5) = put 29 0#3 ||| put 20 25#5) :
    EncodesBack w (decodeControl w) := by
  unfold decodeControl
  split
  case h_11 => exact encodesBack_error w _
  all_goals
    simp only [encodesBack_ok, encodesBack_rsv]
    exact encode_of_fields ha ‹_› (by unfold encode; simp only [putHdr_hdrOf, put_fld, or_and_or_and]; rfl) (by decide) rfl

theorem decodeAddress_encodesBack (ha : w &&& (fieldMask 29 3 ||| fieldMask 20 5) = put 29 0#3 ||| put 20 26#5) :
    EncodesBack w (decodeAddress w) := by
  unfold decodeAddress
  split
  case h_6 => exact encodesBack_error w _
  all_goals
    rw [encodesBack_ok]
    exact encode_of_fields ha ‹_› (by unfold encode; simp only [putHdr_hdrOf, put_fld, or_and_or_and]; rfl) (by decide) rfl

theorem decodeX_encodesBack (ha : w &&& fieldMask 29 3 = put 29 0#3) : EncodesBack w (decodeX w) := by
  unfold decodeX
  split
  case h_28 => exact encodesBack_error w _
  case h_24 hk => exact decodeBq_encodesBack (and_or_of_and ha (and_fieldMask_of_fld hk))
  case h_25 hk => exact decodeAlu_encodesBack (and_or_of_and ha (and_fieldMask_of_fld hk))
  case h_26 hk => exact decodeControl_encodesBack (and_or_of_and ha (and_fieldMask_of_fld hk))
  case h_27 hk => exact decodeAddress_encodesBack (and_or_of_and ha (and_fieldMask_of_fld hk))
  all_goals
    simp only [encodesBack_ok, encodesBack_rsv]
    exact encode_of_fields ha ‹_› (by unfold encode; simp only [putHdr_hdrOf, put_fld, or_and_or_and]; rfl) (by decide) rfl

theorem decodeL_encodesBack (ha : w &&& fieldMask 29 3 = put 29 1#3) : EncodesBack w (decodeL w) := by
  unfold decodeL
  split
  case h_22 => exact encodesBack_error w _
  case h_18 =>
    -- FOPEN: the code of its kind is an operand too, and only chooses the reserved bits.
    split
    case h_3 => split <;> exact encodesBack_error w _
    all_goals
      rw [encodesBack_rsv]
      exact encode_of_fields ha ‹(fld w 19 6).toNat = 17›
        (by unfold encode; simp only [putHdr_hdrOf, put_fld, or_and_or_and]; rfl) (by decide) rfl
  all_goals
    simp only [encodesBack_ok, encodesBack_rsv]
    exact encode_of_fields ha ‹_› (by unfold encode; simp only [putHdr_hdrOf, put_fld, or_and_or_and]; rfl) (by decide) rfl

theorem decodeM_encodesBack (ha : w &&& fieldMask 29 3 = put 29 2#3) : EncodesBack w (decodeM w) := by
  unfold decodeM
  split
  case h_14 => exact encodesBack_error w _
  case h_13 hk =>
    have ha := and_or_of_and ha (and_fieldMask_of_fld hk)
    split
    case h_1 hs =>
      rw [encodesBack_rsv]
      exact encode_of_fields ha hs (by unfold encode; simp only [putHdr_hdrOf, put_fld, or_and_or_and]; rfl) (by decide) rfl
    case h_2 => split <;> exact encodesBack_error w _
    case h_3 h2 h3 =>
      -- MPROBE's selector is one bit, since the bit above it is clear.
      have hs : (fld w 6 1).toNat = 0 := by
        simp only [fld_toNat, imp_false] at h2 h3 ⊢
        omega
      rw [encodesBack_rsv]
      exact encode_of_fields ha hs (by unfold encode; simp only [putHdr_hdrOf, put_fld, or_and_or_and]; rfl) (by decide) rfl
  all_goals
    rw [encodesBack_rsv]
    exact encode_of_fields ha ‹_› (by unfold encode; simp only [putHdr_hdrOf, put_fld, or_and_or_and]; rfl) (by decide) rfl

theorem decodeV_encodesBack (ha : w &&& fieldMask 29 3 = put 29 3#3) : EncodesBack w (decodeV w) := by
  unfold decodeV
  split
  case h_63 => exact encodesBack_error w _
  all_goals
    simp only [encodesBack_ok, encodesBack_rsv, encodesBack_rsv2]
    exact encode_of_fields ha ‹_› (by unfold encode; simp only [putHdr_hdrOf, put_fld, or_and_or_and]; rfl) (by decide) rfl

theorem decodeQ_encodesBack (ha : w &&& fieldMask 29 3 = put 29 4#3) : EncodesBack w (decodeQ w) := by
  unfold decodeQ
  split
  case h_40 => exact encodesBack_error w _
  all_goals
    simp only [encodesBack_ok, encodesBack_rsv]
    exact encode_of_fields ha ‹_› (by unfold encode; simp only [putHdr_hdrOf, put_fld, or_and_or_and]; rfl) (by decide) rfl

theorem decodeW_encodesBack (ha : w &&& fieldMask 29 3 = put 29 5#3) : EncodesBack w (decodeW w) := by
  unfold decodeW
  split
  case h_7 => exact encodesBack_error w _
  case h_6 hk =>
    refine encodesBack_bit (fun hb => ?_) (fun hb => ?_) <;> rw [encodesBack_rsv]
    all_goals
      exact encode_of_fields (and_or_of_and ha hb) hk
        (by unfold encode; simp only [putHdr_hdrOf, put_fld, or_and_or_and]; rfl) (by decide) rfl
  all_goals
    rw [encodesBack_rsv]
    exact encode_of_fields ha ‹_› (by unfold encode; simp only [putHdr_hdrOf, put_fld, or_and_or_and]; rfl) (by decide) rfl

theorem decodeY_encodesBack (ha : w &&& fieldMask 29 3 = put 29 6#3) : EncodesBack w (decodeY w) := by
  unfold decodeY
  split
  case h_20 => exact encodesBack_error w _
  case h_2 hk | h_16 hk | h_17 hk =>
    refine encodesBack_bit (fun hb => ?_) (fun hb => ?_) <;> rw [encodesBack_rsv]
    all_goals
      exact encode_of_fields (and_or_of_and ha hb) hk
        (by unfold encode; simp only [putHdr_hdrOf, put_fld, or_and_or_and]; rfl) (by decide) rfl
  case h_13 hk =>
    refine encodesBack_bit (fun hb => ?_) (fun hb => ?_) <;> rw [encodesBack_rsv2]
    all_goals
      exact encode_of_fields (and_or_of_and ha hb) hk
        (by unfold encode; simp only [putHdr_hdrOf, put_fld, or_and_or_and]; rfl) (by decide) rfl
  case h_14 hk =>
    split
    case h_4 => exact encodesBack_error w _
    all_goals
      rw [encodesBack_rsv2]
      exact encode_of_fields (and_or_of_and ha (and_fieldMask_of_fld hk)) ‹(fld w 4 2).toNat = _›
        (by unfold encode; simp only [putHdr_hdrOf, put_fld, or_and_or_and]; rfl) (by decide) rfl
  case h_18 hk =>
    have ha := and_or_of_and ha (and_fieldMask_of_fld hk)
    split
    case' h_4 h0 h1 h2 =>
      have hs : (fld w 6 2).toNat = 3 := by
        simp only [imp_false] at h0 h1 h2
        have := (fld w 6 2).isLt
        omega
    all_goals
      simp only [encodesBack_ok, encodesBack_rsv, encodesBack_rsv2]
      exact encode_of_fields ha ‹(fld w 6 2).toNat = _›
        (by unfold encode; simp only [putHdr_hdrOf, put_fld, or_and_or_and]; rfl) (by decide) rfl
  all_goals
    rw [encodesBack_rsv]
    exact encode_of_fields ha ‹_› (by unfold encode; simp only [putHdr_hdrOf, put_fld, or_and_or_and]; rfl) (by decide) rfl

theorem decodeH_encodesBack (ha : w &&& fieldMask 29 3 = put 29 7#3) : EncodesBack w (decodeH w) := by
  unfold decodeH
  split
  case h_5 => exact encodesBack_error w _
  all_goals
    rw [encodesBack_ok]
    exact encode_of_fields ha ‹_› (by unfold encode; simp only [putHdr_hdrOf, put_fld, or_and_or_and]; rfl) (by decide) rfl

theorem decode_encodesBack (w : BitVec 32) : EncodesBack w (decode w) := by
  unfold decode
  split
  case h_1 h => exact decodeX_encodesBack (and_fieldMask_of_fld h)
  case h_2 h => exact decodeL_encodesBack (and_fieldMask_of_fld h)
  case h_3 h => exact decodeM_encodesBack (and_fieldMask_of_fld h)
  case h_4 h => exact decodeV_encodesBack (and_fieldMask_of_fld h)
  case h_5 h => exact decodeQ_encodesBack (and_fieldMask_of_fld h)
  case h_6 h => exact decodeW_encodesBack (and_fieldMask_of_fld h)
  case h_7 h => exact decodeY_encodesBack (and_fieldMask_of_fld h)
  case h_8 h0 h1 h2 h3 h4 h5 h6 =>
    have h : (fld w 29 3).toNat = 7 := by
      simp only [imp_false] at h0 h1 h2 h3 h4 h5 h6
      have := (fld w 29 3).isLt
      omega
    exact decodeH_encodesBack (and_fieldMask_of_fld h)

end EncodesBack

/-- Settles O42: an instruction word's operands lie in fields apart from each other and from its opcode; and the fields that the decoder
reads, with the reserved bits that it finds clear, are the whole word. -/
theorem encodingRoundTrip : Obligations.EncodingRoundTrip :=
  ⟨fun _ hw hf => decode_encode hw hf, fun w _ h => decode_encodesBack w _ h⟩

end Sys2Proof
end

section
/-! PROOFS. Words of the spec and the privilege check (02 R46 row 5): the statements `SampleWordsDecode` and `SupervisorWordsTrap`. -/

namespace Sys2Proof.Machine

/-- Settles O60, by evaluation: every word is written out. -/
theorem sampleWordsDecode : Obligations.SampleWordsDecode := by
  unfold Obligations.SampleWordsDecode
  decide

section Privilege

/-- A supervisor-only word whose group is in the profile traps 0x17 in user mode, on a strand of its role. -/
theorem earlyTrap_of_supervisor {x : Core} {k : Nat} {p : WordSpec} (hk : k ∈ p.strands) (ho : profileOff x p.engine = false)
    (hs : p.sup = true) (hm : x.csr.sup = false) : earlyTrap x k p = some (issueTrap 0x17) := by
  simp [earlyTrap, hk, ho, hs, hm]

/-- No profile leaves out the group of a supervisor-only word, and none of them is a hint. -/
theorem profileOff_hint_of_sup {i : Instr} (x : Core) (h : (specOf i).sup = true) :
    profileOff x (specOf i).engine = false ∧ (specOf i).hint = false := by
  cases i with
  | csrr | csrw | csrx | domsetInstall | domsetRemove | hmsetQuiesce | hmsetSwitch | hmsetResume | tretResume | tretAbort | rdst | wrst
  | ctxSave | ctxLoad | rgload | rgswapNow | rgswapHot | rgfreezeFreeze | rgfreezeThaw | rgreadSave | rgreadFetch | rgreadRestore
  | rgreadStatus | rgclk => exact ⟨rfl, rfl⟩
  | _ => cases h

/-- The supervisor CSRs are those from 0x100 to 0x1FF (03 R81). -/
theorem csrWord_sup (h : Hdr) (n : BitVec 10) : (csrWord h n).sup = decide (0x100 ≤ n.toNat ∧ n.toNat < 0x200) :=
  decide_eq_decide.2 (and_congr_right fun _ => Nat.lt_succ_iff.symm)

end Privilege

/-- Settles O44: the specification of each word says whether it is supervisor-only. -/
theorem supervisorWordsTrap : Obligations.SupervisorWordsTrap := by
  intro i s t privileged hw
  have hsup : (specOf i).sup = privileged := by
    cases i with
    | csrr h d n | csrw h a n | csrx h d a n => exact csrWord_sup h n
    | _ => rfl
  refine ⟨hsup, fun hp hm ha hpause hk => ?_⟩
  have hs := hsup.trans hp
  obtain ⟨ho, hh⟩ := profileOff_hint_of_sup (s.core s.cur.1) hs
  have hstop : stops i s = some (issueTrap 0x17) := by
    rw [stops, gate_early ha hpause hh (earlyTrap_of_supervisor hk ho hs hm)]
  rw [exec_word hw, issueWord_stops hstop]

end Sys2Proof.Machine
end

section
/-! PROOFS. Control words and hints (02 R48, R49, 03 R63, R70 to R77): the strand after their issue, and the statement
`ControlWordsComplete`. -/

namespace Sys2Proof.Machine

section Issue

variable {i : Instr} {s : State} {w : QWord} {y : Core}

/-- A word that pops the condition queue has the bit that stood at its head (03 R72). -/
theorem goes_bit (hg : goes i s = some (w, y)) (hh : (specOf i).hint = false) (hc : (specOf i).cqPop = true) :
    w.bit = (s.core s.cur.1).cq.headD false := by
  obtain ⟨-, -, -, -, -, -, -, -, -, va, vb, vd, -, rfl, -⟩ := (goes_iff hh).1 hg
  exact if_pos hc

/-- The strand just after the issue of a word without an own effect at issue: its slot is taken, and the pc moves. -/
theorem issued_strand_of_take_none (hg : goes i s = some (w, y)) (hh : (specOf i).hint = false)
    (ht : ∀ u, (specOf i).take s.cur.1 s.cur.2 w u = u) :
    (issued i w y s).strand s.cur.1 s.cur.2
      = (s.strand s.cur.1 s.cur.2).slot.advance w.pc ((specOf i).jump w (s.strand s.cur.1 s.cur.2)) := by
  have hs := goes_strands hg hh
  unfold issued launch
  simp only [ht, State.strand, core_modStrand, strand_coreModStrand, core_setCore, setMark_strand]
  congr 2
  unfold Core.strand
  simp only [reserve_strands, popToken_strands, hs]

/-- A hint that goes takes its slot, has its own effect and moves the pc (02 R48, R49). -/
theorem exec_hint (hw : i.isWord = true) (hh : (specOf i).hint = true) (hg : goes i s = some (w, y)) :
    exec i s = .next (issueHint s.cur.1 s.cur.2 (specOf i) w s) := by
  rw [exec_word hw, issueWord_hint hg hh]

end Issue

/-- Settles O4: what a control word does is on its own strand, at its issue; its body only finishes it. -/
theorem controlWordsComplete : Obligations.ControlWordsComplete := by
  refine ⟨fun h d a n f l => ⟨fun i hi => ?plain, ?jal, ?jalr⟩, fun h d a n f l s w y => ?strand, fun h d a im s w y => ?hints⟩
  case plain =>
    simp only [List.mem_cons, List.not_mem_nil, or_false] at hi
    rcases hi with rfl | rfl | rfl | rfl | rfl | rfl | rfl | rfl | rfl | rfl | rfl | rfl <;>
      exact computes_of_body (exec_word rfl) (fun _ _ _ _ => rfl)
  case jal => exact computes_of_body (exec_word rfl) (fun _ _ _ _ => rfl)
  case jalr => exact computes_of_body (exec_word rfl) (fun _ _ _ _ => rfl)
  case hints => exact ⟨exec_hint rfl rfl, exec_hint rfl rfl, exec_hint rfl rfl, exec_hint rfl rfl⟩
  case strand =>
    intro c k o u tgt after
    refine ⟨fun hg => ?beqz, fun hg => ?bnez, fun hg => ?bcq, fun hg => ?bncq, fun hg => ?blc,
      fun hg => issued_strand_of_take_none hg rfl fun _ => rfl, fun hg => issued_strand_of_take_none hg rfl fun _ => rfl,
      fun hg => issued_strand hg rfl fun _ => rfl, fun hg => issued_strand hg rfl fun _ => rfl,
      fun hg => issued_strand hg rfl fun _ => rfl, fun hg => ?ifq, fun hg => issued_strand hg rfl fun _ => rfl,
      fun hb hg => ?marker, fun hb hg => ?noMarker, fun hl hg => ?emptyLoop, fun hl hg => ?loop⟩
    case beqz =>
      refine (issued_strand_of_take_none hg rfl fun _ => rfl).trans (congrArg _ ?_)
      simp [specOf, specBeqz, branch, relTarget, tgt]
    case bnez =>
      refine (issued_strand_of_take_none hg rfl fun _ => rfl).trans (congrArg _ ?_)
      simp [specOf, specBnez, branch, relTarget, tgt]
    case bcq =>
      refine (issued_strand_of_take_none hg rfl fun _ => rfl).trans (congrArg _ ?_)
      show (if w.bit = true then some tgt else none) = _
      rw [goes_bit hg rfl rfl]
    case bncq =>
      refine (issued_strand_of_take_none hg rfl fun _ => rfl).trans (congrArg _ ?_)
      show (if (!w.bit) = true then some tgt else none) = _
      rw [goes_bit hg rfl rfl]
      cases (s.core c).cq.headD false <;> rfl
    case blc =>
      refine (issued_strand hg rfl fun _ => rfl).trans (congrArg _ ?_)
      simp [specOf, specBlc, branch, relTarget, tgt, o, c, k, ← not_or]
    case ifq =>
      rw [show (issued (.ifq h n) w y s).strand c k = _ from issued_strand hg rfl fun _ => rfl, goes_bit hg rfl rfl]
      rfl
    case marker =>
      have hb : inBody (s.strand s.cur.1 s.cur.2).slot w.pc = true := hb
      rw [issued_strand hg rfl fun _ => rfl, if_pos hb]
      rfl
    case noMarker =>
      have hb : ¬ inBody (s.strand s.cur.1 s.cur.2).slot w.pc = true := Bool.eq_false_iff.1 hb
      rw [issued_strand hg rfl fun _ => rfl, if_neg hb]
      rfl
    case emptyLoop =>
      have hjump : (specOf (.loopp h n l)).jump w o = some (zext w.pc + 4 + 4 * zext l) := if_pos hl
      have hl : (s.strand s.cur.1 s.cur.2).slot.lc = 0 := hl
      rw [issued_strand hg rfl fun _ => rfl, hjump, if_pos hl]
    case loop =>
      have hjump : (specOf (.loopp h n l)).jump w o = none := if_neg hl
      have hl : (s.strand s.cur.1 s.cur.2).slot.lc ≠ 0 := hl
      rw [issued_strand hg rfl fun _ => rfl, hjump, if_neg hl]
      rfl

end Sys2Proof.Machine
end

section
/-! PROOFS. The copy engine's chunks (08 R192): a counterexample to the statement `CoreEventsAct`. -/

namespace Sys2Proof.Machine

/-- A transfer within scratch that has started and whose one chunk is still to be moved. It holds a page translation, as only a CPY.IN
that waits for a piece of its chunk leaves one. -/
def pagedCopy : Xfer := { (default : Xfer) with kind := .loc, len := 32, started := true, pages := [(0, 0)] }

/-- A machine whose core 0 holds that transfer, in ring 0, slot 0. -/
def copying : State :=
  let x : Core := { d := { xfers := [pagedCopy] } }
  { State.reset with cores := [(0, x)] }

theorem xferAt_copying : xferAt (copying.core 0).d 0 0 = some pagedCopy := rfl

/-- The chunk lands, and the transfer holds no page translation any more: each chunk translates anew. -/
theorem transferChunk_copying : ∃ t, exec (.transferChunk 0 0 0) copying = .next t ∧ (t.core 0).d.xfers.map (·.pages) = [[]] :=
  ⟨_, rfl, by decide⟩

/-- Refutes O27: its clause of TRANSFER_CHUNK says how `pos`, `buf` and `req` of a transfer within scratch change, and that all else of it
stays; but a chunk that lands drops the transfer's page translations too. The statement is of every state, and so also of one whose transfer
within scratch holds such a translation. -/
theorem not_coreEventsAct : ¬ Obligations.CoreEventsAct := by
  rintro ⟨-, copies⟩
  obtain ⟨-, chunk, -⟩ := copies 0 0 0 copying pagedCopy xferAt_copying rfl
  have said := chunk rfl rfl (by decide) rfl rfl ⟨rfl, rfl⟩ rfl (by decide)
  obtain ⟨t, ht, dropped⟩ := transferChunk_copying
  rw [ht] at said
  injection said with said
  rw [said] at dropped
  exact absurd dropped (by decide)

end Sys2Proof.Machine
end

section
/-! PROOFS. Scalar arithmetic (03 R62, R63, R66 to R69, R75): the values that its words complete with, and the statements
`ScalarWordsComplete` and `DivisionWordsComplete`. -/

namespace Sys2Proof.Machine

/-! ### The rule's values (03 R62, R66 to R69) -/

section Values

variable (x y : Word)

theorem ite_slt_eq_min : (if x.slt y then x else y) = BitVec.ofInt 64 (min x.toInt y.toInt) := by
  simp only [BitVec.slt, decide_eq_true_eq, min_def_lt, apply_ite (BitVec.ofInt 64), BitVec.ofInt_toInt]

theorem ite_slt_eq_max : (if x.slt y then y else x) = BitVec.ofInt 64 (max x.toInt y.toInt) := by
  simp only [BitVec.slt, decide_eq_true_eq, max_def_lt, apply_ite (BitVec.ofInt 64), BitVec.ofInt_toInt]

theorem ite_ult_eq_min : (if x.ult y then x else y) = word (min x.toNat y.toNat) := by
  simp only [BitVec.ult, decide_eq_true_eq, min_def_lt, word, apply_ite (BitVec.ofNat 64), BitVec.ofNat_toNat, BitVec.setWidth_eq]

theorem ite_ult_eq_max : (if x.ult y then y else x) = word (max x.toNat y.toNat) := by
  simp only [BitVec.ult, decide_eq_true_eq, max_def_lt, word, apply_ite (BitVec.ofNat 64), BitVec.ofNat_toNat, BitVec.setWidth_eq]

theorem mul_eq_ofInt : x * y = BitVec.ofInt 64 (x.toInt * y.toInt) := by
  rw [BitVec.ofInt_mul, BitVec.ofInt_toInt, BitVec.ofInt_toInt]

theorem wbool_slt_sext (im : BitVec 10) : wbool (x.slt (sext im)) = if x.toInt < im.toInt then 1 else 0 := by
  rw [wbool_slt, sext, BitVec.toInt_signExtend_of_le (by decide)]

theorem zext_low_eq : zext (x.setWidth 32) = word (x.toNat % 2 ^ 32) := by
  apply BitVec.eq_of_toNat_eq
  simp [zext, word]

theorem word_shiftLeft (m k : Nat) : word m <<< k = word (2 ^ k * m) := by
  apply BitVec.eq_of_toNat_eq
  simp [word, Nat.shiftLeft_eq, Nat.mul_comm]

end Values

/-! ### Words whose body gives a value at once -/

/-- A word whose body finishes with a value of its sources, and does nothing else, computes that value. -/
theorem computes_of_value {i : Instr} {f v : QWord → Word} (hi : i.isWord = true)
    (hb : ∀ c k w t, (specOf i).body c k w t = .done t (f w) false) (hv : ∀ w, f w = v w) : Computes i v :=
  computes_of_body (exec_word hi) (fun c k w t => (hb c k w t).trans (congrArg (Run.done t · false) (hv w)))

/-- Settles O1: the body of each word finishes at once with a value of its sources, which is the rule's. -/
theorem scalarWordsComplete : Obligations.ScalarWordsComplete := by
  refine ⟨fun h d a im => ⟨?_, ?_, ?_, ?_, ?_, ?_, ?_, ?slti, ?sltiu⟩,
    fun h d a b => ⟨?_, ?_, ?_, ?_, ?_, ?_, ?_, ?_, ?slt, ?sltu, ?min, ?max, ?minu, ?maxu, ?mul, ?_, ?_, ?_, ?_, ?_, ?_, ?_, ?_, ?zextW⟩,
    fun h d a b im => ⟨?_, ?_, ?_, ?_, ?sampled, ?_, ?cmovnz, ?_, ?_, ?_, ?_, ?taddr⟩⟩
  case slti => exact computes_of_value rfl (fun _ _ _ _ => rfl) (fun w => wbool_slt_sext w.va im)
  case sltiu => exact computes_of_value rfl (fun _ _ _ _ => rfl) (fun w => wbool_ult w.va (sext im))
  case slt => exact computes_of_value rfl (fun _ _ _ _ => rfl) (fun w => wbool_slt w.va w.vb)
  case sltu => exact computes_of_value rfl (fun _ _ _ _ => rfl) (fun w => wbool_ult w.va w.vb)
  case min => exact computes_of_value rfl (fun _ _ _ _ => rfl) (fun w => ite_slt_eq_min w.va w.vb)
  case max => exact computes_of_value rfl (fun _ _ _ _ => rfl) (fun w => ite_slt_eq_max w.va w.vb)
  case minu => exact computes_of_value rfl (fun _ _ _ _ => rfl) (fun w => ite_ult_eq_min w.va w.vb)
  case maxu => exact computes_of_value rfl (fun _ _ _ _ => rfl) (fun w => ite_ult_eq_max w.va w.vb)
  case mul => exact computes_of_value rfl (fun _ _ _ _ => rfl) (fun w => mul_eq_ofInt w.va w.vb)
  case zextW => exact computes_of_value rfl (fun _ _ _ _ => rfl) (fun w => zext_low_eq w.va)
  case sampled =>
    -- RDLC has read lc in its issue cycle (R75).
    intro s w y hg
    obtain ⟨-, -, -, -, -, -, -, -, -, hres, -⟩ := goes_fields hg rfl
    exact hres
  case cmovnz => exact computes_of_value rfl (fun _ _ _ _ => rfl) (fun w => (ite_not (w.vb = 0) w.va w.vd).symm)
  case taddr =>
    exact computes_of_value rfl (fun _ _ _ _ => rfl)
      (fun w => congrArg (w.va + ·) (word_shiftLeft (morton (wbits w.vb 47 32) (wbits w.vb 15 0)) 11))
  all_goals exact computes_of_body (exec_word rfl) (fun _ _ _ _ => rfl)

/-! ### Division (03 R67) -/

section Division

variable {i : Instr} {h : Hdr} {d a b : BitVec 5} {zero : Word → Word} {f : Word → Word → Word}
  (hs : specOf i = divide h d a b zero f)

include hs

/-- By a divisor that is not zero, a division word finishes with its quotient or remainder. -/
theorem body_divide_of_ne {w : QWord} (hw : w.vb ≠ 0) (c k : Nat) (t : State) :
    (specOf i).body c k w t = .done t (f w.va w.vb) false := hs ▸ if_neg hw

/-- By zero, it finishes with the rule's value and dz, or stops where dz's trap is enabled. -/
theorem body_divide_of_zero {w : QWord} (hw : w.vb = 0) (c k : Nat) (t : State) : (specOf i).body c k w t =
    if trapped (t.strand c k).trapen Flags.dz = true then .trap (runTrap 0x14) w t else .done (t.raise c k Flags.dz) (zero w.va) false :=
  hs ▸ if_pos hw

theorem completesIf_of_divide (hi : i.isWord = true) :
    CompletesIf (fun w _ => w.vb ≠ 0) i (fun w _ => f w.va w.vb) (fun _ _ => false) (fun _ t => t) :=
  fun s _ t hr hw => runs_done (exec_word hi s) hr (body_divide_of_ne hs hw s.cur.1 s.cur.2 t)

theorem zeroDivides_of_divide (hi : i.isWord = true) : ZeroDivides i zero := by
  intro s w t hr hw
  have hb := body_divide_of_zero hs hw s.cur.1 s.cur.2 t
  have he : (specOf i).engine = .x := hs ▸ rfl
  split_ifs at hb ⊢ with htrap
  · rw [runs_trap (exec_word hi s) hr hb (by decide) (by decide), he]
  · exact runs_done (exec_word hi s) hr hb

end Division

/-! The four words differ in the value by zero and in the quotient or remainder. -/

section DivisionWords

variable (h : Hdr) (d a b : BitVec 5)

theorem specOf_div : specOf (.div h d a b) =
    divide h d a b (fun _ => BitVec.allOnes 64) (fun x y => BitVec.ofInt 64 (x.toInt.tdiv y.toInt)) := rfl

theorem specOf_divu : specOf (.divu h d a b) =
    divide h d a b (fun _ => BitVec.allOnes 64) (fun x y => word (x.toNat / y.toNat)) := rfl

/-- The remainder is what the quotient, truncated toward zero, leaves. -/
theorem specOf_rem : specOf (.rem h d a b) = divide h d a b id (fun x y => BitVec.ofInt 64 (x.toInt.tmod y.toInt)) := by
  simp only [Int.tmod_def]
  rfl

theorem specOf_remu : specOf (.remu h d a b) = divide h d a b id (fun x y => word (x.toNat % y.toNat)) := rfl

end DivisionWords

/-- Settles O2: the four words have one body, which asks only whether the divisor is zero. -/
theorem divisionWordsComplete : Obligations.DivisionWordsComplete := by
  intro h d a b
  have hdiv := specOf_div h d a b
  have hdivu := specOf_divu h d a b
  have hrem := specOf_rem h d a b
  have hremu := specOf_remu h d a b
  have cdiv := completesIf_of_divide hdiv rfl
  have cdivu := completesIf_of_divide hdivu rfl
  have crem := completesIf_of_divide hrem rfl
  have cremu := completesIf_of_divide hremu rfl
  refine ⟨cdiv, cdivu, crem, cremu, zeroDivides_of_divide hdiv rfl, zeroDivides_of_divide hdivu rfl, zeroDivides_of_divide hrem rfl,
    zeroDivides_of_divide hremu rfl, fun c k w t hw => ?nonzero, fun c k w t hw => ?zero⟩
  case nonzero =>
    have body {i : Instr} {z f} (hs : specOf i = divide h d a b z f) := body_divide_of_ne hs hw c k t
    exact ⟨body hdiv, body hdivu, body hrem, body hremu⟩
  case zero =>
    have body {i : Instr} {z f} (hs : specOf i = divide h d a b z f) := body_divide_of_zero hs hw c k t
    exact ⟨body hdiv, body hdivu, body hrem, body hremu⟩

end Sys2Proof.Machine
end

section
/-! PROOFS. Scratch loads and stores and CSR words (03 R64, R81, R83): the statement `ScratchAndCsrWordsComplete`. -/

namespace Sys2Proof.Machine

/-- An access whose pages are all there goes on at once (05 R116). -/
theorem withPages_of_present {c a n : Nat} {w : QWord} {s : State} {go : State → Run} (h : (s.core c).d.absent a n = []) :
    withPages c a n w s go = go s := by
  simp only [withPages, h, List.isEmpty_nil, if_true]

section Scratch

variable {h : Hdr} {d a : BitVec 5} {im : BitVec 10} {n : Nat} {ext : Nat → Word} {c : Nat} {w : QWord} {t : State}

/-- An LDX finishes with the bytes at its address where their pages are there and no line of them is poisoned (03 R64). -/
theorem ldx_body (ho : ScratchOk c (w.va + sext im * word n).toNat n t) (k : Nat) : (ldx h d a im n ext).body c k w t =
    .done t (ext (leNat (memReadN (t.core c).d.scratch (w.va + sext im * word n).toNat n))) false := by
  obtain ⟨hpages, hpoison⟩ := ho
  simp only [ldx, withPages_of_present hpages, hpoison, Bool.false_eq_true, if_false, CoreData.scrRead]

/-- An STX writes the low bytes of field d at its address where their pages are there (03 R64). -/
theorem stx_body (hpages : (t.core c).d.absent (w.va + sext im * word n).toNat n = []) (k : Nat) : (stx h d a im n).body c k w t =
    .done (t.modData c (·.scrWrite (w.va + sext im * word n).toNat (leBytes n w.vd.toNat))) 0 false := by
  simp only [stx, withPages_of_present hpages]

end Scratch

/-- CSRR has sampled a CSR of the loop in its issue cycle, and reads every other when it retires (03 R76, R83). -/
theorem csrr_body {h : Hdr} {d : BitVec 5} {n : BitVec 10} {s : State} {w : QWord} {y : Core} (hg : goes (.csrr h d n) s = some (w, y))
    (t : State) : (specOf (.csrr h d n)).body s.cur.1 s.cur.2 w t = .done (csrReadEffect s.cur.1 s.cur.2 n.toNat t)
      (if loopCsr n then csrGet s s.cur.1 s.cur.2 n.toNat else csrGet t s.cur.1 s.cur.2 n.toNat) false := by
  obtain ⟨-, -, -, -, -, -, -, -, -, hres, -⟩ := goes_fields hg rfl
  have hres : w.res = if loopCsr n then csrGet s s.cur.1 s.cur.2 n.toNat else 0 := hres
  refine congrArg (Run.done _ · false) (?_ : (if loopCsr n then w.res else _) = _)
  rw [hres]
  split <;> rfl

/-- Settles O3: each word is one run of its body, whose pages are there and, for a load, whose lines are not poisoned. -/
theorem scratchAndCsrWordsComplete : Obligations.ScratchAndCsrWordsComplete := by
  refine ⟨fun h d a im s w t => ⟨fun hr ho => ?ldxD, fun hr ho => ?ldxW, fun hr hp => ?stxD, fun hr hp => ?stxW⟩,
    fun h d a n s w t => ⟨fun hr => ?csrr, fun hr => runs_done (exec_word rfl s) hr rfl, fun hr => runs_done (exec_word rfl s) hr rfl⟩⟩
  case ldxD => exact runs_done (exec_word rfl s) hr (ldx_body (n := 8) (ext := word) ho s.cur.2)
  case ldxW => exact runs_done (exec_word rfl s) hr (ldx_body (n := 4) (ext := fun v => sext (BitVec.ofNat 32 v)) ho s.cur.2)
  case stxD => exact runs_done (exec_word rfl s) hr (stx_body (n := 8) hp s.cur.2)
  case stxW => exact runs_done (exec_word rfl s) hr (stx_body (n := 4) hp s.cur.2)
  case csrr =>
    obtain ⟨y, hg, -⟩ := runsNow_iff.1 hr
    exact runs_done (exec_word rfl s) hr (csrr_body hg t)

end Sys2Proof.Machine
end

section
/-! PROOFS. The rotation of scalar names (03 R78, R79): the statements `RotationMapping` and `SetRotationBase`. -/

namespace Sys2Proof.Machine

/-! ### The mapping (03 R78) -/

theorem physReg_rotating {n : Nat} (rot : BitVec 4) (h16 : 16 ≤ n) (h28 : n < 28) : physReg rot n = 16 + (n - 16 + rot.toNat) % 12 := by
  simp [physReg, h16, h28]

theorem physReg_fixed {n : Nat} (rot : BitVec 4) (h : n < 16 ∨ 28 ≤ n) : physReg rot n = n := by
  have : ¬ (16 ≤ n ∧ n < 28) := by omega
  simp [physReg, this]

/-- At rot.base zero the names are the registers. -/
theorem physReg_zero {n : Nat} (h : n < 28) : physReg 0 n = n := by
  by_cases h16 : 16 ≤ n
  · rw [physReg_rotating 0 h16 h]
    simp
    omega
  · exact physReg_fixed 0 (.inl (by omega))

theorem dstOf_reg {k : Nat} {rot : BitVec 4} {r : BitVec 5} (h : r.toNat < 28) : dstOf k rot (some r) = .reg (physReg rot r.toNat) :=
  if_pos h

/-! ### Dispatch and the end of a pass (01 R30, 03 R76) -/

/-- Writing the arguments of a node leaves rot.base as a strand of a new node has it. -/
theorem dispatchStrand_rotBase (entries : Word) (args : List Word) (map : List Nat) (k : Nat) :
    (dispatchStrand entries args map k).rotBase = 0 := by
  unfold dispatchStrand
  dsimp only
  refine (foldl_field Strand.rotBase (fun t (p : Nat × Word) => setReg_rotBase t _ _) _ _).trans ?_
  split <;> rfl

/-- A dispatch writes each of the four strands. -/
theorem strand_dispatchCore (r : NodeRef) (l : Launch) (n : Node) (args : List Word) (maps : Nat → List Nat) (x : Core) {k : Nat}
    (hk : k < 4) : (dispatchCore r l n args maps x).strand k = dispatchStrand n.entries args (maps k) k := by
  interval_cases k <;> rfl

/-- A pass lowers rot.base by one, modulo 12, whether the loop goes on or ends. -/
theorem endPass_rotBase (t : Strand) (l : LoopState) : (t.endPass l).rotBase = BitVec.ofNat 4 ((t.rotBase.toNat + 11) % 12) := by
  unfold Strand.endPass
  dsimp only
  split <;> rfl

theorem endPass_rotBase_toNat (t : Strand) (l : LoopState) : (t.endPass l).rotBase.toNat = (t.rotBase.toNat + 11) % 12 := by
  rw [endPass_rotBase, BitVec.toNat_ofNat]
  omega

/-- Settles O48: the mapping is arithmetic modulo 12 on the names 16 to 27, and s17 after a pass is where s16 was before it. -/
theorem rotationMapping : Obligations.RotationMapping := by
  refine ⟨fun rot n => physReg_rotating rot, fun rot n => physReg_fixed rot, fun n => physReg_zero,
    fun x k r hr => ⟨popSrc_reg x hr, dstOf_reg hr⟩, fun r l n args maps x k hk => ?dispatch,
    fun t l ht => ⟨endPass_rotBase_toNat t l, ?pass⟩⟩
  case dispatch => rw [strand_dispatchCore r l n args maps x hk, dispatchStrand_rotBase]
  case pass =>
    rw [physReg_rotating _ (by omega) (by omega), physReg_rotating _ (by omega) (by omega), endPass_rotBase_toNat]
    omega

end Sys2Proof.Machine
end

section
/-! PROOFS. The frame of the scalar arithmetic words (03 R60 to R69): what their step leaves of the machine, and the statement
`ScalarWordsKeep`. -/

namespace Sys2Proof.Machine

/-! ### What a scalar arithmetic word leaves -/

/-- What it leaves of its strand: every register but its destination `dst`, the whole file where that is none of them, and every flag but
those of `f`, which may be set. -/
structure StrandKeeps (dst : Dst) (f : Flags) (t u : Strand) : Prop where
  file : (∀ n, dst ≠ .reg n) → u.regs = t.regs
  regs : ∀ n, dst ≠ .reg n → u.reg n = t.reg n
  flags : u.flags = t.flags ∨ u.flags = t.flags ||| f
  trapen : u.trapen = t.trapen
  vtype : u.vtype = t.vtype
  round : u.round = t.round
  g : u.g = t.g

/-- What it leaves of its core, which it runs on for strand `k`. -/
structure CoreKeeps (k : Nat) (dst : Dst) (f : Flags) (x y : Core) : Prop where
  d : y.d = x.d
  csr : y.csr = x.csr
  code : y.code = x.code
  strands : ∀ j, j ≠ k → y.strand j = x.strand j
  strand : StrandKeeps dst f (x.strand k) (y.strand k)

/-- What it leaves of the machine. -/
structure Keeps (c k : Nat) (dst : Dst) (f : Flags) (s t : State) : Prop where
  mem : t.mem = s.mem
  cores : ∀ e, e ≠ c → t.core e = s.core e
  core : CoreKeeps k dst f (s.core c) (t.core c)

section Keeps

variable {c k : Nat} {dst : Dst} {f : Flags}

theorem StrandKeeps.refl (t : Strand) : StrandKeeps dst f t t := ⟨fun _ => rfl, fun _ _ => rfl, .inl rfl, rfl, rfl, rfl, rfl⟩

theorem StrandKeeps.trans {t u v : Strand} (h : StrandKeeps dst f t u) (h' : StrandKeeps dst f u v) : StrandKeeps dst f t v where
  file hd := (h'.file hd).trans (h.file hd)
  regs n hn := (h'.regs n hn).trans (h.regs n hn)
  flags := by
    rcases h'.flags with e' | e' <;> rcases h.flags with e | e <;> rw [e', e]
    · exact .inl rfl
    · exact .inr rfl
    · exact .inr rfl
    · exact .inr (by rw [BitVec.or_assoc, BitVec.or_self])
  trapen := h'.trapen.trans h.trapen
  vtype := h'.vtype.trans h.vtype
  round := h'.round.trans h.round
  g := h'.g.trans h.g

theorem CoreKeeps.trans {x y z : Core} (h : CoreKeeps k dst f x y) (h' : CoreKeeps k dst f y z) : CoreKeeps k dst f x z :=
  ⟨h'.d.trans h.d, h'.csr.trans h.csr, h'.code.trans h.code, fun j hj => (h'.strands j hj).trans (h.strands j hj), h.strand.trans h'.strand⟩

/-- An update of what the frame does not name: queues between strands, tokens, the network, the cycle's mark. -/
theorem CoreKeeps.of_eq {x y : Core} (hd : y.d = x.d) (hcsr : y.csr = x.csr) (hcode : y.code = x.code) (hs : y.strands = x.strands) :
    CoreKeeps k dst f x y := by
  have hst (j : Nat) : y.strand j = x.strand j := congrArg (fun t => tget ({} : Strand) t j) hs
  exact ⟨hd, hcsr, hcode, fun j _ => hst j, hst k ▸ .refl _⟩

theorem CoreKeeps.modStrand {x : Core} {g : Strand → Strand} (h : StrandKeeps dst f (x.strand k) (g (x.strand k))) :
    CoreKeeps k dst f x (x.modStrand k g) :=
  ⟨rfl, rfl, rfl, fun _ hj => strand_coreModStrand_ne x g hj, (strand_coreModStrand x k g).symm ▸ h⟩

theorem Keeps.refl (s : State) : Keeps c k dst f s s := ⟨rfl, fun _ _ => rfl, .of_eq rfl rfl rfl rfl⟩

theorem Keeps.trans {s t u : State} (h : Keeps c k dst f s t) (h' : Keeps c k dst f t u) : Keeps c k dst f s u :=
  ⟨h'.mem.trans h.mem, fun e he => (h'.cores e he).trans (h.cores e he), h.core.trans h'.core⟩

theorem Keeps.setCore {s : State} {y : Core} (h : CoreKeeps k dst f (s.core c) y) : Keeps c k dst f s (s.setCore c y) :=
  ⟨rfl, fun _ he => core_setCore_ne s y he, (core_setCore s c y).symm ▸ h⟩

theorem Keeps.modStrand {s : State} {g : Strand → Strand} (h : StrandKeeps dst f (s.strand c k) (g (s.strand c k))) :
    Keeps c k dst f s (s.modStrand c k g) := .setCore (.modStrand h)

/-! ### The operations of issue and retirement (01 R19, R27, R31, 05 R111) -/

theorem slot_keeps (t : Strand) : StrandKeeps dst f t t.slot := ⟨fun _ => rfl, fun _ _ => rfl, .inl rfl, rfl, rfl, rfl, rfl⟩

theorem setQueue_keeps (t : Strand) (e : Engine) (q : List QWord) : StrandKeeps dst f t (t.setQueue e q) :=
  ⟨fun _ => rfl, fun _ _ => rfl, .inl rfl, rfl, rfl, rfl, rfl⟩

theorem endPass_keeps (t : Strand) (l : LoopState) : StrandKeeps dst f t (t.endPass l) := by
  unfold Strand.endPass
  dsimp only
  split <;> exact ⟨fun _ => rfl, fun _ _ => rfl, .inl rfl, rfl, rfl, rfl, rfl⟩

theorem advance_keeps (t : Strand) (pc : BitVec 32) (target : Option Word) : StrandKeeps dst f t (t.advance pc target) := by
  unfold Strand.advance
  split
  · exact ⟨fun _ => rfl, fun _ _ => rfl, .inl rfl, rfl, rfl, rfl, rfl⟩
  · split
    · exact ⟨fun _ => rfl, fun _ _ => rfl, .inl rfl, rfl, rfl, rfl, rfl⟩
    · split
      · exact endPass_keeps t _
      · exact ⟨fun _ => rfl, fun _ _ => rfl, .inl rfl, rfl, rfl, rfl, rfl⟩

theorem skipWord_keeps (p : WordSpec) (t : Strand) : StrandKeeps dst f t (skipWord p t) := by
  unfold skipWord
  refine StrandKeeps.trans ?_ (advance_keeps _ t.pc none)
  split <;> exact ⟨fun _ => rfl, fun _ _ => rfl, .inl rfl, rfl, rfl, rfl, rfl⟩

theorem setReg_keeps (t : Strand) (p : Nat) (v : Word) : StrandKeeps (.reg p) f t (t.setReg p v) where
  file hd := absurd rfl (hd p)
  regs n hn := by
    rw [reg_setReg]
    split
    · rename_i h0
      exact h0 ▸ rfl
    · exact if_neg (fun e => hn (congrArg Dst.reg e.symm))
  flags := .inl (setReg_flags t p v)
  trapen := setReg_trapen t p v
  vtype := setReg_vtype t p v
  round := setReg_round t p v
  g := setReg_g t p v

theorem setMark_keeps (x : Core) (n : Nat) (g : CycleMark → CycleMark) : CoreKeeps k dst f x (x.setMark n g) := .of_eq rfl rfl rfl rfl

theorem popSrc_keeps {r : Option (BitVec 5)} {x y : Core} {v : Word} (h : popSrc k r x = some (v, y)) : CoreKeeps k dst f x y := by
  have hs := popSrc_strands h
  unfold popSrc at h
  split at h
  · cases h
    exact .of_eq rfl rfl rfl hs
  · split at h
    · cases h
      exact .of_eq rfl rfl rfl hs
    · split at h
      · split at h
        · cases h
        · cases h
          exact .of_eq rfl rfl rfl hs
      · dsimp only at h
        split at h
        · cases h
        · split at h
          · cases h
            exact .of_eq rfl rfl rfl hs
          · cases h

theorem popSrcs_keeps {p : WordSpec} {x y : Core} {va vb vd : Word} (h : popSrcs k p x = some (va, vb, vd, y)) : CoreKeeps k dst f x y := by
  obtain ⟨x1, x2, ha, hb, hd⟩ := popSrcs_iff.1 h
  exact ((popSrc_keeps ha).trans (popSrc_keeps hb)).trans (popSrc_keeps hd)

theorem popToken_keeps (h : Hdr) (x : Core) : CoreKeeps k dst f x (popToken k h x) := by
  unfold popToken
  split <;> exact .of_eq rfl rfl rfl rfl

theorem reserve_keeps (seq : Nat) (d : Dst) (x : Core) : CoreKeeps k dst f x (reserve k seq d x) := by
  unfold reserve
  split <;> exact .of_eq rfl rfl rfl rfl

theorem writeDst_keeps (c cyc seq : Nat) (sendto v : Word) (x : Core) : CoreKeeps k dst f x (writeDst c k cyc seq sendto dst v x) := by
  unfold writeDst
  split
  · exact .of_eq rfl rfl rfl rfl
  · exact .modStrand (setReg_keeps _ _ _)
  · exact .of_eq rfl rfl rfl rfl
  · exact .of_eq rfl rfl rfl rfl

theorem pushTokens_keeps (h : Hdr) (tk : Nat × Nat) (x : Core) : CoreKeeps k dst f x (pushTokens k h tk x) := by
  unfold pushTokens
  refine foldl_keeps (P := CoreKeeps k dst f x) (fun y i hy => hy.trans ?_) _ x (.of_eq rfl rfl rfl rfl)
  split <;> exact .of_eq rfl rfl rfl rfl

theorem complete_keeps (p : WordSpec) {w : QWord} (hw : w.dst = dst) (v : Word) (b : Bool) (s : State) :
    Keeps c k dst f s (complete c k p w v b s) := by
  subst hw
  have hdst : CoreKeeps k w.dst f (s.core c) _ := writeDst_keeps c s.cycle w.seq w.sendto v (s.core c)
  refine .setCore ((hdst.trans ?_).trans ((pushTokens_keeps p.hdr (p.tokens w) _).trans (setMark_keeps _ _ _)))
  split <;> exact .of_eq rfl rfl rfl rfl

theorem enqueue_keeps (e : Engine) (w : QWord) (s : State) : Keeps c k dst f s (enqueue c k e w s) := .modStrand (setQueue_keeps _ _ _)

theorem turned_keeps (s : State) : Keeps c k dst f s (turned c k s) := .setCore (setMark_keeps _ _ _)

theorem raise_keeps (s : State) : Keeps c k dst f s (s.raise c k f) := .modStrand ⟨fun _ => rfl, fun _ _ => rfl, .inr rfl, rfl, rfl, rfl, rfl⟩

/-- A word that has run has retired, or waits for its retirement. -/
theorem finish_keeps {i : Instr} {w : QWord} (hw : w.dst = dst) (v : Word) (b : Bool) (s : State) :
    Keeps c k dst f s (finish c k i w v b s) := by
  unfold finish
  split
  · exact complete_keeps (specOf i) hw v b s
  · exact enqueue_keeps _ _ s

/-- The issue of a word without an own effect at issue. -/
theorem launch_keeps {p : WordSpec} {w : QWord} {y : Core} {s : State} (hy : CoreKeeps k dst f (s.core c) y)
    (ht : ∀ t, p.take c k w t = t) : Keeps c k dst f s (launch c k p w y s) := by
  unfold launch
  extract_lets old y1 y2 y3 y4 s1
  have hpop : CoreKeeps k dst f y y1 := popToken_keeps p.hdr y
  have hcq : CoreKeeps k dst f y1 y2 := .of_eq rfl rfl rfl rfl
  have hres : CoreKeeps k dst f y2 y3 := reserve_keeps w.seq w.dst y2
  have hseq : CoreKeeps k dst f y3 y4 := .of_eq rfl rfl rfl rfl
  have hslot : CoreKeeps k dst f y4 (y4.modStrand k (·.slot)) := .modStrand (slot_keeps _)
  have hset : Keeps c k dst f s s1 :=
    .setCore ((((hy.trans hpop).trans (hcq.trans hres)).trans (hseq.trans hslot)).trans (setMark_keeps _ _ _))
  rw [ht]
  exact hset.trans (.modStrand (advance_keeps _ _ _))

end Keeps

/-! ### The issue of a scalar arithmetic word (01 R26 to R31, 05 R124) -/

/-- A word of X that names no register of the shared files, has no effect at its issue, and whose body finishes, with flags of `f` set at
most, where no trap of `f` is enabled. -/
structure ScalarSpec (p : WordSpec) (f : Flags) : Prop where
  engine : p.engine = .x
  hint : p.hint = false
  rd : p.rd = []
  wr : p.wr = []
  rdw : ∀ w, p.rdw w = []
  wrw : ∀ w, p.wrw w = []
  take : ∀ c k w s, p.take c k w s = s
  body : ∀ c k w s, trapped (s.strand c k).trapen f = false → ∃ v, p.body c k w s = .done s v false ∨ p.body c k w s = .done (s.raise c k f) v false

section Issue

variable {i : Instr} {f : Flags} {c k : Nat} {dst : Dst} {s : State} {w : QWord}

theorem ScalarSpec.body_keeps {p : WordSpec} (hp : ScalarSpec p f) (ht : trapped (s.strand c k).trapen f = false) :
    ∃ u v, p.body c k w s = .done u v false ∧ Keeps c k dst f s u := by
  obtain ⟨v, hb | hb⟩ := hp.body c k w s ht
  · exact ⟨s, v, hb, .refl s⟩
  · exact ⟨_, v, hb, raise_keeps s⟩

/-- Errors in the shared files neither stop it, since it reads none of their registers, nor are mended by it. -/
theorem ScalarSpec.runBody_keeps (hp : ScalarSpec (specOf w.i) f) (ht : trapped (s.strand c k).trapen f = false) :
    ∃ u v, runBody c k (specOf w.i) w s = .done u v false ∧ Keeps c k dst f s u := by
  obtain ⟨u, v, hb, hk⟩ := hp.body_keeps (w := w) (dst := dst) ht
  have hr : readsOf w = [] := by simp [readsOf, hp.rd, hp.rdw]
  have hw : writesOf w = [] := by simp [writesOf, hp.wr, hp.wrw]
  unfold runBody
  rw [hb, hr, mendRun, hw]
  dsimp only
  split
  · exact ⟨u, v, rfl, hk⟩
  · refine ⟨_, v, rfl, hk.trans (.setCore (.of_eq ?_ rfl rfl rfl))⟩
    simp

theorem ScalarSpec.serveRun_keeps (hp : ScalarSpec (specOf w.i) f) (ht : trapped (s.strand c k).trapen f = false) :
    ∃ u v, serveRun c k (specOf w.i) w s = .done u v false ∧ Keeps c k dst f s u := by
  obtain ⟨u, v, hr, hk⟩ := hp.runBody_keeps (w := w) (dst := dst) ht
  have hrace : racing (s.core c) k (specOf w.i) w = false := by simp [racing, hp.engine]
  have hserve : serveStrand c k (specOf w.i).engine s = s := by simp [serveStrand, hp.engine]
  exact ⟨u, v, by simp only [serveRun, hrace, hserve, Bool.false_eq_true, if_false, hr], hk⟩

/-- Where it goes, it has run and retired, has run and waits for its retirement, or waits in its queue. -/
theorem ScalarSpec.issueGo_keeps {y : Core} (hp : ScalarSpec (specOf w.i) f) (hy : CoreKeeps k w.dst f (s.core c) y)
    (ht : trapped (s.strand c k).trapen f = false) : Keeps c k w.dst f s (issueGo c k (specOf w.i) w y s) := by
  have hl : Keeps c k w.dst f s (launch c k (specOf w.i) w y s) := launch_keeps hy (hp.take c k w)
  unfold issueGo
  dsimp only
  split
  · have ht' : trapped ((launch c k (specOf w.i) w y s).strand c k).trapen f = false := hl.core.strand.trapen ▸ ht
    obtain ⟨u, v, hr, hk⟩ := hp.serveRun_keeps (w := w) (dst := w.dst) ht'
    rw [hr]
    refine (hl.trans hk).trans ?_
    unfold settleNow
    dsimp only
    split
    · exact complete_keeps _ rfl v false u
    · exact enqueue_keeps _ _ u
  · exact hl.trans (enqueue_keeps _ w _)

/-- A scalar arithmetic word that no check stops leaves all but its destination and flags of `f`, whichever end its issue comes to. -/
theorem ScalarSpec.exec_keeps (hi : i.isWord = true) (hp : ScalarSpec (specOf i) f) (hs : stops i s = none)
    (ht : trapped (s.strand s.cur.1 s.cur.2).trapen f = false) :
    ∃ t, exec i s = .next t ∧
      Keeps s.cur.1 s.cur.2 (dstOf s.cur.2 (s.strand s.cur.1 s.cur.2).rotBase (specOf i).dst) f s t := by
  refine ⟨_, exec_word hi s, ?_⟩
  cases hg : gate s.cur.1 s.cur.2 i (specOf i) s with
  | idle =>
    simp only [issueWord, hg]
    exact .refl s
  | stop e => simp [stops, hg] at hs
  | skip =>
    simp only [issueWord, hg]
    exact .trans (.modStrand (skipWord_keeps _ _)) (turned_keeps _)
  | block b =>
    rw [issueWord_blocks hg]
    exact .modStrand ⟨fun _ => rfl, fun _ _ => rfl, .inl rfl, rfl, rfl, rfl, rfl⟩
  | go w y =>
    have hgo : goes i s = some (w, y) := by simp [goes, hg]
    obtain ⟨-, -, -, -, -, -, -, -, -, va, vb, vd, hsrc, rfl, -⟩ := (goes_iff hp.hint).1 hgo
    rw [issueWord_goes hgo hp.hint]
    exact ScalarSpec.issueGo_keeps (w := newWord s.cur.1 s.cur.2 i (specOf i) va vb vd s) hp (popSrcs_keeps hsrc) ht

end Issue

/-! ### The words -/

/-- A specification that leaves every other field at its default, and whose body gives a value, with no flag. -/
theorem scalarSpec_of_value {hdr : Hdr} {a b d dst : Option (BitVec 5)} {uses pre} {body : Nat → Nat → QWord → State → Run}
    (hb : ∀ c k w s, ∃ v, body c k w s = .done s v false) :
    ScalarSpec { engine := .x, hdr := hdr, a := a, b := b, d := d, dst := dst, uses := uses, pre := pre, body := body } 0 where
  engine := rfl
  hint := rfl
  rd := rfl
  wr := rfl
  rdw _ := rfl
  wrw _ := rfl
  take _ _ _ _ := rfl
  body c k w s _ := (hb c k w s).imp fun _ => .inl

/-- A division sets dz, or no flag. -/
theorem scalarSpec_divide {h : Hdr} {d a b : BitVec 5} {zero : Word → Word} {q : Word → Word → Word} :
    ScalarSpec (divide h d a b zero q) Flags.dz where
  engine := rfl
  hint := rfl
  rd := rfl
  wr := rfl
  rdw _ := rfl
  wrw _ := rfl
  take _ _ _ _ := rfl
  body c k w s ht := by
    by_cases hw : w.vb = 0
    · refine ⟨zero w.va, .inr ((if_pos hw).trans ?_)⟩
      rw [ht]
      rfl
    · exact ⟨q w.va w.vb, .inl (if_neg hw)⟩

theorem trapped_zero (trapen : Flags) : trapped trapen 0 = false := by simp [trapped]

/-- Settles O51: whichever end its issue comes to, a scalar word changes of its strand's registers its destination alone, and a division
besides sets dz at most. -/
theorem scalarWordsKeep : Obligations.ScalarWordsKeep := by
  intro h d a b im il s c k u keeps
  have kept {i : Instr} {f : Flags} {t : State} (hk : Keeps c k (dstOf k u.rotBase (specOf i).dst) f s t) : keeps i t := by
    obtain ⟨hmem, hcores, ⟨hd, hcsr, hcode, hstrands, ⟨-, hregs, -, htrapen, hvtype, hround, hg⟩⟩⟩ := hk
    exact ⟨hmem, hd, hcsr, hcode, hcores, hstrands, hregs, htrapen, hvtype, hround, hg⟩
  refine ⟨fun i hi hs => ?arithmetic, fun i hi hs htrap => ?division⟩
  case arithmetic =>
    have hp : i.isWord = true ∧ ScalarSpec (specOf i) 0 := by
      fin_cases hi <;> exact ⟨rfl, scalarSpec_of_value (fun _ _ _ _ => ⟨_, rfl⟩)⟩
    obtain ⟨t, ht, hk⟩ := hp.2.exec_keeps hp.1 hs (trapped_zero _)
    refine ⟨t, ht, kept hk, ?_⟩
    exact hk.core.strand.flags.elim id (·.trans BitVec.or_zero)
  case division =>
    have hp : i.isWord = true ∧ ScalarSpec (specOf i) Flags.dz := by
      fin_cases hi
      · exact ⟨rfl, specOf_div h d a b ▸ scalarSpec_divide⟩
      · exact ⟨rfl, specOf_divu h d a b ▸ scalarSpec_divide⟩
      · exact ⟨rfl, specOf_rem h d a b ▸ scalarSpec_divide⟩
      · exact ⟨rfl, specOf_remu h d a b ▸ scalarSpec_divide⟩
    obtain ⟨t, ht, hk⟩ := hp.2.exec_keeps hp.1 hs htrap
    exact ⟨t, ht, kept hk, hk.core.strand.flags⟩

end Sys2Proof.Machine
end

section
/-! PROOFS. Conditional moves and SETRB, words of group 0x19 (02 R43, 03 R69, R79): the statements `ConditionalMoves` and
`SetRotationBase`. -/

namespace Sys2Proof.Machine

/-! ### The words of group 0x19 (02 R43) -/

/-- A field under a mask that covers it. -/
theorem fld_of_and_eq {w m v : BitVec 32} (h : w &&& m = v) {lo n : Nat} (hm : fld m lo n = BitVec.allOnes n) :
    fld w lo n = fld v lo n := by
  have hand : fld (w &&& m) lo n = fld w lo n &&& fld m lo n := BitVec.extractLsb'_and
  rw [← h, hand, hm, BitVec.and_allOnes]

/-- A word of group 0x19 is decoded by its minor. -/
theorem decode_control {w : BitVec 32} (he : fld w 29 3 = 0#3) (hg : fld w 20 5 = 0x19#5) : decode w = decodeControl w := by
  unfold decode
  rw [he]
  show decodeX w = _
  unfold decodeX
  rw [hg]
  rfl

/-- SETRB with a bit of d or b set is a reserved encoding. -/
theorem decode_setrb_reserved {w : BitVec 32} (hw : w &&& 0xE1F0001F#32 = 0x01900009#32) (hr : w &&& 0x000F83E0#32 ≠ 0) :
    decode w = .error (.reserved (.setrb (hdrOf w) (fld w 10 5))) := by
  have hm : fld w 0 5 = 9#5 := fld_of_and_eq hw (by decide)
  rw [decode_control (fld_of_and_eq hw (by decide)) (fld_of_and_eq hw (by decide))]
  unfold decodeControl
  rw [hm]
  exact if_neg hr

/-- The group and the minor of a word of group 0x19. -/
theorem fld_of_control {v : BitVec 32} (h : Hdr) (d a b : BitVec 5) {n : BitVec 5} (he : fld v 29 3 = 0#3) (hg : fld v 20 5 = 0x19#5)
    (hm : fld v 0 5 = n) :
    let w := v ||| putHdr h ||| put 15 d ||| put 10 a ||| put 5 b
    fld w 29 3 = 0#3 ∧ fld w 20 5 = 0x19#5 ∧ fld w 0 5 = n := by
  simp (disch := decide) only [putHdr, fld_or, fld_put_disjoint, BitVec.or_zero, he, hg, hm, and_self]

/-- A word of X is no region word, so the record of its trap names no region (14 R291). -/
theorem ofWord_x {w : BitVec 32} (h : fld w 29 3 = 0#3) (t : Trap) : t.ofWord w = t := by
  have hr : rawRegion w = none := by
    have h : w.extractLsb' 29 3 = 0#3 := h
    simp [rawRegion, h]
  simp only [Trap.ofWord, hr]

/-! ### What lets a word go, and what stops it (02 R46) -/

section Gate

variable {i : Instr} {s : State} {w : QWord} {y : Core}

theorem wf_of_goes (hg : goes i s = some (w, y)) (hh : (specOf i).hint = false) : i.wf = true := by
  obtain ⟨-, -, -, -, -, hl, -⟩ := (goes_iff hh).1 hg
  cases hw : i.wf with
  | true => rfl
  | false => simp [lateTrap, hw] at hl

/-- An ill-formed operand traps 0x02 once the word's role, mode and place have been checked (02 R46 row 6). -/
theorem stops_of_not_wf (ha : (s.strand s.cur.1 s.cur.2).active = true) (hp : (s.strand s.cur.1 s.cur.2).pauseEnd ≤ s.cycle)
    (hh : (specOf i).hint = false) (he : earlyTrap (s.core s.cur.1) s.cur.2 (specOf i) = none)
    (hn : nullified (s.strand s.cur.1 s.cur.2) (specOf i) = false) (hw : i.wf = false) : stops i s = some (issueTrap 0x02) := by
  have hg : gateWord s.cur.1 s.cur.2 i (specOf i) s = .stop (issueTrap 0x02) := by simp [gateWord, lateTrap, hw]
  rw [stops, gate_open ha hp hh he hn, hg]

/-- A word that nothing holds back, and whose sources are there, meets its own check (02 R46). -/
theorem gateWord_checked {c k : Nat} {p : WordSpec} {va vb vd : Word} {e : Trap}
    (ho : ownerWait (s.strand c k) p = false) (hl : lateTrap s c k i p = none) (hown : ownTrap c k i p s = none)
    (hb : blockOf (s.core c) k p = none) (hsrc : popSrcs k p (s.core c) = some (va, vb, vd, y)) (hbad : badSource (s.strand c k) p = false)
    (hc : p.check c k (newWord c k i p va vb vd s) s = some e) : gateWord c k i p s = .stop e := by
  have ho' : ownerWait ((s.core c).strand k) p = false := ho
  simp [gateWord, ho', hl, hown, hb, hsrc, gateOperands, hbad, hc]

end Gate

/-! ### A word that waits in its queue (01 R27, 05 R109) -/

theorem strand_enqueue (c k : Nat) (e : Engine) (w : QWord) (s : State) :
    (enqueue c k e w s).strand c k = (s.strand c k).setQueue e ((s.strand c k).queue e ++ [w]) := by
  simp [enqueue, State.strand]

theorem mem_tput_self {β : Type} (t : Table β) (n : Nat) (x : β) : (n, x) ∈ tput t n x := by
  induction t with
  | nil => exact .head _
  | cons p r ih =>
    obtain ⟨k, v⟩ := p
    unfold tput
    split
    · exact .head _
    · split
      · exact .head _
      · exact .tail _ ih

/-- A queue's words are among the strand's. -/
theorem mem_words_setQueue {w : QWord} {t : Strand} {e : Engine} {q : List QWord} (h : w ∈ q) : w ∈ (t.setQueue e q).words :=
  List.mem_flatMap.2 ⟨_, mem_tput_self _ _ _, h⟩

/-- A queued word's destination is pending. -/
theorem pendingScalar_pos {w : QWord} {t : Strand} {n : Nat} (h : w ∈ t.words) (hd : w.dst = .reg n) : 0 < pendingScalar t n :=
  List.length_pos_of_mem (List.mem_filter.2 ⟨h, decide_eq_true hd⟩)

/-! ### Conditional moves (03 R69) -/

/-- What the two words share: they read field d, write it, and trap 0x02 where it names a queue port. -/
structure MoveSpec (i : Instr) (d : BitVec 5) : Prop where
  word : i.isWord = true
  scalar : ScalarSpec (specOf i) 0
  field : (specOf i).d = some d
  dst : (specOf i).dst = some d
  port : i.wf = notPort d
  group : fld (encode i) 29 3 = 0#3

section Move

variable {i : Instr} {d : BitVec 5} {s : State} {w : QWord} {y : Core}

/-- The word that goes has read the register that it will write, and names it as its destination. -/
theorem MoveSpec.goes_fields (hm : MoveSpec i d) (hg : goes i s = some (w, y)) :
    let u := s.strand s.cur.1 s.cur.2
    d.toNat < 28 ∧ w.dst = .reg (physReg u.rotBase d.toNat) ∧ w.vd = u.reg (physReg u.rotBase d.toNat) := by
  have hd : d.toNat < 28 := of_decide_eq_true (hm.port.symm.trans (wf_of_goes hg hm.scalar.hint))
  obtain ⟨-, -, -, -, -, -, -, -, -, -, -, -, hdst, -⟩ := Machine.goes_fields hg hm.scalar.hint
  obtain ⟨-, -, -, -, -, -, hregs, -⟩ := sourceValues i s w y hg hm.scalar.hint
  obtain ⟨-, -, hvd⟩ := hregs d hd
  refine ⟨hd, ?_, hvd hm.field⟩
  rw [hdst, hm.dst]
  exact dstOf_reg hd

/-- Until its retirement it stands last in its queue, and its destination is pending. -/
theorem MoveSpec.queued (hm : MoveSpec i d) (hg : goes i s = some (w, y)) (hb : (s.core s.cur.1).d.regBad = [])
    (ha : atOnce s.cur.1 s.cur.2 i w (issued i w y s) = false) :
    ∃ t, exec i s = .next t ∧ ((t.strand s.cur.1 s.cur.2).queue .x).getLast? = some w ∧
      0 < pendingScalar (t.strand s.cur.1 s.cur.2) (physReg (s.strand s.cur.1 s.cur.2).rotBase d.toNat) := by
  obtain ⟨-, -, -, -, -, -, -, -, -, va, vb, vd, hsrc, -⟩ := (goes_iff hm.scalar.hint).1 hg
  have hissued : Keeps s.cur.1 s.cur.2 w.dst 0 s (issued i w y s) :=
    launch_keeps (popSrcs_keeps hsrc) (hm.scalar.take s.cur.1 s.cur.2 w)
  have hb' : ((issued i w y s).core s.cur.1).d.regBad = [] := by rw [hissued.core.d, hb]
  refine ⟨_, (exec_word hm.word s).trans (congrArg _ (issueWord_queues hg hm.scalar.hint hb' ha)), ?_⟩
  rw [strand_enqueue, hm.scalar.engine]
  obtain ⟨-, hdst, -⟩ := hm.goes_fields hg
  refine ⟨?_, pendingScalar_pos (mem_words_setQueue (List.mem_append_right _ (.head _))) hdst⟩
  rw [queue_setQueue, List.getLast?_concat]

/-- A queue port as destination traps. -/
theorem MoveSpec.traps (hm : MoveSpec i d) (hd : 28 ≤ d.toNat) (ha : (s.strand s.cur.1 s.cur.2).active = true)
    (hp : (s.strand s.cur.1 s.cur.2).pauseEnd ≤ s.cycle) (he : earlyTrap (s.core s.cur.1) s.cur.2 (specOf i) = none)
    (hn : nullified (s.strand s.cur.1 s.cur.2) (specOf i) = false) :
    exec i s = .next (takeFault s.cur.1 s.cur.2 (issueTrap 0x02) (encode i) (s.strand s.cur.1 s.cur.2).pc none s) := by
  have hw : i.wf = false := hm.port.trans (decide_eq_false (by omega))
  rw [exec_word hm.word, issueWord_stops (stops_of_not_wf ha hp hm.scalar.hint he hn hw), ofWord_x hm.group]

end Move

/-- Settles O47: the two words differ in their minor and in their test alone. -/
theorem conditionalMoves : Obligations.ConditionalMoves := by
  intro h d a b
  obtain ⟨ez, gz, mz⟩ := fld_of_control (v := 0x01900003#32) (n := 3#5) h d a b (by decide) (by decide) (by decide)
  obtain ⟨en, gn, mn⟩ := fld_of_control (v := 0x01900004#32) (n := 4#5) h d a b (by decide) (by decide) (by decide)
  obtain ⟨-, -, -, -, -, cmovz, cmovnz, -⟩ := scalarWordsComplete.2.2 h d a b 0
  refine ⟨gz, mz, gn, mn, cmovz, cmovnz, fun i hi s => ?_⟩
  have hm : MoveSpec i d := by
    fin_cases hi
    · exact ⟨rfl, scalarSpec_of_value (fun _ _ _ _ => ⟨_, rfl⟩), rfl, rfl, rfl, ez⟩
    · exact ⟨rfl, scalarSpec_of_value (fun _ _ _ _ => ⟨_, rfl⟩), rfl, rfl, rfl, en⟩
  refine ⟨fun w y hg => ?goes, fun hd ha hp he hn => hm.traps hd ha hp he hn⟩
  case goes =>
    obtain ⟨hd, hdst, hvd⟩ := hm.goes_fields hg
    refine ⟨hd, hdst, hvd, fun hb ha => ?_⟩
    obtain ⟨t, ht, hlast, hpending⟩ := hm.queued hg hb ha
    exact ⟨t, ht, hlast, fun _ => hpending⟩

/-! ### SETRB (03 R79) -/

section Setrb

variable {h : Hdr} {a : BitVec 5} {s : State} {w : QWord} {y : Core}

/-- A SETRB that goes has met its check. -/
theorem setrb_le (hg : goes (.setrb h a) s = some (w, y)) : w.va.toNat ≤ 11 := by
  obtain ⟨-, -, -, -, -, -, -, -, -, va, vb, vd, -, rfl, hcheck, -⟩ := (goes_iff rfl).1 hg
  by_contra hv
  exact absurd ((if_pos (Nat.not_le.1 hv)).symm.trans hcheck) nofun

/-- Outside a loop the pc's move leaves rot.base. -/
theorem advance_rotBase {t : Strand} (ht : t.loop = none) (pc : BitVec 32) : (t.advance pc none).rotBase = t.rotBase := by
  simp only [Strand.advance, ht]

theorem issued_setrb_rotBase (hg : goes (.setrb h a) s = some (w, y)) (hl : (s.strand s.cur.1 s.cur.2).loop = none) :
    ((issued (.setrb h a) w y s).strand s.cur.1 s.cur.2).rotBase.toNat = w.va.toNat := by
  have hle := setrb_le hg
  have hs := issued_strand (f := fun t => { t with rotBase := w.va.setWidth 4 }) hg rfl (fun _ => rfl)
  have hrot := advance_rotBase (t := { (s.strand s.cur.1 s.cur.2).slot with rotBase := w.va.setWidth 4 }) hl w.pc
  rw [(congrArg Strand.rotBase hs).trans hrot, BitVec.toNat_setWidth]
  omega

/-- A value above 11 stops SETRB (03 R79). -/
theorem stops_setrb (ha : a.toNat < 28)
    (hv : 11 < ((s.strand s.cur.1 s.cur.2).reg (physReg (s.strand s.cur.1 s.cur.2).rotBase a.toNat)).toNat)
    (hbad : (s.strand s.cur.1 s.cur.2).bad = []) (hact : (s.strand s.cur.1 s.cur.2).active = true)
    (hpause : (s.strand s.cur.1 s.cur.2).pauseEnd ≤ s.cycle)
    (he : earlyTrap (s.core s.cur.1) s.cur.2 (specOf (.setrb h a)) = none)
    (hn : nullified (s.strand s.cur.1 s.cur.2) (specOf (.setrb h a)) = false)
    (hl : lateTrap s s.cur.1 s.cur.2 (.setrb h a) (specOf (.setrb h a)) = none)
    (hb : blockOf (s.core s.cur.1) s.cur.2 (specOf (.setrb h a)) = none) :
    stops (.setrb h a) s = some (issueTrap 0x02) := by
  have hnet : readsNet (specOf (.setrb h a)) = false := by
    simp only [readsNet, show (specOf (.setrb h a)).a = some a from rfl, noPort_ne_net (noPort_some ha)]
    rfl
  have ho : ownerWait (s.strand s.cur.1 s.cur.2) (specOf (.setrb h a)) = false := by
    rw [ownerWait, hnet]
    rfl
  have hsrc := popSrcs_iff (k := s.cur.2) (p := specOf (.setrb h a)).2 ⟨_, _, popSrc_reg (s.core s.cur.1) ha, rfl, rfl⟩
  have hstop := gateWord_checked ho hl rfl hb hsrc (by simp [badSource, hbad]) (if_pos hv)
  rw [stops, gate_open hact hpause rfl he hn, hstop]

end Setrb

/-- Settles O49: SETRB acts on its strand at its issue, once its check has let it go. -/
theorem setRotationBase : Obligations.SetRotationBase := by
  intro h a s c k u
  have henc : encode (.setrb h a) = 0x01900009#32 ||| putHdr h ||| put 15 0#5 ||| put 10 a ||| put 5 0#5 := by
    simp only [put_zero, BitVec.or_zero]
    rfl
  obtain ⟨he, hg, hm⟩ := fld_of_control (v := 0x01900009#32) (n := 9#5) h 0#5 a 0#5 (by decide) (by decide) (by decide)
  rw [← henc] at he hg hm
  refine ⟨decode_encode_x rfl rfl, hg, hm, fun w hw hr => ⟨_, decode_setrb_reserved hw hr⟩,
    computes_of_body (exec_word rfl) (fun _ _ _ _ => rfl), fun w y hgo hl => ?goes, fun ha hv hbad hact hpause he' hn hl hb => ?traps⟩
  case goes =>
    obtain ⟨-, -, -, -, -, -, hregs, -⟩ := sourceValues (.setrb h a) s w y hgo rfl
    exact ⟨setrb_le hgo, issued_setrb_rotBase hgo hl, fun ha => (hregs a ha).1 rfl⟩
  case traps => rw [exec_word rfl, issueWord_stops (stops_setrb ha hv hbad hact hpause he' hn hl hb), ofWord_x he]

end Sys2Proof.Machine
end

section
/-! PROOFS. The frame of the words that store to scratch (03 R64, 08 R183, R185): the statement `ScratchStoresKeep`. -/

namespace Sys2Proof.Machine

section Store

variable {i : Instr} {s t : State} {w : QWord} {ad : Nat} {bs : List Byte}

/-- A word that runs at once, has no destination, and whose body stores bytes to scratch: they stand there, and of the rest of the machine
only its own queue, its core's tokens and the cycle's mark change. -/
theorem exec_scrWrite (hi : i.isWord = true) (hr : runsNow i s = some (w, t)) (hdst : (specOf i).dst = none)
    (hb : (specOf i).body s.cur.1 s.cur.2 w t = .done (t.modData s.cur.1 (·.scrWrite ad bs)) 0 false) :
    ∃ u, exec i s = .next u ∧ (u.core s.cur.1).d = (t.core s.cur.1).d.scrWrite ad bs ∧ u.mem = t.mem ∧
      (u.core s.cur.1).csr = (t.core s.cur.1).csr ∧ (u.strand s.cur.1 s.cur.2).regs = (t.strand s.cur.1 s.cur.2).regs ∧
      (u.strand s.cur.1 s.cur.2).flags = (t.strand s.cur.1 s.cur.2).flags ∧
      (∀ j, j ≠ s.cur.2 → u.strand s.cur.1 j = t.strand s.cur.1 j) ∧ (∀ e, e ≠ s.cur.1 → u.core e = t.core e) := by
  obtain ⟨y, hg, hh, -⟩ := runsNow_iff.1 hr
  have hw : w.dst = .none := by
    obtain ⟨-, -, -, -, -, -, -, -, -, -, -, -, hd, -⟩ := goes_fields hg hh
    rw [hd, hdst]
    rfl
  have hstrand (j : Nat) : (t.modData s.cur.1 (·.scrWrite ad bs)).strand s.cur.1 j = t.strand s.cur.1 j := by
    simp only [State.strand, core_modData]
    rfl
  obtain ⟨hmem, hcores, ⟨hd, hcsr, -, hstrands, ⟨hfile, -, hflags, -⟩⟩⟩ :=
    finish_keeps (c := s.cur.1) (k := s.cur.2) (f := 0) (i := i) hw 0 false (t.modData s.cur.1 (·.scrWrite ad bs))
  rw [core_modData] at hd hcsr
  refine ⟨_, runs_done (exec_word hi s) hr hb, hd, hmem, hcsr, ?file, ?flags, fun j hj => (hstrands j hj).trans (hstrand j),
    fun e he => (hcores e he).trans (core_modData_ne t _ he)⟩
  case file => exact (hfile (fun _ => nofun)).trans (congrArg Strand.regs (hstrand s.cur.2))
  case flags => exact (hflags.elim id (·.trans BitVec.or_zero)).trans (congrArg Strand.flags (hstrand s.cur.2))

end Store

/-! ### The bodies of VST and MST (08 R183, R185) -/

section Bodies

variable {h : Hdr} {d a b : BitVec 5} {cls z : BitVec 2} {c : Nat} {w : QWord} {t : State}

/-- A write whose pages are all there goes on at once (05 R116). -/
theorem onScratch_write {a n : Nat} {go : State → Run} (hp : (t.core c).d.absent a n = []) : onScratch c a n none w t go = go t :=
  withPages_of_present hp

/-- VST stores the first bytes of the register, the more the smaller z. -/
theorem vst_body (hp : (t.core c).d.absent (w.va + w.vb).toNat (256 / 2 ^ z.toNat) = []) (k : Nat) :
    (specVst h d a b cls z).body c k w t = .done (t.modData c (·.scrWrite (w.va + w.vb).toNat
      ((leBytes 256 ((t.core c).d.getV d.toNat).toNat).take (256 / 2 ^ z.toNat)))) 0 false := by
  rw [← Nat.shiftRight_eq_div_pow] at hp ⊢
  simp only [specVst, lAddr, onScratch_write hp]
  rfl

/-- MST stores the data of a tile without poison. -/
theorem mst_body (hp : (t.core c).d.absent (w.va + w.vb).toNat 2048 = []) (ht : ((t.core c).d.getM d.toNat).poison = 0) (k : Nat) :
    (specMst h d a b cls).body c k w t =
      .done (t.modData c (·.scrWrite (w.va + w.vb).toNat (leBytes 2048 ((t.core c).d.getM d.toNat).data.toNat))) 0 false := by
  simp only [specMst, lAddr, onScratch_write hp, ht, ne_eq, not_true_eq_false, if_false]

end Bodies

/-- Settles O54: each word stores once, and retires or waits for its retirement. -/
theorem scratchStoresKeep : Obligations.ScratchStoresKeep := by
  intro h d a b cls z im s w t c x stored
  have store {i : Instr} {ad : Nat} {bs : List Byte} (hi : i.isWord = true) (hdst : (specOf i).dst = none)
      (hb : x.absent ad bs.length = [] → (specOf i).body c s.cur.2 w t = .done (t.modData c (·.scrWrite ad bs)) 0 false) :
      stored i ad bs := by
    intro hr hp
    obtain ⟨u, hu, hd, hmem, hcsr, hregs, hflags, hstrands, hcores⟩ := exec_scrWrite hi hr hdst (hb hp)
    refine ⟨u, hu, ?bytes, fun p hout => ?others, hmem, hd ▸ rfl, hd ▸ rfl, hd ▸ rfl, hd ▸ rfl, hcsr, hregs, hflags, hstrands, hcores⟩
    case bytes =>
      rw [hd]
      exact memReadN_memWriteN x.scratch ad bs
    case others =>
      rw [hd]
      exact (memRead_memWriteN x.scratch ad bs p).trans (if_neg (by omega))
  refine ⟨store rfl rfl fun hp => ?stxD, store rfl rfl fun hp => ?stxW, store rfl rfl fun hp => ?vst,
    fun ht => store rfl rfl fun hp => ?mst⟩
  case stxD => exact stx_body (n := 8) (leBytes_length 8 _ ▸ hp) s.cur.2
  case stxW => exact stx_body (n := 4) (leBytes_length 4 _ ▸ hp) s.cur.2
  case vst =>
    rw [List.length_take, leBytes_length, Nat.min_eq_left (Nat.div_le_self _ _)] at hp
    exact vst_body (cls := cls) hp s.cur.2
  case mst => exact mst_body (cls := cls) (leBytes_length 2048 _ ▸ hp) ht s.cur.2

end Sys2Proof.Machine
end

section
/-! PROOFS. Sync words and token words (05 R112, 12 R247 to R253): how a sync word waits and starts, what each of them does as it starts,
and the statement `SyncWordsComplete`. -/

namespace Sys2Proof.Machine

/-! ### Words of every engine but L -/

section Run

variable {i : Instr} {p : WordSpec} {c k : Nat} {e : Engine} {s : State} {w : QWord} {y : Core}

/-- Only words of the copy unit race or take turns (05 R113, 08 R181): every other runs its body alone. -/
theorem serveRun_of_ne_l (he : p.engine ≠ .l) : serveRun c k p w s = runBody c k p w s := by
  have hrace : racing (s.core c) k p w = false := by simp [racing, he]
  have hserve : serveStrand c k p.engine s = s := if_neg he
  simp only [serveRun, hrace, hserve, Bool.false_eq_true, if_false, if_neg he]
  cases runBody c k p w s <;> rfl

/-- Where no register of the shared files holds an error, a word's run is its body (05 R124). -/
theorem runBody_of_intact (hb : (s.core c).d.regBad = []) : runBody c k p w s = p.body c k w s := by
  simp only [runBody, hb, List.isEmpty_nil, if_true]

/-- A word that reads none of those registers waits where its body does: an error neither stops it nor is mended. -/
theorem runBody_of_wait {t : State} (hr : readsOf w = []) (hw : p.body c k w s = .wait w t) : runBody c k p w s = .wait w t := by
  simp only [runBody, hr, hw, mendRun, List.any_nil, Bool.false_eq_true, if_false, ite_self]

/-- A word that goes, and whose body would wait in the state just after its issue, joins its engine queue: it has not run, or has run and
waits. -/
theorem issueWord_joins (hg : goes i s = some (w, y)) (hh : (specOf i).hint = false) (he : (specOf i).engine ≠ .l) (hr : readsOf w = [])
    (hw : (specOf i).body s.cur.1 s.cur.2 w (issued i w y s) = .wait w (issued i w y s)) :
    issueWord i (specOf i) s = enqueue s.cur.1 s.cur.2 (specOf i).engine w (issued i w y s) := by
  have hrun : serveRun s.cur.1 s.cur.2 (specOf i) w (launch s.cur.1 s.cur.2 (specOf i) w y s) = .wait w (issued i w y s) :=
    (serveRun_of_ne_l he).trans (runBody_of_wait hr hw)
  rw [issueWord_goes hg hh, issueGo, hrun]
  exact ite_self _

/-- A word that is alone in its queue and has not begun starts there, and its body's run, not a wait here, is settled. -/
theorem exec_engineWordStart_alone (hq : ((s.core c).strand k).queue e = [w]) (hph : w.phase = .queued) (he : (specOf w.i).engine = e)
    (hl : e ≠ .l) (hlate : (specOf w.i).late = false) (hs : startReady (s.core c) k e w = true) (hb : (s.core c).d.regBad = [])
    (hp : preempting s c = false) (hf : (s.core c).frozen s.cycle = false) (ha : (s.core c).faultAbove s.cycle k = false)
    {r : Run} (hr : (specOf w.i).body c k w s = r) (hnw : ∀ w' t, r ≠ .wait w' t) :
    exec (.engineWordStart c k e) s = .next (settleQueued c k e w r) := by
  have hnone : (((s.core c).strand k).queue e).find? (fun z => z.phase = .started && z.req = 0) = none := by simp [hq, hph]
  have hfirst : (((s.core c).strand k).queue e).find? (fun z => z.phase = .queued) = some w := by simp [hq, hph]
  have hturn : turnOf c k e s = true := by simp [turnOf, hl]
  have hrun : serveRun c k (specOf w.i) w s = r := by rw [serveRun_of_ne_l (he ▸ hl), runBody_of_intact hb, hr]
  rw [exec_engineWordStart hf ha, continueWord_none hnone, startWord_some hfirst hp hs hturn hlate hrun hnw]

end Run

/-- A release whose waits are over goes on (10 R227, R228). -/
theorem onRelease_of_released {c k : Nat} {system : Bool} {w : QWord} {s : State} {go : State → Run} (h : released c k system w s) :
    onRelease c k system w s go = go s := by
  obtain ⟨hwords, htransfers, hacks⟩ := h
  rw [onRelease, hwords, htransfers, onAcks]
  cases system with
  | false => rfl
  | true =>
    obtain ⟨hpeer, hhost⟩ := hacks rfl
    simp [hpeer, hhost]

/-! ### The sync words' common form (12 R247) -/

/-- A sync word of level `l`: a word of Q with no effect at its issue and no register of the shared files, which waits as `syncWord` does,
and then runs `run`. -/
structure SyncSpec (i : Instr) (l : BitVec 2) (run : Nat → Nat → QWord → State → Run) : Prop where
  word : i.isWord = true
  hint : (specOf i).hint = false
  engine : (specOf i).engine = .q
  late : (specOf i).late = false
  rd : (specOf i).rd = []
  rdw : ∀ w, (specOf i).rdw w = []
  take : ∀ c k w s, (specOf i).take c k w s = s
  body : ∃ h, (specOf i).body = (syncWord h l run).body

/-- What the sync words' specifications differ in: their fields, what they hold, and their check at issue. -/
theorem syncSpec_of_syncWord {i : Instr} {h : Hdr} {l : BitVec 2} {run : Nat → Nat → QWord → State → Run} {a dst : Option (BitVec 5)}
    {hold : Hold} {check : Nat → Nat → QWord → State → Option Trap} (hi : i.isWord = true)
    (hs : specOf i = { syncWord h l run with a := a, dst := dst, hold := hold, check := check }) : SyncSpec i l run where
  word := hi
  hint := by rw [hs]; rfl
  engine := by rw [hs]; rfl
  late := by rw [hs]; rfl
  rd := by rw [hs]; rfl
  rdw _ := by rw [hs]; rfl
  take _ _ _ _ := by rw [hs]; rfl
  body := ⟨h, by rw [hs]⟩

section Sync

variable {i : Instr} {l : BitVec 2} {run : Nat → Nat → QWord → State → Run} {c k : Nat} {s : State} {w : QWord} {y : Core}

/-- In the cycle of its issue, and in that of the end of the Q word before it, a sync word waits. -/
theorem SyncSpec.body_early (hs : SyncSpec i l run) (he : syncEarly s c w = true) : (specOf i).body c k w s = .wait w s := by
  obtain ⟨h, hb⟩ := hs.body
  rw [hb]
  exact if_pos (by rw [he, Bool.or_true])

/-- Alone in its queue, no longer early and with its domain whole, it runs. -/
theorem SyncSpec.body_starts (hs : SyncSpec i l run) (hq : ((s.core c).strand k).queue .q = [w]) (he : syncEarly s c w = false)
    (hd : domGone s c l.toNat = false) : (specOf i).body c k w s = run c k w s := by
  obtain ⟨h, hb⟩ := hs.body
  rw [hb]
  simp [syncWord, hq, he, hd]

/-- A word that goes bears the cycle of its issue. -/
theorem goes_at (hg : goes i s = some (w, y)) (hh : (specOf i).hint = false) : w.at_ = s.cycle := by
  obtain ⟨-, -, -, -, -, -, -, -, -, va, vb, vd, -, rfl, -⟩ := (goes_iff hh).1 hg
  rfl

/-- A word without an own effect at issue issues in no time. -/
theorem issued_cycle (ht : ∀ u, (specOf i).take s.cur.1 s.cur.2 w u = u) : (issued i w y s).cycle = s.cycle := by
  simp only [issued, launch, ht, modStrand_cycle]
  rfl

/-- Just after its issue it is early. -/
theorem SyncSpec.early_issued (hs : SyncSpec i l run) (hg : goes i s = some (w, y)) :
    syncEarly (issued i w y s) s.cur.1 w = true := by
  obtain ⟨-, -, -, hph, hidx, -⟩ := goes_fields hg hs.hint
  have hcycle : (issued i w y s).cycle = s.cycle := issued_cycle fun _ => hs.take ..
  simp [syncEarly, hph, hidx, hcycle, goes_at hg hs.hint]

theorem SyncSpec.joins (hs : SyncSpec i l run) : Joins i := by
  intro s w y hg _
  obtain ⟨hi, -⟩ := goes_fields hg hs.hint
  have hreads : readsOf w = [] := by simp [readsOf, hi, hs.rd, hs.rdw]
  have hl : (specOf i).engine ≠ .l := by simp [hs.engine]
  rw [exec_word hs.word, issueWord_joins hg hs.hint hl hreads (hs.body_early (hs.early_issued hg))]

/-- One that may start runs, and what its run comes to is settled. -/
theorem SyncSpec.starts (hs : SyncSpec i l run) (hm : SyncMay i c l.toNat w s) {r : Run} (hr : run c 3 w s = r)
    (hnw : ∀ w' t, r ≠ .wait w' t) : exec (.engineWordStart c 3 .q) s = .next (settleQueued c 3 .q w r) := by
  obtain ⟨rfl, -, hph, hq, hearly, hdom, hstart, hbad, hpre, hfrozen, hfault⟩ := hm
  exact exec_engineWordStart_alone hq hph hs.engine (by decide) hs.late hstart hbad hpre hfrozen hfault
    ((hs.body_starts hq hearly hdom).trans hr) hnw

theorem SyncSpec.ends (hs : SyncSpec i l run) (hm : SyncMay i c l.toNat w s) {u : State} {v : Word}
    (hr : run c 3 w s = .done u v false) : EndsWith c 3 .q w s v u :=
  hs.starts hm hr fun _ _ => Run.noConfusion

theorem SyncSpec.begins (hs : SyncSpec i l run) (hm : SyncMay i c l.toNat w s) {u : State} {w' : QWord}
    (hr : run c 3 w s = .begun w' u) : SyncBegins c w' s u :=
  hs.starts hm hr fun _ _ => Run.noConfusion

end Sync

/-- A word that may start has not begun to wait for the root. -/
theorem SyncMay.ne_one {i : Instr} {c lv : Nat} {w : QWord} {s : State} (hm : SyncMay i c lv w s) : w.idx ≠ 1 := by
  obtain ⟨-, hidx, -⟩ := hm
  simp [hidx]

/-- An arrival whose release's waits are over is sent, and its level's pending bit set (12 R248, R249). -/
theorem sendArrival_of_released {c k lv : Nat} {w : QWord} {s : State} {go : State → Run} (h : released c k (lv = 3) w s) :
    sendArrival c k lv w s go = go ((s.sendUp c lv (.arrive c)).modCore c (fun y => { y with pend := y.pend ||| (1#4 <<< lv) })) := by
  rw [sendArrival, onRelease_of_released h]

/-- Settles O19: a sync word is early in the cycle of its issue, so it joins its queue; as it starts, it is one run past `syncWord`'s waits,
whose branch the clause's premises decide. WFE and the token words are one run of their body. -/
theorem syncWordsComplete : Obligations.SyncWordsComplete := by
  have barW (h : Hdr) (l : BitVec 2) : SyncSpec (.barW h l) l _ := syncSpec_of_syncWord rfl rfl
  have barA (h : Hdr) (l : BitVec 2) : SyncSpec (.barA h l) l _ := syncSpec_of_syncWord rfl rfl
  have barT (h : Hdr) (d : BitVec 5) (l : BitVec 2) : SyncSpec (.barT h d l) l _ := syncSpec_of_syncWord rfl rfl
  have bcast (h : Hdr) (a : BitVec 5) (l : BitVec 2) : SyncSpec (.bcast h a l) l _ := syncSpec_of_syncWord rfl rfl
  have brecv (h : Hdr) (d : BitVec 5) (l : BitVec 2) : SyncSpec (.brecv h d l) l _ := syncSpec_of_syncWord rfl rfl
  have red (h : Hdr) (d a b : BitVec 5) (l : BitVec 2) : SyncSpec (.red h d a b l) l _ := syncSpec_of_syncWord rfl rfl
  have evt (h : Hdr) (l : BitVec 2) : SyncSpec (.evt h l) l _ := syncSpec_of_syncWord rfl rfl
  refine ⟨fun h d a b l s w t => ⟨?joins, fun hr hevt => ?wfeTakes, fun hr hevt => ?wfeWaits⟩,
    fun h d a b l c s w => ⟨fun hm hpend hrel => ?barWSends, fun hm hpend => ?barWPending, fun hm hpend hrel => ?barA, fun hm => ?barT,
      fun hm => ?bcast, fun v r hm hheld => ?brecv, fun hm => ?red, fun hm => ?evt⟩,
    fun h d a b s w t => ⟨fun hr hdone => ?tkpush, fun hr => runs_done (exec_word rfl s) hr rfl,
      fun hr => runs_done (exec_word rfl s) hr rfl⟩⟩
  case joins =>
    simp only [List.forall_mem_cons, List.not_mem_nil, false_implies, implies_true, and_true]
    exact ⟨(barW h l).joins, (barA h l).joins, (barT h d l).joins, (bcast h a l).joins, (brecv h d l).joins, (red h d a b l).joins,
      (evt h l).joins⟩
  case wfeTakes => exact runs_done (exec_word rfl s) hr (if_pos hevt)
  case wfeWaits => exact runs_begun (exec_word rfl s) hr (if_neg (Bool.eq_false_iff.1 hevt))
  case barWSends =>
    exact (barW h l).begins hm ((if_neg hm.ne_one).trans ((if_neg (Bool.eq_false_iff.1 hpend)).trans (sendArrival_of_released hrel)))
  case barWPending => exact (barW h l).begins hm ((if_neg hm.ne_one).trans (if_pos hpend))
  case barA => exact (barA h l).ends hm ((if_neg (Bool.eq_false_iff.1 hpend)).trans (sendArrival_of_released hrel))
  case barT => exact (barT h d l).ends hm rfl
  case bcast => exact (bcast h a l).ends hm rfl
  case brecv =>
    refine (brecv h d l).ends hm ?_
    simp only [hheld]
  case red => exact (red h d a b l).begins hm (if_neg hm.ne_one)
  case evt => exact (evt h l).ends hm rfl
  case tkpush => exact runs_done (exec_word rfl s) hr (if_pos hdone)

end Sys2Proof.Machine
end

section
/-! PROOFS. Words that run at once: the state in which one runs, what it has sampled, and the strand and the registers after the updates of
its body. -/

namespace Sys2Proof.Machine

/-! ### A word that runs at once, of any engine but L -/

section Run

variable {i : Instr} {s t : State} {w : QWord}

/-- It runs in the state just after its issue. -/
theorem runsNow_issued (hr : runsNow i s = some (w, t)) (hl : (specOf i).engine ≠ .l) :
    ∃ y, goes i s = some (w, y) ∧ (specOf i).hint = false ∧ t = issued i w y s ∧ atOnce s.cur.1 s.cur.2 i w t = true := by
  obtain ⟨y, hg, hh, rfl, ha⟩ := runsNow_iff.1 hr
  rw [show serveStrand s.cur.1 s.cur.2 (specOf i).engine (issued i w y s) = issued i w y s from if_neg hl]
  exact ⟨y, hg, hh, rfl, ha⟩

theorem runsNow_now {e : Engine} (hr : runsNow i s = some (w, t)) (he : (specOf i).engine = e) (hl : e ≠ .l) : t.now = true := by
  obtain ⟨-, -, -, -, ha⟩ := runsNow_issued hr (he ▸ hl)
  simp only [atOnce, Bool.and_eq_true] at ha
  obtain ⟨⟨⟨⟨⟨⟨hnow, -⟩, -⟩, -⟩, -⟩, -⟩, -⟩ := ha
  exact hnow

/-- Its engine queue is empty. -/
theorem runsNow_queue {e : Engine} (hr : runsNow i s = some (w, t)) (he : (specOf i).engine = e) (hl : e ≠ .l) :
    ((t.core s.cur.1).strand s.cur.2).queue e = [] := by
  obtain ⟨-, -, -, -, ha⟩ := runsNow_issued hr (he ▸ hl)
  simp only [atOnce, he, Bool.and_eq_true, List.isEmpty_iff] at ha
  obtain ⟨⟨⟨⟨⟨⟨-, -⟩, hq⟩, -⟩, -⟩, -⟩, -⟩ := ha
  exact hq

end Run

/-! ### What a word samples at its issue, and the state in which it runs -/

section Issue

variable {i : Instr} {s t : State} {w : QWord}

/-- A word that runs at once has what its issue sampled. -/
theorem runsNow_res (hr : runsNow i s = some (w, t)) : w.res = (specOf i).pre s.cur.1 s.cur.2 s := by
  obtain ⟨y, hg, hh, -⟩ := runsNow_iff.1 hr
  obtain ⟨-, -, -, -, -, -, -, -, -, hres, -⟩ := goes_fields hg hh
  exact hres

theorem word_toNat {n : Nat} (h : n < 2 ^ 64) : (word n).toNat = n := by
  rw [word, BitVec.toNat_ofNat, Nat.mod_eq_of_lt h]

/-- One that samples the cycle of its issue has that cycle. -/
theorem res_toNat_of_cycle (hr : runsNow i s = some (w, t)) (hp : (specOf i).pre s.cur.1 s.cur.2 s = word s.cycle)
    (hc : s.cycle < 2 ^ 63) : w.res.toNat = s.cycle := by
  rw [runsNow_res hr, hp]
  exact word_toNat (by omega)

/-- It has not begun. -/
theorem runsNow_idx (hr : runsNow i s = some (w, t)) : w.idx = 0 := by
  obtain ⟨y, hg, hh, -⟩ := runsNow_iff.1 hr
  obtain ⟨-, -, -, -, hidx, -⟩ := goes_fields hg hh
  exact hidx

theorem runsNow_instr (hr : runsNow i s = some (w, t)) : w.i = i := by
  obtain ⟨y, hg, hh, -⟩ := runsNow_iff.1 hr
  obtain ⟨hi, -⟩ := goes_fields hg hh
  exact hi

/-- One without an own effect at issue runs in the cycle of its issue. -/
theorem runsNow_cycle (hr : runsNow i s = some (w, t)) (hl : (specOf i).engine ≠ .l)
    (ht : ∀ u, (specOf i).take s.cur.1 s.cur.2 w u = u) : t.cycle = s.cycle := by
  obtain ⟨y, -, -, rfl, -⟩ := runsNow_issued hr hl
  exact issued_cycle ht

/-- A word's own effect at issue is on a state of the same cycle and time; then the pc moves. -/
theorem runsNow_taken (hr : runsNow i s = some (w, t)) (hl : (specOf i).engine ≠ .l) : ∃ u, u.cycle = s.cycle ∧ u.time = s.time ∧
    t = ((specOf i).take s.cur.1 s.cur.2 w u).modStrand s.cur.1 s.cur.2
      (fun x => x.advance w.pc ((specOf i).jump w (s.strand s.cur.1 s.cur.2))) := by
  obtain ⟨y, -, -, rfl, -⟩ := runsNow_issued hr hl
  refine ⟨_, ?cycle, ?time, rfl⟩
  case cycle => rfl
  case time => rfl

/-- A word that runs at once and whose body stops with a user trap has completed, and its fault is taken (17 R323, R328). -/
theorem runs_userTrap {w' : QWord} {u : State} {e : Trap} (he : exec i s = .next (issueWord i (specOf i) s))
    (hr : runsNow i s = some (w, t)) (hb : (specOf i).body s.cur.1 s.cur.2 w t = .trap e w' u) (h5 : e.cls = 5) :
    exec i s = .next (takeFault s.cur.1 s.cur.2 e (encode w'.i) w'.pc none
      (enqueue s.cur.1 s.cur.2 (specOf i).engine { w' with phase := .done } u)) := by
  obtain ⟨y, -, hserves⟩ := issueWord_serves hr
  rw [he, hserves, hb]
  simp only [settleNow, stopWord, if_pos h5]

end Issue

/-- The pc's move leaves a pause. -/
theorem advance_pauseEnd (x : Strand) (pc : BitVec 32) (target : Option Word) : (x.advance pc target).pauseEnd = x.pauseEnd := by
  unfold Strand.advance Strand.endPass
  split
  · rfl
  · split
    · rfl
    · split
      · dsimp only
        split <;> rfl
      · rfl

/-- A word whose events meet no trap enable sets their flags and goes on (03 R87). -/
theorem withFlags_of_untrapped {c k : Nat} {w : QWord} {f : Flags} {s : State} {go : State → Run} (h : trapped w.trapen f = false) :
    withFlags c k w f s go = go (s.raise c k f) := by
  rw [withFlags, h]
  rfl

/-! ### A strand and its core's registers after their updates -/

section Updates

variable (s : State) (c k : Nat)

theorem strand_modStrand (f : Strand → Strand) : (s.modStrand c k f).strand c k = f (s.strand c k) := by
  simp only [State.strand, core_modStrand, strand_coreModStrand]

theorem strand_modData (f : CoreData → CoreData) : (s.modData c f).strand c k = s.strand c k := by
  simp only [State.strand, core_modData]
  rfl

theorem strand_raise (f : Flags) : (s.raise c k f).strand c k = { s.strand c k with flags := (s.strand c k).flags ||| f } :=
  strand_modStrand s c k _

theorem data_modData (f : CoreData → CoreData) : ((s.modData c f).core c).d = f (s.core c).d := by rw [core_modData]

theorem data_modStrand (f : Strand → Strand) : ((s.modStrand c k f).core c).d = (s.core c).d := by rw [core_modStrand, coreModStrand_d]

theorem data_raise (f : Flags) : ((s.raise c k f).core c).d = (s.core c).d := data_modStrand s c k _

theorem csr_modStrand (f : Strand → Strand) : ((s.modStrand c k f).core c).csr = (s.core c).csr := by
  rw [core_modStrand, coreModStrand_csr]

theorem csr_modData (f : CoreData → CoreData) : ((s.modData c f).core c).csr = (s.core c).csr := by rw [core_modData]

end Updates

end Sys2Proof.Machine
end

section
/-! PROOFS. Products (06 R130 to R133, R146): a permitted word is charged and writes its accumulator back in the same step, and the statement
`ProductWordsComplete`. -/

namespace Sys2Proof.Machine

/-! ### What a product's write-back leaves (06 R130, R132, R133) -/

/-- A core's registers after the products of `m`, which leave the accumulator `a` and, for MRUN, the run record `rec`. -/
def CoreData.multiplied (m : MulWord) (a : Acc) (rec : Word) (d : CoreData) : CoreData :=
  { (d.setA m.acc a).errsAfter m.tiles.length with
    mseq := d.mseq + BitVec.ofNat 32 m.tiles.length
    runq := if m.run then d.runq ++ [rec] else d.runq }

section Product

variable {c k : Nat} {m : MulWord} {w : QWord} {t u : State} (a : Acc) (rec : Word) (d : CoreData)

theorem multiplied_getA_same : (d.multiplied m a rec).getA m.acc = a := getA_setA d m.acc a

theorem multiplied_getA_ne {n : Nat} (h : n ≠ m.acc) : (d.multiplied m a rec).getA n = d.getA n := getA_setA_ne d a h

theorem multiplied_runq_length : (d.multiplied m a rec).runq.length = d.runq.length + if m.run then 1 else 0 := by
  unfold CoreData.multiplied
  dsimp only
  split <;> simp

/-- The write-back of products whose events meet no trap enable. -/
theorem mulWrite_done (ht : trapped w.trapen (multiplied c m u).2 = false) : ∃ rec, mulWrite c k m w u =
    .done (((u.raise c k (multiplied c m u).2).modData c (·.multiplied m (multiplied c m u).1 rec)).takeFree) 0 false := by
  unfold mulWrite
  exact ⟨_, (withFlags_of_untrapped ht).trans rfl⟩

/-- A permitted word of products is charged, and in a step that runs it at once writes back (06 R130, R146). -/
theorem mulStart_charged (hnow : t.now = true) (hc : charged c m t = some u) :
    mulStart c k m w t = mulWrite c k m { w with idx := t.free } u := by
  have hgo (s : State) (hs : s.now = true) : (if s.now then mulWrite c k m { w with idx := t.free } s else .begun { w with idx := t.free } s)
      = mulWrite c k m { w with idx := t.free } s := if_pos hs
  unfold charged at hc
  unfold mulStart
  extract_lets at hc ⊢
  split_ifs at hc ⊢
  · obtain rfl := Option.some.inj hc
    exact hgo t hnow
  · obtain rfl := Option.some.inj hc
    exact hgo _ hnow

end Product

/-- A word of M whose body starts the products that its registers give. -/
theorem multiplies_of_body {i : Instr} {mk : CoreData → MulWord} (hi : i.isWord = true) (he : (specOf i).engine = .m)
    (hb : ∀ c k w t, (specOf i).body c k w t = mulStart c k (mk (t.core c).d) w t) : Multiplies i mk := by
  intro s w t u hr c m hc htrap
  obtain ⟨rec, hwrite⟩ := mulWrite_done (k := s.cur.2) (w := { w with idx := t.free }) htrap
  have hstart := mulStart_charged (k := s.cur.2) (w := w) (runsNow_now hr he (by decide)) hc
  have hrun := runs_done (exec_word hi s) hr ((hb _ _ _ _).trans (hstart.trans hwrite))
  refine ⟨_, hrun, rfl, (csr_modData ..).trans (csr_modStrand ..), ?flags, ?registers⟩
  case flags => exact congrArg Strand.flags ((strand_modData ..).trans (strand_raise ..))
  case registers =>
    rw [core_takeFree, data_modData, data_raise]
    exact ⟨multiplied_getA_same .., fun n hn => multiplied_getA_ne _ _ _ hn, rfl, rfl, rfl, rfl, multiplied_runq_length ..⟩

/-- Settles O9: MMA and MRUN are one start of products; they differ in the products alone. -/
theorem productWordsComplete : Obligations.ProductWordsComplete := fun _ _ _ _ _ _ _ _ _ _ _ =>
  ⟨multiplies_of_body rfl rfl fun _ _ _ _ => rfl, multiplies_of_body rfl rfl fun _ _ _ _ => rfl⟩

end Sys2Proof.Machine
end

section
/-! PROOFS. Drains and loads of an accumulator (06 R135 to R137): what each writes where no copy, event or poison stops it, and the statement
`DrainWordsComplete`. -/

namespace Sys2Proof.Machine

/-! ### The state after a conversion (06 R136) -/

/-- The registers after a drain with `z`: where it is 1, the accumulator whose content was `a` is zeroed. -/
def CoreData.clearedIf (z : BitVec 1) (acc : Nat) (a : Acc) (e : CoreData) : CoreData := if z = 1 then e.setA acc a.zero else e

section Cleared

variable (z : BitVec 1) (acc : Nat) (a : Acc) (e : CoreData)

theorem clearedIf_m : (e.clearedIf z acc a).m = e.m := by
  unfold CoreData.clearedIf
  split <;> rfl

theorem clearedIf_v : (e.clearedIf z acc a).v = e.v := by
  unfold CoreData.clearedIf
  split <;> rfl

/-- Zeroing an accumulator reads no other register. -/
theorem clearedIf_setM_a (d : Nat) (x : Tile) : ((e.setM d x).clearedIf z acc a).a = (e.clearedIf z acc a).a := by
  unfold CoreData.clearedIf
  split <;> rfl

end Cleared

section Converted

variable (s : State) (c k : Nat) (fl : Flags) (f : CoreData → CoreData) (g : BitVec 16)

/-- What a conversion leaves: its events' flags set, its core's registers changed, and its strand's generator drawn from (04 R98, R99). -/
def State.converted : State := ((s.raise c k fl).modData c f).modStrand c k (fun x => { x with g := g })

theorem data_converted : ((s.converted c k fl f g).core c).d = f (s.core c).d := by
  rw [State.converted, data_modStrand, data_modData, data_raise]

theorem strand_converted : (s.converted c k fl f g).strand c k =
    { s.strand c k with flags := (s.strand c k).flags ||| fl, g := g } := by
  rw [State.converted, strand_modStrand, strand_modData, strand_raise]

end Converted

/-! ### The bodies of the three words -/

section Bodies

variable {h : Hdr} {acc : BitVec 2} {y d : BitVec 3} {v : BitVec 5} {z : BitVec 1} {c k : Nat} {w : QWord} {t : State}

/-- MDRAIN writes the converted elements to the tile's data (06 R136). -/
theorem mdrain_body {codes : List Nat} {fl : Flags} {g : BitVec 16}
    (hc : copiesDiffer (matCfg (t.core c).csr.accMode).red ((t.core c).d.getA acc.toNat) = false)
    (hr : drainCodes (matCfg (t.core c).csr.accMode).mode (drainFmt w y.toNat) w (t.strand c k).g ((t.core c).d.getA acc.toNat)
      = (codes, fl, g)) (ht : trapped w.trapen fl = false) :
    ∃ tile : CoreData → Tile, (∀ e, (tile e).data = tileOf (drainWidth w y.toNat) codes) ∧
      (specOf (.mdrain h acc y d z)).body c k w t = .done (t.converted c k fl
        (fun e => (e.setM d.toNat (tile e)).clearedIf z acc.toNat ((t.core c).d.getA acc.toNat)) g) 0 false := by
  rw [State.strand] at hr
  simp only [show specOf (.mdrain h acc y d z) = specMdrain h acc y d z from rfl, specMdrain, mword, hc, hr,
    withFlags_of_untrapped ht, Bool.false_eq_true, if_false]
  exact ⟨fun e => _, fun _ => rfl, rfl⟩

/-- MDRAIN.V writes them to the register group, where no row is poisoned (06 R136). -/
theorem mdrainV_body {codes : List Nat} {fl : Flags} {g : BitVec 16}
    (hc : copiesDiffer (matCfg (t.core c).csr.accMode).red ((t.core c).d.getA acc.toNat) = false)
    (hr : drainCodes (matCfg (t.core c).csr.accMode).mode (drainFmt w y.toNat) w (t.strand c k).g ((t.core c).d.getA acc.toNat)
      = (codes, fl, g)) (ht : trapped w.trapen fl = false) (hp : ((t.core c).d.getA acc.toNat).poison = 0) :
    (specOf (.mdrainV h acc y v z)).body c k w t = .done (t.converted c k fl
      (fun e => (drainInto (drainWidth w y.toNat) codes 32 v.toNat e).clearedIf z acc.toNat ((t.core c).d.getA acc.toNat)) g) 0 false := by
  have hrow : (List.range 32).find? (fun i => ((t.core c).d.getA acc.toNat).poison.getLsbD i) = none := by simp [hp]
  rw [State.strand] at hr
  simp only [show specOf (.mdrainV h acc y v z) = specMdrainV h acc y v z from rfl, specMdrainV, mword, hc, hr, ht, hrow,
    Bool.false_eq_true, if_false]
  rfl

/-- Element `n` of what MLOADA reads from the register group at `v`, of width `ww`, as the accumulator holds it (06 R137). -/
def loadedElem (mode : Nat) (f : Fmt) (ww v : Nat) (e : CoreData) (n : Nat) : AccElem × Flags :=
  loadElem mode (f.decode ((e.getV (v + n / (2048 / ww))).toNat >>> (n % (2048 / ww) * ww) % 2 ^ ww))

theorem loadElem_eq_loadedElem (mode : Nat) (f : Fmt) (ww v : Nat) (e : CoreData) (n : Nat) :
    loadElem mode (f.decode ((e.getV (v + n / (2048 / ww))).toNat >>> (n % (2048 / ww) * ww) % pow2 ww)) = loadedElem mode f ww v e n := by
  rw [pow2, Nat.one_shiftLeft, loadedElem]

/-- MLOADA writes the read elements to the accumulator, which has no poison and no mismatch then. -/
theorem mloada_body {loaded : List (AccElem × Flags)}
    (hl : (List.range 1024).map (loadedElem (matCfg (t.core c).csr.accMode).mode (drainFmt w y.toNat) (drainWidth w y.toNat) v.toNat
      (t.core c).d) = loaded) (ht : trapped w.trapen (loaded.foldl (fun p e => p ||| e.2) 0) = false) :
    ∃ a : CoreData → Acc, (∀ e, (∀ n < 1024, tget {} (a e).e0 n = (loaded.getD n ({}, 0)).1) ∧ (a e).poison = 0 ∧
        (a e).mismatch = none) ∧
      (specOf (.mloada h acc y v)).body c k w t =
        .done ((t.raise c k (loaded.foldl (fun p e => p ||| e.2) 0)).modData c (fun e => e.setA acc.toNat (a e))) 0 false := by
  subst hl
  generalize hload : loadedElem _ _ _ _ _ = load at ht ⊢
  rw [List.foldl_map] at ht ⊢
  simp only [show specOf (.mloada h acc y v) = specMloada h acc y v from rfl, specMloada, mword, loadElem_eq_loadedElem, hload,
    List.foldl_map, withFlags_of_untrapped ht]
  refine ⟨fun e => _, fun e => ?_, rfl⟩
  refine ⟨fun n hn => ?_, rfl, rfl⟩
  have htab := tget_filter_map (β := AccElem) {} (fun n => (load n).1) (List.range 1024) List.pairwise_lt_range n
  rw [if_pos (List.mem_range.2 hn)] at htab
  simp only [List.map_map]
  exact htab.trans (by simp [hn])

end Bodies

/-- Settles O10: each word is one run of its body, which converts every element and then writes. -/
theorem drainWordsComplete : Obligations.DrainWordsComplete := by
  intro h acc y d v z s w t c x g a f ww r cleared loaded
  have hcodes : drainCodes g.mode f w (t.strand c s.cur.2).g a = r := rfl
  have hloaded : (List.range 1024).map (loadedElem g.mode f ww v.toNat x.d) = loaded := rfl
  clear_value r loaded
  obtain ⟨codes, fl, gen⟩ := r
  refine ⟨fun hr hcopies htrap => ?mdrain, fun hr hcopies htrap hpoison => ?mdrainV, fun hr htrap => ?mloada⟩
  case mdrain =>
    obtain ⟨tile, htile, hbody⟩ := mdrain_body (c := s.cur.1) (h := h) (d := d) (z := z) hcopies hcodes htrap
    refine ⟨_, runs_done (exec_word rfl s) hr hbody, ?_⟩
    rw [data_converted, strand_converted]
    refine ⟨?data, clearedIf_setM_a .., clearedIf_v .., rfl, rfl, rfl⟩
    rw [CoreData.getM, clearedIf_m]
    exact (congrArg Tile.data (getM_setM ..)).trans (htile _)
  case mdrainV =>
    refine ⟨_, runs_done (exec_word rfl s) hr (mdrainV_body (c := s.cur.1) hcopies hcodes htrap hpoison), data_converted .., ?_⟩
    rw [strand_converted]
    exact ⟨rfl, rfl, rfl⟩
  case mloada =>
    obtain ⟨e, he, hbody⟩ := mloada_body (c := s.cur.1) (k := s.cur.2) (h := h) (acc := acc) hloaded htrap
    obtain ⟨helems, hpoison, hmismatch⟩ := he x.d
    refine ⟨_, runs_done (exec_word rfl s) hr hbody, ?_⟩
    rw [data_modData, data_raise, strand_modData, strand_raise, getA_setA]
    exact ⟨helems, hpoison, hmismatch, rfl, rfl, rfl, rfl⟩

end Sys2Proof.Machine
end

section
/-! PROOFS. The other matrix words (06 R138 to R140, R143 to R145): tiles and accumulators rewritten, the configuration, the probes, and the
statement `MatrixStateWordsComplete`. -/

namespace Sys2Proof.Machine

/-! ### Tiles rewritten in a row (06 R140) -/

theorem getM_setM_ne (e : CoreData) {n m : Nat} (x : Tile) (h : m ≠ n) : (e.setM n x).getM m = e.getM m := tget_tput_ne _ _ _ h

/-- The first `l` tiles rewritten by `f`. -/
theorem getM_foldl_setM (f : Tile → Tile) (e : CoreData) (l n : Nat) :
    ((List.range l).foldl (fun e n => e.setM n (f (e.getM n))) e).getM n = if n < l then f (e.getM n) else e.getM n := by
  induction l with
  | zero => rfl
  | succ l ih =>
    rw [List.range_succ, List.foldl_append, List.foldl_cons, List.foldl_nil]
    by_cases hn : n = l
    · subst hn
      simp [ih]
    · rw [getM_setM_ne _ _ hn, ih]
      have : n < l + 1 ↔ n < l := by omega
      simp only [this]

/-- Rewriting accumulators leaves the tiles. -/
theorem getM_foldl_setA (f : CoreData → Nat → Acc) (e : CoreData) (l : List Nat) (n : Nat) :
    (l.foldl (fun e n => e.setA n (f e n)) e).getM n = e.getM n :=
  foldl_field (f := fun (e : CoreData) n => e.setA n (f e n)) (·.getM n) (fun _ _ => rfl) l e

/-- A tile as a new configuration leaves it (06 R140). -/
def Tile.configured (x : Tile) : Tile := { x with scale := unitScales, nonfinite := true }

/-- The 256 scale codes that stand in 16-bit places in the register pair at `v` (06 R139). -/
def pairScales (e : CoreData) (v : Nat) : BitVec 2304 :=
  BitVec.ofNat 2304 (((List.range 256).map (fun n => (e.getV (v + n / 128)).toNat / 2 ^ (n % 128 * 16) % 512 * 2 ^ (9 * n))).sum)

/-! ### The bodies of MSCALE and MCFG, and the wait of the probes -/

section Bodies

variable {h : Hdr} {d : BitVec 3} {v : BitVec 5} {mode ka kb : BitVec 2} {r : BitVec 1} {c k : Nat} {w : QWord} {t : State}

/-- MSCALE gives the tile the scale codes of the register pair (06 R139). -/
theorem mscale_body : (specOf (.mscale h d v)).body c k w t =
    .done (t.modData c (fun e => e.setM d.toNat { e.getM d.toNat with scale := pairScales e v.toNat })) 0 false := by
  have hsum (e : CoreData) : pairScales e v.toNat = BitVec.ofNat 2304 ((List.range 256).foldl (fun x n =>
      x + (e.getV (v.toNat + n / 128)).toNat >>> (n % 128 * 16) % 512 * pow2 (9 * n)) 0) := by
    simp only [pairScales, List.sum_eq_foldl, List.foldl_map, Nat.shiftRight_eq_div_pow, pow2, Nat.one_shiftLeft]
  simp only [hsum]
  rfl

/-- Alone in its queue, MCFG writes acc.mode, and gives every tile unit scales and the flag of a value that is not finite (06 R140). -/
theorem mcfg_body {m : BitVec 48} (hm : BitVec.ofNat 48 ((if ka = 0 then w.fmtA.toNat else 0) * 2 ^ 32
      + (if kb = 0 then w.fmtB.toNat else 0) * 2 ^ 16 + 128 + mode.toNat * 32 + ka.toNat * 8 + kb.toNat * 2 + r.toNat) = m)
    (hq : ((t.core c).strand k).queue .m = []) : ∃ f : CoreData → CoreData,
    (∀ e, ∀ n < 8, (f e).getM n = (e.getM n).configured) ∧
      (specOf (.mcfg h mode ka kb r)).body c k w t =
        .done ((t.modCsr c (fun q => { q with accMode := m })).modData c f) 0 false := by
  subst hm
  have hwait : ¬ (((t.core c).strand k).queue .m).any (fun q => decide (q.seq < w.seq)) = true := by simp [hq]
  refine ⟨fun e => _, fun e n hn => ?_, if_neg hwait⟩
  exact (getM_foldl_setM Tile.configured _ 8 n).trans ((if_pos hn).trans (congrArg Tile.configured (getM_foldl_setA _ e _ n)))

/-- Alone in its queue, a probe does not wait (06 R144). -/
theorem mprobeWait_of_queue (hq : ((t.core c).strand k).queue .m = []) (go : Run) : mprobeWait c k w t go = go := by
  simp only [mprobeWait, hq, List.any_nil, Bool.false_eq_true, if_false]

end Bodies

/-- Settles O11: each word is one run of its body; MCFG and the probes wait for no other word, since they are alone in the M queue. -/
theorem matrixStateWordsComplete : Obligations.MatrixStateWordsComplete := by
  intro h acc wc bank mode ka kb a d v dst r
  refine ⟨acts_of_body (exec_word rfl) fun _ _ _ _ => rfl, acts_of_body (exec_word rfl) fun _ _ _ _ => rfl, fun s w t hr => ?mscale,
    fun s w t hr => ?mcfg, fun s w t hr => ?mchk, acts_of_body (exec_word rfl) fun _ _ _ _ => rfl,
    acts_of_body (exec_word rfl) fun _ _ _ _ => rfl, fun s w t q l hr hq => ?record, fun s w t hr => ?count, fun s w t hr => ?accumulator⟩
  case mscale =>
    refine ⟨_, runs_done (exec_word rfl s) hr mscale_body, ?_⟩
    rw [data_modData, getM_setM]
    exact ⟨rfl, rfl⟩
  case mcfg =>
    obtain ⟨f, hf, hbody⟩ := mcfg_body (h := h) (mode := mode) (ka := ka) (kb := kb) (r := r) (w := w) rfl
      (runsNow_queue hr rfl (by decide))
    refine ⟨_, runs_done (exec_word rfl s) hr hbody, ?_⟩
    rw [csr_modData, data_modData, core_modCsr]
    refine ⟨rfl, fun n hn => ?_⟩
    rw [hf _ n hn]
    exact ⟨rfl, rfl⟩
  case mchk => exact runs_done (exec_word rfl s) hr rfl
  case record =>
    refine runs_done (exec_word rfl s) hr ((mprobeWait_of_queue (runsNow_queue hr rfl (by decide)) _).trans ?_)
    simp only [hq]
    rfl
  case count => exact runs_done (exec_word rfl s) hr (mprobeWait_of_queue (runsNow_queue hr rfl (by decide)) _)
  case accumulator => exact runs_done (exec_word rfl s) hr (mprobeWait_of_queue (runsNow_queue hr rfl (by decide)) _)

end Sys2Proof.Machine
end

section
/-! PROOFS. System words (06 R147, 17 R326 to R330, 22 R418, R419): what each does as it runs at once, how YIELD runs on, and the statement
`SystemWordsComplete`. -/

namespace Sys2Proof.Machine

/-! ### A begun word that runs on (01 R27) -/

section RunsOn

variable {i : Instr} {c k : Nat} {w z : QWord} {s u : State}

/-- A begun Y word runs on; what its run comes to stays in its place as `z`, which does not start anew. -/
theorem Begun.runs_on (hb : Begun i c k .y w s) (he : (specOf i).engine ≠ .l) {r : Run} (hr : (specOf i).body c k w s = r)
    (hz : settleQueued c k .y w r = putWord c k .y z u) (hseq : z.seq = w.seq) (hphase : z.phase ≠ .queued)
    (hu : u.core c = s.core c) : exec (.engineWordStart c k .y) s = .next (putWord c k .y z u) := by
  obtain ⟨rfl, hq, hph, hreq, hbad, hfrozen, hfault⟩ := hb
  have hgo : (((s.core c).strand k).queue .y).find? (fun q => q.phase = .started && q.req = 0) = some w := by simp [hq, hph, hreq]
  have hrun : serveRun c k (specOf w.i) w s = r := by rw [serveRun_of_ne_l he, runBody_of_intact hbad, hr]
  have hrest : (((putWord c k .y z u).core c).strand k).queue .y = [z] := by simp [queue_putWord, hu, hq, hseq]
  rw [exec_engineWordStart hfrozen hfault, continueWord_some (.inr (.inr rfl)) nofun hgo, hrun, hz,
    startWord_none (by simp [hrest, hphase])]

theorem Begun.ends (hb : Begun i c k .y w s) (he : (specOf i).engine ≠ .l) {v : Word}
    (hr : (specOf i).body c k w s = .done s v false) : EndsWith c k .y w s v s :=
  hb.runs_on he hr rfl rfl nofun rfl

end RunsOn

/-- A pre-emption that a crown decides reaches no core yet (17 R332). -/
theorem core_decideFor (p : NodeRef) (rs : List NodeRef) (s : State) (c : Nat) : (decideFor p rs s).core c = s.core c := by
  unfold decideFor decidePreempt
  refine foldl_field (State.core · c) (fun u r => ?_) _ s
  split
  · split <;> rfl
  · rfl

/-! ### The bodies of TRAP, TRET and YIELD -/

section Bodies

variable {h : Hdr} {d a : BitVec 5} {c k : Nat} {w : QWord} {t : State}

theorem trap_body {code : BitVec 8} (hd : earlierDone t c k w.seq = true) : (specOf (.trap h code)).body c k w t =
    .trap { code := 0x00, cls := 5, x0 := zext code } w t := if_neg (by simp [hd])

theorem tretAbort_body (hd : earlierDone t c k w.seq = true) :
    (specOf (.tretAbort h)).body c k w t = .done (t.modCore c returnAbort) 0 false := if_neg (by simp [hd])

/-- TRET with resume acts as abort where the stop is of the deferred class (17 R326). -/
theorem tretResume_body_deferred (hd : earlierDone t c k w.seq = true) (hs : deferredStop (t.core c) = true) :
    (specOf (.tretResume h)).body c k w t = .done (t.modCore c returnAbort) 0 false := by
  have hret : tret false c t = t.modCore c returnAbort := modCore_congr (by simp [hs])
  simp only [show specOf (.tretResume h) = tretWord h false from rfl, tretWord, yWord, hd, hs, Bool.not_true, Bool.false_eq_true,
    if_false, if_true]
  cases (t.core c).node <;> exact congrArg (Run.done · 0 false) hret

/-- Otherwise it resumes, and its node has the record's code. -/
theorem tretResume_body (hd : earlierDone t c k w.seq = true) (hs : deferredStop (t.core c) = false) :
    (specOf (.tretResume h)).body c k w t = .done ((match (t.core c).node with
      | some r => t.modNode r (fun n => { n with code := (t.core c).lastCode })
      | none => t).modCore c returnResume) 0 false := by
  have hret {u : State} (hu : u.core c = t.core c) : tret false c u = u.modCore c returnResume := modCore_congr (by simp [hu, hs])
  simp only [show specOf (.tretResume h) = tretWord h false from rfl, tretWord, yWord, hd, hs, Bool.not_true, Bool.false_eq_true,
    if_false]
  cases (t.core c).node <;> exact congrArg (Run.done · 0 false) (hret rfl)

/-- A YIELD that the crown has not answered yet waits for the 26th cycle after its issue (17 R330). -/
theorem yield_body_early (hi : w.idx ≠ 1) (ht : t.cycle < w.res.toNat + 26) :
    (specOf (.yield h d)).body c k w t = .begun { w with due := w.res.toNat + 26 } t := (if_neg hi).trans (if_pos ht)

/-- Then it is what the crown decides. -/
theorem yield_body_due (hi : w.idx ≠ 1) (ht : w.res.toNat + 26 ≤ t.cycle) : (specOf (.yield h d)).body c k w t =
    match (t.core c).node with
    | some r => (match yieldsTo t r with
      | some p => .begun { w with idx := 1, due := 0 } (decideFor p [r] t)
      | none => .done t 0 false)
    | none => .done t 0 false := (if_neg hi).trans (if_neg (Nat.not_lt.2 ht))

end Bodies

/-- A WUT has sampled the time of its issue (22 R418). -/
theorem wut_res {h : Hdr} {a : BitVec 5} {s t : State} {w : QWord} (hr : runsNow (.wut h a) s = some (w, t)) :
    w.res.toNat = timeLo s := by
  rw [runsNow_res hr]
  refine word_toNat ?_
  have := s.time.count.isLt
  unfold timeLo
  omega

/-- Settles O21: each clause is one run of its word's body, or, for a begun YIELD, one run on; the clause's premises decide its branch. -/
theorem systemWordsComplete : Obligations.SystemWordsComplete := by
  intro h d a code sel s w t c k
  refine ⟨fun hr => runs_done (exec_word rfl s) hr rfl, fun hr hd => ?trap, fun hr hd => runs_done (exec_word rfl s) hr (tretAbort_body hd),
    fun hr hd hs => runs_done (exec_word rfl s) hr (tretResume_body_deferred hd hs),
    fun hr hd hs => runs_done (exec_word rfl s) hr (tretResume_body hd hs), fun hr hc => ?yield, fun r p hb hi ht hn hp => ?yields,
    fun hb hi ht hn => ?stays, fun hb hi hn => ?resumed, fun hr hc => ?mperm, fun hr ht => ?crossed, fun hr ht => ?waits, fun hr => ?rdtime⟩
  case trap =>
    have hrun := runs_userTrap (exec_word rfl s) hr (trap_body hd) rfl
    rw [hrun, runsNow_instr hr]
    rfl
  case yield =>
    have hres := res_toNat_of_cycle hr rfl hc
    have hcycle : t.cycle = s.cycle := runsNow_cycle hr nofun fun _ => rfl
    rw [runs_begun (exec_word rfl s) hr (yield_body_early (by simp [runsNow_idx hr]) (by omega)), hres]
  case yields =>
    have hbody : (specOf (.yield h d)).body c k w t = .begun { w with idx := 1, due := 0 } (decideFor p [r] t) := by
      rw [yield_body_due hi ht]
      simp only [hn, hp]
    exact hb.runs_on nofun hbody rfl rfl nofun (core_decideFor ..)
  case stays =>
    refine hb.ends nofun ((yield_body_due (h := h) (d := d) hi ht).trans ?_)
    cases hnode : (t.core c).node with
    | none => rfl
    | some r => simp only [hn r hnode]
  case resumed => exact hb.ends nofun ((if_pos hi).trans (if_pos hn))
  case mperm =>
    have hres := res_toNat_of_cycle hr rfl hc
    have hcycle : t.cycle = s.cycle := runsNow_cycle hr nofun fun _ => rfl
    rw [runs_begun (exec_word rfl s) hr rfl, hres, hcycle, ite_self]
  case crossed =>
    obtain ⟨u, hcycle, htime, rfl⟩ := runsNow_taken hr nofun
    have htake : (specOf (.wut h a)).take c k w u = wutPause c k u := if_pos (by rwa [timeLo, htime])
    refine ⟨runs_done (exec_word rfl s) hr (if_pos (by rwa [wut_res hr])), ?_⟩
    rw [strand_modStrand, advance_pauseEnd, htake, wutPause, strand_modStrand, hcycle]
  case waits =>
    obtain ⟨u, -, htime, rfl⟩ := runsNow_taken hr nofun
    have htake : (specOf (.wut h a)).take c k w u = u.modStrand c k (fun x => { x with pauseEnd := 0 }) :=
      if_neg (by rw [timeLo, htime]; exact Nat.not_le.2 ht)
    refine ⟨runs_begun (exec_word rfl s) hr (if_neg (by rw [wut_res hr]; exact Nat.not_le.2 ht)), ?_⟩
    rw [strand_modStrand, advance_pauseEnd, htake, strand_modStrand]
  case rdtime =>
    have hrun := runs_done (exec_word rfl s) hr rfl
    rw [hrun, runsNow_res hr]
    rfl

end Sys2Proof.Machine
end

section
/-! PROOFS. Vector words and mask words (07 R155 to R170, R176): each is one computation of the register files, and the statements
`ElementWordsComplete` and `VectorWordsComplete`. -/

namespace Sys2Proof.Machine

/-! ### A word whose body is one computation (07 R152) -/

/-- Such a word completes with what its computation gives, or stops where an event meets its trap enable. -/
theorem vRuns_of_body {i : Instr} {f : VFun} (hi : i.isWord = true) (hb : (specOf i).body = vRun f) : VRuns i f :=
  ⟨vComputes_of_body (exec_word hi) hb, vTraps_of_body (exec_word hi) hb⟩

/-- An element word's operation may be given by any function that agrees with the model's. -/
theorem vRuns_of_elementwise {i : Instr} {op op' : Fmt → Bool → Nat → Nat → Nat → Nat × Flags} {d : BitVec 5}
    {av bv : CoreData → BitVec 2048} {k : BitVec 3} (hi : i.isWord = true) (hb : (specOf i).body = vRun (elementwise op d av bv k))
    (hop : ∀ f sat x y z, op f sat x y z = op' f sat x y z) : VRuns i (elementwise op' d av bv k) := by
  have hop : op = op' := by
    funext f sat x y z
    exact hop f sat x y z
  exact hop ▸ vRuns_of_body hi hb

/-! ### Shifts as products and quotients by powers of two (07 R158) -/

theorem pow2_eq (n : Nat) : pow2 n = 2 ^ n := Nat.one_shiftLeft n

theorem shiftLeft_mod_pow2 (x n w : Nat) : x <<< n % pow2 w = x * 2 ^ n % 2 ^ w := by rw [Nat.shiftLeft_eq, pow2_eq]

/-- Settles O6: the body of each element word is its computation of the register files; the shifts by products and quotients. -/
theorem elementWordsComplete : Obligations.ElementWordsComplete := by
  intro h d a b i k three two
  refine ⟨?_, ?_, ?_, ?_, ?_, ?_, ?_, ?_, ?_, ?_, ?_, ?_, ?_, ?_, ?_, ?_, ?_, ?_, ?vshl, ?vshr, ?_, ?vshli, ?vshri, ?_, ?_, ?_⟩
  case vshl => exact vRuns_of_elementwise rfl rfl fun f _ x y _ => congrArg (·, 0) (shiftLeft_mod_pow2 x (y % f.width) f.width)
  case vshr => exact vRuns_of_elementwise rfl rfl fun f _ x y _ => congrArg (·, 0) (Nat.shiftRight_eq_div_pow x (y % f.width))
  case vshli => exact vRuns_of_elementwise rfl rfl fun f _ x _ _ => congrArg (·, 0) (shiftLeft_mod_pow2 x i.toNat f.width)
  case vshri =>
    exact vRuns_of_elementwise rfl rfl fun f _ x _ _ =>
      congrArg (fun q => (if f.signed then sraPat f.width x i.toNat else q, 0)) (Nat.shiftRight_eq_div_pow x i.toNat)
  all_goals exact vRuns_of_body rfl rfl

/-! ### VTYPE (07 R155) -/

/-- VTYPE sets the strand's vtype at its issue, which the move of the pc leaves. -/
theorem issued_vtype {h : Hdr} {d a : BitVec 5} {sat : BitVec 1} {s : State} {w : QWord} {y : Core}
    (hg : goes (.vtype h d a sat) s = some (w, y)) :
    ((issued (.vtype h d a sat) w y s).strand s.cur.1 s.cur.2).vtype = BitVec.ofNat 9 (sat.toNat * 256 + a.toNat * 16 + d.toNat) := by
  rw [issued_strand hg rfl fun _ => rfl]
  exact (advance_keeps (dst := .none) (f := 0) _ _ _).vtype

/-- Settles O7: the body of each word is its computation of the register files, and VTYPE's only finishes it. -/
theorem vectorWordsComplete : Obligations.VectorWordsComplete := by
  refine ⟨fun h d a b i k => ⟨?_, ?_, ?_, ?_, ?_, ?_, ?_, ?_, ?_, ?_, ?_, ?_, ?_, ?_, ?_, ?_, ?_, ?_, ?_, ?_, ?_, ?_, ?_, ?_, ?_, ?_⟩,
    fun h d a b sat => ⟨?kand, ?kor, ?kxor, ?knot, ?kmov, ?kpopc, ?kfirst, ?vtype, fun s w y hg => issued_vtype hg⟩⟩
  case vtype => exact computes_of_body (exec_word rfl) (fun _ _ _ _ => rfl)
  case kand | kor | kxor | knot | kmov | kpopc | kfirst => exact vComputes_of_body (exec_word rfl) rfl
  all_goals exact vRuns_of_body rfl rfl

end Sys2Proof.Machine
end

section
/-! PROOFS. The elements of a vector register (07 R150): what each is after a register of elements is written, and the statement
`ElementsMerge`. -/

namespace Sys2Proof.Machine

/-! ### A register and its elements -/

section Elements

variable {w i : Nat} {l : List Nat} {v : BitVec 2048}

theorem vpackN_cons (w x : Nat) (l : List Nat) : vpackN w (x :: l) = x % 2 ^ w + 2 ^ w * vpackN w l := by
  rw [vpackN, pow2_eq, Nat.shiftLeft_eq, Nat.mul_comm]

/-- Elements laid side by side take their widths' bits. -/
theorem vpackN_lt (w : Nat) (l : List Nat) : vpackN w l < 2 ^ (l.length * w) := by
  induction l with
  | nil => simp [vpackN]
  | cons x l ih =>
    have hx : x % 2 ^ w < 2 ^ w := Nat.mod_lt _ (Nat.two_pow_pos w)
    calc vpackN w (x :: l) = x % 2 ^ w + 2 ^ w * vpackN w l := vpackN_cons w x l
      _ < 2 ^ w * (vpackN w l + 1) := by rw [Nat.mul_succ]; omega
      _ ≤ 2 ^ w * 2 ^ (l.length * w) := Nat.mul_le_mul_left _ ih
      _ = 2 ^ ((x :: l).length * w) := by rw [← Nat.pow_add, List.length_cons, Nat.succ_mul, Nat.add_comm]

/-- Each of them stands at its place. -/
theorem vpackN_elem (w : Nat) (h : i < l.length) : vpackN w l / 2 ^ (i * w) % 2 ^ w = l[i] % 2 ^ w := by
  induction l generalizing i with
  | nil => exact absurd h (Nat.not_lt_zero i)
  | cons x l ih =>
    rw [vpackN_cons]
    cases i with
    | zero => simp
    | succ i =>
      have hx : x % 2 ^ w / 2 ^ w = 0 := Nat.div_eq_of_lt (Nat.mod_lt _ (Nat.two_pow_pos w))
      rw [Nat.succ_mul, Nat.add_comm (i * w), Nat.pow_add, ← Nat.div_div_eq_div_mul, Nat.add_mul_div_left _ _ (Nat.two_pow_pos w), hx,
        Nat.zero_add, ih (Nat.lt_of_succ_lt_succ h), List.getElem_cons_succ]

theorem toNat_ofNat_vpackN {n : Nat} (h : l.length * w ≤ n) : (BitVec.ofNat n (vpackN w l)).toNat = vpackN w l := by
  have hlt : vpackN w l < 2 ^ n := lt_of_lt_of_le (vpackN_lt w l) (Nat.pow_le_pow_right Nat.two_pos h)
  rw [BitVec.toNat_ofNat, Nat.mod_eq_of_lt hlt]

/-- A register of elements that fit holds each at its place, reduced to its width. -/
theorem vofElems_elem (hl : l.length * w ≤ 2048) (h : i < l.length) : (vofElems w l).toNat / 2 ^ (i * w) % 2 ^ w = l[i] % 2 ^ w := by
  rw [vofElems, toNat_ofNat_vpackN hl, vpackN_elem w h]

@[simp] theorem velems_length : (velems w v).length = 2048 / w := by simp [velems]

theorem velems_getElem (h : i < (velems w v).length) : (velems w v)[i] = v.toNat / 2 ^ (i * w) % 2 ^ w := by
  simp [velems, Nat.shiftRight_eq_div_pow, pow2_eq]

end Elements

/-- An active element becomes the result, an inactive one keeps what it holds. -/
theorem merge_fst {β : Type} (act : Bool) (old : β) (q : β × Flags) : (merge act old q).1 = if act then q.1 else old := by
  cases act <;> rfl

/-- Settles O53: the results are laid side by side over the whole register, and each is the operation's or the old element. -/
theorem elementsMerge : Obligations.ElementsMerge := by
  intro op d a b k w x g i ww n el _ hi
  have hfit : n * ww ≤ 2048 := Nat.div_mul_le_self 2048 ww
  show ((x.setV d.toNat (vofElems ww _)).getV d.toNat).toNat / 2 ^ (i * ww) % 2 ^ ww = _
  rw [getV_setV, vofElems_elem (by simpa using hfit) (by simpa using hi)]
  simp only [List.getElem_map, List.getElem_zip, List.getElem_range, velems_getElem, merge_fst, active, maskG]
  split
  · rfl
  · exact Nat.mod_mod _ _

end Sys2Proof.Machine
end

section
/-! PROOFS. The frame of the element words (07 R150, R152, R156, R158, R159, R161): what their step leaves of the machine, and the statement
`VectorWordsKeep`. -/

namespace Sys2Proof.Machine

/-! ### What a write of one vector or mask register leaves -/

/-- The register files after at most a write of vector register `n`. -/
def WritesV (n : Nat) (x y : CoreData) : Prop := y = x ∨ ∃ b, y = x.setV n b

/-- The register files after at most a write of mask register `n`. -/
def WritesK (n : Nat) (x y : CoreData) : Prop := y = x ∨ ∃ b, y = x.setK n b

theorem getV_setV_ne (x : CoreData) {n m : Nat} (b : BitVec 2048) (h : m ≠ n) : (x.setV n b).getV m = x.getV m := tget_tput_ne _ _ _ h

theorem getK_setK_ne (x : CoreData) {n m : Nat} (b : BitVec 256) (h : m ≠ n) : (x.setK n b).getK m = x.getK m := by
  unfold CoreData.setK CoreData.getK
  split
  · rfl
  · split
    · rfl
    · exact tget_tput_ne _ _ _ h

/-- What neither write changes: scratch, tiles, accumulators and fibres. -/
structure FilesKeep (x y : CoreData) : Prop where
  scratch : y.scratch = x.scratch
  m : y.m = x.m
  a : y.a = x.a
  f : y.f = x.f

theorem FilesKeep.setK (x : CoreData) (n : Nat) (b : BitVec 256) : FilesKeep x (x.setK n b) := by
  unfold CoreData.setK
  split <;> exact ⟨rfl, rfl, rfl, rfl⟩

theorem setK_v (x : CoreData) (n : Nat) (b : BitVec 256) : (x.setK n b).v = x.v := by
  unfold CoreData.setK
  split <;> rfl

section Writes

variable {n : Nat} {x y : CoreData}

theorem WritesV.files (h : WritesV n x y) : FilesKeep x y := by
  obtain rfl | ⟨b, rfl⟩ := h <;> exact ⟨rfl, rfl, rfl, rfl⟩

theorem WritesV.k (h : WritesV n x y) : y.k = x.k := by
  obtain rfl | ⟨b, rfl⟩ := h <;> rfl

theorem WritesV.getV (h : WritesV n x y) {m : Nat} (hm : m ≠ n) : y.getV m = x.getV m := by
  obtain rfl | ⟨b, rfl⟩ := h
  · rfl
  · exact getV_setV_ne x b hm

theorem WritesK.files (h : WritesK n x y) : FilesKeep x y := by
  obtain rfl | ⟨b, rfl⟩ := h
  · exact ⟨rfl, rfl, rfl, rfl⟩
  · exact .setK x n b

theorem WritesK.v (h : WritesK n x y) : y.v = x.v := by
  obtain rfl | ⟨b, rfl⟩ := h
  · rfl
  · exact setK_v x n b

theorem WritesK.getK (h : WritesK n x y) {m : Nat} (hm : m ≠ n) : y.getK m = x.getK m := by
  obtain rfl | ⟨b, rfl⟩ := h
  · rfl
  · exact getK_setK_ne x b hm

end Writes

/-! ### What an element word leaves of the machine -/

/-- Everything but the register files, which change as `W` says, and the strand's own flags, queue and pc. -/
structure VectorKeeps (c k : Nat) (W : CoreData → CoreData → Prop) (s t : State) : Prop where
  mem : t.mem = s.mem
  files : W (s.core c).d (t.core c).d
  csr : (t.core c).csr = (s.core c).csr
  regs : (t.strand c k).regs = (s.strand c k).regs
  vtype : (t.strand c k).vtype = (s.strand c k).vtype
  cores : ∀ e, e ≠ c → t.core e = s.core e
  strands : ∀ j, j ≠ k → t.strand c j = s.strand c j

section Keeps

variable {c k : Nat} {W : CoreData → CoreData → Prop} {f : Flags} {s t u : State}

theorem VectorKeeps.refl (hW : ∀ x, W x x) (s : State) : VectorKeeps c k W s s :=
  ⟨rfl, hW _, rfl, rfl, rfl, fun _ _ => rfl, fun _ _ => rfl⟩

/-- What comes after the computation, a retirement or a wait for it, changes no register (01 R31). -/
theorem VectorKeeps.trans_keeps (h : VectorKeeps c k W s t) (h' : Keeps c k .none f t u) : VectorKeeps c k W s u := by
  obtain ⟨hmem, hcores, ⟨hd, hcsr, -, hstrands, ⟨hfile, -, -, -, hvtype, -, -⟩⟩⟩ := h'
  exact ⟨hmem.trans h.mem, hd ▸ h.files, hcsr.trans h.csr, (hfile fun _ => nofun).trans h.regs, hvtype.trans h.vtype,
    fun e he => (hcores e he).trans (h.cores e he), fun j hj => (hstrands j hj).trans (h.strands j hj)⟩

/-- Nor does what comes before, the issue (01 R27). -/
theorem VectorKeeps.after_keeps (h : Keeps c k .none f s t) (h' : VectorKeeps c k W t u) : VectorKeeps c k W s u := by
  obtain ⟨hmem, hcores, ⟨hd, hcsr, -, hstrands, ⟨hfile, -, -, -, hvtype, -, -⟩⟩⟩ := h
  exact ⟨h'.mem.trans hmem, hd ▸ h'.files, h'.csr.trans hcsr, h'.regs.trans (hfile fun _ => nofun), h'.vtype.trans hvtype,
    fun e he => (h'.cores e he).trans (hcores e he), fun j hj => (h'.strands j hj).trans (hstrands j hj)⟩

/-- A word that has not run leaves the register files. -/
theorem VectorKeeps.of_keeps (hW : ∀ x, W x x) (h : Keeps c k .none f s t) : VectorKeeps c k W s t := .after_keeps h (.refl hW t)

theorem strand_modStrand_ne {j : Nat} (g : Strand → Strand) (h : j ≠ k) : (s.modStrand c k g).strand c j = s.strand c j := by
  simp only [State.strand, core_modStrand, strand_coreModStrand_ne _ g h]

/-- A computation's effect: flags, register files and the stochastic generator (07 R152). -/
theorem vEffect_keeps {o : VOut} (ho : W (s.core c).d o.d) : VectorKeeps c k W s (vEffect c k o s) := by
  have hstrand : (vEffect c k o s).strand c k = { s.strand c k with flags := (s.strand c k).flags ||| o.fl, g := o.g.getD (s.strand c k).g } := by
    rw [vEffect, strand_modStrand, strand_modData, strand_raise]
  refine ⟨rfl, ?files, ?csr, by rw [hstrand], by rw [hstrand], fun e he => ?cores, fun j hj => ?strands⟩
  case files => rwa [vEffect, data_modStrand, data_modData]
  case csr => rw [vEffect, csr_modStrand, csr_modData, State.raise, csr_modStrand]
  case cores => rw [vEffect, core_modStrand_ne _ _ _ he, core_modData_ne _ _ he, State.raise, core_modStrand_ne _ _ _ he]
  case strands => rw [vEffect, strand_modStrand_ne _ hj, strand_modData, State.raise, strand_modStrand_ne _ hj]

end Keeps

/-! ### The issue of an element word (01 R26 to R31) -/

/-- A word of V without a destination or an effect at its issue, whose body is one computation, which changes the register files as `W`
says. -/
structure VectorSpec (p : WordSpec) (W : CoreData → CoreData → Prop) : Prop where
  engine : p.engine = .v
  hint : p.hint = false
  dst : p.dst = none
  take : ∀ c k w s, p.take c k w s = s
  body : ∃ f : VFun, p.body = vRun f ∧ ∀ w x g, W x (f w x g).d

section Issue

variable {i : Instr} {W : CoreData → CoreData → Prop} {c k : Nat} {s : State} {w : QWord}

theorem trapped_none (f : Flags) : trapped 0 f = false := by simp [trapped]

/-- A computation none of whose events meets its trap enable finishes (07 R152). -/
theorem vRun_of_untrapped {f : VFun} (hx : trapped w.trapen (f w (s.core c).d (s.strand c k).g).ex = false)
    (hf : trapped w.trapen (f w (s.core c).d (s.strand c k).g).fl = false) :
    vRun f c k w s = .done (vEffect c k (f w (s.core c).d (s.strand c k).g) s) (f w (s.core c).d (s.strand c k).g).res
      (f w (s.core c).d (s.strand c k).g).bit := by
  simp only [vRun, hx, withFlags_of_untrapped hf, Bool.false_eq_true, if_false]
  rfl

/-- With no trap enabled its body finishes. -/
theorem VectorSpec.body_keeps {p : WordSpec} (hp : VectorSpec p W) (hw : w.trapen = 0) :
    ∃ u v b, p.body c k w s = .done u v b ∧ VectorKeeps c k W s u := by
  obtain ⟨f, hb, hf⟩ := hp.body
  exact ⟨_, _, _, hb ▸ vRun_of_untrapped (hw ▸ trapped_none _) (hw ▸ trapped_none _), vEffect_keeps (hf _ _ _)⟩

/-- Where it goes, it has run and retired, has run and waits for its retirement, or waits in its queue. -/
theorem VectorSpec.issueGo_keeps {p : WordSpec} {y : Core} (hp : VectorSpec p W) (hW : ∀ x, W x x) (hd : w.dst = .none)
    (hw : w.trapen = 0) (hy : CoreKeeps k .none 0 (s.core c) y) (hb : (s.core c).d.regBad = []) :
    VectorKeeps c k W s (issueGo c k p w y s) := by
  have hl : Keeps c k .none 0 s (launch c k p w y s) := launch_keeps hy (hp.take c k w)
  unfold issueGo
  dsimp only
  split
  · have hrun : serveRun c k p w (launch c k p w y s) = p.body c k w (launch c k p w y s) :=
      (serveRun_of_ne_l (by simp [hp.engine])).trans (runBody_of_intact (hl.core.d ▸ hb))
    obtain ⟨u, v, b, hr, hk⟩ := hp.body_keeps (c := c) (k := k) (s := launch c k p w y s) hw
    rw [hrun, hr]
    refine VectorKeeps.after_keeps hl ?_
    unfold settleNow
    dsimp only
    split
    · exact hk.trans_keeps (f := 0) (complete_keeps p hd v b u)
    · exact hk.trans_keeps (f := 0) (enqueue_keeps _ _ u)
  · exact .of_keeps hW (hl.trans (enqueue_keeps _ w _))

/-- An element word that no check stops, with no trap enabled and no register in error, changes the register files as `W` says, whichever
end its issue comes to. -/
theorem VectorSpec.exec_keeps (hi : i.isWord = true) (hp : VectorSpec (specOf i) W) (hW : ∀ x, W x x) (hs : stops i s = none)
    (ht : (s.strand s.cur.1 s.cur.2).trapen = 0) (hb : (s.core s.cur.1).d.regBad = []) :
    ∃ t, exec i s = .next t ∧ VectorKeeps s.cur.1 s.cur.2 W s t := by
  refine ⟨_, exec_word hi s, ?_⟩
  cases hg : gate s.cur.1 s.cur.2 i (specOf i) s with
  | idle =>
    simp only [issueWord, hg]
    exact .of_keeps hW (f := 0) (.refl s)
  | stop e => simp [stops, hg] at hs
  | skip =>
    simp only [issueWord, hg]
    exact .of_keeps hW (f := 0) (.trans (.modStrand (skipWord_keeps _ _)) (turned_keeps _))
  | block b =>
    rw [issueWord_blocks hg]
    exact .of_keeps hW (f := 0) (.modStrand ⟨fun _ => rfl, fun _ _ => rfl, .inl rfl, rfl, rfl, rfl, rfl⟩)
  | go w y =>
    have hgo : goes i s = some (w, y) := by simp [goes, hg]
    obtain ⟨-, -, -, -, -, -, -, -, -, va, vb, vd, hsrc, -⟩ := (goes_iff hp.hint).1 hgo
    obtain ⟨-, -, -, -, -, -, -, -, -, -, htrapen, -, hdst, -⟩ := goes_fields hgo hp.hint
    rw [issueWord_goes hgo hp.hint]
    exact hp.issueGo_keeps hW (hdst.trans (by rw [hp.dst]; rfl)) (htrapen.trans ht) (popSrcs_keeps hsrc) hb

end Issue

/-! ### The words -/

theorem vectorSpec_of_vword {h : Hdr} {rd wr : List Reg} {allow : List Cls} {f : VFun} {W : CoreData → CoreData → Prop}
    (hf : ∀ w x g, W x (f w x g).d) : VectorSpec (vword h rd wr allow (vRun f)) W where
  engine := rfl
  hint := rfl
  dst := rfl
  take _ _ _ _ := rfl
  body := ⟨f, rfl, hf⟩

/-- Settles O52: a word that runs writes its destination and flags, and one that does not run leaves the register files. -/
theorem vectorWordsKeep : Obligations.VectorWordsKeep := by
  intro h d a b k3 s c k x u keeps ht hb
  have kept {W : CoreData → CoreData → Prop} {t : State} (hk : VectorKeeps c k W s t) (hx : FilesKeep x (t.core c).d) : keeps t :=
    ⟨hk.mem, hx.scratch, hx.m, hx.a, hx.f, hk.csr, hk.regs, hk.vtype, hk.cores, hk.strands⟩
  refine ⟨fun i hi hs => ?vector, fun i hi hs => ?mask⟩
  case vector =>
    have hp : i.isWord = true ∧ VectorSpec (specOf i) (WritesV d.toNat) := by
      fin_cases hi <;> exact ⟨rfl, vectorSpec_of_vword fun _ _ _ => .inr ⟨_, rfl⟩⟩
    obtain ⟨t, he, hk⟩ := hp.2.exec_keeps hp.1 (fun _ => .inl rfl) hs ht hb
    exact ⟨t, he, kept hk hk.files.files, hk.files.k, fun n hn => hk.files.getV hn⟩
  case mask =>
    have hp : i.isWord = true ∧ VectorSpec (specOf i) (WritesK d.toNat) := by
      fin_cases hi <;> exact ⟨rfl, vectorSpec_of_vword fun _ _ _ => .inr ⟨_, rfl⟩⟩
    obtain ⟨t, he, hk⟩ := hp.2.exec_keeps hp.1 (fun _ => .inl rfl) hs ht hb
    exact ⟨t, he, kept hk hk.files.files, hk.files.v, fun n hn => hk.files.getK hn⟩

end Sys2Proof.Machine
end

section
/-! PROOFS. The deferral queue (07 R171 to R174): the ends of VDEFER, what VDRAIN pops, and the statement `DeferralWordsComplete`. -/

namespace Sys2Proof.Machine

/-- An access to several ranges whose pages are all there goes on at once (05 R116). -/
theorem withRanges_of_present {c : Nat} {rs : List (Nat × Nat)} {w : QWord} {s : State} {go : State → Run}
    (h : ∀ r ∈ rs, (s.core c).d.absent r.1 r.2 = []) : withRanges c rs w s go = go s := by
  have hnone : rs.flatMap (fun r => (s.core c).d.absent r.1 r.2) = [] := List.flatMap_eq_nil_iff.2 h
  simp [withRanges, hnone]

/-! ### Lanes, places and records (07 R171 to R173) -/

/-- The active lanes, ascending. -/
def dqLanes (w : QWord) (k : BitVec 3) (x : CoreData) : List Nat :=
  (List.range (2048 / vwidth w)).filter (fun i => active (x.getK k.toNat) (maskG (2048 / vwidth w)) i)

/-- Where record `r` of path `p` lies, counted round the path. -/
def dqPlace (w : QWord) (p : BitVec 2) (r : Nat) : Nat := dqRecord w p.toNat (r % (dqArea w).2)

/-- The record that VDEFER writes for lane `i` (07 R172). -/
def dqBytes (w : QWord) (v : BitVec 5) (n : BitVec 2) (x : CoreData) (i : Nat) : List Byte :=
  leBytes 2 i ++ leBytes 1 (n.toNat + 1) ++ leBytes 5 0 ++ (List.range 4).flatMap (fun j =>
    leBytes 8 (if j ≤ n.toNat then (x.getV (v.toNat + j)).toNat >>> (i * vwidth w) % pow2 (vwidth w) else 0)) ++ leBytes 24 0

section Bodies

variable {h : Hdr} {v : BitVec 5} {n p : BitVec 2} {k : BitVec 3} {c kk : Nat} {w : QWord} {t : State}

/-- VDEFER on a descriptor that is there and not poisoned: it overflows, has no lane to append, or appends. -/
theorem vdefer_body (hp : (t.core c).d.absent (dqDescAt w p.toNat) 8 = []) (hb : (t.core c).d.scrPoisoned (dqDescAt w p.toNat) 8 = false) :
    let x := (t.core c).d
    let hc := dqDesc x (dqDescAt w p.toNat)
    let act := dqLanes w k x
    let recs := (List.range act.length).map (fun q => dqPlace w p (hc.1 + hc.2 + q))
    (specOf (.vdefer h v n p k)).body c kk w t =
      if hc.2 + act.length > (dqArea w).2 then
        .trap { runTrap 0x0C with x0 := word p.toNat, x1 := word (hc.2 * 2 ^ 32 + act.length) } w t
      else if act.isEmpty then .done t 0 false
      else withRanges c (recs.map (fun r => (r, 64))) w t (fun s => .done (s.modData c (fun _ =>
        ((act.zip recs).foldl (fun d e => d.scrWrite e.2 (dqBytes w v n x e.1)) x).scrWrite (dqDescAt w p.toNat)
          (leBytes 4 hc.1 ++ leBytes 4 (hc.2 + act.length)))) 0 false) := by
  simp only [show specOf (.vdefer h v n p k) = specVdefer h v n p k from rfl, specVdefer, dqWord, vword, withPages_of_present hp, hb,
    Bool.false_eq_true, if_false]
  rfl

/-- VDRAIN on a descriptor that is there and not poisoned, and on records that are there and not poisoned, pops them. -/
theorem vdrain_body (hp : (t.core c).d.absent (dqDescAt w p.toNat) 8 = []) (hb : (t.core c).d.scrPoisoned (dqDescAt w p.toNat) 8 = false) :
    let x := (t.core c).d
    let hc := dqDesc x (dqDescAt w p.toNat)
    let nn := 2048 / vwidth w
    let cc := Nat.min hc.2 nn
    let recs := (List.range cc).map (fun q => dqPlace w p (hc.1 + q))
    let r := drainRegs x recs (n.toNat + 1) (vwidth w) (n.toNat + 2) 0 {}
    (∀ q < cc, x.absent (dqPlace w p (hc.1 + q)) 64 = []) → r.2 = true →
    (specOf (.vdrain h v n p k)).body c kk w t = .done ((t.modData c (placeRegs r.1 v.toNat (n.toNat + 1))).modData c (fun d =>
      (d.setK k.toNat (maskOf ((List.range (nn / maskG nn)).map (fun j => decide (j * maskG nn < cc))))).scrWrite (dqDescAt w p.toNat)
        (leBytes 4 ((hc.1 + cc) % (dqArea w).2) ++ leBytes 4 (hc.2 - cc)))) 0 false := by
  intro x hc nn cc recs r hrecs hr
  have hpages : ∀ e ∈ recs.map (fun a => (a, 64)), x.absent e.1 e.2 = [] := by simpa [recs] using hrecs
  have hdrained : ¬ (!r.2) = true := by simp [hr]
  simp only [show specOf (.vdrain h v n p k) = specVdrain h v n p k from rfl, specVdrain, dqWord, vword, withPages_of_present hp, hb,
    Bool.false_eq_true, if_false]
  exact (withRanges_of_present hpages).trans (if_neg hdrained)

end Bodies

/-- Settles O8: each end of VDEFER is one end of its body, and VDRAIN's body pops its records where none is poisoned. -/
theorem deferralWordsComplete : Obligations.DeferralWordsComplete := by
  intro h v n p k s w t c x cap da hc ww nn act place record hp hb
  refine ⟨fun hr => ?defer, fun hr hrecs hdrain => runs_done (exec_word rfl s) hr (vdrain_body hp hb hrecs hdrain)⟩
  case defer =>
    have hbody := vdefer_body (h := h) (v := v) (n := n) (k := k) (kk := s.cur.2) hp hb
    refine ⟨fun hnone hfit => ?none, fun hover => ?overflow, fun hsome hfit hpages => ?append⟩
    case none =>
      refine runs_done (exec_word rfl s) hr (hbody.trans ?_)
      have hnone : dqLanes w k x.d = [] := hnone
      rw [hnone]
      exact (if_neg (Nat.not_lt.2 hfit)).trans (if_pos rfl)
    case overflow => exact runs_trap (exec_word rfl s) hr (hbody.trans (if_pos hover)) (nofun : 2 ≠ 5) (nofun : 2 ≠ 4)
    case append =>
      refine runs_done (exec_word rfl s) hr (hbody.trans ?_)
      have hsome : ¬ (dqLanes w k x.d).isEmpty = true := mt List.isEmpty_iff.1 hsome
      have hpages : ∀ q < (dqLanes w k x.d).length, x.d.absent (dqPlace w p (hc.1 + hc.2 + q)) 64 = [] := hpages
      refine (if_neg (Nat.not_lt.2 hfit)).trans ((if_neg hsome).trans ((withRanges_of_present ?_).trans ?_))
      · simpa using hpages
      · rw [List.zip_map_right, List.foldl_map]
        rfl

end Sys2Proof.Machine
end

section
/-! PROOFS. The return from a fault (17 R326): what TRET leaves of the machine, resuming and aborting, and the statement `TrapReturns`. -/

namespace Sys2Proof.Machine

/-! ### The two ends of TRET -/

section Return

variable {c : Nat} {abort : Bool} {s : State}

/-- With abort, or after a stop of the deferred class, the node is to end. -/
theorem core_tret_abort (h : abort = true ∨ deferredStop (s.core c) = true) : (tret abort c s).core c = returnAbort (s.core c) :=
  (core_modCore s c _).trans (if_pos (by simpa using h))

/-- Otherwise the core resumes. -/
theorem core_tret_resume (ha : abort = false) (hd : deferredStop (s.core c) = false) :
    (tret abort c s).core c = returnResume (s.core c) :=
  (core_modCore s c _).trans (if_neg (by simp [ha, hd]))

theorem core_tret_csr : ((tret abort c s).core c).csr = { (s.core c).csr with hnd := false } := by
  rw [tret, core_modCore]
  split <;> rfl

end Return

/-! ### The strands that resume -/

/-- A resumed strand's own state is the one that it held before the stop. -/
theorem resumed_st (t : Strand) : t.resumed.st = if t.st = .faulted then t.prior else t.st := by
  unfold Strand.resumed
  split <;> rfl

theorem resumed_regs (t : Strand) : t.resumed.regs = t.regs := by
  unfold Strand.resumed
  split <;> rfl

theorem resumed_pc (t : Strand) : t.resumed.pc = t.pc := by
  unfold Strand.resumed
  split <;> rfl

/-- Every strand resumes, X from the shadow (17 R326). -/
theorem returnResume_strand (x : Core) (j : Nat) : (returnResume x).strand j =
    ((x.setStrand 3 (x.shadow.setQueue .y ((x.strand 3).queue .y ++ x.shadow.queue .y))).strand j).resumed :=
  tget_map ({} : Strand) Strand.resumed _ j

theorem returnResume_strand_x (x : Core) :
    (returnResume x).strand 3 = (x.shadow.setQueue .y ((x.strand 3).queue .y ++ x.shadow.queue .y)).resumed :=
  (returnResume_strand x 3).trans (congrArg Strand.resumed (strand_setStrand ..))

theorem returnResume_strand_ne (x : Core) {j : Nat} (h : j ≠ 3) : (returnResume x).strand j = (x.strand j).resumed :=
  (returnResume_strand x j).trans (congrArg Strand.resumed (strand_setStrand_ne x _ h))

/-- Settles O57: the return's test chooses between the two ends, and a resumed strand differs from its kept state by `Strand.resumed`. -/
theorem trapReturns : Obligations.TrapReturns := by
  intro c abort s x t back
  refine ⟨rfl, core_tret_csr, fun e he => core_modCore_ne s _ he, fun h => ?aborts, fun ha hd => ?resumes⟩
  case aborts =>
    have hcore : t.core c = returnAbort x := core_tret_abort h
    refine ⟨by rw [hcore]; rfl, by rw [hcore]; rfl, fun j => ?_⟩
    rw [State.strand, hcore]
    rfl
  case resumes =>
    have hcore : t.core c = returnResume x := core_tret_resume ha hd
    have hx : t.strand c 3 = _ := (congrArg (Core.strand · 3) hcore).trans (returnResume_strand_x x)
    refine ⟨by rw [hcore]; rfl, by rw [hcore]; rfl, by rw [hx, resumed_regs]; rfl, by rw [hx, resumed_pc]; rfl,
      by rw [hx, resumed_st]; rfl, fun j hj => ?_⟩
    have hj : t.strand c j = (x.strand j).resumed :=
      (congrArg (Core.strand · j) hcore).trans (returnResume_strand_ne x (Nat.ne_of_lt hj))
    exact ⟨by rw [hj, resumed_st], by rw [hj, resumed_regs], by rw [hj, resumed_pc]⟩

end Sys2Proof.Machine
end

section
/-! PROOFS. Vector, tile and strided accesses of scratch (08 R183 to R185): the statement `ScratchVectorWordsComplete`. -/

namespace Sys2Proof.Machine

section Scratch

variable {c a n : Nat} {w : QWord} {t : State}

/-- A read whose pages are all there and whose lines are not poisoned goes on at once (05 R116, R117). -/
theorem onScratch_read {e : BitVec 8} {go : State → Run} (ho : ScratchOk c a n t) : onScratch c a n (some e) w t go = go t := by
  obtain ⟨hpages, hpoison⟩ := ho
  exact (withPages_of_present hpages).trans (if_neg (by simp [hpoison]))

/-- Chunks whose pages are all there, and of a read, whose lines are not poisoned, are accessed at once (08 R184). -/
theorem onChunks_of_present {cb : Nat} {bad : Option (BitVec 8)} {go : State → Run}
    (hpages : ∀ j < n, (t.core c).d.absent (chunkAddr w j).toNat cb = [])
    (hpoison : bad.isSome = true → ∀ j < n, (t.core c).d.scrPoisoned (chunkAddr w j).toNat cb = false) :
    onChunks c cb n bad w t go = go t := by
  have hnone : (List.range n).flatMap (fun j => (t.core c).d.absent (chunkAddr w j).toNat cb) = [] :=
    List.flatMap_eq_nil_iff.2 fun j hj => hpages j (List.mem_range.1 hj)
  cases bad with
  | none => simp [onChunks, hnone]
  | some e =>
    have hgood : (List.range n).find? (fun j => (t.core c).d.scrPoisoned (chunkAddr w j).toNat cb) = none :=
      List.find?_eq_none.2 fun j hj => by simp [hpoison rfl j (List.mem_range.1 hj)]
    simp [onChunks, hnone, hgood]

end Scratch

/-! ### The bodies of the words (08 R183 to R185) -/

section Bodies

variable {h : Hdr} {d a b : BitVec 5} {cls z : BitVec 2} {c k : Nat} {w : QWord} {t : State}

/-- VLD gives the register the bytes at its address, and zeros above them. -/
theorem vld_body (ho : ScratchOk c (w.va + w.vb).toNat (256 / 2 ^ z.toNat) t) : (specVld h d a b cls z).body c k w t =
    .done (t.modData c (fun e => e.setV d.toNat (BitVec.ofNat 2048 (leNat (memReadN (t.core c).d.scratch (w.va + w.vb).toNat
      (256 / 2 ^ z.toNat)))))) 0 false := by
  rw [← Nat.shiftRight_eq_div_pow] at ho ⊢
  simp only [specVld, lAddr, onScratch_read ho]
  rfl

theorem mld_body (ho : ScratchOk c (w.va + w.vb).toNat 2048 t) : (specMld h d a b cls).body c k w t =
    .done (t.modData c (fun e => e.setM d.toNat (loadTile (t.core c) d.toNat
      (BitVec.ofNat 16384 (leNat (memReadN (t.core c).d.scratch (w.va + w.vb).toNat 2048)))))) 0 false := by
  simp only [specMld, lAddr, onScratch_read ho]
  rfl

/-- MLD.T gives the tile the transpose of the 32-column image at its address. -/
theorem mldT_body (ho : ScratchOk c (w.va + w.vb).toNat 2048 t) :
    let ww := 16 / 2 ^ z.toNat
    (specMldT h d a b cls z).body c k w t =
      .done (t.modData c (fun e => e.setM d.toNat (loadTile (t.core c) d.toNat (tileOf ww ((List.range (32 * (512 / ww))).map (fun q =>
        tileElem (leNat (memReadN (t.core c).d.scratch (w.va + w.vb).toNat 2048)) ww
          (q % (512 / ww) * 32 + q / (512 / ww)))))))) 0 false := by
  rw [← Nat.shiftRight_eq_div_pow]
  simp only [specMldT, lAddr, onScratch_read ho]
  rfl

/-- VLD.S gathers its chunks (08 R184). -/
theorem vldS_body (ho : ∀ j < 256 / (32 / 2 ^ z.toNat), ScratchOk c (chunkAddr w j).toNat (32 / 2 ^ z.toNat) t) :
    (specVldS h d a b cls z).body c k w t = .done (t.modData c (fun e => e.setV d.toNat (BitVec.ofNat 2048
      (leNat ((List.range (256 / (32 / 2 ^ z.toNat))).flatMap (fun j =>
        memReadN (t.core c).d.scratch (chunkAddr w j).toNat (32 / 2 ^ z.toNat))))))) 0 false := by
  rw [← Nat.shiftRight_eq_div_pow] at ho ⊢
  simp only [specVldS, onChunks_of_present (fun j hj => (ho j hj).1) (fun _ j hj => (ho j hj).2)]
  rfl

/-- VST.S scatters the register's chunks; lines that they cover together lose their marks (08 R184, 05 R117). -/
theorem vstS_body (hp : ∀ j < 256 / (32 / 2 ^ z.toNat), (t.core c).d.absent (chunkAddr w j).toNat (32 / 2 ^ z.toNat) = []) :
    let cb := 32 / 2 ^ z.toNat
    let x := (t.core c).d
    (specVstS h d a b cls z).body c k w t = .done (t.modData c (fun _ => (List.range (256 / cb)).foldl (fun (y : CoreData) j =>
      y.scrWrite (chunkAddr w j).toNat (((leBytes 256 (x.getV d.toNat).toNat).drop (j * cb)).take cb))
      (x.scrCover ((List.range (256 / cb)).map (fun j => ((chunkAddr w j).toNat, cb)))))) 0 false := by
  rw [← Nat.shiftRight_eq_div_pow] at hp ⊢
  simp only [specVstS, onChunks_of_present (bad := none) hp (fun h => nomatch h)]
  rfl

end Bodies

/-- Settles O12: each word's body accesses its range, or its chunks, at once, and the word has then run. -/
theorem scratchVectorWordsComplete : Obligations.ScratchVectorWordsComplete := by
  refine ⟨fun h d a b cls z s w t => ?ranges, fun h d a b cls ch s w t => ?chunks⟩
  case ranges =>
    have done {i : Instr} {u : State} (hi : i.isWord = true) (hr : runsNow i s = some (w, t))
        (hb : (specOf i).body s.cur.1 s.cur.2 w t = .done u 0 false) : exec i s = .next (finish s.cur.1 s.cur.2 i w 0 false u) :=
      runs_done (exec_word hi s) hr hb
    exact ⟨fun hr ho => done rfl hr (vld_body (cls := cls) ho),
      fun hr hp => done rfl hr (vst_body (cls := cls) hp s.cur.2),
      fun hr ho => done rfl hr (mld_body (cls := cls) ho),
      fun hr ho => done rfl hr (mldT_body (cls := cls) ho),
      fun hr hp ht => done rfl hr (mst_body (cls := cls) hp ht s.cur.2)⟩
  case chunks =>
    exact ⟨fun hr ho => runs_done (exec_word rfl s) hr (vldS_body (cls := cls) ho),
      fun hr hp => runs_done (exec_word rfl s) hr (vstS_body (cls := cls) hp)⟩

end Sys2Proof.Machine
end

section
/-! PROOFS. Blocks and fibres (08 R188 to R190, R198 to R202): the statement `SparseWordsComplete`. -/

namespace Sys2Proof.Machine

/-- A range that ends inside scratch meets no range trap (08 R189). -/
theorem bmRange_of_le {a n : Nat} (h : a + n ≤ 0x80000) : bmRange a n = none := if_neg (Nat.not_lt.2 h)

/-! ### FOPEN of a coordinate tile (08 R199, R200) -/

section Tile

variable {h : Hdr} {d a : BitVec 5} {n cls : BitVec 2} {c k base cnt : Nat} {w : QWord} {t : State} {ps : List Nat}

/-- An entry that checks, of a tile that checks, opens the fibre register on the tile. -/
theorem fopenTile_body (hclosed : ((t.core c).d.getF d.toNat).open_ = false) (hentry : ScratchOk c w.va.toNat 8 t)
    (hreserved : bits (leNat ((t.core c).d.scrRead w.va.toNat 8)) 63 48 = 0)
    (hbase : bits (leNat ((t.core c).d.scrRead w.va.toNat 8)) 31 0 = base)
    (hcnt : bits (leNat ((t.core c).d.scrRead w.va.toNat 8)) 47 32 = cnt)
    (hmost : cnt ≤ 1024) (halign : base % 8 = 0) (hrange : base + 8 * cnt ≤ 0x80000) (hpages : (t.core c).d.absent base (8 * cnt) = [])
    (hgood : ∀ q < cnt, (t.core c).d.scrPoisoned (base + 8 * q) 4 = false)
    (hplaces : fibrePlaces (t.core c).d base cnt 0 none = some ps) :
    (specFopen h d a n cls 1).body c k w t = .done (t.modData c (fun y => y.setF d.toNat {
      open_ := true, kind := 1, fmt := 9, count := BitVec.ofNat 16 cnt, vbase := BitVec.ofNat 32 base, width := 32
      places := ps })) 0 false := by
  have hchecks : ¬ (decide (0 ≠ 0) || decide (cnt > 1024) || decide (base % 8 ≠ 0)) = true := by simp [halign, hmost]
  have hclean : ¬ (List.range cnt).any (fun i => (t.core c).d.scrPoisoned (base + 8 * i) 4) = true := by simpa using hgood
  simp only [specFopen]
  refine (if_neg (ne_true_of_eq_false hclosed)).trans ((if_neg nofun).trans ((onScratch_read hentry).trans ?_))
  rw [hreserved, hbase, hcnt, if_neg hchecks, bmRange_of_le hrange]
  refine (onScratch_write hpages).trans ((if_neg hclean).trans ?_)
  rw [hplaces]

end Tile

/-- Settles O14: each clause's premises decide the branch of its word's body. -/
theorem sparseWordsComplete : Obligations.SparseWordsComplete := by
  refine ⟨fun h d a b cls n s w t => ?blocks, fun h d a b n cls s w t => ?fibres⟩
  case blocks =>
    intro c x blk ww nr e cap es vals mask packed
    refine ⟨fun hr hrange hheader hpages hfit => runs_done (exec_word rfl s) hr ?store,
      fun count mask hr hread hrange hpages hmask hgood => runs_done (exec_word rfl s) hr ?load⟩
    case store =>
      have hrange : blk + (bmVo e + bmSize cap ww) ≤ 0x80000 := by omega
      simp only [specOf, specVstBm, lAddr, bmCount, CoreData.scrRead]
      refine (onScratch_read hheader).trans ?_
      rw [bmRange_of_le hrange]
      exact (onScratch_write hpages).trans (if_neg (Nat.not_lt.2 hfit))
    case load => 
      have hmaskRange : blk + bmVo e ≤ 0x80000 := by omega
      have hrange : blk + (bmVo e + bmSize count ww) ≤ 0x80000 := by omega
      simp only [specOf, specVldBm, lAddr, bmCount, CoreData.scrRead]
      rw [bmRange_of_le hmaskRange]
      refine (onScratch_write hmask).trans ?_
      rw [show bmRead w _ _ _ = _ from hread]
      dsimp only
      rw [bmRange_of_le hrange]
      exact (onScratch_write hpages).trans (if_neg (ne_true_of_eq_false hgood))
  case fibres =>
    intro c x ad ww e f m lo hi
    have opened (hopen : f.open_ = true) : ¬ (!f.open_) = true := by simp [hopen]
    refine ⟨fun count mask hr hclosed hrange hpages hread => runs_done (exec_word rfl s) hr ?openBlock, ?openTile,
      fun hr hopen hhi hlo hvals => runs_done (exec_word rfl s) hr ?advance,
      fun hr hopen => runs_done (exec_word rfl s) hr (if_neg (opened hopen)),
      fun hr hopen => runs_done (exec_word rfl s) hr (if_neg (opened hopen))⟩
    case openBlock =>
      simp only [specOf, specFopen, bmCount]
      refine (if_neg (ne_true_of_eq_false hclosed)).trans ((if_pos trivial).trans ?_)
      rw [bmRange_of_le hrange]
      refine (onScratch_write hpages).trans ?_
      rw [show bmRead w _ _ _ = _ from hread]
    case openTile =>
      intro ps hr hclosed r base cnt hentry hzero hmost halign hrange hpages hgood hplaces
      have hreserved : bits r 63 48 = 0 := by rw [bits, hzero, Nat.zero_mod]
      have hbase : bits r 31 0 = base := by rw [bits, Nat.pow_zero, Nat.div_one]
      exact runs_done (exec_word rfl s) hr
        (fopenTile_body (cls := cls) hclosed hentry hreserved hbase rfl hmost halign hrange hpages hgood hplaces)
    case advance =>
      have hrange : fadvLo f + (fadvHi f m - fadvLo f) ≤ 0x80000 := (by omega : lo + (hi - lo) ≤ 0x80000)
      simp only [specOf, specFadv, CoreData.scrRead]
      refine (if_neg (opened hopen)).trans ?_
      rw [bmRange_of_le hrange]
      exact onScratch_read hvals

end Sys2Proof.Machine
end

section
/-! PROOFS. The window unit, copy commands, rings and generators (08 R186, R187, R191, R194 to R197): what each word does as it runs at once.
The statement `TransferWordsComplete` is not settled: it gives every accepted transfer no `bound`, where the model bounds a CPY.OUT to a
near peer (25 R438), and whether a CPY.OUT is one hangs on `Config.noSwitch` and `Config.linkCredits`, constants without a body: it holds
where every route has a switch hop, and fails where link 0 has credit and the route to peer 0 has no switch hop. -/

namespace Sys2Proof.Machine

/-! ### The window unit (08 R187) -/

section Window

variable {h : Hdr} {d : BitVec 5} {cls : BitVec 2} {c k : Nat} {w : QWord} {t : State}

theorem winNeed_lt {g : WinCfg} {u : Window} {r : Nat} (hr : r ∈ winNeed g u) : r < g.ht :=
  List.mem_range.1 (List.mem_filter.1 hr).1

/-- MLD.U on rows that are there gives the tile of its 32 positions and moves on. -/
theorem mldU_body :
    let x := t.core c
    let u := x.d.win
    let g := winFields u.a u.b
    let m := matCfg x.csr.accMode
    let pos := Nat.min (u.pos + 32) (g.ho * g.wo)
    let held := winRead g m (winNeed g u) x.d
    let keep := (u.rows ++ winNeed g u).filter (fun r => decide (pos < g.ho * g.wo) && rowNeeded g (pos / g.wo) r)
    u.cfg = true → m.cfg = true → 8 ≤ m.w → g.kh * g.kw * g.ch ≤ 512 / m.w → g.rowBytes m * ((g.kh - 1) * g.dil + 1) ≤ 65536 →
    g.base + (g.ht - 1) * g.pitch + g.rowBytes m ≤ 0x80000 →
    (∀ r < g.ht, ScratchOk c (g.base + r * g.pitch) (g.rowBytes m) t) →
    (specMldU h d cls).body c k w t = .done (t.modData c (fun y => { (y.setM d.toNat (loadTile x d.toNat (winTile g m u.pos held))) with
      win := { u with pos := pos, fin := decide (pos = g.ho * g.wo), rows := keep
                      held := held.filter (fun b => keep.contains (b.1 / 65536)) } })) 0 false := by
  intro x u g m pos held keep hu hm hw hcols hrows hrange hok
  have hconfigured : ¬ (!u.cfg || !m.cfg || decide (m.w < 8) || decide (g.kh * g.kw * g.ch > 512 / m.w) ||
      decide (g.rowBytes m * ((g.kh - 1) * g.dil + 1) > 65536)) = true := by simp [hu, hm, hw, hcols, hrows]
  have habsent : (winNeed g u).flatMap (fun r => x.d.absent (g.base + r * g.pitch) (g.rowBytes m)) = [] :=
    List.flatMap_eq_nil_iff.2 fun r hr => (hok r (winNeed_lt hr)).1
  have hclean : (winNeed g u).find? (fun r => x.d.scrPoisoned (g.base + r * g.pitch) (g.rowBytes m)) = none :=
    List.find?_eq_none.2 fun r hr => by simp [x, (hok r (winNeed_lt hr)).2]
  refine (if_neg hconfigured).trans ((if_neg (Nat.not_lt.2 hrange)).trans ((if_neg ?_).trans ?_))
  · rw [habsent]
    nofun
  · rw [hclean]

end Window

/-! ### Copy commands (08 R191, 25 R438) -/

section Copy

variable {h : Hdr} {d a b : BitVec 5} {cls hp : BitVec 2} {c k : Nat} {w : QWord} {t : State}

/-- The transfer that a copy command which is no bounded peer write hands to the ring's next slot (08 R191). -/
def acceptedXfer (kind : CopyKind) (k hp : Nat) (cls : BitVec 2) (w : QWord) (x : Core) : Xfer :=
  { strand := k, seq := w.seq, order := x.seq, hoop := hp, slot := (x.d.hoop hp).alloc.toNat, kind := kind, dst := w.vd, src := w.va
    len := cpyLen w, gen := cpyGen w, cfg := if cpyGen w = 0 then {} else (x.d.gen (cpyGen w - 1)).cfg, cls := cls
    stopped := x.stopsNew k w.seq }

/-- The core once a transfer has taken its slot. -/
def Core.withXfer (x : Core) (f : Xfer) : Core :=
  let ring := x.d.hoop f.hoop
  { x with
    seq := x.seq + 1
    d := { (x.d.setHoop f.hoop { ring with alloc := ring.alloc + 1, slots := tput ring.slots (ring.alloc.toNat % 16) {} }) with
           xfers := x.d.xfers ++ [f] } }

theorem withXfer_xfers (x : Core) (f : Xfer) : (x.withXfer f).d.xfers = x.d.xfers ++ [f] := rfl

theorem cpyWord_body {kind : CopyKind} (hroom : (((t.core c).d.hoop hp.toNat).alloc - ((t.core c).d.hoop hp.toNat).rd).toNat < 16) :
    (cpyWord h kind d a b cls hp).body c k w t = .done (t.modCore c (·.withXfer { acceptedXfer kind k hp.toNat cls w (t.core c) with
      bound := if kind = .out && boundedWrite t c k w then some (w.at_ + boundCycles) else none })) 0 false :=
  if_neg (Nat.not_le.2 hroom)

/-- A bounded peer write goes to a peer whose route has no switch hop (25 R438). -/
theorem noSwitch_of_boundedWrite (hb : boundedWrite t c k w = true) : ∃ n, Config.noSwitch n = true := by
  simp only [boundedWrite, Bool.and_eq_true] at hb
  obtain ⟨-, hb⟩ := hb
  split at hb
  · cases hb
  · split at hb
    · simp only [Bool.and_eq_true] at hb
      exact ⟨_, hb.2⟩
    · cases hb

end Copy

/-- AWF on filled slots, none of them failed, leaves everything as it is (08 R194). -/
theorem awf_body {h : Hdr} {a : BitVec 5} {hp : BitVec 2} {c k : Nat} {w : QWord} {t : State}
    (hn : w.va.toNat ≤ (((t.core c).d.hoop hp.toNat).wr - ((t.core c).d.hoop hp.toNat).rd).toNat)
    (hc : ∀ m < w.va.toNat, (tget ({} : Slot) ((t.core c).d.hoop hp.toNat).slots
      ((((t.core c).d.hoop hp.toNat).rd + BitVec.ofNat 8 m).toNat % 16)).code = 0) :
    (specAwf h a hp).body c k w t = .done t 0 false := by
  refine (if_neg (Nat.not_lt.2 hn)).trans ?_
  split
  · next hfailed =>
    obtain ⟨m, hm, hslot⟩ := List.exists_of_findSome?_eq_some hfailed
    exact absurd ((if_neg (not_not.2 (hc m (List.mem_range.1 hm)))).symm.trans hslot) nofun
  · rfl

/-- The statement `TransferWordsComplete` where every route to a peer has a switch hop, so that no CPY.OUT is a bounded peer write. -/
theorem transferWordsComplete_of_switched (hs : ∀ n, Config.noSwitch n = false) : Obligations.TransferWordsComplete := by
  refine ⟨fun h d a b cls => ⟨acts_of_body (exec_word rfl) fun _ _ _ _ => rfl, fun s w t hr => ?window⟩,
    fun h d a b cls hp s w t => ?copies, fun h a j hp g s w t => ?rings⟩
  case window =>
    intro x u g m rowB pos held keep hu hm hw hcols hrows hrange hok
    exact runs_done (exec_word rfl s) hr (mldU_body (cls := cls) hu hm hw hcols hrows hrange hok)
  case copies =>
    intro c x ring accepted hroom
    have hbound : boundedWrite t c s.cur.2 w = false := Bool.eq_false_iff.2 fun hb =>
      (noSwitch_of_boundedWrite hb).elim fun n hn => absurd ((hs n).symm.trans hn) nofun
    refine ⟨fun hr => runs_done (exec_word rfl s) hr (cpyWord_body hroom), fun hr => runs_done (exec_word rfl s) hr ?_,
      fun hr => runs_done (exec_word rfl s) hr (cpyWord_body hroom)⟩
    refine (cpyWord_body hroom).trans ?_
    rw [hbound]
    rfl
  case rings =>
    intro c ring
    exact ⟨fun hr hn hc => runs_done (exec_word rfl s) hr (awf_body hn hc),
      fun hr hn => runs_done (exec_word rfl s) hr (if_neg (Nat.not_lt.2 hn)),
      fun hr hn => runs_done (exec_word rfl s) hr ((if_neg (Nat.not_le.2 hn)).trans rfl)⟩

/-! ### A bounded peer write -/

/-- Strand 0 of core 0, alone, copies 32 bytes to virtual page 0, which its translation cache takes to peer 0. -/
def peerCopy : State :=
  { State.reset.modCore 0 (fun x => { x.modStrand 0 (fun t => { t with st := .running }.setReg 2 32) with
      profile := 7, tlb := [⟨0, 0, 16, 0xC00000000083⟩] }) with
    now := true, cur := (0, 0), mem := [(8, 1)], pkg := { State.reset.pkg with peer := [(0, 0x100000000)] } }

def peerCopyWord : Instr := .cpyOut ⟨0, 0⟩ 3 1 2 0 3

/-- All that makes a CPY.OUT of core 0 a bounded write to peer 0, but credit on link 0 and a route without a switch hop (25 R438). -/
def boundedButRoute (w : QWord) (t : State) : Bool :=
  let x := t.core 0
  cpyGen w = 0 && cpyLen w = 32 && w.vd = 0 && (x.strand 0).words.isEmpty && x.d.xfers.isEmpty && !x.frozen t.cycle
    && tlbFind x.tlb x.csr.partition 0 == some ⟨0, 0, 16, 0xC00000000083#64⟩ && tget 0#64 t.pkg.peer 0 == 0x100000000#64
    && peerAllowed t x.csr.partition 0 && (t.link 0).wait.isEmpty && ringQuiet t 0 && ringQuiet t 96 && tget 0 (t.link 0).credits 2 == 0
    && decide (((x.d.hoop 3).alloc - (x.d.hoop 3).rd).toNat < 16)

theorem peerCopy_runs : (runsNow peerCopyWord peerCopy).any (fun p => boundedButRoute p.1 p.2) = true := by decide +kernel

section Bounded

variable {w : QWord} {t : State}

theorem boundedWrite_of_boundedButRoute (hb : boundedButRoute w t = true) (hc : 0 < Config.linkCredits 2)
    (hn : Config.noSwitch 0 = true) : boundedWrite t 0 0 w = true := by
  simp only [boundedButRoute, Bool.and_eq_true, decide_eq_true_eq, beq_iff_eq, List.isEmpty_iff, and_assoc] at hb
  obtain ⟨hgen, hlen, hdst, hwords, hxfers, hfrozen, htlb, hpeer, hallowed, hwait, hcluster, hdie, hcredit, -⟩ := hb
  have htarget : target (wbits 0xC00000000083#64 47 16 * 65536) = .peer 0 0 := by decide
  have hlink : wbits 0x100000000#64 24 20 = 0 := by decide
  have hring : coreDie 0 * 12 + coreCluster 0 = 0 := rfl
  rw [Bool.not_eq_true'] at hfrozen
  simp [boundedWrite, Link.credit, hgen, hlen, hdst, hwords, hxfers, hfrozen, htlb, htarget, hpeer, hlink, hring, hallowed, hwait,
    hcluster, hdie, hcredit, hc, hn]

/-- Words that end alike have left the same transfers. -/
theorem xfers_of_finish {i : Instr} {c k : Nat} {u v : State} (h : finish c k i w 0 false u = finish c k i w 0 false v) :
    (u.core c).d.xfers = (v.core c).d.xfers := by
  have keeps (u : State) := (finish_keeps (c := c) (k := k) (f := 0) (i := i) (w := w) rfl 0 false u).core.d
  rw [← keeps u, h, keeps v]

end Bounded

/-- Where link 0 has credit and the route to peer 0 has no switch hop, `peerCopy` refutes the statement: its transfer has a bound. -/
theorem not_transferWordsComplete_of_near (hc : 0 < Config.linkCredits 2) (hn : Config.noSwitch 0 = true) :
    ¬ Obligations.TransferWordsComplete := by
  rintro ⟨-, h, -⟩
  obtain ⟨⟨w, t⟩, hr, hruns⟩ := (Option.any_eq_true _ _).1 peerCopy_runs
  have hbound := boundedWrite_of_boundedButRoute hruns hc hn
  have hroom : (((t.core 0).d.hoop 3).alloc - ((t.core 0).d.hoop 3).rd).toNat < 16 := by
    simp only [boundedButRoute, Bool.and_eq_true, decide_eq_true_eq] at hruns
    exact hruns.2
  have hstated : exec peerCopyWord peerCopy = .next (finish 0 0 peerCopyWord w 0 false
    (t.modCore 0 (·.withXfer (acceptedXfer .out 0 3 0 w (t.core 0))))) := (h ⟨0, 0⟩ 3 1 2 0 3 peerCopy w t hroom).2.1 hr
  have hbody : (specOf peerCopyWord).body 0 0 w t = .done (t.modCore 0 (·.withXfer
      { acceptedXfer .out 0 3 0 w (t.core 0) with bound := some (w.at_ + boundCycles) })) 0 false := by
    refine (cpyWord_body (hp := 3) hroom).trans ?_
    rw [hbound]
    rfl
  have hrun := runs_done (exec_word rfl peerCopy) hr hbody
  have hxfers := xfers_of_finish (Host.Outcome.next.inj (hstated.symm.trans hrun))
  rw [core_modCore, core_modCore, withXfer_xfers, withXfer_xfers] at hxfers
  exact absurd (congrArg Xfer.bound (List.singleton_inj.1 (List.append_cancel_left hxfers))) nofun

end Sys2Proof.Machine
end

section
/-! PROOFS. Accesses to global memory (10 R226 to R229, 18 R356): an access word that runs at once is performed at its home slice; the
statements `GlobalWordsComplete` and `GlobalStoresReadBack`. -/

namespace Sys2Proof.Machine

theorem shadowWrite_state {s t : State} {c pa pa' : Nat} {leaf : Word} (h : shadowWrite s c pa leaf = .ok (pa', t)) :
    t = s ∨ ∃ a bs r f, t = (s.memStore a bs).modNode r f := by
  unfold shadowWrite at h
  repeat' split at h
  all_goals simp only [Except.ok.injEq, Prod.mk.injEq, reduceCtorEq] at h
  all_goals obtain ⟨-, rfl⟩ := h
  case _ => exact .inl rfl
  case _ => exact .inl rfl
  case _ => exact .inl rfl
  case _ => exact .inr ⟨_, _, _, _, rfl⟩
  case _ => exact .inl rfl

theorem gCheck_state {c : Nat} {g : GAcc} {va : Word} {s t : State} {pa : Nat} (h : gCheck c g va s = (.ok pa, t)) :
    ∃ q u, u = (coreXlat s c q va.toNat).2 ∧ (t = u ∨ ∃ a bs r f, t = (u.memStore a bs).modNode r f) := by
  unfold gCheck at h
  extract_lets early amo at h
  have hearly : ∀ e, early e ≠ (.ok pa, t) := fun e he => by simp [early] at he
  split at h
  · exact absurd h (hearly _)
  split at h
  · exact absurd h (hearly _)
  split at h
  · exact absurd h (hearly _)
  split at h
  · cases h
  next pa' leaf n u hx =>
    extract_lets bad at h
    have hbad : ∀ e, bad e ≠ (.ok pa, t) := fun e he => by simp [bad] at he
    refine ⟨_, u, (congrArg Prod.snd hx).symm, ?_⟩
    repeat' split at h
    all_goals first | exact absurd h (hbad _) | skip
    all_goals simp only [Prod.mk.injEq, Except.ok.injEq, reduceCtorEq, false_and] at h
    all_goals obtain ⟨-, rfl⟩ := h
    next => exact .inl rfl
    next => exact .inl rfl
    next => exact .inl rfl
    next hs => exact shadowWrite_state hs
    next => exact .inl rfl

/-- A translation leaves every core's strands. -/
theorem coreXlat_strands (s : State) (c : Nat) (q : Access) (va j : Nat) :
    ((coreXlat s c q va).2.core j).strands = (s.core j).strands := by
  obtain ⟨p, b, x, e | ⟨l, e⟩⟩ := coreXlat_state s c q va <;> rw [e]
  · rfl
  · by_cases hj : j = c
    · subst hj
      rw [core_modCore]
      rfl
    · rw [core_modCore_ne _ _ hj]
      rfl

@[simp] theorem coreXlat_now (s : State) (c : Nat) (q : Access) (va : Nat) : (coreXlat s c q va).2.now = s.now := by
  obtain ⟨p, b, x, e | ⟨l, e⟩⟩ := coreXlat_state s c q va <;> rw [e]
  rfl

/-- The address checks leave every core's strands. -/
theorem gCheck_strands {c : Nat} {g : GAcc} {va : Word} {s t : State} {pa : Nat} (h : gCheck c g va s = (.ok pa, t)) (j : Nat) :
    (t.core j).strands = (s.core j).strands := by
  obtain ⟨q, u, rfl, rfl | ⟨a, bs, r, f, rfl⟩⟩ := gCheck_state h
  · exact coreXlat_strands s c q _ j
  · exact coreXlat_strands s c q _ j

theorem gCheck_now {c : Nat} {g : GAcc} {va : Word} {s t : State} {pa : Nat} (h : gCheck c g va s = (.ok pa, t)) : t.now = s.now := by
  obtain ⟨q, u, rfl, rfl | ⟨a, bs, r, f, rfl⟩⟩ := gCheck_state h
  · exact coreXlat_now s c q _
  · exact coreXlat_now s c q _

/-- Nothing stands before a word in an empty Q queue (10 R227, R229). -/
theorem qDone_of_empty {s : State} {c k seq : Nat} (h : ((s.core c).strand k).queue .q = []) : qDone s c k seq = true := by
  rw [qDone, h]
  rfl

/-- Once the peers and the host have acknowledged, a release goes on (10 R227). -/
theorem onAcks_of_acked {c : Nat} {system : Bool} {w : QWord} {s : State} {go : State → Run} (h : acked c system s) :
    onAcks c system w s go = go s := by
  cases system with
  | false => rfl
  | true =>
    obtain ⟨hpeer, hhost⟩ := h rfl
    simp [onAcks, hpeer, hhost]

/-- An access whose home slice answers is performed there (10 R223). -/
theorem gPerform_of_served {c k : Nat} {g : GAcc} {w : QWord} {x cmp addr r : Word} {s v : State} (hh : homed w.idx) (hn : s.now = true)
    (hl : lineMoved s c w.idx = false) (hs : serve s g.kind w.idx g.size x cmp = .ok v r) :
    gPerform c k g w x cmp addr s = .done (if g.kind.cell then answerCell w.idx v.reqs.length v else v) r false := by
  unfold gPerform
  dsimp only
  split
  · exact absurd ‹_› (hh _ _).1
  · exact absurd ‹_› (hh 0 _).2.1
  · exact absurd ‹_› (hh _ _).2.2
  · simp only [hn, hl, hs, Bool.not_false, Bool.and_self, if_true]

section Access

variable {i : Instr} {g : GAcc} {va x cmp : QWord → Word} {s t u v : State} {w : QWord} {pa : Nat} {r : Word}

/-- The body of an access word that starts, whose checks give an address, whose waits are over and whose home slice answers. -/
theorem gBody_of_served {c k : Nat} (hw : w.phase = .queued) (hx : ∀ n, x { w with idx := n } = x w)
    (hcmp : ∀ n, cmp { w with idx := n } = cmp w)
    (hg : gCheck c g (va w) t = (.ok pa, u)) (hnow : t.now = true) (hq : ((t.core c).strand k).queue .q = [])
    (hall : g.relAll = true → released c k g.system w u) (hrel : g.relQ = true → acked c g.system u) (hh : homed pa)
    (hl : lineMoved u c pa = false) (hs : serve u g.kind pa g.size (x w) (cmp w) = .ok v r) :
    gBody g va x cmp c k w t = .done (if g.kind.cell then answerCell pa v.reqs.length v else v) r false := by
  have hqu : qDone u c k w.seq = true := qDone_of_empty (by rw [← hq]; unfold Core.strand; rw [gCheck_strands hg])
  have hperf : gPerform c k g { w with idx := pa } (x { w with idx := pa }) (cmp { w with idx := pa }) (va { w with idx := pa }) u
      = .done (if g.kind.cell then answerCell pa v.reqs.length v else v) r false :=
    gPerform_of_served hh ((gCheck_now hg).trans hnow) hl (by rw [hx, hcmp]; exact hs)
  have hbegins : ¬ w.phase = .started := by rw [hw]; decide
  unfold gBody
  rw [if_neg hbegins, hg]
  by_cases hQ : g.relQ = true
  · simp only [hQ, hqu, if_true, Bool.not_true, Bool.false_eq_true, if_false]
    rw [onAcks_of_acked (hrel hQ), hperf]
  · by_cases hA : g.relAll = true
    · simp only [if_neg hQ, hA, if_true]
      exact (onRelease_of_released (w := { w with idx := pa }) (hall hA)).trans hperf
    · simp only [if_neg hQ, if_neg hA, hperf]

theorem runsNow_phase (hr : runsNow i s = some (w, t)) : w.phase = .queued := by
  obtain ⟨y, hg, hh, -⟩ := runsNow_iff.1 hr
  obtain ⟨-, -, -, hp, -⟩ := goes_fields hg hh
  exact hp

/-- A word whose body is that of an access accesses memory as `Accesses` says. -/
theorem accesses_of_body (hi : i.isWord = true) (he : (specOf i).engine = .q) (hb : (specOf i).body = gBody g va x cmp)
    (hx : ∀ w n, x { w with idx := n } = x w) (hcmp : ∀ w n, cmp { w with idx := n } = cmp w) : Accesses i g va x cmp := by
  intro s w t pa u v r hr hg hall hrel hh hl hs
  refine runs_done (exec_word hi s) hr ?_
  rw [hb]
  exact gBody_of_served (runsNow_phase hr) (hx w) (hcmp w) hg (runsNow_now hr he (by decide)) (runsNow_queue hr he (by decide)) hall hrel hh hl hs

end Access

/-- The body of a cell word whose version fits 32 bits is that of an access (18 R356). -/
theorem cellBody_of_version {kind : ReqKind} {write rel : Bool} {h : Hdr} {d a b : BitVec 5} {e : BitVec 2} {c k : Nat} {w : QWord} {s : State}
    (hv : kind = .verst ∨ wbits w.vb 63 32 = 0) :
    (cellWord kind write rel h d a b e).body c k w s
      = gBody { kind := kind, size := 64, ctxKind := 1, write := write, relAll := rel, system := isSystem e } (·.va) (·.vb) (fun _ => 0) c k w s := by
  refine if_neg ?_
  rcases hv with rfl | hv
  · simp
  · simp [hv]

/-- Settles O15: each word's body is `gBody`, which is performed where its home slice answers. -/
theorem globalWordsComplete : Obligations.GlobalWordsComplete := by
  unfold Obligations.GlobalWordsComplete
  intro h d a b e o
  refine ⟨?_, ?_, ?_, ?_, ?_, ?_, ?_, ?_, ?_, ?_, ?_, ?_, ?_, ?_, ?_, ?_, ?_, ?_⟩
  case refine_17 =>
    intro s w t pa u v r hr hv hg hh hl hs
    refine runs_done (exec_word rfl s) hr ((cellBody_of_version (.inr hv)).trans ?_)
    exact gBody_of_served (runsNow_phase hr) (fun _ => rfl) (fun _ => rfl) hg (runsNow_now (e := .q) hr rfl nofun)
      (runsNow_queue (e := .q) hr rfl nofun)
      (by simp) (by simp) hh hl hs
  case refine_18 =>
    intro s w t pa u v r hr hv hg hrel hh hl hs
    refine runs_done (exec_word rfl s) hr ((cellBody_of_version (.inr hv)).trans ?_)
    exact gBody_of_served (runsNow_phase hr) (fun _ => rfl) (fun _ => rfl) hg (runsNow_now (e := .q) hr rfl nofun)
      (runsNow_queue (e := .q) hr rfl nofun)
      (fun _ => hrel) (by simp) hh hl hs
  case refine_16 =>
    refine accesses_of_body rfl rfl ?_ (fun _ _ => rfl) (fun _ _ => rfl)
    funext c k w s
    exact cellBody_of_version (.inl rfl)
  all_goals exact accesses_of_body rfl rfl rfl (fun _ _ => rfl) (fun _ _ => rfl)

/-! ### A store and the load after it -/

/-- An access moves no carve-out: whether a carve-out's offset exists stays (18 R352). -/
theorem inCarve_of_touch {s t : State} {pa : Nat} {write : Bool} (h : t.slices = (s.touch pa write).slices) : inCarve t pa = inCarve s pa := by
  have ht : ∀ d n o, target pa = .carve d n o → t.slice d n = s.slice d n := by
    intro d n o e
    unfold State.slice
    rw [h, State.touch, e]
  unfold inCarve
  split
  · next d n o e => rw [ht d n o e]
  · rfl

/-- A load of 8 bytes that its home slice answers, at an offset that exists, gives the little-endian value there (10 R226, R227). -/
theorem serve_load_value {s t : State} {pa : Nat} {x cmp r : Word} (hc : inCarve s pa = true) (h : serve s .load pa 8 x cmp = .ok t r) :
    r = word (leNat (memReadN s.mem pa 8)) := by
  have h : serveRead s pa 8 = .ok t r := h
  unfold serveRead at h
  split at h
  · cases h
  · cases h
  · simp only [hc, Bool.not_true, Bool.false_eq_true, if_false] at h
    split at h
    · cases h
    · simp only [Served.ok.injEq] at h
      exact h.2.symm

theorem word_leNat_leBytes (x : Word) : word (leNat (leBytes 8 x.toNat)) = x := by
  apply BitVec.eq_of_toNat_eq
  have := x.isLt
  rw [leNat_leBytes, word, BitVec.toNat_ofNat]
  omega

theorem finish_slices (c k : Nat) (i : Instr) (w : QWord) (v : Word) (b : Bool) (s : State) : (finish c k i w v b s).slices = s.slices := by
  unfold finish
  split <;> rfl

/-- A home slice that stands takes a store at an offset that exists (10 R226). -/
theorem serve_store {s : State} {pa n : Nat} {x cmp : Word} (hr : homeReady s pa = some true) (hc : inCarve s pa = true) :
    serve s .store pa n x cmp = .ok ((s.touch pa true).memStore pa (leBytes n x.toNat)) 0 := by
  simp only [serve, serveWrite, hr, hc, Bool.not_true, Bool.false_eq_true, if_false]

/-- Settles O55: the store is one `memStore` at its home slice, which the load reads again. -/
theorem globalStoresReadBack : Obligations.GlobalStoresReadBack := by
  unfold Obligations.GlobalStoresReadBack
  intro h d a b e o s w t pa u c g hr hg hrel hh hl hready hcarve
  have haccess : Accesses (.stg h d a b e o) g (fun w => w.va + w.vb) (·.vd) (fun _ => 0) :=
    accesses_of_body rfl rfl rfl (fun _ _ => rfl) (fun _ _ => rfl)
  let v := (u.touch pa true).memStore pa (leBytes 8 w.vd.toNat)
  let v' := finish c s.cur.2 (.stg h d a b e o) w 0 false v
  have hexec : exec (.stg h d a b e o) s = .next v' :=
    haccess s w t pa u v 0 hr hg (fun hall => by cases hall) hrel hh hl (serve_store hready hcarve)
  have hdst : w.dst = .none := by
    obtain ⟨y, hgo, hh, -⟩ := runsNow_iff.1 hr
    obtain ⟨-, -, -, -, -, -, -, -, -, -, -, -, hdst, -⟩ := goes_fields hgo hh
    exact hdst
  have hkeep : Keeps c s.cur.2 .none 0 v v' := finish_keeps hdst 0 false v
  have hmem : v'.mem = memWriteN u.mem pa (leBytes 8 w.vd.toNat) := hkeep.mem.trans (congrArg (memWriteN · _ _) (touch_mem u pa true))
  have hcore : v.core c = u.core c := congrArg (fun t => tget ({} : Core) t c) (touch_cores u pa true)
  have hread : memReadN v'.mem pa 8 = leBytes 8 w.vd.toNat := by
    rw [hmem]
    simpa only [leBytes_length] using memReadN_memWriteN u.mem pa (leBytes 8 w.vd.toNat)
  refine ⟨v', hexec, hread, ?frame, ?load, hcore ▸ hkeep.core.d, hcore ▸ hkeep.core.csr, ?regs⟩
  case frame =>
    intro q hq
    rw [hmem, memRead_memWriteN, leBytes_length, if_neg (by omega)]
  case load =>
    intro z r hz
    have hslices : v'.slices = (u.touch pa true).slices := finish_slices ..
    rw [serve_load_value ((inCarve_of_touch hslices).trans hcarve) hz, hread, word_leNat_leBytes]
  case regs =>
    have := hkeep.core.strand.file (fun _ => by simp)
    rw [hcore] at this
    exact this

end Sys2Proof.Machine
end

section
/-! PROOFS. Ordering words (10 R219, R228, R230): FENCE, the ranges' words and multicast, where nothing is left to wait for, and the
statement `OrderingWordsComplete`. -/

namespace Sys2Proof.Machine

/-! ### Multicast -/

/-- A population count is the number of set bits. -/
theorem popcount_eq_length (n x : Nat) : popcount n x = ((List.range n).filter (fun i => x.testBit i)).length := by
  induction n generalizing x with
  | zero => rfl
  | succ n ih =>
    have hodd : x.testBit 0 = decide (x % 2 = 1) := Nat.testBit_zero x
    rw [popcount, ih, List.range_succ_eq_map, List.filter_cons, List.filter_map, hodd]
    have hshift : ((fun i => x.testBit i) ∘ Nat.succ) = (fun i => (x / 2).testBit i) := funext fun i => Nat.testBit_succ x i
    rw [hshift]
    rcases Nat.mod_two_eq_zero_or_one x with h | h <;> simp [h, Nat.add_comm]

/-- The cores from `i` on that a multicast's mask names. -/
def mcastCores (m : Word) (i : Nat) : List Nat := (List.range' i (16 - i)).filter (fun j => m.getLsbD j)

theorem mcastCores_of_set {m : Word} {i : Nat} (hi : i < 16) (hm : m.getLsbD i = true) : mcastCores m i = i :: mcastCores m (i + 1) := by
  rw [mcastCores, show 16 - i = (16 - (i + 1)) + 1 by omega, List.range'_succ, List.filter_cons, if_pos hm]
  rfl

theorem mcastCores_of_clear {m : Word} {i : Nat} (hi : i < 16) (hm : m.getLsbD i = false) : mcastCores m i = mcastCores m (i + 1) := by
  rw [mcastCores, show 16 - i = (16 - (i + 1)) + 1 by omega, List.range'_succ, List.filter_cons, if_neg (by simp [hm])]
  rfl

/-- With room for a copy to every core that is left, all of them enter the injection buffer (10 R217, R219). -/
theorem mcastFill_of_room (c cyc : Nat) (base payload m : Word) (n i : Nat) (x : Core) (hn : 17 ≤ i + n) (hi : i ≤ 16)
    (hroom : x.inj.length + x.injRes + x.injRide + (mcastCores m i).length ≤ 8) :
    mcastFill c cyc base payload m n i x = (16, { x with
      inj := x.inj ++ (mcastCores m i).map (fun j => x.stamp cyc (mcastItem c base payload j))
      mcOut := x.mcOut + (mcastCores m i).length }) := by
  induction n generalizing i x with
  | zero => omega
  | succ n ih =>
    unfold mcastFill
    by_cases h16 : i = 16
    · subst h16
      simp [mcastCores]
    · rw [if_neg (show ¬ i ≥ 16 by omega)]
      cases hm : m.getLsbD i with
      | false =>
        rw [mcastCores_of_clear (by omega) hm] at hroom ⊢
        exact ih (i + 1) x (by omega) (by omega) hroom
      | true =>
        rw [mcastCores_of_set (by omega) hm] at hroom ⊢
        rw [List.length_cons] at hroom
        have hfree : x.injRoom = true := by
          unfold Core.injRoom
          exact decide_eq_true (by omega)
        simp only [hfree, Bool.not_true, Bool.false_eq_true, if_false]
        rw [ih (i + 1) _ (by omega) (by omega) (by simp only [List.length_append, List.length_singleton]; omega)]
        simp only [List.append_assoc, List.map_cons, List.singleton_append, List.length_cons, Nat.add_assoc, Nat.add_comm 1]
        rfl

theorem mcastCores_zero (m : Word) : mcastCores m 0 = (List.range 16).filter (fun j => m.getLsbD j) := by
  rw [mcastCores, List.range_eq_range']

theorem length_mcastCores_zero (m : Word) : (mcastCores m 0).length = popcount 16 m.toNat := by
  rw [mcastCores_zero, popcount_eq_length]
  rfl

theorem popcount_pos {n x : Nat} (hx : x ≠ 0) (hn : x < 2 ^ n) : 0 < popcount n x := by
  obtain ⟨i, hi⟩ := Nat.exists_testBit_of_ne_zero hx
  rw [popcount_eq_length]
  refine List.length_pos_of_mem (List.mem_filter.2 ⟨List.mem_range.2 ?_, hi⟩)
  by_contra h
  rw [Nat.testBit_lt_two_pow (hn.trans_le (Nat.pow_le_pow_right (by omega) (by omega)))] at hi
  cases hi

/-- A multicast with room for all its copies begins, and the injection buffer holds them (10 R219). -/
theorem mcast_body_of_room {h : Hdr} {d a b : BitVec 5} {c k : Nat} {w : QWord} {t : State} (hi : w.idx = 0) (hne : w.vb ≠ 0)
    (hlt : w.vb.toNat < 2 ^ 16)
    (hroom : (t.core c).inj.length + (t.core c).injRes + (t.core c).injRide + popcount 16 w.vb.toNat ≤ 8) :
    (specOf (.mcast h d a b)).body c k w t = .begun { w with idx := 16 } (t.setCore c { t.core c with
      inj := (t.core c).inj ++ (mcastCores w.vb 0).map (fun j => (t.core c).stamp t.cycle (mcastItem c w.res w.va j))
      mcOut := (t.core c).mcOut + (mcastCores w.vb 0).length }) := by
  have hpos : 0 < popcount 16 w.vb.toNat := popcount_pos (fun e => hne (BitVec.eq_of_toNat_eq e)) hlt
  rw [← length_mcastCores_zero] at hroom hpos
  show (specMcast h d a b).body c k w t = _
  unfold specMcast
  simp only [if_neg hne, hi, mcastFill_of_room c t.cycle w.res w.va w.vb 17 0 (t.core c) (by omega) (by omega) hroom]
  exact if_neg (by simp only [Bool.and_eq_true, decide_eq_true_eq]; omega)

/-! ### The ranges' words and FENCE -/

/-- A WBR or INVR that finds fewer than four in progress is accepted (10 R230). -/
theorem wbWord_body_of_room {inval : Bool} {h : Hdr} {a b : BitVec 5} {c k : Nat} {w : QWord} {t : State}
    (hroom : ((t.core c).d.wbOps.filter (fun p => !p.fin)).length < 4) :
    (wbWord inval h a b).body c k w t = .done (t.modData c (fun x => { x with wbOps := x.wbOps ++
      [{ order := w.seq, inval := inval, base := w.va, len := w.vb.toNat }] })) 0 false :=
  if_neg (by omega)

/-- A WBWAIT before which every range is finished and none has failed takes their count (10 R230). -/
theorem wbwait_body_of_finished {h : Hdr} {d : BitVec 5} {c k : Nat} {w : QWord} {t : State}
    (hops : ∀ p ∈ (t.core c).d.wbOps, p.order < w.seq → p.fin = true ∧ p.code = 0) :
    (specWbwait h d).body c k w t = .done (t.modData c (fun x => { x with
      wbCount := 0, wbOps := x.wbOps.filter (fun o => decide (w.seq ≤ o.order)) })) (t.core c).d.wbCount false := by
  have hearlier : ∀ p ∈ (t.core c).d.wbOps.filter (fun o => decide (o.order < w.seq)), p.fin = true ∧ p.code = 0 := by
    intro p hp
    obtain ⟨hmem, hlt⟩ := List.mem_filter.1 hp
    exact hops p hmem (of_decide_eq_true hlt)
  unfold specWbwait
  dsimp only
  rw [if_neg ?fin, List.find?_eq_none.2 ?code]
  case fin =>
    rw [Bool.not_eq_true, List.any_eq_false]
    intro p hp
    simp [(hearlier p hp).1]
  case code =>
    intro p hp
    simp [(hearlier p hp).2]

/-- A FENCE whose waits are over is done (10 R228). -/
theorem fence_body_of_waited {h : Hdr} {e o : BitVec 2} {c k : Nat} {w : QWord} {t : State}
    (hacq : hasAcq o = true → ∀ q ∈ ((t.core c).strand k).words, q.seq < w.seq → isLoad q.i = true → q.phase = .done)
    (hrel : hasRel o = true → released c k (e = 3) w t) : (specFence h e o).body c k w t = .done t 0 false := by
  unfold specFence
  dsimp only
  rw [if_neg ?loads]
  case loads =>
    simp only [Bool.and_eq_true, List.any_eq_true, decide_eq_true_eq, not_and, not_exists, ne_eq, decide_not, Bool.not_eq_true',
      decide_eq_false_iff_not, not_not, and_imp]
    exact fun ha q hq hlt hload => hacq ha q hq hlt hload
  split
  · next hr => exact onRelease_of_released (hrel hr)
  · rfl

/-- Settles O16: the body of each word, where nothing is left to wait for. -/
theorem orderingWordsComplete : Obligations.OrderingWordsComplete := by
  unfold Obligations.OrderingWordsComplete
  intro h d a b e o s w t c k ops accepted
  refine ⟨?fence, ?wbr, ?invr, ?wbwait, ?none, ?mcast⟩
  case fence => exact fun hr hacq hrel => runs_done (exec_word rfl s) hr (fence_body_of_waited hacq hrel)
  case wbr => exact fun hr hroom => runs_done (exec_word rfl s) hr (wbWord_body_of_room hroom)
  case invr => exact fun hr hroom => runs_done (exec_word rfl s) hr (wbWord_body_of_room hroom)
  case wbwait =>
    intro hr hops
    refine ⟨_, runs_done (exec_word rfl s) hr (wbwait_body_of_finished hops), ?_, ?_⟩
    · rw [core_modData]
    · intro p
      rw [core_modData]
      simp only [List.mem_filter, decide_eq_true_eq]
      rfl
  case none => exact fun hr hz => runs_done (exec_word rfl s) hr (if_pos hz)
  case mcast =>
    intro hr hne hlt hroom
    refine ⟨_, _, runs_begun (exec_word rfl s) hr (mcast_body_of_room (runsNow_idx hr) hne hlt hroom), ?_, ?_⟩
    · rw [core_setCore, mcastCores_zero]
    · rw [core_setCore, length_mcastCores_zero]

end Sys2Proof.Machine
end

section
/-! PROOFS. Stream links (22 R410 to R414): what each beat does as it arrives, and the statement `LinkEventsAct`. -/

namespace Sys2Proof.Machine

/-! ### The beats of a link (22 R410, R411) -/

theorem booted_of_booted {s : State} (f : State → State) (h : s.pkg.bootCode = 0) : booted f s = f s := if_pos h

section Late

variable (link : Nat) (late : Bool) (s : State)

/-- The link after a late beat has been counted. -/
theorem countLate_link : (countLate link late s).link link = { s.link link with late := (s.link link).late + (if late then 1 else 0) } := by
  cases late with
  | false => rfl
  | true => exact link_modLink s link _

theorem countLate_rangeLost (pa n : Nat) : rangeLost (countLate link late s) pa n = rangeLost s pa n := by
  cases late <;> rfl

@[simp] theorem countLate_mem : (countLate link late s).mem = s.mem := by
  cases late <;> rfl

@[simp] theorem countLate_cores : (countLate link late s).cores = s.cores := by
  cases late <;> rfl

end Late

/-- Beats of other channels alone wait: no credit lets one go (22 R410). -/
theorem drain_of_none {ch n : Nat} {l : Link} (h : ∀ x ∈ l.wait, x.1 ≠ ch) : Link.drain ch n l = l := by
  cases n with
  | zero => rfl
  | succ n =>
    have hnone : l.wait.find? (fun x => x.1 = ch) = none := List.find?_eq_none.2 (fun x hx => by simpa using h x hx)
    unfold Link.drain
    rw [hnone]

/-- Credits that come back while no beat of the channel waits: the far end's beats leave the list, and nothing goes out. -/
theorem credited_of_none {ch n : Nat} {l : Link} (h : ∀ x ∈ l.wait, x.1 ≠ ch) : l.credited ch n = { l with
    credits := tmod 0 l.credits ch (· - n)
    out := l.out.filter (fun x => x.1 ≠ ch) ++ (l.out.filter (fun x => x.1 = ch)).drop n } :=
  drain_of_none (n := l.wait.length) h

/-- The channel's beats among those of `credited_of_none`. -/
theorem filter_credited (out : List (Nat × LinkItem)) (ch n : Nat) :
    (out.filter (fun x => x.1 ≠ ch) ++ (out.filter (fun x => x.1 = ch)).drop n).filter (fun x => x.1 = ch)
      = (out.filter (fun x => x.1 = ch)).drop n := by
  have hothers : (out.filter (fun x => decide (x.1 ≠ ch))).filter (fun x => decide (x.1 = ch)) = [] := by
    rw [List.filter_filter]
    refine List.filter_eq_nil_iff.2 (fun x _ => ?_)
    by_cases e : x.1 = ch <;> simp [e]
  have hsame : ((out.filter (fun x => decide (x.1 = ch))).drop n).filter (fun x => decide (x.1 = ch))
      = (out.filter (fun x => decide (x.1 = ch))).drop n :=
    List.filter_eq_self.2 (fun x hx => (List.mem_filter.1 (List.mem_of_mem_drop hx)).2)
  rw [List.filter_append, hothers, hsame, List.nil_append]

/-- A credit lets the one beat that waits go (22 R410). -/
theorem credited_of_one {ch n : Nat} {m : LinkItem} {l : Link} (hw : l.wait = [(ch, m)])
    (hc : tget 0 l.credits ch - n < Config.linkCredits ch) : l.credited ch n = { l with
      credits := tmod 0 (tmod 0 l.credits ch (· - n)) ch (· + 1)
      wait := []
      out := (l.out.filter (fun x => x.1 ≠ ch) ++ (l.out.filter (fun x => x.1 = ch)).drop n) ++ [(ch, m)] } := by
  have hcredit : Link.credit { l with
      credits := tmod 0 l.credits ch (· - n)
      out := l.out.filter (fun x => x.1 ≠ ch) ++ (l.out.filter (fun x => x.1 = ch)).drop n } ch = true := by
    unfold Link.credit
    rw [tget_tmod, if_pos rfl]
    exact decide_eq_true hc
  unfold Link.credited
  rw [hw, List.length_singleton, Link.drain]
  simp only [List.find?_cons, decide_true, List.erase_cons_head]
  exact if_pos hcredit

/-- Where no die has a copy packet, a link's reset recovers none (22 R411, 16 R318). -/
theorem linkPackets_of_none {link : Nat} {s : State} (h : ∀ d ∈ s.dies, d.2.packets = []) : linkPackets link s = s := by
  unfold linkPackets
  refine foldl_id _ _ _ (fun d hd => if_neg ?_)
  rw [h d hd]
  simp

section Beat

variable {link ch : Nat} {late : Bool} {s : State}

/-- A credit's arrival (22 R410). -/
theorem linkBeatEv_credit (n : Nat) : linkBeatEv link ch late (.credit n) s
    = (countLate link late s).modLink link (·.credited ch n) := by
  simp [linkBeatEv]

/-- A token's arrival: it is held until F cycles after its serialisation (22 R414, log entry 67). -/
theorem linkBeatEv_token (slot kind began : Nat) (data : List Word) : linkBeatEv link ch late (.token slot kind began data) s
    = (countLate link (late || decide (began + 16 + (s.link link).f.toNat < s.cycle)) s).modLink link
      (fun l => { l with hold := l.hold ++ [(began + 16 + l.f.toNat, .token slot kind began data)] }) := by
  simp [linkBeatEv]

end Beat

/-- Settles O35: each beat's arrival, by its kind. -/
theorem linkEventsAct : Obligations.LinkEventsAct := by
  unfold Obligations.LinkEventsAct
  intro link ch late s hboot u
  have harrives : ∀ m, exec (.linkBeatArrival link ch late m) s = .next (linkBeatEv link ch late m s) :=
    fun m => congrArg _ (booted_of_booted _ hboot)
  refine ⟨?write, ?read, ?message, ?full, ?accepted, ?credit, ?waiting, ?token, ?forward, ?reset⟩
  case write =>
    intro pa b hready hlost hpa
    have hlost : rangeLost u pa b.length = false := (countLate_rangeLost link late s pa b.length).trans hlost
    rw [harrives]
    simp only [linkBeatEv, hready, Bool.not_true, Bool.false_eq_true, if_false, Bool.or_false]
    simp only [peerWrite, windowSize, hpa, decide_true, Bool.true_and]
    rw [show countLate link late s = u from rfl, hlost]
    rfl
  case read =>
    intro pa n v b hready hpa hread
    rw [harrives]
    simp only [linkBeatEv, hready, Bool.not_true, Bool.false_eq_true, if_false, Bool.or_false]
    rw [show countLate link late s = u from rfl, peerRead, windowSize, if_pos hpa, hread]
  case message =>
    intro c v tag src l n m hroom
    rw [harrives]
    simp [linkBeatEv, Nat.not_le.2 hroom, u]
  case full =>
    intro c v tag src l n m hfull
    rw [harrives]
    simp [linkBeatEv, hfull]
  case accepted =>
    intro c l n m
    rw [harrives]
    simp [linkBeatEv, u]
  case credit =>
    intro n hnone
    refine ⟨_, harrives _, ?_⟩
    rw [linkBeatEv_credit, link_modLink, credited_of_none (by rw [countLate_link]; exact hnone), countLate_link]
    have hcredits : tget 0 (tmod 0 (s.link link).credits ch (· - n)) ch = tget 0 (s.link link).credits ch - n :=
      (tget_tmod ..).trans (if_pos rfl)
    exact ⟨hcredits, filter_credited _ ch n, rfl, countLate_mem link late s, countLate_cores link late s, rfl⟩
  case waiting =>
    intro n m hwait hcredit
    refine ⟨_, harrives _, ?_⟩
    rw [linkBeatEv_credit, link_modLink, credited_of_one (m := m) (by rw [countLate_link]; exact hwait) (by rw [countLate_link]; exact hcredit), countLate_link]
    exact ⟨rfl, by simp, by simp [tget_tmod]⟩
  case token =>
    intro slot kind began data
    refine ⟨_, harrives _, ?_⟩
    rw [linkBeatEv_token, link_modLink, countLate_link]
    exact ⟨rfl, countLate_mem link _ s, rfl⟩
  case forward =>
    intro t n kind began data after hheld hend
    show Host.Outcome.next (tokenForwardEv link after s) = _
    rw [tokenForwardEv, hheld]
    exact congrArg _ (if_neg (by simp [hend]))
  case reset =>
    intro f hnodes hpackets
    show Host.Outcome.next (linkResetEv link f s) = _
    rw [linkResetEv, hnodes]
    exact congrArg _ (linkPackets_of_none hpackets)

end Sys2Proof.Machine
end

section
/-! PROOFS. DOMSET and HMSET (10 R231, R232, 12 R246): the statement `DomainWordsComplete`. -/

namespace Sys2Proof.Machine

/-! ### A descriptor's read (10 R226) -/

/-- A Y word's read of 64 bytes at a multiple of 64, in storage that a home slice holds, takes them in one go. -/
theorem fetchVirt_step {c k f : Nat} {x0 va : Word} {go : QWord → State → Run} {w : QWord} {s u : State} {b : List Byte}
    (hbit : w.bit = false) (hbuf : w.buf = []) (ha : va.toNat % 64 = 0) (hr : ReadAtOnce c va 64 s u b) :
    fetchVirt c k va 64 x0 go (f + 1) w s = fetchVirt c k va 64 x0 go f { w with buf := w.buf ++ b } u := by
  obtain ⟨hv, pa, lf, sz, v, hx, hh, hq, hb⟩ := hr
  have hva : (va + word 0).toNat = va.toNat := congrArg _ (BitVec.add_zero va)
  have hn : Nat.min (64 - 0) (65536 - va.toNat % 65536) = 64 := Nat.min_eq_left (by omega)
  have hlt : ¬ va.toNat ≥ 2 ^ 48 := by omega
  have hshort : ¬ (0 : Nat) ≥ 64 := by omega
  simp only [fetchVirt, hbuf, List.length_nil, hva, hn, hbit, hlt, hx, hshort, Bool.false_eq_true, if_false]
  cases ht : target pa with
  | crown d o => exact absurd ht (hh d o).1
  | host o => exact absurd ht (hh 0 o).2.1
  | peer d o => exact absurd ht (hh d o).2.2
  | hbm d o => simp only [hq, hb, Bool.not_true, Bool.false_eq_true, if_false]
  | carve d o p => simp only [hq, hb, Bool.not_true, Bool.false_eq_true, if_false]

/-- A Y word's read whose bytes are there goes on. -/
theorem fetchVirt_full {c k f total : Nat} {x0 va : Word} {go : QWord → State → Run} {w : QWord} {s : State} (h : total ≤ w.buf.length) :
    fetchVirt c k va total x0 go (f + 1) w s = go w s := by
  simp only [fetchVirt, ge_iff_le, h, if_true]

theorem fetchVirt_of_read {c k f : Nat} {x0 va : Word} {go : QWord → State → Run} {w : QWord} {s u : State} {b : List Byte}
    (hbit : w.bit = false) (hbuf : w.buf = []) (ha : va.toNat % 64 = 0) (hr : ReadAtOnce c va 64 s u b) :
    fetchVirt c k va 64 x0 go (f + 2) w s = go { w with buf := b } u := by
  have hlen : b.length = 64 := by
    obtain ⟨-, _, _, _, _, -, -, -, hb⟩ := hr
    exact readBytes_length hb
  rw [fetchVirt_step hbit hbuf ha hr, fetchVirt_full (by simp [hbuf, hlen]), hbuf, List.nil_append]

section Issue

variable {i : Instr} {s t : State} {w : QWord}

/-- The check at its issue has passed. -/
theorem runsNow_check (hr : runsNow i s = some (w, t)) : (specOf i).check s.cur.1 s.cur.2 w s = none := by
  obtain ⟨y, hg, hh, -⟩ := runsNow_iff.1 hr
  obtain ⟨-, -, -, -, -, -, -, -, -, va, vb, vd, -, -, hc, -⟩ := (goes_iff hh).1 hg
  exact hc

/-- A word that runs at once has read nothing yet. -/
theorem runsNow_unread (hr : runsNow i s = some (w, t)) (hcq : (specOf i).cqPop = false) : w.bit = false ∧ w.buf = [] ∧ w.due = 0 := by
  obtain ⟨y, hg, hh, -⟩ := runsNow_iff.1 hr
  obtain ⟨-, -, -, -, -, -, -, -, -, va, vb, vd, -, rfl, -⟩ := (goes_iff hh).1 hg
  exact ⟨by simp [newWord, makeWord, hcq], rfl, rfl⟩

/-- A word whose descriptor must lie at a multiple of 64 has one that does. -/
theorem runsNow_aligned (hr : runsNow i s = some (w, t))
    (hc : ∀ c k w s, (specOf i).check c k w s = if w.va.toNat % 64 ≠ 0 then some { issueTrap 0x03 with addr := w.va } else none) :
    w.va.toNat % 64 = 0 := by
  have h := runsNow_check hr
  rw [hc] at h
  by_contra hne
  rw [if_pos hne] at h
  cases h

end Issue

/-! ### The words in a core's queues -/

/-- Every word in a queue of `u` has the number of one in that queue of `t`. -/
def Strand.SeqsFrom (t u : Strand) : Prop := ∀ e, ∀ z ∈ u.queue e, ∃ y ∈ t.queue e, y.seq = z.seq

/-- No strand of any core has a word of a new number in any of its queues. -/
def SeqsFrom (s t : State) : Prop := ∀ c k, ((s.core c).strand k).SeqsFrom ((t.core c).strand k)

theorem Strand.SeqsFrom.refl (t : Strand) : t.SeqsFrom t := fun _ z hz => ⟨z, hz, rfl⟩

theorem Strand.SeqsFrom.trans {t u v : Strand} (h : t.SeqsFrom u) (h' : u.SeqsFrom v) : t.SeqsFrom v := by
  intro e z hz
  obtain ⟨y, hy, hyz⟩ := h' e z hz
  obtain ⟨x, hx, hxy⟩ := h e y hy
  exact ⟨x, hx, hxy.trans hyz⟩

theorem Strand.SeqsFrom.of_queues {t u : Strand} (h : u.queues = t.queues) : t.SeqsFrom u := by
  intro e z hz
  exact ⟨z, by unfold Strand.queue at hz ⊢; rwa [← h], rfl⟩

theorem SeqsFrom.refl (s : State) : SeqsFrom s s := fun _ _ => .refl _

theorem SeqsFrom.trans {s t u : State} (h : SeqsFrom s t) (h' : SeqsFrom t u) : SeqsFrom s u := fun c k => (h c k).trans (h' c k)

theorem SeqsFrom.of_strands {s t : State} (h : ∀ c, (t.core c).strands = (s.core c).strands) : SeqsFrom s t := fun c k => by
  unfold Core.strand
  rw [h c]
  exact .refl _

theorem SeqsFrom.of_cores {s t : State} (h : t.cores = s.cores) : SeqsFrom s t := .of_strands fun c => by
  unfold State.core
  rw [h]

theorem SeqsFrom.modCore {s : State} {c : Nat} {f : Core → Core} (h : ∀ (x : Core) k, (x.strand k).SeqsFrom ((f x).strand k)) :
    SeqsFrom s (s.modCore c f) := fun e k => by
  by_cases he : e = c
  · subst he
    rw [core_modCore]
    exact h _ k
  · rw [core_modCore_ne s f he]
    exact .refl _

/-- What a step of a fold does to the queues, the fold does. -/
theorem SeqsFrom.foldl {α : Type} {f : State → α → State} (hf : ∀ s a, SeqsFrom s (f s a)) (l : List α) (s : State) :
    SeqsFrom s (l.foldl f s) :=
  foldl_keeps (P := SeqsFrom s) (fun _ a h => h.trans (hf _ a)) l s (.refl s)

theorem Core.strand_modStrand_seqs {x : Core} {k : Nat} {f : Strand → Strand} (h : ∀ t : Strand, t.SeqsFrom (f t)) (j : Nat) :
    (x.strand j).SeqsFrom ((x.modStrand k f).strand j) := by
  by_cases hj : j = k
  · subst hj
    rw [strand_coreModStrand]
    exact h _
  · rw [strand_coreModStrand_ne x f hj]
    exact .refl _

/-- Queues whose words are updated, each by its queue's own function, keep their numbers. -/
theorem seqsFrom_of_map {t u : Strand} (f : Nat → QWord → QWord) (hf : ∀ n w, (f n w).seq = w.seq)
    (h : u.queues = t.queues.map (fun q => (q.1, q.2.map (f q.1)))) : t.SeqsFrom u := by
  have hget : ∀ (l : Table (List QWord)) n, tget [] (l.map (fun q => (q.1, q.2.map (f q.1)))) n = (tget [] l n).map (f n) := by
    intro l n
    induction l with
    | nil => rfl
    | cons p r ih =>
      obtain ⟨k, v⟩ := p
      simp only [List.map_cons, tget, ih]
      split
      · rfl
      · split
        · next hk => rw [hk]
        · rfl
  intro e z hz
  unfold Strand.queue at hz ⊢
  rw [h, hget] at hz
  obtain ⟨y, hy, rfl⟩ := List.mem_map.1 hz
  exact ⟨y, hy, (hf _ y).symm⟩

theorem modAny_seqs {t : Strand} {seq : Nat} {f : QWord → QWord} (hf : ∀ w, (f w).seq = w.seq) : t.SeqsFrom (t.modAny seq f) :=
  seqsFrom_of_map (fun _ w => if w.seq = seq then f w else w) (fun _ w => by split <;> simp [hf]) rfl

/-- Words that leave their queues leave the numbers of the others. -/
theorem filter_seqs {t : Strand} (p : QWord → Bool) :
    t.SeqsFrom { t with queues := t.queues.map (fun q => (q.1, q.2.filter p)) } := by
  intro e z hz
  have hget := tget_map ([] : List QWord) (List.filter p) t.queues (engNum e)
  unfold Strand.queue at hz ⊢
  rw [show ([] : List QWord) = List.filter p [] from rfl, hget] at hz
  exact ⟨z, (List.mem_filter.1 hz).1, rfl⟩

theorem parked_seqs (t : Strand) : t.SeqsFrom t.parked := by
  refine seqsFrom_of_map (fun n w => if n = engNum .l || n = engNum .v then { w with stopped := w.stopped || w.paging } else w)
    (fun n w => by split <;> rfl) ?_
  refine List.map_congr_left (fun q _ => ?_)
  split
  · rfl
  · simp

theorem stopped_seqs (t : Strand) : t.SeqsFrom t.stopped := by
  unfold Strand.stopped
  split
  · exact (parked_seqs t).trans (.of_queues rfl)
  · exact parked_seqs t

/-- A handler's entry empties X's queues (17 R325). -/
theorem enterHandler_seqs (x : Core) (k : Nat) : (x.strand k).SeqsFrom ((enterHandler x).strand k) := by
  by_cases hk : k = 3
  · subst hk
    intro e z hz
    have hstrand : ((enterHandler x).strand 3).queue e = [] := by
      unfold Strand.queue
      rw [show (enterHandler x).strand 3 = _ from strand_setStrand x 3 _]
      rfl
    rw [hstrand] at hz
    cases hz
  · rw [show (enterHandler x).strand k = x.strand k from strand_setStrand_ne x _ hk]
    exact .refl _

theorem settleStop_seqs (c : Nat) (s : State) : SeqsFrom s (settleStop c s) := by
  have hfailed : ∀ e t, SeqsFrom t (settleStop.failed c e t) := fun e t => .modCore (fun x k => .refl _)
  unfold settleStop
  dsimp only
  split
  · exact .refl s
  · next b _ =>
    have hx := SeqsFrom.of_strands (coreXlat_strands s c { coreAccess s c with write := true } (s.core c).csr.faultPtr.toNat)
    split
    · next pa leaf n u hu =>
      replace hx : SeqsFrom s u := by rwa [hu] at hx
      have hwritten : SeqsFrom u ((writeOut (coreAccess s c).ctx pa b u).modCore c (fun x =>
          if x.entering && x.ending.isNone then enterHandler { x with record := none, entering := false }
          else { x with record := none, entering := false })) :=
        (SeqsFrom.of_cores (writeOut_cores _ pa b u)).trans (.modCore (fun x k => by
          split
          · exact enterHandler_seqs { x with record := none, entering := false } k
          · exact .refl _))
      exact hx.trans (iteInduction (motive := SeqsFrom u) (fun _ => hfailed _ u) (fun _ => iteInduction (fun _ => hfailed _ u)
        (fun _ => iteInduction (fun _ => .refl u) (fun _ => hwritten))))
    · next e u hu =>
      rw [hu] at hx
      refine hx.trans ?_
      split
      · exact .refl _
      · exact hfailed _ _

theorem takeFault_seqs (c k : Nat) (t : Trap) (w pc : BitVec 32) (seq : Option Nat) (s : State) : SeqsFrom s (takeFault c k t w pc seq s) := by
  by_cases h : (s.strand c k).st = .faulted
  · obtain ⟨n, e⟩ := takeFault_again (t := t) (w := w) (pc := pc) (seq := seq) h
    rw [e]
    exact .modCore (fun x => Core.strand_modStrand_seqs (fun _ => Strand.SeqsFrom.of_queues rfl))
  · have h' : ¬ ((s.core c).strand k).st = .faulted := h
    unfold takeFault
    rw [if_neg h']
    extract_lets n handler record s1 s2
    have h1 : SeqsFrom s s1 := by
      refine .modCore (fun x j => ?_)
      extract_lets data mark stopped
      have hmap : stopped.strand j = (x.strand j).stopped := tget_map ({} : Strand) Strand.stopped x.strands j
      have hstopped : (x.strand j).SeqsFrom (stopped.strand j) := hmap ▸ stopped_seqs (x.strand j)
      refine hstopped.trans (Core.strand_modStrand_seqs (fun y => ?_) j)
      exact .of_queues rfl
    have h2 : SeqsFrom s s2 := h1.trans (.of_cores (faultSignals_cores s1 c))
    split
    · exact h2.trans (settleStop_seqs c s2)
    · exact h2

theorem failWord_seqs (c k seq : Nat) (t : Trap) (s : State) : SeqsFrom s (failWord c k seq t s) := by
  unfold failWord
  extract_lets back
  split
  · exact .modCore (fun _ _ => .refl _)
  · split
    · split
      · exact .modCore (fun _ _ => .refl _)
      · exact .refl s
    · refine SeqsFrom.trans (.modCore (fun x => Core.strand_modStrand_seqs (fun y => ?_))) (takeFault_seqs c k t _ _ _ _)
      split
      · exact filter_seqs _
      · exact modAny_seqs (fun _ => rfl)

/-- A member that hears of its domain's break stops at most the word that waits in it (12 R256). -/
theorem deliver_broken_seqs (c level : Nat) (s : State) : SeqsFrom s (deliver c (.broken level) s) := by
  unfold deliver
  dsimp only
  split
  · exact failWord_seqs c 3 _ _ s
  · exact .refl s

theorem deliverTo_broken_seqs (level slot c : Nat) (s : State) : SeqsFrom s (deliverTo level slot (.broken level) c s) := by
  unfold deliverTo
  split
  · split
    · exact .modCore (fun _ _ => .refl _)
    · exact deliver_broken_seqs c level s
  · exact .of_cores rfl

/-! ### The end of a domain's install or removal (12 R246) -/

theorem breakSlot_cores (root n : Nat) (s : State) : (breakSlot root n s).cores = s.cores :=
  congrArg (·.2.2) (breakWith_syncFrame none root n s)

theorem clearDoms_seqs (cs : List Nat) (level slot : Nat) (s : State) : SeqsFrom s (clearDoms cs level slot s) := by
  unfold clearDoms
  extract_lets f t
  have ht : SeqsFrom s t := SeqsFrom.foldl (fun s c => .modCore (fun x k => by dsimp only [f]; split <;> exact .refl _)) cs s
  exact ht.trans (.of_cores rfl)

theorem domRemove_seqs (d n : Nat) (s : State) : SeqsFrom s (domRemove d n s) := by
  unfold domRemove
  extract_lets x s1 s2 s3 s4
  have h1 : SeqsFrom s s1 := SeqsFrom.foldl (fun s c => deliverTo_broken_seqs x.level n c s) x.members s
  have h3 : SeqsFrom s s3 := (h1.trans (clearDoms_seqs x.members x.level n s1)).trans (.of_cores rfl)
  have h4 : SeqsFrom s s4 := h3.trans (.of_cores (breakSlot_cores 8 n s3))
  split
  · split
    · exact h4.trans (.of_cores rfl)
    · exact h4.trans (.of_cores rfl)
  · exact h3

theorem setDoms_seqs (cs : List Nat) (level : Nat) (v : DomCsr) (s : State) : SeqsFrom s (setDoms cs level v s) :=
  SeqsFrom.foldl (f := fun s c => s.modCsr c (fun r => { r with dom := tput r.dom level v })) (fun _ _ => .modCore (fun _ _ => .refl _)) cs s

theorem joinPackage_cores (n : Nat) (x : DomDesc) (s : State) : (joinPackage n x s).cores = s.cores := by
  unfold joinPackage
  extract_lets parts fresh s1 s2
  have h2 : s2.cores = s.cores := by
    dsimp only [s2, s1]
    split <;> rfl
  split
  · exact (breakSlot_cores 8 n s2).trans h2
  · split
    · exact h2
    · exact h2

theorem domInstall_seqs (d : Nat) (launch : Option NodeRef) (x : DomDesc) (s : State) : SeqsFrom s (domInstall d launch x s) := by
  unfold domInstall
  extract_lets s1 s2
  have h2 : SeqsFrom s s2 := SeqsFrom.trans (.of_cores rfl) (setDoms_seqs _ _ _ s1)
  split
  · exact h2.trans (.of_cores (joinPackage_cores x.slot x s2))
  · exact h2

section RunsOn

variable {i : Instr} {c k : Nat} {w : QWord} {s u : State}

/-- A begun Y word that runs on to its end, with an effect that brings no word of a new number into a queue, does not start anew. -/
theorem Begun.ends_of_seqs (hb : Begun i c k .y w s) (he : (specOf i).engine ≠ .l) {v : Word}
    (hr : (specOf i).body c k w s = .done u v false) (hu : SeqsFrom s u) : EndsWith c k .y w s v u := by
  obtain ⟨rfl, hq, hph, hreq, hbad, hfrozen, hfault⟩ := hb
  have hgo : (((s.core c).strand k).queue .y).find? (fun q => q.phase = .started && q.req = 0) = some w := by simp [hq, hph, hreq]
  have hrun : serveRun c k (specOf w.i) w s = .done u v false := by rw [serveRun_of_ne_l he, runBody_of_intact hbad, hr]
  have hnone : ((((putWord c k .y { w with phase := .done, res := v, bit := false, req := 0, paging := false } u).core c).strand k).queue
      .y).find? (fun z => z.phase = .queued) = none := by
    rw [queue_putWord, List.find?_eq_none]
    intro z hz
    obtain ⟨y, hy, rfl⟩ := List.mem_map.1 hz
    obtain ⟨x, hx, hxy⟩ := hu c k .y y hy
    rw [hq, List.mem_singleton] at hx
    subst hx
    simp [hxy]
  show exec (.engineWordStart c k .y) s = _
  rw [exec_engineWordStart hfrozen hfault, continueWord_some (.inr (.inr rfl)) nofun hgo, hrun]
  exact congrArg _ (startWord_none hnone)

end RunsOn

/-! ### The bodies of DOMSET and HMSET -/

section Bodies

variable {h : Hdr} {d a : BitVec 5} {c k : Nat} {w : QWord} {t u : State} {b : List Byte}

/-- DOMSET begins once its descriptor is read, and acts 26 cycles later (12 R246). -/
theorem domset_body_reads (hbit : w.bit = false) (hbuf : w.buf = []) (hdue : w.due = 0) (ha : w.va.toNat % 64 = 0)
    (hr : ReadAtOnce c w.va 64 t u b) :
    (domsetWord h d a).body c k w t = .begun { w with buf := b, due := u.cycle + 26 } u :=
  (fetchVirt_of_read hbit hbuf ha hr).trans (if_pos hdue)

/-- One that is due, with none before it, acts at its root (12 R246, R440). -/
theorem domset_body_acts (hbuf : 64 ≤ w.buf.length) (hdue : w.due ≠ 0) (hnow : w.due ≤ t.cycle) (hidx : w.idx = 0)
    (hahead : domsetsAhead c w t = []) : (domsetWord h d a).body c k w t = .done (domsetAct c w t).2 (domsetAct c w t).1 false := by
  have hact : applyDomsets (domsetsAhead c w t) t = t := by
    rw [hahead]
    rfl
  refine (fetchVirt_full hbuf).trans ?_
  rw [if_neg hdue, if_neg (by omega), if_neg (by omega), hact]

/-- HMSET's switch of a domain that is quiesced goes by its descriptor (10 R231, R232). -/
theorem hmsetSwitch_body {m : BitVec 4} (hq : (tget {} (t.die (coreDie c)).il m.toNat).quiesced = true) (hbit : w.bit = false) (hbuf : w.buf = [])
    (ha : w.va.toNat % 64 = 0) (hr : ReadAtOnce c w.va 64 t u b) :
    (specHmsetSwitch h d a m).body c k w t = match ilDesc b with
      | none => .done u 2 false
      | some x =>
        if ilConflict (u.die (coreDie c)) m.toNat x then .done u 3 false
        else .done (bounceMoved (coreDie c) (dropMoved (coreDie c) (tget {} (u.die (coreDie c)).il m.toNat).members
          (setIl (coreDie c) m.toNat (fun _ => { x with quiesced := true }) u))) 0 false := by
  refine (if_neg (by rw [hq]; decide)).trans ((fetchVirt_of_read hbit hbuf ha hr).trans ?_)
  cases ilDesc b <;> rfl

end Bodies

/-! ### The state after a switch -/

/-- What the moved lines and requests of a switch leave: memory and the dies' interleave domains. -/
def ilFrame (die : Nat) (s : State) : Memory × Table IlDomain := (s.mem, (s.die die).il)

theorem dropMoved_ilFrame (die : Nat) (old : List Nat) (s : State) : ilFrame die (dropMoved die old s) = ilFrame die s := by
  unfold dropMoved
  refine foldl_field (ilFrame die) (fun t n => ?_) old s
  rfl

theorem bounceMoved_ilFrame (die : Nat) (s : State) : ilFrame die (bounceMoved die s) = ilFrame die s := by
  unfold bounceMoved
  refine foldl_field (ilFrame die) (fun s n => ?_) _ s
  dsimp only
  split
  · rfl
  · simp only [ilFrame, die_modDie, modDie_mem, modSlice_mem]
    rfl

/-- Settles O22: DOMSET's read and its act, HMSET's three words. -/
theorem domainWordsComplete : Obligations.DomainWordsComplete := by
  unfold Obligations.DomainWordsComplete
  refine ⟨?domset, ?hmset⟩
  case domset =>
    intro h d a s w t u b c k x
    refine ⟨?reads, ?acts⟩
    case reads =>
      intro i hi hr hread
      have hspec : i.isWord = true ∧ specOf i = domsetWord h d a := by
        simp only [List.mem_cons, List.not_mem_nil, or_false] at hi
        rcases hi with rfl | rfl <;> exact ⟨rfl, rfl⟩
      obtain ⟨hword, hspec⟩ := hspec
      obtain ⟨hbit, hbuf, hdue⟩ := runsNow_unread hr (by rw [hspec]; rfl)
      have ha : w.va.toNat % 64 = 0 := runsNow_aligned hr (fun _ _ _ _ => by rw [hspec]; rfl)
      exact runs_begun (exec_word hword s) hr (by rw [hspec]; exact domset_body_reads hbit hbuf hdue ha hread)
    case acts =>
      intro hbuf hdue hnow hidx hahead conflict there
      have hbody : (domsetWord h d a).body c k w t = .done (domsetAct c w t).2 (domsetAct c w t).1 false :=
        domset_body_acts hbuf hdue hnow hidx hahead
      refine ⟨fun hb => ?install, fun hb => ?remove⟩
      case install =>
        have hkind : ¬ domsetKind w.i = some true := by rw [hb.1]; nofun
        have hact : domsetAct c w t = if domInvalid (coreDie c) x then (2, t) else if conflict then (3, t)
            else (0, domInstall (coreDie c) (t.core c).node x t) := if_neg hkind
        refine ⟨fun hinv => ?_, fun hinv hc => ?_, fun hinv hc => ?_⟩
        · rw [hact, if_pos hinv] at hbody
          exact hb.ends_of_seqs nofun hbody (.refl t)
        · rw [hact, if_neg (by simp [hinv]), if_pos hc] at hbody
          exact hb.ends_of_seqs nofun hbody (.refl t)
        · rw [hact, if_neg (by simp [hinv]), if_neg (by simp [hc])] at hbody
          exact hb.ends_of_seqs nofun hbody (domInstall_seqs _ _ x t)
      case remove =>
        have hkind : domsetKind w.i = some true := by rw [hb.1]; rfl
        have hact : domsetAct c w t = if (t.slot (coreDie c) x.slot).installed && (t.slot (coreDie c) x.slot).level = x.level
            then (0, domRemove (coreDie c) x.slot t) else (2, t) := if_pos hkind
        refine ⟨fun hthere => ?_, fun hthere => ?_⟩
        · rw [hact, if_pos (by simpa [there] using hthere)] at hbody
          exact hb.ends_of_seqs nofun hbody (domRemove_seqs _ _ t)
        · rw [hact, if_neg (by simpa [there] using hthere)] at hbody
          exact hb.ends_of_seqs nofun hbody (.refl t)
  case hmset =>
    intro h d a m s w t u b c k die quiet
    have hswitch : ∀ {x}, runsNow (.hmsetSwitch h d a m) s = some (w, t) → quiet = true → ReadAtOnce c w.va 64 t u b → ilDesc b = x →
        (specHmsetSwitch h d a m).body c k w t = match x with
          | none => .done u 2 false
          | some x =>
            if ilConflict (u.die die) m.toNat x then .done u 3 false
            else .done (bounceMoved die (dropMoved die (tget {} (u.die die).il m.toNat).members
              (setIl die m.toNat (fun _ => { x with quiesced := true }) u))) 0 false := by
      rintro x hr hq hread rfl
      obtain ⟨hbit, hbuf, -⟩ := runsNow_unread hr rfl
      exact hmsetSwitch_body hq hbit hbuf (runsNow_aligned hr (fun _ _ _ _ => rfl)) hread
    refine ⟨fun hr => runs_done (exec_word rfl s) hr rfl, fun hr => runs_done (exec_word rfl s) hr rfl, fun hr hq => ?_,
      fun hr hq hread hdesc => ?_, fun x hr hq hread hdesc hc => ?_, fun x hr hq hread hdesc hc => ?_⟩
    · exact runs_done (exec_word rfl s) hr (if_pos (by simpa [quiet] using hq))
    · exact runs_done (exec_word rfl s) hr (hswitch hr hq hread hdesc)
    · exact runs_done (exec_word rfl s) hr ((hswitch hr hq hread hdesc).trans (if_pos hc))
    · refine ⟨_, runs_done (exec_word rfl s) hr ((hswitch hr hq hread hdesc).trans (if_neg (by simp [hc]))), ?_⟩
      have hframe := (bounceMoved_ilFrame die _).trans (dropMoved_ilFrame die (tget {} (u.die die).il m.toNat).members
        (setIl die m.toNat (fun _ => { x with quiesced := true }) u))
      obtain ⟨hmem, hil⟩ := Prod.mk.inj hframe
      refine ⟨?_, hmem⟩
      rw [hil, setIl, die_modDie, tget_tmod, if_pos rfl]

end Sys2Proof.Machine
end

section
/-! PROOFS. Walks, the ranges' pages and folds (10 R230, 18 R344, R347, 19 R373): the statement `TranslationEventsAct`. -/

namespace Sys2Proof.Machine

/-! ### Walks and the ranges' pages (10 R230, 18 R344) -/

@[simp] theorem sliceWalk_mem (s : State) (fresh : Bool) (ctx : BitVec 16) (va : Nat) : (sliceWalk s fresh ctx va).2.mem = s.mem := by
  obtain ⟨p, b, l, e⟩ := sliceWalk_state s fresh ctx va
  rw [e]

/-- A walk that succeeds leaves its translation first in the core's cache (18 R344). -/
theorem walkDoneEv_ok {c : Nat} {va : Word} {s u : State} {pa b : Nat} {leaf : Word}
    (h : sliceWalk s true (s.core c).csr.partition va.toNat = (.ok pa leaf b, u)) :
    walkDoneEv c va s = u.modCore c (fun x => { x with
      tlb := tlbEntry (s.core c).csr.partition va.toNat pa leaf b ::
        (x.tlb.filter (fun e => !(e.ctx == (s.core c).csr.partition && decide (va.toNat / 2 ^ e.bits = e.page)))).take 255 }) := by
  simp only [walkDoneEv, h]

/-- The next page of the oldest range of a core, in storage that a home slice holds (10 R230). -/
theorem wbFinishEv_page {c pa sz : Nat} {lf : Word} {s u : State} {o : WbOp} (ho : (s.core c).d.wbOps.find? (fun o => !o.fin) = some o)
    (hf : (s.core c).frozen s.cycle = false) (hlen : 0 < o.len) (hbase : o.base.toNat < 2 ^ 48)
    (hx : coreXlat s c (coreAccess s c) o.base.toNat = (.ok pa lf sz, u)) (hh : homed pa)
    (hready : rangeReady u pa (Nat.min o.len (65536 - o.base.toNat % 65536)) = true) :
    wbFinishEv c s =
      let m := Nat.min o.len (65536 - o.base.toNat % 65536)
      let r := walkLines o.inval pa m u
      (r.2.modData c (fun x => { x with wbCount := x.wbCount + word r.1 })).modData c (fun x => { x with
        wbOps := x.wbOps.map (fun p =>
          if p.order = o.order then { p with base := p.base + word m, len := p.len - m, fin := p.len = m } else p) }) := by
  have hlen' : ¬ o.len = 0 := by omega
  have hbase' : ¬ o.base.toNat ≥ 2 ^ 48 := by omega
  unfold wbFinishEv
  simp only [ho, hf, hlen', hbase', hx, Bool.false_eq_true, if_false]
  split
  · exact absurd ‹_› (hh _ _).1
  · simp only [hready, Bool.not_true, Bool.false_eq_true, if_false]

/-! ### Folds (19 R373) -/

section Folds

variable {pa : Nat} {s : State} {f : Fold}

/-- A fold that has a tile left sums it and writes it to the target. -/
theorem foldTileEv_tile {b : List Byte} {v : State} (hf : tget {} s.folds pa = f) (ha : f.active = true)
    (ht : f.tile < (Handle.parse f.snap).tr * (Handle.parse f.snap).tc)
    (hsum : sumTile s { q := { ctx := f.ctx, sup := f.sup } } (Handle.parse f.snap) f.k
      (morton (f.tile / (Handle.parse f.snap).tc) (f.tile % (Handle.parse f.snap).tc)) = .ok b)
    (hwrite : virtWrite s { ctx := f.ctx, sup := f.sup } ((Handle.parse f.snap).target +
      morton (f.tile / (Handle.parse f.snap).tc) (f.tile % (Handle.parse f.snap).tc) * 2048) b = .ok v) :
    foldTileEv pa s = setFold pa { f with tile := f.tile + 1 } v := by
  have hleft : ¬ f.tile ≥ (Handle.parse f.snap).tr * (Handle.parse f.snap).tc := by omega
  unfold foldTileEv
  simp only [hf, ha, hleft, hsum, hwrite, decide_false, Bool.not_true, Bool.or_self, Bool.false_eq_true, if_false, bind, Except.bind]

/-- A fold whose tiles are all written swaps the handle's base and target. -/
theorem foldSwapEv_swap (hf : tget {} s.folds pa = f) (ha : f.active = true)
    (ht : (Handle.parse f.snap).tr * (Handle.parse f.snap).tc ≤ f.tile) (hready : rangeReady s pa 64 = true)
    (hp : s.poisoned pa 64 = false) (hm : (handleAt s pa).malformed = false) :
    foldSwapEv pa s = setFold pa { f with active := false, code := 0 } (putHandle pa { handleAt s pa with
      base := (handleAt s pa).target, dir := 0, target := if (handleAt s pa).dir = 0 then (handleAt s pa).base else 0
      ptrs := (handleAt s pa).ptrs.drop f.k ++ List.replicate f.k 0, count := (handleAt s pa).count - f.k
      gen := (handleAt s pa).gen + 1 } s) := by
  have hdone : ¬ f.tile < (Handle.parse f.snap).tr * (Handle.parse f.snap).tc := by omega
  unfold foldSwapEv
  simp only [hf, ha, hdone, hready, hp, hm, decide_false, Bool.not_true, Bool.or_self, Bool.false_eq_true, if_false]

end Folds

/-- Settles O29: each event where its walk, its page or its tile is to be had. -/
theorem translationEventsAct : Obligations.TranslationEventsAct := by
  unfold Obligations.TranslationEventsAct
  refine ⟨fun c va s => ⟨?walk, ?range⟩, fun pa s f hf ha => ⟨?tile, ?swap⟩⟩
  case walk =>
    intro pa leaf b u hwalk
    have hmem : u.mem = s.mem := by
      have := sliceWalk_mem s true (s.core c).csr.partition va.toNat
      rwa [hwalk] at this
    refine ⟨_, congrArg Host.Outcome.next (walkDoneEv_ok hwalk), hmem, rfl, ?_, ?_⟩
    · rw [core_modCore]
      rfl
    · rw [core_modCore, List.length_cons]
      exact Nat.succ_le_succ (List.length_take_le _ _)
  case range =>
    intro o ho hfrozen set
    refine ⟨fun hlen => ?_, ?_⟩
    · refine congrArg Host.Outcome.next (a₁ := wbFinishEv c s) ?_
      simp only [wbFinishEv, ho, hfrozen, hlen, Bool.false_eq_true, if_false, if_true]
      rfl
    · intro pa lf sz u hlen hbase hx hh m r hready
      exact congrArg _ (wbFinishEv_page ho hfrozen hlen hbase hx hh hready)
  case tile =>
    intro b v ht hsum hwrite
    exact congrArg _ (foldTileEv_tile hf ha ht hsum hwrite)
  case swap =>
    rintro h ht hready hp rfl hm
    exact congrArg _ (foldSwapEv_swap hf ha ht hready hp hm)

end Sys2Proof.Machine
end

section
/-! PROOFS. The rings and the home slices (10 R210 to R233, 18 R349 to R357): the statement `RingEventsAct`. -/

namespace Sys2Proof.Machine

/-! ### The slots of a ring (10 R210, R214 to R217) -/

section Slots

variable {r st : Nat} {s : State} {it : Item}

/-- A station fills a usable slot that arrives empty before it with up to 8 of its flits (10 R210, R213). -/
theorem injectEv_of_usable (hempty : (tget {} (s.ring r).slots (slotAt s st)).items = [])
    (hleft : (tget {} (s.ring r).slots (slotAt s st)).left ≠ s.cycle + 1) (husable : slotUsable s r st = true)
    (hfrozen : r < 96 → st < 16 → (s.core (stationCore r st)).frozen s.cycle = false) {out rest : List Item}
    (hflits : takeFlits ((s.ring r).slots.flatMap (fun y => y.2.items)) s.cycle 8 [] (sourceQueue s r st) = (out, rest)) (hout : out ≠ []) :
    injectEv r st s = setSourceQueue r st rest out
      (s.modRing r (fun y => { y with slots := tput y.slots (slotAt s st) { at_ := s.cycle, items := out } })) := by
  have hsource : (sourceQueue s r st).isEmpty = false := by
    cases hq : sourceQueue s r st with
    | nil =>
      rw [hq, takeFlits] at hflits
      exact absurd (Prod.mk.inj hflits).1.symm hout
    | cons a l => rfl
  have hcore : (r < 96 && decide (st < 16) && (s.core (stationCore r st)).frozen s.cycle) = false := by
    by_cases hr : r < 96
    · by_cases hst : st < 16
      · simp [hfrozen hr hst]
      · simp [hst]
    · simp [hr]
  have hinj : injectable s r st = (out, rest) := by
    simp only [injectable, hsource, hempty, hleft, husable, hcore, hflits, List.isEmpty_nil, Bool.not_true, decide_false, Bool.or_self,
      Bool.false_eq_true, if_false]
  rw [injectEv, hinj]
  exact if_neg (by simpa using hout)

theorem offerItems_of_taken (hgoes : goesTo s r st it = true) (htakes : accepts s r st it = true) :
    offerItems r st [] [it] s = ([], accept r st it s) := by
  simp [offerItems, hgoes, htakes]

theorem offerItems_of_refused (hrefuses : accepts s r st it = false) : offerItems r st [] [it] s = ([it], s) := by
  simp [offerItems, hrefuses]

/-- The slot that passes a station is offered to it (10 R214, R215). -/
theorem offerEv_of_item (hitem : (tget {} (s.ring r).slots (slotAt s st)).items = [it])
    (hat : (tget {} (s.ring r).slots (slotAt s st)).at_ ≠ s.cycle) :
    offerEv r st s =
      let x := tget {} (s.ring r).slots (slotAt s st)
      let q := offerItems r st [] [it] s
      let z := { x with items := q.1, left := if q.1.isEmpty then s.cycle + 1 else x.left }
      q.2.modRing r (fun y => { y with slots := tput y.slots (slotAt s st) z }) := by
  simp only [offerEv, hitem, hat, List.isEmpty_cons, decide_false, Bool.or_self, Bool.false_eq_true, if_false]

end Slots

/-! ### The home slices (10 R222, R223, R233; 18 R349, R357) -/

section Slices

variable {die n c line : Nat} {s : State} {it : Item} {q : Req}

/-- A slice performs the request of its queue that it starts next, where it homes the line. -/
theorem sliceEv_of_homed (hnext : nextItem s die n [] (s.slice die n).queue = some it)
    (hreq : itemReq (s.modSlice die n (fun x => { x with queue := x.queue.erase it })) it = some q)
    (hhome : homeOf (s.modSlice die n (fun x => { x with queue := x.queue.erase it })) q.pa = some (die, n)) :
    sliceEv die n s = performReq q (s.modSlice die n (fun x => { x with queue := x.queue.erase it })) := by
  simp only [sliceEv, hnext, hreq, hhome, ne_eq, not_true_eq_false, if_false]

/-- It sends back one whose line has moved (10 R233). -/
theorem sliceEv_of_moved (hnext : nextItem s die n [] (s.slice die n).queue = some it)
    (hreq : itemReq (s.modSlice die n (fun x => { x with queue := x.queue.erase it })) it = some q)
    (hhome : homeOf (s.modSlice die n (fun x => { x with queue := x.queue.erase it })) q.pa ≠ some (die, n)) :
    sliceEv die n s = ((s.modSlice die n (fun x => { x with queue := x.queue.erase it })).modReq q.id
      (fun q => { q with bounced := true, code := 0x19 })).modDie die (fun y => { y with rehome := y.rehome + 1 }) := by
  simp only [sliceEv, hnext, hreq, ne_eq, hhome, not_false_eq_true, if_true]

/-- A core sends a bounced request again, the first of its line (10 R233). -/
theorem resendEv_of_first {id : Nat} (hfind : s.findReq id = some q) (hcore : q.core = c) (hb : q.bounced = true)
    (hfrozen : (s.core c).frozen s.cycle = false) (hroom : (s.core c).injRoom = true)
    (hfirst : ∀ p ∈ s.reqs, p.core = c → p.bounced = true → p.id < id → sameLine p q = false) :
    resendEv c id s = (s.modReq id (fun q => { q with bounced := false, home := homeOf s q.pa })).modCore c
      (fun y => { y with inj := y.inj ++ [reqItem s c q.pa id] }) := by
  have hnone : s.reqs.any (fun p => p.core = c && p.bounced && decide (p.id < id) && sameLine p q) = false := by
    rw [List.any_eq_false]
    intro p hp hall
    simp only [Bool.and_eq_true, decide_eq_true_eq] at hall
    obtain ⟨⟨⟨hpc, hpb⟩, hpid⟩, hline⟩ := hall
    rw [hfirst p hp hpc hpb hpid] at hline
    cases hline
  simp only [resendEv, hfind, hcore, hb, hfrozen, hroom, hnone, ne_eq, not_true_eq_false, decide_false, Bool.not_true, Bool.or_self,
    Bool.false_eq_true, if_false]

/-- A line that an access asks for comes in (10 R222). -/
theorem missFillEv_of_asked {victim : Option Nat} {err : MemErr} (hstack : stackLine line = true) (hheld : lineHeld s line = false)
    (hready : homeReady s (line * 256) = some true) (hhome : homeOf s (line * 256) = some (die, n))
    (hasked : lineAsked s die n line = true ∨ lineCopied s line = true) :
    missFillEv line victim err s
      = (State.fillBad line (readError line err s)).modSlice die n (·.insert line s.cycle victim false) := by
  have hany : (lineAsked s die n line || lineCopied s line) = true := by simpa using hasked
  simp only [missFillEv, hstack, hheld, hready, hhome, hany, Bool.not_true, ne_eq, not_true_eq_false, decide_false, Bool.or_self,
    Bool.false_eq_true, if_false, if_true]

/-- The scrubber reads a line that no slice holds (18 R349). -/
theorem scrubEv_of_free {err : MemErr} (hstack : stackLine line = true) (hheld : lineHeld s line = false)
    (hok : (s.die (bits (line * 256) 38 36)).stack = .ok) :
    scrubEv line err s = (readError line err s).modDie (bits (line * 256) 38 36) (fun x => { x with scrubAt := line }) := by
  simp only [scrubEv, hstack, hheld, hok, Bool.not_true, ne_eq, not_true_eq_false, decide_false, Bool.or_self, Bool.false_and,
    Bool.false_eq_true, if_false]

/-- Of a clean line that a slice holds, an uncorrectable error poisons the stack's copy alone (18 R349, log entry 61). -/
theorem scrubEv_of_held (hstack : stackLine line = true) (hheld : lineHeld s line = true) (hclean : lineDirty s line = false)
    (hok : (s.die (bits (line * 256) 38 36)).stack = .ok) :
    scrubEv line .uncorrectable s = (if s.badCopy.contains line then s else { s with badCopy := line :: s.badCopy }).modDie
      (bits (line * 256) 38 36) (fun x => { x with scrubAt := line }) := by
  simp only [scrubEv, hstack, hheld, hclean, hok, Bool.not_true, ne_eq, not_true_eq_false, decide_false, decide_true, Bool.or_self,
    Bool.and_self, Bool.false_or, Bool.false_eq_true, if_false, if_true]

@[simp] theorem readError_mem (line : Nat) (err : MemErr) (s : State) : (readError line err s).mem = s.mem := by
  cases err <;> rfl

/-- A read error that the stack cannot correct poisons its line, and no other error does (18 R349). -/
theorem mem_poison_readError (line : Nat) (err : MemErr) (s : State) :
    line ∈ (readError line err s).poison ↔ line ∈ s.poison ∨ err = .uncorrectable := by
  cases err with
  | none => simp [readError]
  | correctable => simp [readError]
  | uncorrectable =>
    by_cases h : line ∈ s.poison <;> simp [readError, h]

/-- A read error that is corrected counts at its die. -/
theorem stackErrs_readError (line : Nat) (err : MemErr) (s : State) : ((readError line err s).die (bits (line * 256) 38 36)).stackErrs
    = (s.die (bits (line * 256) 38 36)).stackErrs + (if err = .correctable then 1 else 0) := by
  cases err with
  | none => rfl
  | correctable =>
    simp only [readError, die_modDie, if_true]
  | uncorrectable => rfl

end Slices

/-- Settles O28: each event of the rings and of the slices, where it may happen. -/
theorem ringEventsAct : Obligations.RingEventsAct := by
  unfold Obligations.RingEventsAct
  refine ⟨?rings, ?slices⟩
  case rings =>
    intro r st s it n x fl
    refine ⟨fun hempty hleft husable hout hfrozen => ?_, fun hitem hat hgoes htakes => ?_, fun hitem hat hrefuses => ?_⟩
    · exact congrArg _ (injectEv_of_usable hempty hleft husable hfrozen rfl hout)
    · refine congrArg Host.Outcome.next ((offerEv_of_item hitem hat).trans ?_)
      rw [offerItems_of_taken hgoes htakes]
      rfl
    · refine congrArg Host.Outcome.next ((offerEv_of_item hitem hat).trans ?_)
      rw [offerItems_of_refused hrefuses]
      have hx : x = { x with items := [it] } := by rw [← hitem]
      exact congrArg (fun z => s.modRing r (fun y => { y with slots := tput y.slots n z })) hx.symm
  case slices =>
    intro die n c line s u it q v e x asked
    refine ⟨?ok, ?fail, ?wait, ?lay, ?moved, ?resend, ?fill, ?scrub, ?scrubHeld, ?stall⟩
    case ok =>
      intro ⟨hnext, hreq⟩ hhome hkind hserve g
      refine congrArg Host.Outcome.next ((sliceEv_of_homed hnext hreq hhome).trans ?_)
      rw [performReq, if_neg hkind, hserve]
    case fail =>
      intro ⟨hnext, hreq⟩ hhome hkind hserve
      refine congrArg Host.Outcome.next ((sliceEv_of_homed hnext hreq hhome).trans ?_)
      rw [performReq, if_neg hkind, hserve]
    case wait =>
      intro ⟨hnext, hreq⟩ hhome hkind hserve
      refine congrArg Host.Outcome.next ((sliceEv_of_homed hnext hreq hhome).trans ?_)
      rw [performReq, if_neg hkind, hserve]
    case lay =>
      intro ⟨hnext, hreq⟩ hhome hkind
      exact congrArg Host.Outcome.next ((sliceEv_of_homed hnext hreq hhome).trans (if_pos hkind))
    case moved =>
      intro ⟨hnext, hreq⟩ hhome
      exact congrArg _ (sliceEv_of_moved hnext hreq hhome)
    case resend =>
      intro id hfind hcore hb hfrozen hroom hfirst
      exact congrArg _ (resendEv_of_first hfind hcore hb hfrozen hroom hfirst)
    case fill =>
      intro victim err hstack hheld hready hhome hasked
      exact congrArg _ (missFillEv_of_asked hstack hheld hready hhome hasked)
    case scrub =>
      intro err hstack hheld hok
      refine ⟨_, congrArg Host.Outcome.next (scrubEv_of_free hstack hheld hok), ?_, readError_mem line err s, mem_poison_readError line err s, ?_⟩
      · rw [die_modDie]
      · rw [die_modDie]
        exact stackErrs_readError line err s
    case scrubHeld =>
      intro hstack hheld hclean hok
      refine ⟨_, congrArg Host.Outcome.next (scrubEv_of_held hstack hheld hclean hok), ?_, ?_, ?_⟩
      · by_cases hb : line ∈ s.badCopy <;> simp [hb]
      · rw [modDie_poison]
        split <;> rfl
      · rw [modDie_mem]
        split <;> rfl
    case stall =>
      intro id since hfind hsince hkind hlate
      refine congrArg Host.Outcome.next (a₁ := verstTimeoutEv id s) ?_
      simp only [verstTimeoutEv, hfind, hsince, hkind, hlate, decide_true, Bool.and_self, if_true]
      rfl

end Sys2Proof.Machine
end

section
/-! PROOFS. Operations that leave memory alone, and the shared shapes of a word's body over any continuation: what the canonical form of
memory rests on. -/

namespace Sys2Proof.Machine

theorem mem_ite {p : Prop} [Decidable p] {s t u : State} (hs : s.mem = u.mem) (ht : t.mem = u.mem) : (if p then s else t).mem = u.mem := by
  split
  · exact hs
  · exact ht

theorem canonical_ite {p : Prop} [Decidable p] {s t : State} (hs : Canonical s) (ht : Canonical t) : Canonical (if p then s else t) := by
  split
  · exact hs
  · exact ht

/-! ### The state's parts -/

@[simp] theorem setCore_mem (s : State) (c : Nat) (x : Core) : (State.setCore s c x).mem = s.mem := rfl

/-! ### Operations that every word uses -/

theorem withPages_canonical {c a n : Nat} {w : QWord} {s : State} {go : State → Run}
    (hgo : ∀ s, Canonical s → Canonical (go s).state) (h : Canonical s) : Canonical (withPages c a n w s go).state := by
  unfold withPages
  dsimp only
  split
  · exact hgo s h
  · exact h

theorem withRanges_canonical {c : Nat} {rs : List (Nat × Nat)} {w : QWord} {s : State} {go : State → Run}
    (hgo : ∀ s, Canonical s → Canonical (go s).state) (h : Canonical s) : Canonical (withRanges c rs w s go).state := by
  unfold withRanges
  dsimp only
  split
  · exact hgo s h
  · exact h

@[simp] theorem fillBad_mem (line : Nat) (s : State) : (State.fillBad line s).mem = s.mem := by
  unfold State.fillBad
  split <;> rfl

@[simp] theorem newReq_mem (s : State) : (State.newReq s).2.mem = s.mem := rfl

@[simp] theorem sendHost_mem (p : BitVec 16) (core : Option Nat) (off size : Nat) (write : Bool) (op : Option Nat)
    (x cmp : Word) (data : List Byte) (s : State) (own : List Nat) :
    (sendHost p core off size write op x cmp data s own).2.mem = s.mem := rfl

@[simp] theorem sendPeer_mem (idx : Nat) (m : LinkItem) (s : State) : (sendPeer idx m s).mem = s.mem := rfl

@[simp] theorem xlatStop_mem (t : Trap) (w : QWord) (s : State) : (xlatStop t w s).state.mem = s.mem := by
  unfold xlatStop
  split <;> rfl

@[simp] theorem tret_mem (abort : Bool) (c : Nat) (s : State) : (tret abort c s).mem = s.mem := rfl

/-! ### Flags and CSRs (03 R87, R81 to R83) -/

theorem withFlags_canonical {c k : Nat} {w : QWord} {f : Flags} {s : State} {go : State → Run}
    (hgo : ∀ s, Canonical s → Canonical (go s).state) (h : Canonical s) : Canonical (withFlags c k w f s go).state := by
  unfold withFlags
  split
  · exact h
  · exact hgo _ h

@[simp] theorem csrReadEffect_mem (c k n : Nat) (s : State) : (csrReadEffect c k n s).mem = s.mem := by
  unfold csrReadEffect
  split <;> rfl

@[simp] theorem csrSet_mem (c k n : Nat) (x : Word) (s : State) : (csrSet c k n x s).mem = s.mem := by
  unfold csrSet
  split <;> rfl

@[simp] theorem csrWrite_mem (c k n : Nat) (x : Word) (s : State) : (csrWrite c k n x s).mem = s.mem := by
  unfold csrWrite
  split <;> simp

/-! ### M words (06) -/

theorem mulWrite_canonical {c k : Nat} {m : MulWord} {w : QWord} {s : State} (h : Canonical s) :
    Canonical (mulWrite c k m w s).state := by
  unfold mulWrite
  exact withFlags_canonical (fun _ h => h) h

theorem mulStart_canonical {c k : Nat} {m : MulWord} {w : QWord} {s : State} (h : Canonical s) :
    Canonical (mulStart c k m w s).state := by
  unfold mulStart
  extract_lets x o w' go
  have hgo : ∀ s, Canonical s → Canonical (go s).state := by
    intro s h
    dsimp only [go]
    split
    · exact mulWrite_canonical h
    · exact h
  split
  · exact hgo s h
  · split
    · exact hgo _ h
    · exact h

theorem mprobeWait_canonical {c k : Nat} {w : QWord} {s : State} {go : Run} (hgo : Canonical go.state) (h : Canonical s) :
    Canonical (mprobeWait c k w s go).state := by
  unfold mprobeWait
  split
  · exact h
  · exact hgo

/-! ### V words (07) -/

theorem vRun_canonical {f : VFun} {c kk : Nat} {w : QWord} {s : State} (h : Canonical s) : Canonical (vRun f c kk w s).state := by
  unfold vRun
  dsimp only
  split
  · exact h
  · exact withFlags_canonical (fun _ h => h) h

/-! ### L words (08) -/

theorem onScratch_canonical {c a n : Nat} {bad : Option (BitVec 8)} {w : QWord} {s : State} {go : State → Run}
    (hgo : ∀ s, Canonical s → Canonical (go s).state) (h : Canonical s) : Canonical (onScratch c a n bad w s go).state := by
  unfold onScratch
  refine withPages_canonical (fun s h => ?_) h
  split
  · split
    · exact h
    · exact hgo s h
  · exact hgo s h

theorem onChunks_canonical {c cb n : Nat} {bad : Option (BitVec 8)} {w : QWord} {s : State} {go : State → Run}
    (hgo : ∀ s, Canonical s → Canonical (go s).state) (h : Canonical s) : Canonical (onChunks c cb n bad w s go).state := by
  unfold onChunks
  dsimp only
  split
  · exact h
  · split
    · exact h
    · exact hgo s h

theorem mldUBody_canonical {d c : Nat} {w : QWord} {s : State} (h : Canonical s) : Canonical (mldUBody d c w s).state := by
  unfold mldUBody
  dsimp only
  split
  · exact h
  · split
    · exact h
    · split
      · exact h
      · split <;> exact h

/-! ### Home slices and translation (10 R222 to R233, 18) -/

@[simp] theorem readBytes_mem (s : State) (pa n : Nat) : (readBytes s pa n).2.1.mem = s.mem := by
  unfold readBytes
  dsimp only
  split
  · rfl
  · split
    · rfl
    · exact foldl_field State.mem (fun _ _ => touch_mem ..) _ _

/-! ### The crown's registers (18 R338 to R346) -/

theorem booted_canonical {f : State → State} {s : State} (hf : Canonical (f s)) (h : Canonical s) : Canonical (booted f s) := by
  unfold booted
  split
  · exact hf
  · exact h

@[simp] theorem crownRead_mem (s : State) (d off : Nat) : (crownRead s d off).2.mem = s.mem := by
  unfold crownRead
  split <;> rfl

@[simp] theorem queueTableSet_mem (d q : Nat) (x : Word) (s : State) : (queueTableSet d q x s).mem = s.mem := by
  unfold queueTableSet
  split <;> rfl

@[simp] theorem tibSet_mem (d off : Nat) (x : Word) (s : State) : (tibSet d off x s).mem = s.mem := by
  unfold tibSet
  split <;> rfl

@[simp] theorem loadSet_mem (d off : Nat) (x : Word) (s : State) : (loadSet d off x s).mem = s.mem := by
  unfold loadSet
  split <;> rfl

@[simp] theorem devIdSet_mem (x : Word) (s : State) : (devIdSet x s).mem = s.mem := by
  unfold devIdSet
  split <;> rfl

/-! ### Q words that access global memory (10 R226 to R230) -/

@[simp] theorem finishWord_mem (c k seq : Nat) (v : Word) (s : State) : (finishWord c k seq v s).mem = s.mem := rfl

theorem onAcks_canonical {c : Nat} {system : Bool} {w : QWord} {s : State} {go : State → Run}
    (hgo : ∀ s, Canonical s → Canonical (go s).state) (h : Canonical s) : Canonical (onAcks c system w s go).state := by
  unfold onAcks
  split
  · exact h
  · split
    · split <;> exact h
    · exact hgo s h

theorem onRelease_canonical {c k : Nat} {system : Bool} {w : QWord} {s : State} {go : State → Run}
    (hgo : ∀ s, Canonical s → Canonical (go s).state) (h : Canonical s) : Canonical (onRelease c k system w s go).state := by
  unfold onRelease
  split
  · exact h
  · exact onAcks_canonical hgo h

@[simp] theorem modNode_mem (s : State) (r : NodeRef) (f : Node → Node) : (State.modNode s r f).mem = s.mem := rfl

theorem sendReq_canonical {c k : Nat} {w : QWord} {g : GAcc} {pa : Nat} {x cmp : Word} {s : State} (h : Canonical s) :
    Canonical (sendReq c k w g pa x cmp s).state := by
  unfold sendReq
  split
  · split <;> exact h
  · exact h

@[simp] theorem handleCheck_mem (c : Nat) (write : Bool) (va : Word) (s : State) : (handleCheck c write va s).2.mem = s.mem := by
  have hx := coreXlat_mem s c { coreAccess s c with write := write } va.toNat
  unfold handleCheck
  extract_lets bad
  have hbad : ∀ e s, (bad e s).2.mem = s.mem := fun _ _ => rfl
  clear_value bad
  split
  · exact hbad ..
  split
  · exact hbad ..
  split
  · exact hbad ..
  split
  · rename_i e
    rw [e] at hx
    exact (hbad ..).trans hx
  rename_i pa _ _ t e
  rw [e] at hx
  have hr := readBytes_mem t pa 64
  refine (apply_ite (fun r : Except Trap (Nat × Handle) × State => r.2.mem) _ _ _).trans
    (ite_eq_iff'.2 ⟨fun _ => (hbad ..).trans hx, fun _ => ?_⟩)
  split
  · rename_i e
    rw [e] at hr
    exact (hbad ..).trans (hr.trans hx)
  · rename_i e
    rw [e] at hr
    dsimp only
    split
    · exact (hbad ..).trans (hr.trans hx)
    · exact hr.trans hx

@[simp] theorem askAt_mem (ctx : BitVec 16) (own : List Nat) (pa n : Nat) (op : Option (Nat × Word × Word)) (s : State) :
    (askAt ctx own pa n op s).mem = s.mem := by
  unfold askAt
  dsimp only
  split
  · rfl
  split
  · split <;> rfl
  · rfl
  · rfl

@[simp] theorem dropAsks_mem (own : List Nat) (s : State) : (dropAsks own s).mem = s.mem := by
  unfold dropAsks
  split <;> rfl

@[simp] theorem ringCheck_mem (c base f i : Nat) (s : State) : (ringCheck c base f i s).2.mem = s.mem := by
  induction f generalizing i s with
  | zero => rfl
  | succ f ih =>
    unfold ringCheck
    have hx := coreXlat_mem s c { coreAccess s c with write := true } (base / 65536 * 65536 + 65536 * i)
    split
    · rename_i e
      rw [e] at hx
      exact hx
    · rename_i e
      rw [e] at hx
      split
      · exact hx
      · exact (ih _ _).trans hx

/-! ### The sync network (12) -/

@[simp] theorem sendDown_mem (root n : Nat) (m : SyncDown) (s : State) : (sendDown root n m s).mem = s.mem := rfl

@[simp] theorem sendToken_mem (link n kind : Nat) (data : List Word) (s : State) : (sendToken link n kind data s).mem = s.mem := rfl

@[simp] theorem toChildren_mem (n kind : Nat) (data : List Word) (s : State) : (toChildren n kind data s).mem = s.mem :=
  congrArg (·.2.1) (toChildren_syncFrame n kind data s)

@[simp] theorem breakWith_mem (inc : Option Nat) (root n : Nat) (s : State) : (breakWith inc root n s).mem = s.mem :=
  congrArg (·.2.1) (breakWith_syncFrame inc root n s)

@[simp] theorem breakSlot_mem (root n : Nat) (s : State) : (breakSlot root n s).mem = s.mem := by
  simp [breakSlot]

@[simp] theorem releaseSlot_mem (root n : Nat) (s : State) : (releaseSlot root n s).mem = s.mem := rfl

@[simp] theorem resultSlot_mem (root n : Nat) (v : Word) (s : State) : (resultSlot root n v s).mem = s.mem := rfl

@[simp] theorem dropTokens_mem (n kind : Nat) (s : State) : (dropTokens n kind s).mem = s.mem := rfl

@[simp] theorem noteSent_mem (n : Nat) (ks : List Nat) (s : State) : (noteSent n ks s).mem = s.mem := rfl

@[simp] theorem tryBarrier_mem (root n : Nat) (s : State) : (tryBarrier root n s).mem = s.mem := by
  unfold tryBarrier
  simp only [apply_ite State.mem]
  simp

@[simp] theorem tryReduce_mem (root n : Nat) (s : State) : (tryReduce root n s).mem = s.mem := by
  unfold tryReduce
  dsimp only
  split
  · rfl
  split
  · rfl
  split
  · rfl
  split
  · rfl
  · split <;> simp

@[simp] theorem tryBcast_mem (root n f : Nat) (s : State) : (tryBcast root n f s).mem = s.mem := by
  induction f generalizing s with
  | zero => rfl
  | succ f ih =>
    unfold tryBcast
    dsimp only
    split
    · rfl
    · split
      · rw [ih]
        split <;> simp
      · rfl

@[simp] theorem breakCrossed_mem (root n : Nat) (s : State) : (breakCrossed root n s).mem = s.mem :=
  congrArg (·.2.1) (breakCrossed_syncFrame root n s)

@[simp] theorem countUp_mem (root n : Nat) (m : SyncUp) (s : State) : (countUp root n m s).mem = s.mem := by
  unfold countUp
  extract_lets x
  split
  · split <;> rfl
  · split
    · rfl
    · split
      · exact mem_ite (breakSlot_mem ..) rfl
      · split <;> simp
  · split
    · rfl
    · split <;> rfl
  · split
    · rfl
    · split
      · rfl
      · split <;> simp
  · rfl
  · rfl

@[simp] theorem syncArrivalEv_mem (root n : Nat) (s : State) : (syncArrivalEv root n s).mem = s.mem := by
  unfold syncArrivalEv
  dsimp only
  split
  · rfl
  split
  · rfl
  have hc (l : List (Nat × SyncUp)) (t : State) : (l.foldl (fun s m => countUp root n m.2 s) t).mem = t.mem :=
    foldl_field State.mem (fun t m => countUp_mem root n m.2 t) l t
  split <;> simp [hc]

@[simp] theorem giveCredit_mem (root n : Nat) (back : List Nat) (s : State) : (giveCredit root n back s).mem = s.mem := by
  unfold giveCredit
  dsimp only
  split
  · rfl
  · split
    · exact (foldl_field State.mem (fun _ _ => sendToken_mem ..) _ _).trans (modSlot_mem ..)
    · simp

@[simp] theorem creditReturnEv_mem (root n : Nat) (s : State) : (creditReturnEv root n s).mem = s.mem := by
  unfold creditReturnEv
  extract_lets x isC back
  split <;> simp

@[simp] theorem faultSignalEv_mem (root n : Nat) (s : State) : (faultSignalEv root n s).mem = s.mem := by
  unfold faultSignalEv
  simp only [apply_ite State.mem]
  simp

@[simp] theorem takeDown_mem (root n : Nat) (p : SyncDown → Bool) (s : State) : (takeDown root n p s).2.mem = s.mem := rfl

@[simp] theorem tokenIn_mem (link n kind : Nat) (data : List Word) (s : State) : (tokenIn link n kind data s).mem = s.mem := by
  unfold tokenIn
  dsimp only
  simp [apply_ite State.mem]

theorem sendArrival_canonical {c k level : Nat} {w : QWord} {s : State} {go : State → Run}
    (hgo : ∀ s, Canonical s → Canonical (go s).state) (h : Canonical s) : Canonical (sendArrival c k level w s go).state := by
  have hr : Canonical (onRelease c k (level = 3) w s (fun s => .done s 0 false)).state := onRelease_canonical (fun _ h => h) h
  unfold sendArrival
  split
  · rename_i e
    rw [e] at hr
    exact hgo _ (canonical_of_mem hr (by simp [Run.state]))
  · exact hr

@[simp] theorem setDoms_mem (cs : List Nat) (level : Nat) (v : DomCsr) (s : State) : (setDoms cs level v s).mem = s.mem := by
  unfold setDoms
  exact foldl_field State.mem (fun t n => by simp) _ _

@[simp] theorem clearDoms_mem (cs : List Nat) (level slot : Nat) (s : State) : (clearDoms cs level slot s).mem = s.mem := by
  unfold clearDoms
  exact foldl_field State.mem (fun t n => by simp) _ _

@[simp] theorem joinPackage_mem (n : Nat) (x : DomDesc) (s : State) : (joinPackage n x s).mem = s.mem := by
  unfold joinPackage
  dsimp only
  simp [apply_ite State.mem]

@[simp] theorem domInstall_mem (d : Nat) (launch : Option NodeRef) (x : DomDesc) (s : State) : (domInstall d launch x s).mem = s.mem := by
  unfold domInstall
  split <;> split <;> simp

@[simp] theorem crownBytes_mem (d n off : Nat) (s : State) : (crownBytes d n off s).2.mem = s.mem := by
  induction n generalizing off s with
  | zero => rfl
  | succ n ih => exact (ih _ _).trans (crownRead_mem ..)

theorem fetchVirt_canonical {c k : Nat} {base : Word} {total : Nat} {x0 : Word} {go : QWord → State → Run} {f : Nat} {w : QWord} {s : State}
    (hgo : ∀ w s, Canonical s → Canonical (go w s).state) (h : Canonical s) :
    Canonical (fetchVirt c k base total x0 go f w s).state := by
  induction f generalizing w s with
  | zero => exact h
  | succ f ih =>
    unfold fetchVirt
    split
    · exact hgo w s h
    · extract_lets va n bad
      split
      · exact h
      · split
        · exact h
        · have hx : Canonical (coreXlat s c (coreAccess s c) va).2 := canonical_of_mem h (coreXlat_mem ..)
          split
          · rename_i e
            rw [e] at hx
            split <;> exact hx
          · rename_i pa _ _ t e
            rw [e] at hx
            split
            · split
              · exact hx
              · exact ih (canonical_of_mem hx (crownBytes_mem ..))
            · exact hx
            · exact hx
            · split
              · exact hx
              · have hr : Canonical (readBytes t pa n).2.1 := canonical_of_mem hx (readBytes_mem ..)
                split
                · rename_i e
                  rw [e] at hr
                  exact hr
                · rename_i e
                  rw [e] at hr
                  exact ih hr

/-! ### Weave regions (13 R260 to R267) -/

@[simp] theorem crossingEv_mem (c pk : Nat) (s : State) : (crossingEv c pk s).mem = s.mem := rfl

@[simp] theorem swapBoundaryEv_mem (rg : Nat) (s : State) : (swapBoundaryEv rg s).mem = s.mem := by
  unfold swapBoundaryEv
  split <;> rfl

@[simp] theorem finishRg_mem (o : Option (Nat × Nat)) (v : Word) (s : State) : (finishRg o v s).mem = s.mem := by
  unfold finishRg
  split <;> rfl

@[simp] theorem planeExchangeEv_mem (rg : Nat) (s : State) : (planeExchangeEv rg s).mem = s.mem := by
  unfold planeExchangeEv
  simp only [apply_ite State.mem]
  simp

@[simp] theorem cancelSwap_mem (rg : Nat) (s : State) : (cancelSwap rg s).mem = s.mem := by
  unfold cancelSwap
  simp only [apply_ite State.mem]
  simp

/-! ### W words and the region words (13, 14) -/

theorem onPort_canonical {c pk : Nat} {w : QWord} {s : State} {go : QWord → Run} (hgo : ∀ w, Canonical (go w).state) (h : Canonical s) :
    Canonical (onPort c pk w s go).state := by
  unfold onPort
  dsimp only
  split
  · exact h
  · exact hgo w

theorem woutGo_canonical {c pk : Nat} {beats : List Beat} {f : Nat} {w : QWord} {s : State} (h : Canonical s) :
    Canonical (woutGo c pk beats f w s).state := by
  induction f generalizing w s with
  | zero => exact h
  | succ f ih =>
    unfold woutGo
    split
    · exact h
    · dsimp only
      split
      · exact h
      · exact ih h

theorem winGo_canonical {c t nb v f : Nat} {w : QWord} {s : State} (h : Canonical s) : Canonical (winGo c t nb v f w s).state := by
  induction f generalizing w s with
  | zero => exact h
  | succ f ih =>
    unfold winGo
    dsimp only
    split
    · exact h
    · split
      · exact h
      · split
        · exact h
        · split
          · exact h
          · exact ih h

theorem onBound_canonical {c pk : Nat} {w : QWord} {s : State} {go : QWord → Run} (hgo : ∀ w, Canonical (go w).state) (h : Canonical s) :
    Canonical (onBound c pk w s go).state := by
  unfold onBound
  dsimp only
  split
  · exact h
  · exact hgo _

theorem drainGo_canonical {c t f : Nat} {w : QWord} {s : State} (h : Canonical s) : Canonical (drainGo c t f w s).state := by
  induction f generalizing w s with
  | zero => exact h
  | succ f ih =>
    unfold drainGo
    dsimp only
    split
    · exact h
    · split
      · exact canonical_ite h h
      · exact ih (canonical_ite h h)

theorem loadImage_canonical {rg : Nat} {w : QWord} {s : State} (h : Canonical s) : Canonical (loadImage rg w s).state := by
  unfold loadImage
  dsimp only
  split
  · exact h
  · split <;> exact h

theorem writeFails_canonical {c : Nat} {e : Option (BitVec 8 × Word)} {w : QWord} {s : State} (h : Canonical s) :
    Canonical (writeFails c e w s).state := by
  unfold writeFails
  split
  · exact canonical_of_mem h (xlatStop_mem ..)
  · exact h

/-! ### Copy transfers (08 R191 to R193) -/

@[simp] theorem modXfer_mem (c order : Nat) (f : Xfer → Xfer) (s : State) : (modXfer c order f s).mem = s.mem := rfl

@[simp] theorem failXfer_mem (c : Nat) (t : Xfer) (code : BitVec 8) (addr : Word) (s : State) : (failXfer c t code addr s).mem = s.mem := by
  unfold failXfer
  split <;> rfl

@[simp] theorem transferStartEv_mem (c hoop slot : Nat) (s : State) : (transferStartEv c hoop slot s).mem = s.mem := by
  unfold transferStartEv
  extract_lets x
  split
  · rfl
  split
  · rfl
  split
  · rfl
  split
  · rfl
  extract_lets t base
  split
  · exact failXfer_mem ..
  · rfl

@[simp] theorem pageXlat_mem (c : Nat) (pages : List (Nat × Nat)) (va : Nat) (s : State) : (pageXlat c pages va s).2.mem = s.mem := by
  unfold pageXlat
  split <;> simp

def Piece.state : Piece → Option State
  | .bytes _ s => some s
  | .fail _ s => some s
  | .sent _ s => some s
  | .wait s => some s

theorem readPiece_mem {c : Nat} {pages : List (Nat × Nat)} {va : Word} {s t : State}
    (h : (readPiece c pages va s).2.state = some t) : t.mem = s.mem := by
  have hx := pageXlat_mem c pages va.toNat s
  unfold readPiece at h
  split at h
  · cases h
    rfl
  split at h
  · rename_i e
    rw [e] at hx
    cases h
    exact hx
  rename_i pa _ _ u e
  rw [e] at hx
  have hr := readBytes_mem u pa 32
  dsimp only at h
  split at h
  · cases h
    exact hx
  · cases h
    exact hx
  · cases h
    exact hx
  split at h
  · cases h
    exact hx
  split at h
  · rename_i e
    rw [e] at hr
    cases h
    exact hr.trans hx
  · rename_i e
    rw [e] at hr
    cases h
    exact hr.trans hx

@[simp] theorem gather_mem (c : Nat) (t : Xfer) (n f : Nat) (pages : List (Nat × Nat)) (b : List Byte) (s : State) :
    (gather c t n f pages b s).2.mem = s.mem := by
  induction f generalizing pages b s with
  | zero => rfl
  | succ f ih =>
    unfold gather
    dsimp only
    split
    · rfl
    · have hp {u : State} := @readPiece_mem c pages (t.far t.src t.pos + word b.length) s u
      split
      · rename_i e
        exact (ih _ _ _).trans (hp (by rw [e]; rfl))
      · rename_i e
        rw [failXfer_mem]
        exact hp (by rw [e]; rfl)
      · rename_i e
        rw [modXfer_mem]
        exact hp (by rw [e]; rfl)
      · rename_i e
        rw [modXfer_mem]
        exact hp (by rw [e]; rfl)

@[simp] theorem landScratch_mem (c : Nat) (t : Xfer) (b : List Byte) (s : State) : (landScratch c t b s).mem = s.mem := rfl

@[simp] theorem inChunk_mem (c : Nat) (t : Xfer) (n : Nat) (s : State) : (inChunk c t n s).mem = s.mem := by
  unfold inChunk
  extract_lets va pkg u v
  split
  · refine mem_ite (failXfer_mem ..) ?_
    split <;> simp
  split
  · split
    · rfl
    rename_i a _
    split
    · exact failXfer_mem ..
    have hg := gather_mem c t n 65 t.pages (t.buf ++ a.2.2) v
    split
    · rename_i e
      rw [e] at hg
      exact (landScratch_mem ..).trans hg
    · rename_i e
      rw [e] at hg
      exact hg
  · have hg := gather_mem c t n 65 t.pages t.buf s
    split
    · rename_i e
      rw [e] at hg
      exact (landScratch_mem ..).trans hg
    · rename_i e
      rw [e] at hg
      exact hg

@[simp] theorem locChunk_mem (c : Nat) (t : Xfer) (n : Nat) (s : State) : (locChunk c t n s).mem = s.mem := by
  unfold locChunk
  simp only [apply_ite State.mem]
  simp

@[simp] theorem slotFillEv_mem (c hoop slot : Nat) (s : State) : (slotFillEv c hoop slot s).mem = s.mem := by
  unfold slotFillEv
  split
  · rfl
  · split <;> simp

/-! ### The crown's view of launches (16 R310 to R319) -/

@[simp] theorem askRange_mem (q : Access) (f va n : Nat) (s : State) : (askRange q f va n s).mem = s.mem := by
  induction f generalizing va n s with
  | zero => rfl
  | succ f ih =>
    unfold askRange
    split
    · rfl
    · dsimp only
      split
      · rfl
      · exact (ih _ _ _).trans (askAt_mem ..)

@[simp] theorem flushHost_mem (ctx : BitVec 16) (own : List Nat) (s : State) : (flushHost ctx own s).mem = s.mem := by
  unfold flushHost
  split <;> rfl

@[simp] theorem installTable_mem (stamp : Nat) (t : Table (BitVec 96)) (n : Node) (s : State) : (installTable stamp t n s).mem = s.mem := by
  unfold installTable
  split
  · rfl
  · exact foldl_field State.mem (fun _ _ => modDie_mem ..) _ _

@[simp] theorem sweepTables_mem (s : State) : (sweepTables s).mem = s.mem := rfl

@[simp] theorem setNode_mem (r : NodeRef) (st : NodeState) (s : State) : (setNode r st s).mem = s.mem := rfl

@[simp] theorem decidePreempt_mem (rs : List NodeRef) (s : State) : (decidePreempt rs s).mem = s.mem := by
  refine foldl_field State.mem (fun t r => ?_) _ s
  split
  · split <;> rfl
  · rfl

@[simp] theorem decideFor_mem (p : NodeRef) (rs : List NodeRef) (s : State) : (decideFor p rs s).mem = s.mem :=
  decidePreempt_mem rs s

@[simp] theorem returnPermit_mem (c : Nat) (s : State) : (returnPermit c s).mem = s.mem := by
  unfold returnPermit
  split <;> rfl

@[simp] theorem permitAsk_mem (c req : Nat) (s : State) : (permitAsk c req s).mem = s.mem := by
  unfold permitAsk
  dsimp only
  simp [apply_ite State.mem]

@[simp] theorem leaveWrites_mem (stamp c : Nat) (s : State) : (leaveWrites stamp c s).mem = s.mem := rfl

@[simp] theorem flushCore_mem (c : Nat) (s : State) : (flushCore c s).mem = s.mem := by
  unfold flushCore
  split <;> rfl

@[simp] theorem freeCores_mem (r : NodeRef) (n : Node) (s : State) : (freeCores r n s).mem = s.mem := by
  unfold freeCores
  exact foldl_field State.mem (fun t n => by simp) _ _

@[simp] theorem blankRegions_mem (n : Node) (s : State) : (blankRegions n s).mem = s.mem := by
  unfold blankRegions
  exact foldl_field State.mem (fun t n => by simp) _ _

@[simp] theorem setResult_mem (d stamp : Nat) (code : BitVec 8) (bad : Bool) (s : State) : (setResult d stamp code bad s).mem = s.mem := rfl

/-! ### Y words and the token words (17) -/

@[simp] theorem permitDecisionEv_mem (c : Nat) (s : State) : (permitDecisionEv c s).mem = s.mem := by
  unfold permitDecisionEv
  split
  · rfl
  · split <;> simp

@[simp] theorem wutCrossingEv_mem (c : Nat) (s : State) : (wutCrossingEv c s).mem = s.mem := by
  unfold wutCrossingEv
  split <;> rfl

@[simp] theorem dropMoved_mem (die : Nat) (old : List Nat) (s : State) : (dropMoved die old s).mem = s.mem := by
  unfold dropMoved
  exact foldl_field State.mem (fun t n => by simp) _ _

@[simp] theorem bounceMoved_mem (die : Nat) (s : State) : (bounceMoved die s).mem = s.mem := by
  refine foldl_field State.mem (fun t n => ?_) _ s
  extract_lets q away out
  split <;> rfl

@[simp] theorem setIl_mem (die n : Nat) (f : IlDomain → IlDomain) (s : State) : (setIl die n f s).mem = s.mem := rfl

@[simp] theorem modTarget_mem (t : Nat) (f : Core → Core) (s : State) : (modTarget t f s).mem = s.mem := by
  unfold modTarget
  dsimp only
  split
  · split <;> simp
  · simp

/-! ### Code objects (23) -/

@[simp] theorem askParts_mem (q : Access) (object : Nat) (ps : List (Nat × Nat)) (s : State) : (askParts q object ps s).mem = s.mem :=
  foldl_field State.mem (fun _ _ => askRange_mem ..) ps s

@[simp] theorem askObject_mem (q : Access) (object : Nat) (parts : List Byte → ObjHeader → List (Nat × Nat)) (s : State) :
    (askObject q object parts s).mem = s.mem := by
  unfold askObject
  split
  · simp
  · split <;> simp

@[simp] theorem endLoad_mem (d reason : Nat) (note : Bool) (off : Nat) (s : State) : (endLoad d reason note off s).mem = s.mem := by
  simp [endLoad]

@[simp] theorem forgetText_mem (tag : Option Word) (s : State) : (forgetText tag s).mem = s.mem := by
  unfold forgetText
  split <;> rfl

/-! ### Work queues and their packets (16 R296 to R309) -/

@[simp] theorem modPacket_mem (d id : Nat) (f : Packet → Packet) (s : State) : (modPacket d id f s).mem = s.mem := rfl

@[simp] theorem endPacket_mem (d id : Nat) (code : BitVec 8) (bad : Bool) (s : State) : (endPacket d id code bad s).mem = s.mem := rfl

/-! ### The rings and what rides them (10 R207 to R221) -/

@[simp] theorem setSourceQueue_mem (r st : Nat) (l out : List Item) (s : State) : (setSourceQueue r st l out s).mem = s.mem := by
  unfold setSourceQueue
  simp only [apply_ite State.mem]
  simp

@[simp] theorem injectEv_mem (r st : Nat) (s : State) : (injectEv r st s).mem = s.mem := by
  unfold injectEv
  simp only [apply_ite State.mem]
  simp

@[simp] theorem modContext_mem (c launch node : Nat) (f : Core → Core) (s : State) : (modContext c launch node f s).mem = s.mem := by
  unfold modContext
  simp only [apply_ite State.mem]
  simp

@[simp] theorem freeSender_mem (c launch node : Nat) (mc : Bool) (s : State) : (freeSender c launch node mc s).mem = s.mem := by
  unfold freeSender
  split <;> simp

@[simp] theorem freeEntry_mem (it : Item) (s : State) : (freeEntry it s).mem = s.mem := by
  unfold freeEntry
  split <;> simp

@[simp] theorem accept_mem (r st : Nat) (it : Item) (s : State) : (accept r st it s).mem = s.mem := by
  unfold accept
  dsimp only
  split
  · split
    · split <;> simp
    · split <;> simp
  split
  · rfl
  split
  · split <;> simp
  · rfl

@[simp] theorem offerItems_mem (r st : Nat) (refused l : List Item) (s : State) : (offerItems r st refused l s).2.mem = s.mem := by
  induction l generalizing refused s with
  | nil => rfl
  | cons it l ih =>
    unfold offerItems
    split
    · exact ih _ _
    · exact (ih _ _).trans (accept_mem ..)

@[simp] theorem offerEv_mem (r st : Nat) (s : State) : (offerEv r st s).mem = s.mem := by
  unfold offerEv
  simp only [apply_ite State.mem]
  simp

@[simp] theorem dropReq_mem (s : State) (id : Nat) : (State.dropReq s id).mem = s.mem := rfl

@[simp] theorem modReq_mem (s : State) (id : Nat) (f : Req → Req) : (State.modReq s id f).mem = s.mem := rfl

@[simp] theorem resendEv_mem (c id : Nat) (s : State) : (resendEv c id s).mem = s.mem := by
  unfold resendEv
  dsimp only
  split
  · rfl
  · split <;> simp

@[simp] theorem missFillEv_mem (line : Nat) (victim : Option Nat) (e : MemErr) (s : State) : (missFillEv line victim e s).mem = s.mem := by
  unfold missFillEv
  split
  · rfl
  split
  · split <;> simp
  · rfl

@[simp] theorem scrubEv_mem (line : Nat) (e : MemErr) (s : State) : (scrubEv line e s).mem = s.mem := by
  unfold scrubEv
  dsimp only
  simp [apply_ite State.mem]

@[simp] theorem walkDoneEv_mem (c : Nat) (va : Word) (s : State) : (walkDoneEv c va s).mem = s.mem := by
  have hw := sliceWalk_mem s true (s.core c).csr.partition va.toNat
  unfold walkDoneEv
  dsimp only
  split
  · rename_i e
    rwa [e] at hw
  · rename_i e
    rwa [e] at hw

@[simp] theorem walkLines_mem (inval : Bool) (pa n : Nat) (s : State) : (walkLines inval pa n s).2.mem = s.mem := by
  unfold walkLines
  split
  · refine foldl_field (fun a : Nat × State => a.2.mem) (fun a l => ?_) _ _
    split
    · rfl
    · dsimp only
      split <;> rfl
  · rfl

@[simp] theorem wbFinishEv_mem (c : Nat) (s : State) : (wbFinishEv c s).mem = s.mem := by
  unfold wbFinishEv
  split
  · rfl
  split
  · rfl
  rename_i o _ _
  extract_lets set fail m
  have hset : ∀ f s, (set f s).mem = s.mem := fun _ _ => rfl
  have hfail : ∀ e s, (fail e s).mem = s.mem := fun _ _ => rfl
  clear_value set fail
  have hx := coreXlat_mem s c (coreAccess s c) o.base.toNat
  split
  · exact hset ..
  split
  · exact hfail ..
  split
  · rename_i e
    rw [e] at hx
    split
    · exact hx
    · exact (hfail ..).trans hx
  · rename_i e
    rw [e] at hx
    split
    · exact (hfail ..).trans hx
    · split
      · exact hx
      · exact (hset ..).trans ((walkLines_mem ..).trans hx)

/-! ### Nodes: placing, dispatch, preemption and resuming (16, 17) -/

@[simp] theorem evictContext_mem (c : Nat) (s : State) : (evictContext c s).mem = s.mem := by
  unfold evictContext
  dsimp only
  split
  · rfl
  · split <;> simp

@[simp] theorem dropFrames_mem (c : Nat) (pages : List Nat) (s : State) : (dropFrames c pages s).mem = s.mem := rfl

@[simp] theorem writeText_mem (r : NodeRef) (b : List Byte) (object : Word) (tag : Option Word) (c : Nat) (s : State) :
    (writeText r b object tag c s).mem = s.mem := by
  simp [writeText]

@[simp] theorem dispatchAsks_mem (l : Launch) (u : List (NodeRef × Node)) (s : State) : (dispatchAsks l u s).mem = s.mem := by
  refine (foldl_field State.mem (fun t x => ?_) _ _).trans (by simp)
  split <;> simp

@[simp] theorem agingEv_mem (r : NodeRef) (s : State) : (agingEv r s).mem = s.mem := by
  unfold agingEv
  split
  · rfl
  · split <;> simp

@[simp] theorem preemptDecisionEv_mem (r : NodeRef) (s : State) : (preemptDecisionEv r s).mem = s.mem := by
  unfold preemptDecisionEv
  split
  · rfl
  · dsimp only
    split <;> simp

@[simp] theorem cancelSwaps_mem (c : Nat) (s : State) : (cancelSwaps c s).mem = s.mem := by
  refine foldl_field State.mem (fun t r => ?_) _ s
  split <;> simp

@[simp] theorem preemptSignalEv_mem (r : NodeRef) (s : State) : (preemptSignalEv r s).mem = s.mem := by
  unfold preemptSignalEv
  split
  · rfl
  · split
    · rfl
    · refine foldl_field State.mem (fun t c => ?_) _ s
      dsimp only
      split <;> simp

@[simp] theorem withdrawCells_mem (c : Nat) (s : State) : (withdrawCells c s).mem = s.mem := by
  unfold withdrawCells
  exact foldl_field State.mem (fun t n => by simp) _ _

@[simp] theorem saveOperator_mem (r : NodeRef) (n : Node) (s : State) : (saveOperator r n s).mem = s.mem := by
  simp [saveOperator]

@[simp] theorem restoreCore_mem (r : NodeRef) (text : Option Memory) (c : Nat) (s : State) : (restoreCore r text c s).mem = s.mem := by
  unfold restoreCore
  split
  · rfl
  · split <;> simp

@[simp] theorem restoreOperator_mem (n : Node) (s : State) : (restoreOperator n s).mem = s.mem := by
  unfold restoreOperator
  exact foldl_field State.mem (fun t n => by simp) _ _

@[simp] theorem restoreUnit_mem (u : List (NodeRef × Node)) (s : State) : (restoreUnit u s).mem = s.mem := by
  refine foldl_field State.mem (fun t x => ?_) u s
  split <;> simp

@[simp] theorem askAgain_mem (c : Nat) (s : State) : (askAgain c s).mem = s.mem := by
  unfold askAgain
  simp only [apply_ite State.mem]
  simp

@[simp] theorem evictOther_mem (r : NodeRef) (c : Nat) (s : State) : (nodeResumeEv.evictOther r c s).mem = s.mem := by
  unfold nodeResumeEv.evictOther
  split <;> simp

/-! ### A core between its words (05) -/

@[simp] theorem addFreeze_mem (at_ c : Nat) (s : State) : (addFreeze at_ c s).mem = s.mem := rfl

@[simp] theorem correctableEv_mem (c : Nat) (s : State) : (correctableEv c s).mem = s.mem := by
  unfold correctableEv
  dsimp only
  split
  · exact foldl_field State.mem (fun _ _ => addFreeze_mem ..) _ _
  · rfl

@[simp] theorem freezeBeginEv_mem (c : Nat) (s : State) : (freezeBeginEv c s).mem = s.mem := by
  unfold freezeBeginEv
  dsimp only
  split
  · rfl
  · split <;> simp

@[simp] theorem strikeSlice_mem (d n line : Nat) (fixed : Bool) (s : State) : (strikeSlice d n line fixed s).mem = s.mem := by
  unfold strikeSlice
  dsimp only
  split
  · rfl
  split
  · rfl
  split
  · split
    · rfl
    · split <;> rfl
  · split <;> rfl

@[simp] theorem pauseEndEv_mem (c k : Nat) (s : State) : (pauseEndEv c k s).mem = s.mem := rfl

/-! ### The host and the links (22) -/

@[simp] theorem answered_mem (s : State) (b : List Byte) (ep : Bool) : (State.answered s b ep).mem = s.mem := rfl

@[simp] theorem hostReadEv_mem (port fn addr n : Nat) (s : State) : (hostReadEv port fn addr n s).mem = s.mem := by
  unfold hostReadEv
  split
  · rfl
  · split <;> simp

@[simp] theorem hostTimeEv_mem (s : State) : (hostTimeEv s).mem = s.mem := rfl

@[simp] theorem unmaskEv_mem (fn vec : Nat) (s : State) : (unmaskEv fn vec s).mem = s.mem := rfl

@[simp] theorem coverWrites_mem (r : HostReq) (s : State) : (coverWrites r s).mem = s.mem := by
  unfold coverWrites
  split <;> rfl

@[simp] theorem dropHost_mem (id : Nat) (s : State) : (dropHost id s).mem = s.mem := rfl

@[simp] theorem reply_mem (link : Nat) (ok : Bool) (data : List Byte) (s : State) : (reply link ok data s).mem = s.mem := rfl

@[simp] theorem peerRead_mem (link pa n : Nat) (s : State) : (peerRead link pa n s).mem = s.mem := by
  have hr := readBytes_mem s pa n
  unfold peerRead
  split
  · split
    · rename_i e
      rwa [e] at hr
    · rename_i e
      rwa [e] at hr
  · rfl

@[simp] theorem tokenForwardEv_mem (link late : Nat) (s : State) : (tokenForwardEv link late s).mem = s.mem := by
  unfold tokenForwardEv
  split
  · rfl
  · split <;> simp

@[simp] theorem invalidateEv_mem (d : Nat) (s : State) : (invalidateEv d s).mem = s.mem := by
  unfold invalidateEv
  simp only [apply_ite State.mem]
  simp

@[simp] theorem invalidateDoneEv_mem (d : Nat) (s : State) : (invalidateDoneEv d s).mem = s.mem := by
  unfold invalidateDoneEv
  simp only [apply_ite State.mem]
  simp

/-! ### Package time, heat, attestation and resets (22, 26) -/

@[simp] theorem ptpMessageEv_mem (x1 : Nat) (parent : Bool) (offset : BitVec 32) (s : State) : (ptpMessageEv x1 parent offset s).mem = s.mem := by
  unfold ptpMessageEv
  split <;> rfl

@[simp] theorem parentLossEv_mem (s : State) : (parentLossEv s).mem = s.mem := rfl

@[simp] theorem syncIntervalEv_mem (o : BitVec 32) (step : BitVec 96) (rate : BitVec 32) (s : State) :
    (syncIntervalEv o step rate s).mem = s.mem := by
  unfold syncIntervalEv
  split <;> split <;> simp

@[simp] theorem capUpdateEv_mem (d c cap : Nat) (s : State) : (capUpdateEv d c cap s).mem = s.mem := by
  unfold capUpdateEv
  split <;> rfl

@[simp] theorem thermalHoldEv_mem (d : Nat) (s : State) : (thermalHoldEv d s).mem = s.mem := rfl

@[simp] theorem reportRequestEv_mem (nonce : BitVec 256) (s : State) : (reportRequestEv nonce s).mem = s.mem := by
  unfold reportRequestEv
  split <;> rfl

@[simp] theorem reportReadyEv_mem (s : State) : (reportReadyEv s).mem = s.mem := by
  unfold reportReadyEv
  split <;> rfl

@[simp] theorem recoverPackets_mem (d : Nat) (s : State) (touched : Packet → Bool) : (recoverPackets d s touched).mem = s.mem := by
  refine foldl_field State.mem (fun t p => ?_) _ s
  split
  · rfl
  · split <;> rfl

@[simp] theorem breakDomains_mem (d : Nat) (told : List Nat) (s : State) : (breakDomains d told s).mem = s.mem := by
  refine foldl_field State.mem (fun t n => ?_) _ s
  dsimp only
  split <;> simp

@[simp] theorem keepContexts_mem (d : Nat) (s : State) : (keepContexts d s).mem = s.mem := by
  refine foldl_field State.mem (fun t c => ?_) _ s
  split
  · split
    · split <;> simp
    · rfl
  · rfl

@[simp] theorem stackResetEv_mem (d : Nat) (p : ResetPhase) (s : State) : (stackResetEv d p s).mem = s.mem := by
  unfold stackResetEv
  split <;> simp

@[simp] theorem linkPackets_mem (link : Nat) (s : State) : (linkPackets link s).mem = s.mem := by
  unfold linkPackets
  dsimp only
  refine foldl_field State.mem (fun t d => ?_) _ s
  split <;> simp

/-! ### One step -/

@[simp] theorem takeTurn_mem (s : State) : (takeTurn s).2.mem = s.mem := by
  unfold takeTurn
  split <;> rfl

end Sys2Proof.Machine
end

section
/-! PROOFS. The canonical form of memory: what the home slices and the crown's registers store (10 R222 to R229, 18 R338 to R357). -/

namespace Sys2Proof.Machine

/-- A fold of steps that each keep the canonical form keeps it. -/
theorem foldl_wf {α : Type} {f : State → α → State} (hf : ∀ t a, Memory.wf t.mem = true → Memory.wf (f t a).mem = true) (l : List α)
    (s : State) (h : Memory.wf s.mem = true) : Memory.wf (l.foldl f s).mem = true :=
  foldl_keeps (P := fun t : State => Memory.wf t.mem = true) hf l s h

/-- The same for a fold that carries something beside the state. -/
theorem foldl_fst_wf {α β : Type} {f : State × β → α → State × β}
    (hf : ∀ t a, Memory.wf t.1.mem = true → Memory.wf (f t a).1.mem = true) (l : List α) (s : State) (b : β)
    (h : Memory.wf s.mem = true) : Memory.wf (l.foldl f (s, b)).1.mem = true :=
  foldl_keeps (P := fun t : State × β => Memory.wf t.1.mem = true) hf l (s, b) h

@[simp] theorem writeBytes_wf (s : State) (pa : Nat) (bs : List Byte) (h : Memory.wf s.mem = true) :
    Memory.wf (writeBytes s pa bs).mem = true := writeBytes_canonical pa bs h

@[simp] theorem writeOut_wf (ctx : BitVec 16) (pa : Nat) (bs : List Byte) (s : State) (h : Memory.wf s.mem = true) :
    Memory.wf (writeOut ctx pa bs s).mem = true := writeOut_canonical ctx pa bs h

@[simp] theorem settleStop_wf (c : Nat) (s : State) (h : Memory.wf s.mem = true) : Memory.wf (settleStop c s).mem = true :=
  settleStop_canonical h

@[simp] theorem takeFault_wf (c k : Nat) (t : Trap) (w pc : BitVec 32) (seq : Option Nat) (s : State) (h : Memory.wf s.mem = true) :
    Memory.wf (takeFault c k t w pc seq s).mem = true := takeFault_canonical h

/-! ### Registers of the crown page and the home slices' services -/

@[simp] theorem carveSet_wf (d n : Nat) (x : Word) (s : State) (h : Memory.wf s.mem = true) : Memory.wf (carveSet d n x s).mem = true := by
  unfold carveSet
  dsimp only
  split
  · exact h
  · split <;> exact zeroRange_wf _ _ h

@[simp] theorem crownWrite_wf (d off : Nat) (x : Word) (pf : Bool) (s : State) (h : Memory.wf s.mem = true) :
    Memory.wf (crownWrite d off x pf s).mem = true := by
  by_cases hc : 0x400 ≤ off ∧ off < 0x580
  · have h1 : ¬ off < 0x200 := by omega
    have h2 : ¬ (0x200 ≤ off ∧ off < 0x220) := by omega
    simp only [crownWrite, h1, h2, hc, if_false]
    exact carveSet_wf _ _ _ _ h
  · have hm : (crownWrite d off x pf s).mem = s.mem := by
      unfold crownWrite
      rw [if_neg hc]
      simp only [apply_ite State.mem, queueTableSet_mem, tibSet_mem, loadSet_mem, devIdSet_mem, ite_self]
    rw [hm]
    exact h

theorem serveRead_mem {s t : State} {pa n : Nat} {v : Word} (e : serveRead s pa n = .ok t v) : t.mem = s.mem := by
  unfold serveRead at e
  split at e
  · cases e
  · cases e
  · split at e
    · cases e
      rfl
    · split at e <;> cases e
      exact touch_mem ..

theorem serveWrite_wf {s t : State} {pa : Nat} {bs : List Byte} {v : Word} (e : serveWrite s pa bs = .ok t v)
    (h : Memory.wf s.mem = true) : Memory.wf t.mem = true := by
  unfold serveWrite at e
  split at e
  · cases e
  · cases e
  · split at e <;> cases e
    · exact h
    · exact memStore_wf _ _ (by simpa using h)

theorem serveAmo_wf {s t : State} {op pa n : Nat} {x cmp v : Word} (e : serveAmo s op pa n x cmp = .ok t v)
    (h : Memory.wf s.mem = true) : Memory.wf t.mem = true := by
  unfold serveAmo at e
  split at e
  · cases e
  · cases e
  · rename_i u m hr
    split at e
    · rename_i hw
      cases e
      exact serveWrite_wf hw (by rw [serveRead_mem hr]; exact h)
    · rename_i hw _
      exact serveWrite_wf e (by rw [serveRead_mem hr]; exact h)

/-- A cell word stores its 8-byte words within its line, or nothing. -/
theorem serveCell_wf {s t : State} {kind : ReqKind} {pa : Nat} {x v : Word} (e : serveCell s kind pa x = .ok t v)
    (h : Memory.wf s.mem = true) : Memory.wf t.mem = true := by
  unfold serveCell at e
  split at e
  · cases e
  · cases e
  · rename_i u hdr hr
    have hu : Memory.wf u.mem = true := by rw [serveRead_mem hr]; exact h
    extract_lets n o slotAt put n' k k' o' at e
    have hput : ∀ a v w, Memory.wf w.mem = true → Memory.wf (put a v w).mem = true := by
      intro a v w hw
      dsimp only [put]
      split
      · exact memStore_wf _ _ (by simpa using hw)
      · exact hw
    clear_value put
    split at e
    · cases e
    · split at e
      · cases e
      · split at e
        · split at e <;> cases e
          exact hput _ _ _ (hput _ _ _ hu)
        · split at e
          · cases e
          · split at e <;> cases e
            exact hu
        · cases e
          split
          · exact hu
          · exact hput _ _ _ hu

theorem serve_wf {s t : State} {kind : ReqKind} {pa size : Nat} {x cmp v : Word} (e : serve s kind pa size x cmp = .ok t v)
    (h : Memory.wf s.mem = true) : Memory.wf t.mem = true := by
  unfold serve at e
  split at e
  · rw [serveRead_mem e]; exact h
  · rw [serveRead_mem e]; exact h
  · rw [serveRead_mem e]; exact h
  · exact serveWrite_wf e h
  · exact serveAmo_wf e h
  · exact serveCell_wf e h
  · exact serveCell_wf e h
  · exact serveCell_wf e h

/-! ### Words that wait for an answer -/

@[simp] theorem failWord_wf (c k seq : Nat) (t : Trap) (s : State) (h : Memory.wf s.mem = true) :
    Memory.wf (failWord c k seq t s).mem = true := by
  unfold failWord
  dsimp only
  split
  · exact h
  · split
    · split <;> exact h
    · exact takeFault_wf _ _ _ _ _ _ _ h

@[simp] theorem answerCell_wf (pa n : Nat) (s : State) (h : Memory.wf s.mem = true) : Memory.wf (answerCell pa n s).mem = true := by
  induction n generalizing s with
  | zero => exact h
  | succ n ih =>
    unfold answerCell
    dsimp only
    split
    · exact h
    · rename_i q t v e he
      obtain ⟨q', -, hq⟩ := List.exists_of_findSome?_eq_some he
      have ht : Memory.wf t.mem = true := by
        split at hq
        · split at hq <;> cases hq
          rename_i hs
          exact serve_wf hs h
        · cases hq
      exact ih _ (by simpa using ht)
    · exact ih _ (failWord_wf _ _ _ _ _ h)

theorem gPerform_wf (c k : Nat) (g : GAcc) (w : QWord) (x cmp addr : Word) (s : State) (h : Memory.wf s.mem = true) :
    Memory.wf (gPerform c k g w x cmp addr s).state.mem = true := by
  unfold gPerform
  dsimp only
  split
  · split
    · exact crownWrite_wf _ _ _ _ _ h
    · exact (crownRead_mem ..).symm ▸ h
  · split <;> exact h
  · split <;> exact h
  · split
    · split
      · rename_i e
        simp only [Run.state]
        split
        · exact answerCell_wf _ _ _ (serve_wf e h)
        · exact serve_wf e h
      · exact h
      · split
        · exact h
        · exact sendReq_canonical h
    · exact sendReq_canonical h

/-! ### Checks of an address, and words of global memory -/

theorem shadowWrite_wf {s t : State} {c pa pa' : Nat} {leaf : Word} (e : shadowWrite s c pa leaf = .ok (pa', t))
    (h : Memory.wf s.mem = true) : Memory.wf t.mem = true := by
  obtain rfl | ⟨a, bs, r, f, rfl⟩ := shadowWrite_state e
  · exact h
  · exact memStore_wf a bs h

theorem gCheck_wf (c : Nat) (g : GAcc) (va : Word) (s : State) (h : Memory.wf s.mem = true) :
    Memory.wf (gCheck c g va s).2.mem = true := by
  have hx := coreXlat_mem s c { coreAccess s c with write := g.write, kind := g.ctxKind } va.toNat
  unfold gCheck
  extract_lets early amo
  clear_value amo
  split
  · exact h
  split
  · exact h
  split
  · exact h
  split
  · rename_i e
    rw [e] at hx
    exact hx ▸ h
  · rename_i t e
    rw [e] at hx
    have ht : Memory.wf t.mem = true := hx ▸ h
    split
    · split <;> exact ht
    · split <;> exact ht
    · exact ht
    · split <;> exact ht
    · split
      · rename_i e
        exact shadowWrite_wf e ht
      · exact ht
      · exact ht
    · exact ht

theorem gBody_wf (g : GAcc) (va x cmp : QWord → Word) (c k : Nat) (w : QWord) (s : State) (h : Memory.wf s.mem = true) :
    Memory.wf (gBody g va x cmp c k w s).state.mem = true := by
  have hp : ∀ w s, Canonical s → Canonical (gPerform c k g w (x w) (cmp w) (va w) s).state := fun _ _ h => gPerform_wf _ _ _ _ _ _ _ _ h
  unfold gBody
  extract_lets rest
  have hrest : ∀ w s, Memory.wf s.mem = true → Memory.wf (rest w s).state.mem = true := by
    intro w s h
    dsimp only [rest]
    split
    · split
      · exact h
      · exact onAcks_canonical (hp w) h
    · split
      · exact onRelease_canonical (hp w) h
      · exact hp w s h
  clear_value rest
  have hc := gCheck_wf c g (va w) s h
  split
  · exact hrest w s h
  · split
    · rename_i e
      rw [e] at hc
      exact hrest _ _ hc
    · rename_i e
      rw [e] at hc
      exact (xlatStop_mem ..).symm ▸ hc
    · rename_i e
      rw [e] at hc
      exact hc
end Sys2Proof.Machine
end

section
/-! PROOFS. The canonical form of memory: SUBMIT, layered tensors, contexts, domains and ports. -/

namespace Sys2Proof.Machine

/-! ### SUBMIT (16 R303) -/

theorem submitPut_wf (c pa : Nat) (b : List Byte) (s : State) (h : Memory.wf s.mem = true) : Memory.wf (submitPut c pa b s).mem = true := by
  unfold submitPut
  split
  · exact h
  · exact h
  · exact h
  · exact writeBytes_wf _ _ _ h

theorem submitSlot_wf (c base sz : Nat) (w : QWord) (s : State) (h : Memory.wf s.mem = true) :
    Memory.wf (submitSlot c base sz w s).state.mem = true := by
  have hx := coreXlat_mem s c { coreAccess s c with write := true } (base + 64 * (w.res.toNat % sz))
  unfold submitSlot
  split
  · rename_i e
    rw [e] at hx
    split
    · exact hx ▸ h
    · exact submitPut_wf _ _ _ _ (hx ▸ h)
  · rename_i e
    rw [e] at hx
    split <;> exact hx ▸ h

theorem submitAfar_wf (c k : Nat) (w : QWord) (s : State) (h : Memory.wf s.mem = true) :
    Memory.wf (submitAfar c k w s).state.mem = true := by
  unfold submitAfar
  dsimp only
  split
  · exact onRelease_canonical (fun s h => by simpa [Run.state, Canonical] using h) h
  · split
    · split
      · exact h
      · simpa [Run.state] using h
      · simpa [Run.state] using h
    · split
      · simpa [Run.state] using h
      · have hd : Memory.wf (dropAsks [6, c, w.seq, 2] s).mem = true := by simpa using h
        split
        · exact hd
        · exact submitSlot_wf _ _ _ _ _ hd

theorem submitPublish_wf (c : Nat) (w : QWord) (s : State) (h : Memory.wf s.mem = true) : Memory.wf (submitPublish c w s).state.mem = true := by
  unfold submitPublish
  dsimp only
  split
  · exact h
  · exact submitSlot_wf _ _ _ _ _ h

theorem submitBody_wf (c k : Nat) (w : QWord) (s : State) (h : Memory.wf s.mem = true) : Memory.wf (submitBody c k w s).state.mem = true := by
  unfold submitBody
  extract_lets claim bad
  have hclaim : ∀ w s, Memory.wf s.mem = true → Memory.wf (claim w s).state.mem = true := by
    intro w s h
    dsimp only [claim]
    split
    · exact submitAfar_wf _ _ _ _ h
    · split
      · exact submitPublish_wf _ _ _ h
      · refine onRelease_canonical (fun s h => ?_) h
        split
        · exact h
        · exact h
        · rename_i e
          exact submitPublish_wf _ _ _ (serveAmo_wf e h)
  have hbad : ∀ e a s, Memory.wf s.mem = true → Memory.wf (bad e a s).state.mem = true := by
    intro e a s h
    dsimp only [bad]
    rw [xlatStop_mem]
    exact h
  clear_value claim bad
  split
  · exact hclaim w s h
  split
  · exact hbad _ _ _ h
  split
  · exact h
  refine onScratch_canonical (fun s h => ?_) h
  extract_lets img
  split
  · exact hbad _ _ _ h
  split
  · exact h
  split
  · exact hbad _ _ _ h
  split
  · exact hbad _ _ _ h
  have hx := coreXlat_mem s c { coreAccess s c with write := true } w.va.toNat
  split
  · rename_i e
    rw [e] at hx
    exact hbad _ _ _ (hx ▸ h)
  rename_i t e
  rw [e] at hx
  have ht : Memory.wf t.mem = true := hx ▸ h
  clear e hx
  extract_lets rings
  have hrings : ∀ base lgs buf s, Memory.wf s.mem = true → Memory.wf (rings base lgs buf s).state.mem = true := by
    intro base lgs buf s h
    dsimp only [rings]
    have hr := ringCheck_mem c base ((base + 64 * queueSize lgs - 1) / 65536 - base / 65536 + 1) 0 s
    split
    · rename_i e
      rw [e] at hr
      exact hbad _ _ _ (hr ▸ h)
    · rename_i e
      rw [e] at hr
      exact hclaim _ _ (hr ▸ h)
  clear_value rings
  have hask : ∀ pa, Memory.wf (match askedBytes t [6, c, w.seq, 0] pa 64 with
      | .error none => Run.wait w (askAt (t.core c).csr.partition [6, c, w.seq, 0] pa 64 none t)
      | .error (some _) => .trap (deferredTrap w.va) w (dropAsks [6, c, w.seq, 0] t)
      | .ok b => rings (leNat (b.take 8) % 2 ^ 48) (leNat ((b.drop 40).take 1)) (img ++ b) (dropAsks [6, c, w.seq, 0] t)).state.mem = true := by
    intro pa
    split
    · simpa [Run.state] using ht
    · simpa [Run.state] using ht
    · exact hrings _ _ _ _ (by simpa using ht)
  split
  · exact hbad _ _ _ ht
  · exact hask _
  · exact hask _
  · split
    · exact ht
    · split
      · exact hbad _ _ _ ht
      · exact hrings _ _ _ _ ht

/-! ### Layered tensors (19 R368 to R371) -/

@[simp] theorem putHandle_wf (pa : Nat) (hd : Handle) (s : State) (h : Memory.wf s.mem = true) : Memory.wf (putHandle pa hd s).mem = true :=
  writeBytes_wf _ _ _ h

/-! ### Virtual ranges written by a core's word (17 R336) -/

theorem writePieces_wf (c f va n : Nat) (s : State) (h : Memory.wf s.mem = true) : Memory.wf (writePieces c f va n s).2.mem = true := by
  induction f generalizing va n s with
  | zero => exact h
  | succ f ih =>
    unfold writePieces
    split
    · exact h
    split
    · exact h
    dsimp only
    have hx := coreXlat_mem s c { coreAccess s c with write := true } va
    split
    · rename_i e
      rw [e] at hx
      exact hx ▸ h
    rename_i t e
    rw [e] at hx
    have ht : Memory.wf t.mem = true := hx ▸ h
    split
    · exact ht
    rename_i u e
    have hr := ih (va + min n (65536 - va % 65536)) (n - min n (65536 - va % 65536)) u (shadowWrite_wf e ht)
    split
    · rename_i e
      rw [e] at hr
      exact hr
    · rename_i e
      rw [e] at hr
      exact hr

@[simp] theorem writeAny_wf (p : BitVec 16) (pa : Nat) (bs : List Byte) (s : State) (h : Memory.wf s.mem = true) :
    Memory.wf (writeAny p pa bs s).mem = true := by
  unfold writeAny
  split
  · exact foldl_wf (fun _ _ ht => crownWrite_wf _ _ _ _ _ ht) _ s h
  · exact writeOut_wf _ _ _ _ h

theorem writeAll_wf (ctx : BitVec 16) (ps : List (Nat × Nat)) (bs : List Byte) (s : State) (h : Memory.wf s.mem = true) :
    Memory.wf (writeAll ctx ps bs s).mem = true :=
  foldl_fst_wf (fun _ _ ht => writeAny_wf _ _ _ _ ht) ps s bs h

/-! ### Deliveries and domains (12 R246 to R254) -/

@[simp] theorem deliver_wf (c : Nat) (m : Delivery) (s : State) (h : Memory.wf s.mem = true) : Memory.wf (deliver c m s).mem = true := by
  unfold deliver
  extract_lets x stopAt s'
  have hstop : ∀ p t s, Memory.wf s.mem = true → Memory.wf (stopAt p t s).mem = true := by
    intro p t s h
    dsimp only [stopAt]
    split
    · exact failWord_wf _ _ _ _ _ h
    · exact h
  clear_value stopAt
  split
  · split
    · split
      · exact failWord_wf _ _ _ _ _ h
      · exact h
    · exact h
  · split <;> exact h
  · exact h
  · split
    · exact h
    · split <;> exact h
  · exact hstop _ _ _ h
  · exact hstop _ _ _ h

@[simp] theorem deliverTo_wf (level slot : Nat) (m : Delivery) (c : Nat) (s : State) (h : Memory.wf s.mem = true) :
    Memory.wf (deliverTo level slot m c s).mem = true := by
  unfold deliverTo
  split
  · split
    · exact h
    · exact deliver_wf _ _ _ h
  · exact h

@[simp] theorem domRemove_wf (d n : Nat) (s : State) (h : Memory.wf s.mem = true) : Memory.wf (domRemove d n s).mem = true := by
  have hb : Memory.wf ((s.slot d n).members.foldl (fun t c => deliverTo (s.slot d n).level n (.broken (s.slot d n).level) c t) s).mem = true :=
    foldl_wf (fun _ _ ht => deliverTo_wf _ _ _ _ _ ht) _ s h
  unfold domRemove
  dsimp only
  split
  · split <;> simp [hb]
  · simp [hb]

theorem domsetAct_wf (c : Nat) (w : QWord) (s : State) (h : Memory.wf s.mem = true) : Memory.wf (domsetAct c w s).2.mem = true := by
  unfold domsetAct
  dsimp only
  split
  · split
    · exact domRemove_wf _ _ _ h
    · exact h
  · split
    · exact h
    · split
      · exact h
      · exact (domInstall_mem ..).symm ▸ h

@[simp] theorem applyDomsets_wf (ws : List (Nat × QWord)) (s : State) (h : Memory.wf s.mem = true) : Memory.wf (applyDomsets ws s).mem = true := by
  refine foldl_wf (fun t p ht => ?_) ws s h
  exact domsetAct_wf p.1 p.2 t ht

/-! ### Ports of the weave fabric (13 R268 to R272) -/

@[simp] theorem latchCause_wf (c pk cause : Nat) (s : State) (h : Memory.wf s.mem = true) : Memory.wf (latchCause c pk cause s).mem = true := by
  unfold latchCause
  dsimp only
  split
  · exact h
  · refine foldl_wf (fun t k ht => ?_) _ _ h
    split
    · exact failWord_wf _ _ _ _ _ ht
    · exact ht

@[simp] theorem latchBound_wf (rg : Nat) (s : State) (h : Memory.wf s.mem = true) : Memory.wf (latchBound rg s).mem = true := by
  have hf : ∀ (t : Nat × Nat) (s : State) (pk : Nat), Memory.wf s.mem = true →
      Memory.wf (if ((s.core t.1).d.port pk).bound then latchCause t.1 pk 4 s else s).mem = true := by
    intro t s pk h
    split
    · exact latchCause_wf _ _ _ _ h
    · exact h
  exact foldl_wf (fun _ _ ht => hf _ _ _ (hf _ _ _ ht)) _ s h

@[simp] theorem bindPorts_wf (s : State) (h : Memory.wf s.mem = true) : Memory.wf (bindPorts s).mem = true := by
  refine foldl_wf (fun t c ht => foldl_wf (fun t p ht => ?_) _ t ht) _ s h
  split
  · exact ht
  · extract_lets g b
    clear_value b
    refine foldl_wf (fun t pk ht => ?_) _ t ht
    dsimp only
    split
    · exact ht
    · split
      · exact latchCause_wf _ _ _ _ ht
      · exact ht

end Sys2Proof.Machine
end

section
/-! PROOFS. The canonical form of memory: nodes, launches and packets (15, 16). -/

namespace Sys2Proof.Machine

/-! ### Nodes and launches (15 R292 to R300, 16 R306) -/

@[simp] theorem rerunNode_wf (r : NodeRef) (s : State) (h : Memory.wf s.mem = true) : Memory.wf (rerunNode r s).mem = true := by
  unfold rerunNode
  split <;> simp [h]

@[simp] theorem writeDone_wf (l : Launch) (addr v : Word) (s : State) (h : Memory.wf s.mem = true) :
    Memory.wf (writeDone l addr v s).2.mem = true := by
  unfold writeDone
  split
  · exact h
  split
  · exact h
  split
  · exact h
  split
  · exact h
  split
  · exact h
  · exact writeOut_wf _ _ _ _ h

@[simp] theorem writeAborted_wf (l : Launch) (n : Node) (code : BitVec 8) (s : State) (h : Memory.wf s.mem = true) :
    Memory.wf (writeAborted l n code s).mem = true :=
  writeDone_wf _ _ _ _ h

@[simp] theorem releaseNode_wf (r : NodeRef) (s : State) (h : Memory.wf s.mem = true) : Memory.wf (releaseNode r s).mem = true := by
  unfold releaseNode
  split <;> simp [h]

@[simp] theorem dropDomains_wf (d stamp : Nat) (s : State) (h : Memory.wf s.mem = true) : Memory.wf (dropDomains d stamp s).mem = true := by
  refine foldl_wf (fun t e ht => foldl_wf (fun t n ht => ?_) _ t ht) _ s h
  split
  · split
    · exact domRemove_wf _ _ _ ht
    · exact ht
  · exact ht

@[simp] theorem finishLaunch_wf (d stamp : Nat) (s : State) (h : Memory.wf s.mem = true) : Memory.wf (finishLaunch d stamp s).mem = true := by
  unfold finishLaunch
  split
  · exact h
  · dsimp only
    split
    · split <;> simp [h]
    · split <;> simp [h]

@[simp] theorem abortLaunch_wf (d stamp : Nat) (code : BitVec 8) (s : State) (by_ : Option Nat) (h : Memory.wf s.mem = true) :
    Memory.wf (abortLaunch d stamp code s by_).mem = true := by
  unfold abortLaunch
  split
  · exact h
  extract_lets sooner first again s'
  clear_value sooner
  refine finishLaunch_wf _ _ _ (foldl_wf (fun t p ht => ?_) _ s' h)
  dsimp only
  split
  · split
    · exact writeAborted_wf _ _ _ _ ht
    · exact ht
  split
  · refine foldl_wf (fun u c hu => ?_) _ t ht
    exact hu
  · split <;> simp [ht]

@[simp] theorem abortNode_wf (r : NodeRef) (code : BitVec 8) (s : State) (h : Memory.wf s.mem = true) :
    Memory.wf (abortNode r code s).mem = true := by
  unfold abortNode
  split
  · refine abortLaunch_wf _ _ _ _ _ (bindPorts_wf _ ?_)
    simp [apply_ite State.mem, h]
  · exact h

@[simp] theorem resetCore_wf (c : Nat) (s : State) (h : Memory.wf s.mem = true) : Memory.wf (resetCore c s).mem = true := by
  unfold resetCore
  dsimp only
  split <;> simp [h]

@[simp] theorem stopForReset_wf (n : Node) (s : State) (h : Memory.wf s.mem = true) : Memory.wf (stopForReset n s).mem = true := by
  unfold stopForReset
  split
  · exact h
  · split <;> simp [h]

@[simp] theorem recoverNode_wf (s : State) (r : NodeRef) (h : Memory.wf s.mem = true) : Memory.wf (recoverNode s r).mem = true := by
  unfold recoverNode
  split
  · exact h
  extract_lets u again
  have hagain : Memory.wf (again s).mem = true := foldl_wf (fun _ _ ht => rerunNode_wf _ _ ht) u s h
  clear_value again
  split
  · exact hagain
  · exact hagain
  · split <;> simp [h, hagain]
  · split <;> simp [h, hagain]
  · split <;> simp [h, hagain]
  · exact h

@[simp] theorem strike_wf (e : Strike) (s : State) (h : Memory.wf s.mem = true) : Memory.wf (strike e s).mem = true := by
  unfold strike
  split
  · exact h
  · split <;> exact h
  · split <;> exact h
  · split <;> exact h
  · simpa using h
  · exact h
  · exact h
  · exact foldl_wf recoverNode_wf _ s h

@[simp] theorem wakeLeaves_wf (d : Nat) (s : State) (h : Memory.wf s.mem = true) : Memory.wf (wakeLeaves d s).mem = true := by
  refine foldl_wf (fun t stamp ht => ?_) _ s h
  split
  · exact ht
  refine foldl_wf (fun t p ht => ?_) _ t ht
  extract_lets live q
  clear_value live
  split
  · exact ht
  split
  · simpa using ht
  · simp [ht]
  · have hd : Memory.wf (dropAsks q.own t).mem = true := by simpa using ht
    split <;> exact hd

@[simp] theorem settle_wf (d stamp : Nat) (s : State) (h : Memory.wf s.mem = true) : Memory.wf (settle d stamp s).mem = true := by
  unfold settle
  split
  · exact h
  rename_i l _
  split
  · exact h
  refine foldl_wf (fun t p ht => ?_) _ s h
  have hw := writeDone_wf l p.2.done 1 t ht
  split
  · exact ht
  split
  · rename_i e
    rw [e] at hw
    exact abortNode_wf _ _ _ hw
  · rename_i e
    rw [e] at hw
    exact hw

@[simp] theorem finishWeave_wf (r : NodeRef) (s : State) (h : Memory.wf s.mem = true) : Memory.wf (finishWeave r s).mem = true := by
  unfold finishWeave
  split
  · exact h
  rename_i l _
  refine foldl_wf (fun t i ht => ?_) _ s h
  have hw := writeDone_wf l (l.node i).done 1 t ht
  dsimp only
  split
  · split
    · split
      · rename_i e
        rw [e] at hw
        exact releaseNode_wf _ _ hw
      · rename_i e
        rw [e] at hw
        exact abortNode_wf _ _ _ hw
    · exact ht
  · exact ht

@[simp] theorem settleDie_wf (d : Nat) (s : State) (h : Memory.wf s.mem = true) : Memory.wf (settleDie d s).mem = true :=
  foldl_wf (fun _ _ ht => finishLaunch_wf _ _ _ (settle_wf _ _ _ (finishWeave_wf _ _ ht))) _ s h

@[simp] theorem wake_wf (d : Nat) (s : State) (h : Memory.wf s.mem = true) : Memory.wf (wake d s).mem = true :=
  wakeLeaves_wf _ _ (settleDie_wf _ _ h)

/-! ### Packets (16 R302 to R309) -/

@[simp] theorem startLaunch_wf (d : Nat) (p : Packet) (s : State) (h : Memory.wf s.mem = true) : Memory.wf (startLaunch d p s).mem = true := by
  unfold startLaunch
  extract_lets q fail prio count graph
  have hfail : ∀ e, Memory.wf (fail e).mem = true := fun e => by simp [fail, h]
  clear_value fail
  split
  · exact hfail _
  split
  · exact hfail _
  split
  · exact h
  split
  · exact hfail _
  split
  · exact hfail _
  split
  · exact hfail _
  split
  · simpa using h
  · exact hfail _
  · dsimp only
    split
    · exact hfail _
    · refine finishLaunch_wf _ _ _ (wake_wf _ _ (settle_wf _ _ _ ?_))
      exact (dropAsks_mem q.own s).symm ▸ h

@[simp] theorem startPacket_wf (d : Nat) (p : Packet) (s : State) (h : Memory.wf s.mem = true) : Memory.wf (startPacket d p s).mem = true := by
  unfold startPacket
  split
  · exact h
  split
  · exact h
  split
  · exact h
  split
  · exact startLaunch_wf _ _ _ h
  split
  · exact h
  split
  · exact h
  split <;> exact h

@[simp] theorem startPackets_wf (d : Nat) (s : State) (h : Memory.wf s.mem = true) : Memory.wf (startPackets d s).mem = true :=
  foldl_wf (fun _ _ ht => startPacket_wf _ _ _ ht) _ s h

@[simp] theorem dieResetEv_wf (d : Nat) (s : State) (h : Memory.wf s.mem = true) : Memory.wf (dieResetEv d s).mem = true := by
  have hk : Memory.wf (keepContexts d s).mem = true := by simpa using h
  unfold dieResetEv
  dsimp only
  refine startPackets_wf _ _ ?_
  rw [modDie_mem, recoverPackets_mem]
  refine foldl_wf recoverNode_wf _ _ ?_
  rw [breakDomains_mem]
  exact foldl_wf (fun _ _ ht => resetCore_wf _ _ ht) _ _ hk

@[simp] theorem hostRegister_wf (d off : Nat) (x : Word) (s : State) (h : Memory.wf s.mem = true) :
    Memory.wf (hostRegister d off x s).mem = true := by
  unfold hostRegister
  split
  · split <;> simp [h]
  · simp [h]

@[simp] theorem controlEv_wf (fn addr : Nat) (data : Option Word) (s : State) (h : Memory.wf s.mem = true) :
    Memory.wf (controlEv fn addr data s).mem = true := by
  unfold controlEv
  dsimp only
  split
  · exact h
  split
  · split <;> exact h
  split <;> simp [h]

end Sys2Proof.Machine
end

section
/-! PROOFS. The canonical form of memory: the words of the X, L, V and M engines (03, 06 to 08). -/

namespace Sys2Proof.Machine

/-- What a word's specification does at its issue and as its engine runs it keeps the canonical form. -/
structure WordSpec.Keeps (p : WordSpec) : Prop where
  take : ∀ c k w s, Canonical s → Canonical (p.take c k w s)
  body : ∀ c k w s, Canonical s → Canonical (p.body c k w s).state

/-! ### Words of the scalar engine and of scratch (03 R62 to R84, 08 R183 to R202) -/

theorem ldx_keeps {h : Hdr} {d a : BitVec 5} {i : BitVec 10} {size : Nat} {ext : Nat → Word} : (ldx h d a i size ext).Keeps := by
  refine ⟨fun _ _ _ _ hs => hs, fun c k w s hs => ?_⟩
  dsimp only [ldx]
  refine withPages_canonical (fun s hs => ?_) hs
  split <;> exact hs

theorem stx_keeps {h : Hdr} {d a : BitVec 5} {i : BitVec 10} {size : Nat} : (stx h d a i size).Keeps := by
  refine ⟨fun _ _ _ _ hs => hs, fun c k w s hs => ?_⟩
  dsimp only [stx]
  exact withPages_canonical (fun s hs => hs) hs

theorem specCsrr_keeps {h : Hdr} {d : BitVec 5} {i : BitVec 10} : (specCsrr h d i).Keeps :=
  ⟨fun _ _ _ _ hs => hs, fun _ _ _ _ hs => canonical_of_mem hs (csrReadEffect_mem ..)⟩

theorem specCsrw_keeps {h : Hdr} {a : BitVec 5} {i : BitVec 10} : (specCsrw h a i).Keeps :=
  ⟨fun _ _ _ _ hs => hs, fun _ _ _ _ hs => canonical_of_mem hs (csrWrite_mem ..)⟩

theorem specCsrx_keeps {h : Hdr} {d a : BitVec 5} {i : BitVec 10} : (specCsrx h d a i).Keeps :=
  ⟨fun _ _ _ _ hs => hs, fun _ _ _ _ hs => canonical_of_mem hs (csrWrite_mem ..)⟩

theorem divide_keeps {h : Hdr} {d a b : BitVec 5} {zero : Word → Word} {f : Word → Word → Word} : (divide h d a b zero f).Keeps := by
  refine ⟨fun _ _ _ _ hs => hs, fun c k w s hs => ?_⟩
  dsimp only [divide]
  split
  · split <;> exact hs
  · exact hs

theorem specVld_keeps {h : Hdr} {d a b : BitVec 5} {c z : BitVec 2} : (specVld h d a b c z).Keeps := by
  refine ⟨fun _ _ _ _ hs => hs, fun c k w s hs => ?_⟩
  dsimp only [specVld, lword]
  exact onScratch_canonical (fun _ hs => hs) hs

theorem specVldS_keeps {h : Hdr} {d a b : BitVec 5} {c ch : BitVec 2} : (specVldS h d a b c ch).Keeps := by
  refine ⟨fun _ _ _ _ hs => hs, fun c k w s hs => ?_⟩
  dsimp only [specVldS, lword]
  exact onChunks_canonical (fun _ hs => hs) hs

theorem specVst_keeps {h : Hdr} {d a b : BitVec 5} {c z : BitVec 2} : (specVst h d a b c z).Keeps := by
  refine ⟨fun _ _ _ _ hs => hs, fun c k w s hs => ?_⟩
  dsimp only [specVst, lword]
  exact onScratch_canonical (fun _ hs => hs) hs

theorem specVstS_keeps {h : Hdr} {d a b : BitVec 5} {c ch : BitVec 2} : (specVstS h d a b c ch).Keeps := by
  refine ⟨fun _ _ _ _ hs => hs, fun c k w s hs => ?_⟩
  dsimp only [specVstS, lword]
  exact onChunks_canonical (fun _ hs => hs) hs

theorem specMld_keeps {h : Hdr} {d a b : BitVec 5} {c : BitVec 2} : (specMld h d a b c).Keeps := by
  refine ⟨fun _ _ _ _ hs => hs, fun c k w s hs => ?_⟩
  dsimp only [specMld, lword]
  exact onScratch_canonical (fun _ hs => hs) hs

theorem specMldT_keeps {h : Hdr} {d a b : BitVec 5} {c wc : BitVec 2} : (specMldT h d a b c wc).Keeps := by
  refine ⟨fun _ _ _ _ hs => hs, fun c k w s hs => ?_⟩
  dsimp only [specMldT, lword]
  exact onScratch_canonical (fun _ hs => hs) hs

theorem specMst_keeps {h : Hdr} {d a b : BitVec 5} {c : BitVec 2} : (specMst h d a b c).Keeps := by
  refine ⟨fun _ _ _ _ hs => hs, fun c k w s hs => ?_⟩
  dsimp only [specMst, lword]
  refine onScratch_canonical (fun s hs => ?_) hs
  split <;> exact hs

theorem specVldBm_keeps {h : Hdr} {d a b : BitVec 5} {c n : BitVec 2} : (specVldBm h d a b c n).Keeps := by
  refine ⟨fun _ _ _ _ hs => hs, fun c k w s hs => ?_⟩
  dsimp only [specVldBm, lword]
  split
  · exact hs
  refine onScratch_canonical (fun s hs => ?_) hs
  split
  · exact hs
  split
  · exact hs
  refine onScratch_canonical (fun s hs => ?_) hs
  split <;> exact hs

theorem specVstBm_keeps {h : Hdr} {d a b : BitVec 5} {c n : BitVec 2} : (specVstBm h d a b c n).Keeps := by
  refine ⟨fun _ _ _ _ hs => hs, fun c k w s hs => ?_⟩
  dsimp only [specVstBm, lword]
  refine onScratch_canonical (fun s hs => ?_) hs
  split
  · exact hs
  refine onScratch_canonical (fun s hs => ?_) hs
  split <;> exact hs

theorem cpyWord_keeps {h : Hdr} {kind : CopyKind} {d a b : BitVec 5} {cls hp : BitVec 2} : (cpyWord h kind d a b cls hp).Keeps := by
  refine ⟨fun _ _ _ _ hs => hs, fun c k w s hs => ?_⟩
  dsimp only [cpyWord]
  split <;> exact hs

theorem specAwf_keeps {h : Hdr} {a : BitVec 5} {hp : BitVec 2} : (specAwf h a hp).Keeps := by
  refine ⟨fun _ _ _ _ hs => hs, fun c k w s hs => ?_⟩
  dsimp only [specAwf]
  split
  · exact hs
  · split <;> exact hs

theorem specRls_keeps {h : Hdr} {a : BitVec 5} {hp : BitVec 2} : (specRls h a hp).Keeps := by
  refine ⟨fun _ _ _ _ hs => hs, fun c k w s hs => ?_⟩
  dsimp only [specRls]
  split <;> exact hs

theorem specAgCfg_keeps {h : Hdr} {a j : BitVec 5} {g : BitVec 2} : (specAgCfg h a j g).Keeps := by
  refine ⟨fun _ _ _ _ hs => hs, fun c k w s hs => ?_⟩
  dsimp only [specAgCfg]
  split <;> exact hs

theorem specFopen_keeps {h : Hdr} {d a : BitVec 5} {n c kind : BitVec 2} : (specFopen h d a n c kind).Keeps := by
  refine ⟨fun _ _ _ _ hs => hs, fun c k w s hs => ?_⟩
  dsimp only [specFopen, lword]
  split
  · exact hs
  split
  · split
    · exact hs
    refine onScratch_canonical (fun s hs => ?_) hs
    split <;> exact hs
  · refine onScratch_canonical (fun s hs => ?_) hs
    split
    · exact hs
    split
    · exact hs
    refine onScratch_canonical (fun s hs => ?_) hs
    split
    · exact hs
    · split <;> exact hs

theorem specFadv_keeps {h : Hdr} {d a b : BitVec 5} {c : BitVec 2} : (specFadv h d a b c).Keeps := by
  refine ⟨fun _ _ _ _ hs => hs, fun c k w s hs => ?_⟩
  dsimp only [specFadv, lword]
  split
  · exact hs
  split
  · exact hs
  exact onScratch_canonical (fun _ hs => hs) hs

theorem specFend_keeps {h : Hdr} {a : BitVec 5} : (specFend h a).Keeps := by
  refine ⟨fun _ _ _ _ hs => hs, fun c k w s hs => ?_⟩
  dsimp only [specFend]
  split <;> exact hs

theorem specFclose_keeps {h : Hdr} {a : BitVec 5} : (specFclose h a).Keeps := by
  refine ⟨fun _ _ _ _ hs => hs, fun c k w s hs => ?_⟩
  dsimp only [specFclose]
  split <;> exact hs

/-! ### Vector and tile words (06, 07) -/

theorem specVdefer_keeps {h : Hdr} {a : BitVec 5} {n p : BitVec 2} {k : BitVec 3} : (specVdefer h a n p k).Keeps := by
  refine ⟨fun _ _ _ _ hs => hs, fun c k w s hs => ?_⟩
  dsimp only [specVdefer, dqWord, vword]
  refine withPages_canonical (fun s hs => ?_) hs
  split
  · exact hs
  split
  · exact hs
  split
  · exact hs
  exact withRanges_canonical (fun _ hs => hs) hs

theorem specVdrain_keeps {h : Hdr} {v : BitVec 5} {n p : BitVec 2} {k : BitVec 3} : (specVdrain h v n p k).Keeps := by
  refine ⟨fun _ _ _ _ hs => hs, fun c k w s hs => ?_⟩
  dsimp only [specVdrain, dqWord, vword]
  refine withPages_canonical (fun s hs => ?_) hs
  split
  · exact hs
  refine withRanges_canonical (fun s hs => ?_) hs
  split <;> exact hs

theorem specMma_keeps {h : Hdr} {acc : BitVec 2} {a b : BitVec 3} {z : BitVec 1} {m : BitVec 2} {t x y : BitVec 1} {r : BitVec 2} :
    (specMma h acc a b z m t x y r).Keeps :=
  ⟨fun _ _ _ _ hs => hs, fun _ _ _ _ hs => mulStart_canonical hs⟩

theorem specMrun_keeps {h : Hdr} {acc : BitVec 2} {a b : BitVec 3} {z : BitVec 1} {m : BitVec 2} {t : BitVec 1} {n : BitVec 3}
    {r : BitVec 2} : (specMrun h acc a b z m t n r).Keeps :=
  ⟨fun _ _ _ _ hs => hs, fun _ _ _ _ hs => mulStart_canonical hs⟩

theorem specMdrain_keeps {h : Hdr} {acc : BitVec 2} {y d : BitVec 3} {z : BitVec 1} : (specMdrain h acc y d z).Keeps := by
  refine ⟨fun _ _ _ _ hs => hs, fun c k w s hs => ?_⟩
  dsimp only [specMdrain, mword]
  split
  · exact hs
  · exact withFlags_canonical (fun _ hs => hs) hs

theorem specMdrainV_keeps {h : Hdr} {acc : BitVec 2} {y : BitVec 3} {v : BitVec 5} {z : BitVec 1} : (specMdrainV h acc y v z).Keeps := by
  refine ⟨fun _ _ _ _ hs => hs, fun c k w s hs => ?_⟩
  dsimp only [specMdrainV, mword]
  split
  · exact hs
  split
  · exact hs
  split <;> exact hs

theorem specMloada_keeps {h : Hdr} {acc : BitVec 2} {y : BitVec 3} {v : BitVec 5} : (specMloada h acc y v).Keeps := by
  refine ⟨fun _ _ _ _ hs => hs, fun c k w s hs => ?_⟩
  dsimp only [specMloada, mword]
  exact withFlags_canonical (fun _ hs => hs) hs

theorem specMcfg_keeps {h : Hdr} {m a b : BitVec 2} {r : BitVec 1} : (specMcfg h m a b r).Keeps := by
  refine ⟨fun _ _ _ _ hs => hs, fun c k w s hs => ?_⟩
  dsimp only [specMcfg]
  split <;> exact hs

theorem specMprobe_keeps {h : Hdr} {sel : BitVec 1} {d : BitVec 5} : (specMprobe h sel d).Keeps := by
  refine ⟨fun _ _ _ _ hs => hs, fun c k w s hs => ?_⟩
  dsimp only [specMprobe]
  refine mprobeWait_canonical ?_ hs
  split
  · split <;> exact hs
  · exact hs

theorem specMprobeAcc_keeps {h : Hdr} {acc : BitVec 2} {d : BitVec 5} : (specMprobeAcc h acc d).Keeps := by
  refine ⟨fun _ _ _ _ hs => hs, fun c k w s hs => ?_⟩
  dsimp only [specMprobeAcc]
  exact mprobeWait_canonical hs hs

theorem specMldU_keeps {h : Hdr} {d : BitVec 5} {c : BitVec 2} : (specMldU h d c).Keeps :=
  ⟨fun _ _ _ _ hs => hs, fun _ _ _ _ hs => mldUBody_canonical hs⟩

end Sys2Proof.Machine
end

section
/-! PROOFS. The canonical form of memory: the words of the Q engine (10, 12, 16, 19). -/

namespace Sys2Proof.Machine

/-! ### Words of global memory and of the barriers (10, 12, 16, 19) -/

theorem specLdg_keeps {h : Hdr} {d a b : BitVec 5} {e o : BitVec 2} : (specLdg h d a b e o).Keeps := by
  refine ⟨fun _ _ _ _ hs => hs, fun c k w s hs => ?_⟩
  dsimp only [specLdg, gWord]
  exact gBody_wf _ _ _ _ _ _ _ _ hs

theorem specStg_keeps {h : Hdr} {d a b : BitVec 5} {e o : BitVec 2} : (specStg h d a b e o).Keeps := by
  refine ⟨fun _ _ _ _ hs => hs, fun c k w s hs => ?_⟩
  dsimp only [specStg, gWord]
  exact gBody_wf _ _ _ _ _ _ _ _ hs

theorem specLda_keeps {h : Hdr} {d a b : BitVec 5} {e : BitVec 2} : (specLda h d a b e).Keeps := by
  refine ⟨fun _ _ _ _ hs => hs, fun c k w s hs => ?_⟩
  dsimp only [specLda, gWord]
  exact gBody_wf _ _ _ _ _ _ _ _ hs

theorem specStrl_keeps {h : Hdr} {d a b : BitVec 5} {e : BitVec 2} : (specStrl h d a b e).Keeps := by
  refine ⟨fun _ _ _ _ hs => hs, fun c k w s hs => ?_⟩
  dsimp only [specStrl, gWord]
  exact gBody_wf _ _ _ _ _ _ _ _ hs

theorem amoWord_keeps {op size : Nat} {h : Hdr} {d a b : BitVec 5} {e o : BitVec 2} : (amoWord op size h d a b e o).Keeps := by
  refine ⟨fun _ _ _ _ hs => hs, fun c k w s hs => ?_⟩
  dsimp only [amoWord, gWord]
  exact gBody_wf _ _ _ _ _ _ _ _ hs

theorem cellWord_keeps {kind : ReqKind} {write rel : Bool} {h : Hdr} {d a b : BitVec 5} {e : BitVec 2} :
    (cellWord kind write rel h d a b e).Keeps := by
  refine ⟨fun _ _ _ _ hs => hs, fun c k w s hs => ?_⟩
  dsimp only [cellWord, gWord]
  split
  · exact hs
  · exact gBody_wf _ _ _ _ _ _ _ _ hs

theorem specFence_keeps {h : Hdr} {e o : BitVec 2} : (specFence h e o).Keeps := by
  refine ⟨fun _ _ _ _ hs => hs, fun c k w s hs => ?_⟩
  dsimp only [specFence]
  split
  · exact hs
  split
  · exact onRelease_canonical (fun _ hs => hs) hs
  · exact hs

theorem wbWord_keeps {inval : Bool} {h : Hdr} {a b : BitVec 5} : (wbWord inval h a b).Keeps := by
  refine ⟨fun _ _ _ _ hs => hs, fun c k w s hs => ?_⟩
  dsimp only [wbWord]
  split <;> exact hs

theorem specWbwait_keeps {h : Hdr} {d : BitVec 5} : (specWbwait h d).Keeps := by
  refine ⟨fun _ _ _ _ hs => hs, fun c k w s hs => ?_⟩
  dsimp only [specWbwait]
  split
  · exact hs
  · split <;> exact hs

theorem specMcast_keeps {h : Hdr} {d a b : BitVec 5} : (specMcast h d a b).Keeps := by
  refine ⟨fun _ _ _ _ hs => hs, fun c k w s hs => ?_⟩
  dsimp only [specMcast]
  split
  · exact hs
  · split <;> exact hs

/-- A synchronization word checks its queue and its domain first. -/
theorem syncWord_body_canonical {h : Hdr} {l : BitVec 2} {body : Nat → Nat → QWord → State → Run}
    (hb : ∀ c k w s, Canonical s → Canonical (body c k w s).state) (c k : Nat) (w : QWord) (s : State) (hs : Canonical s) :
    Canonical ((syncWord h l body).body c k w s).state := by
  dsimp only [syncWord]
  split
  · exact hs
  split
  · exact hs
  · exact hb c k w s hs

theorem specBarW_keeps {h : Hdr} {l : BitVec 2} : (specBarW h l).Keeps := by
  refine ⟨fun _ _ _ _ hs => hs, syncWord_body_canonical (h := h) fun c k w s hs => ?_⟩
  split
  · exact hs
  split
  · exact hs
  · exact sendArrival_canonical (fun _ hs => hs) hs

theorem specBarA_keeps {h : Hdr} {l : BitVec 2} : (specBarA h l).Keeps := by
  refine ⟨fun _ _ _ _ hs => hs, syncWord_body_canonical (h := h) fun c k w s hs => ?_⟩
  split
  · exact hs
  · exact sendArrival_canonical (fun _ hs => hs) hs

theorem specBarT_keeps {h : Hdr} {d : BitVec 5} {l : BitVec 2} : (specBarT h d l).Keeps :=
  ⟨fun _ _ _ _ hs => hs, syncWord_body_canonical (h := h) fun _ _ _ _ hs => hs⟩

theorem specBcast_keeps {h : Hdr} {a : BitVec 5} {l : BitVec 2} : (specBcast h a l).Keeps :=
  ⟨fun _ _ _ _ hs => hs, syncWord_body_canonical (h := h) fun _ _ _ _ hs => canonical_of_mem hs (sendUp_mem ..)⟩

theorem specBrecv_keeps {h : Hdr} {d : BitVec 5} {l : BitVec 2} : (specBrecv h d l).Keeps := by
  refine ⟨fun _ _ _ _ hs => hs, syncWord_body_canonical (h := h) fun c k w s hs => ?_⟩
  split
  · exact hs
  · exact canonical_of_mem hs (sendUp_mem ..)

theorem specRed_keeps {h : Hdr} {d a b : BitVec 5} {l : BitVec 2} : (specRed h d a b l).Keeps := by
  refine ⟨fun _ _ _ _ hs => hs, syncWord_body_canonical (h := h) fun c k w s hs => ?_⟩
  split
  · exact hs
  · exact canonical_of_mem hs (sendUp_mem ..)

theorem specEvt_keeps {h : Hdr} {l : BitVec 2} : (specEvt h l).Keeps :=
  ⟨fun _ _ _ _ hs => hs, syncWord_body_canonical (h := h) fun _ _ _ _ hs => canonical_of_mem hs (sendUp_mem ..)⟩

theorem specSubmit_keeps {h : Hdr} {d a b : BitVec 5} : (specSubmit h d a b).Keeps :=
  ⟨fun _ _ _ _ hs => hs, submitBody_wf⟩

/-- A word on a handle checks it, waits for what it must, and then acts on what the handle reads. -/
theorem layWord_keeps {write : Bool} {issue : QWord → Handle → Option (BitVec 8)} {fold rel : Bool}
    {act : Nat → QWord → Nat → Handle → State → Run} {h : Hdr} {d a : BitVec 5}
    (ha : ∀ c w pa hd s, Canonical s → Canonical (act c w pa hd s).state) : (layWord write issue fold rel act h d a).Keeps := by
  refine ⟨fun _ _ _ _ hs => hs, fun c k w s hs => ?_⟩
  unfold layWord
  extract_lets perform go
  have hperform : ∀ c k w s, Canonical s → Canonical (perform c k w s).state := by
    intro c k w s hs
    dsimp only [perform]
    split
    · exact ha _ _ _ _ _ hs
    · exact sendReq_canonical hs
  clear_value perform
  have hgo : ∀ c k w s, Canonical s → Canonical (go c k w s).state := by
    intro c k w s hs
    dsimp only [go]
    split
    · exact hs
    split
    · exact onRelease_canonical (hperform c k w) hs
    · exact hperform c k w s hs
  clear_value go
  dsimp only
  have hc : Canonical (handleCheck c write w.va s).2 := canonical_of_mem hs (handleCheck_mem ..)
  split
  · exact hgo _ _ _ _ hs
  split
  · rename_i e
    rw [e] at hc
    exact canonical_of_mem hc (xlatStop_mem ..)
  · rename_i e
    rw [e] at hc
    split
    · exact hc
    · exact hgo _ _ _ _ hc

theorem specLat_keeps {h : Hdr} {d a b : BitVec 5} : (specLat h d a b).Keeps := by
  refine ⟨fun _ _ _ _ hs => hs, fun c k w s hs => ?_⟩
  dsimp only [specLat]
  refine (layWord_keeps fun c w pa hd s hs => ?_).body _ _ _ _ hs
  split
  · exact hs
  · exact putHandle_wf _ _ _ hs

theorem specLdt_keeps {h : Hdr} {d a b : BitVec 5} : (specLdt h d a b).Keeps := by
  refine ⟨fun _ _ _ _ hs => hs, fun c k w s hs => ?_⟩
  dsimp only [specLdt]
  refine (layWord_keeps fun c w pa hd s hs => ?_).body _ _ _ _ hs
  split
  · exact hs
  · exact putHandle_wf _ _ _ hs

theorem specLfold_keeps {h : Hdr} {d a b : BitVec 5} : (specLfold h d a b).Keeps := by
  refine ⟨fun _ _ _ _ hs => hs, fun c k w s hs => ?_⟩
  dsimp only [specLfold]
  refine (layWord_keeps fun c w pa hd s hs => ?_).body _ _ _ _ hs
  split <;> exact hs

theorem specLfwait_keeps {h : Hdr} {d a : BitVec 5} : (specLfwait h d a).Keeps := layWord_keeps fun _ _ _ _ _ hs => hs

theorem specLgen_keeps {h : Hdr} {d a : BitVec 5} : (specLgen h d a).Keeps := layWord_keeps fun _ _ _ _ _ hs => hs

end Sys2Proof.Machine
end

section
/-! PROOFS. The canonical form of memory: the words of the Y and W engines (12 to 14, 17). -/

namespace Sys2Proof.Machine

/-! ### Words of the supervisor, the regions and the weave fabric (12 to 14, 17) -/

theorem wWord_keeps {h : Hdr} {strand : Nat} {body : Nat → Nat → QWord → State → Run}
    (hb : ∀ c k w s, Canonical s → Canonical (body c k w s).state) : (wWord h strand body).Keeps :=
  ⟨fun _ _ _ _ hs => hs, hb⟩

theorem run_ite_canonical {p : Prop} [Decidable p] {q r : Run} (hq : Canonical q.state) (hr : Canonical r.state) :
    Canonical (if p then q else r).state := by
  split
  · exact hq
  · exact hr

theorem specTkpush_keeps {h : Hdr} {a b : BitVec 5} : (specTkpush h a b).Keeps := by
  refine ⟨fun _ _ _ _ hs => hs, fun c k w s hs => ?_⟩
  dsimp only [specTkpush]
  split <;> exact hs

theorem specTrap_keeps {h : Hdr} {code : BitVec 8} : (specTrap h code).Keeps := by
  refine ⟨fun _ _ _ _ hs => hs, fun c k w s hs => ?_⟩
  dsimp only [specTrap, yWord]
  split <;> exact hs

theorem tretWord_keeps {h : Hdr} {abort : Bool} : (tretWord h abort).Keeps := by
  refine ⟨fun _ _ _ _ hs => hs, fun c k w s hs => ?_⟩
  dsimp only [tretWord, yWord]
  split
  · exact hs
  · refine canonical_of_mem (s := s) hs ?_
    simp only [Run.state, tret_mem]
    split
    · rfl
    · split
      · split <;> rfl
      · rfl

theorem specYield_keeps {h : Hdr} {d : BitVec 5} : (specYield h d).Keeps := by
  refine ⟨fun _ _ _ _ hs => hs, fun c k w s hs => ?_⟩
  dsimp only [specYield, yWord]
  split
  · split <;> exact hs
  split
  · exact hs
  split
  · split
    · exact canonical_of_mem hs (decideFor_mem ..)
    · exact hs
  · exact hs

theorem specWfe_keeps {h : Hdr} : (specWfe h).Keeps := by
  refine ⟨fun _ _ _ _ hs => hs, fun c k w s hs => ?_⟩
  dsimp only [specWfe]
  split <;> exact hs

theorem specWut_keeps {h : Hdr} {a : BitVec 5} : (specWut h a).Keeps := by
  refine ⟨fun c k w s hs => ?_, fun c k w s hs => ?_⟩
  · dsimp only [specWut]
    split <;> exact hs
  · dsimp only [specWut, yWord]
    split <;> exact hs

theorem specRdst_keeps {h : Hdr} {d a : BitVec 5} {n : BitVec 8} : (specRdst h d a n).Keeps := by
  refine ⟨fun _ _ _ _ hs => hs, fun c k w s hs => ?_⟩
  dsimp only [specRdst, yWord]
  split
  · exact hs
  · split <;> exact hs

theorem specWrst_keeps {h : Hdr} {d a : BitVec 5} {n : BitVec 8} : (specWrst h d a n).Keeps := by
  refine ⟨fun _ _ _ _ hs => hs, fun c k w s hs => ?_⟩
  dsimp only [specWrst, yWord]
  exact run_ite_canonical hs (canonical_of_mem hs (modTarget_mem ..))

theorem specCtxSave_keeps {h : Hdr} {d a : BitVec 5} {n : BitVec 8} : (specCtxSave h d a n).Keeps := by
  refine ⟨fun _ _ _ _ hs => hs, fun c k w s hs => ?_⟩
  dsimp only [specCtxSave, yWord]
  split
  · exact hs
  have hw : Canonical (writePieces c 10 w.va.toNat 262144 s).2 := writePieces_wf _ _ _ _ _ hs
  split
  · rename_i e
    rw [e] at hw
    exact writeFails_canonical hw
  · rename_i e
    rw [e] at hw
    split
    · exact hw
    · exact onRelease_canonical (fun _ hs => writeAll_wf _ _ _ _ hs) hw

theorem specCtxLoad_keeps {h : Hdr} {d a : BitVec 5} {n : BitVec 8} : (specCtxLoad h d a n).Keeps := by
  refine ⟨fun _ _ _ _ hs => hs, fun c k w s hs => ?_⟩
  dsimp only [specCtxLoad, yWord]
  split
  · exact hs
  refine fetchVirt_canonical (fun w s hs => ?_) hs
  split
  · exact hs
  · exact canonical_of_mem hs (modTarget_mem ..)

theorem domsetWord_keeps {h : Hdr} {d a : BitVec 5} : (domsetWord h d a).Keeps := by
  refine ⟨fun _ _ _ _ hs => hs, fun c k w s hs => ?_⟩
  dsimp only [domsetWord, yWord]
  refine fetchVirt_canonical (fun w s hs => ?_) hs
  split
  · exact hs
  split
  · exact hs
  split
  · exact hs
  · exact domsetAct_wf _ _ _ (applyDomsets_wf _ _ hs)

theorem specHmsetSwitch_keeps {h : Hdr} {d a : BitVec 5} {m : BitVec 4} : (specHmsetSwitch h d a m).Keeps := by
  refine ⟨fun _ _ _ _ hs => hs, fun c k w s hs => ?_⟩
  dsimp only [specHmsetSwitch, hmset, yWord]
  split
  · exact hs
  refine fetchVirt_canonical (fun w s hs => ?_) hs
  split
  · exact hs
  split
  · exact hs
  · exact canonical_of_mem hs (by simp [Run.state])

theorem settleRg_canonical {rg c seq : Nat} {g : BitVec 6} {r : Run} (h : Canonical r.state) : Canonical (settleRg rg c seq g r).state := by
  cases r <;> exact h

theorem emptyOnTrap_canonical {rg : Nat} {r : Run} (h : Canonical r.state) : Canonical (emptyOnTrap rg r).state := by
  cases r <;> exact h

/-- A region's word waits for its turn in the region's line, and leaves the line as it ends. -/
theorem rgWord_keeps {h : Hdr} {d : BitVec 5} {g : BitVec 6} {alone chain : Bool} {body : Nat → Nat → Nat → QWord → State → Run}
    (hb : ∀ rg c k w s, Canonical s → Canonical (body rg c k w s).state) : (rgWord h d g alone chain body).Keeps := by
  refine ⟨fun _ _ _ _ hs => hs, fun c k w s hs => ?_⟩
  dsimp only [rgWord, yWord]
  split
  · exact hs
  split
  · exact settleRg_canonical (hb _ _ _ _ _ hs)
  split
  · exact hs
  · exact settleRg_canonical (hb _ _ _ _ _ hs)

theorem specRgload_keeps {h : Hdr} {d a : BitVec 5} {g : BitVec 6} : (specRgload h d a g).Keeps := by
  refine ⟨fun _ _ _ _ hs => hs, fun c k w s hs => ?_⟩
  dsimp only [specRgload]
  refine (rgWord_keeps fun rg c k w s hs => ?_).body _ _ _ _ hs
  generalize (80000 : Nat) = fuel
  split
  · exact hs
  have hstart : Canonical (if w.idx = 0 then setStandby rg .loading {} s else s) := canonical_ite hs hs
  refine emptyOnTrap_canonical (fetchVirt_canonical (fun w s hs => ?_) hstart)
  refine fetchVirt_canonical (fun w s hs => ?_) hs
  split
  · split <;> exact hs
  refine fetchVirt_canonical (fun w s hs => ?_) hs
  split
  · exact hs
  · exact loadImage_canonical hs

theorem specRgswapHot_keeps {h : Hdr} {d : BitVec 5} {g : BitVec 6} : (specRgswapHot h d g).Keeps := by
  refine rgWord_keeps fun rg c k w s hs => ?_
  dsimp only
  split
  · exact hs
  split
  · exact hs
  split
  · exact hs
  split
  · simp only [Run.state]
    exact latchBound_wf _ _ hs
  · exact hs

theorem specRgswapNow_keeps {h : Hdr} {d : BitVec 5} {g : BitVec 6} : (specRgswapNow h d g).Keeps := by
  refine rgWord_keeps fun rg c k w s hs => ?_
  dsimp only
  split
  · exact hs
  · split <;> exact hs

theorem specRgfreezeFreeze_keeps {h : Hdr} {d : BitVec 5} {g : BitVec 6} : (specRgfreezeFreeze h d g).Keeps := by
  refine rgWord_keeps fun rg c k w s hs => ?_
  dsimp only
  split
  · split <;> exact hs
  split
  · exact hs
  · exact canonical_of_mem hs (cancelSwap_mem rg s)

theorem specRgfreezeThaw_keeps {h : Hdr} {d : BitVec 5} {g : BitVec 6} : (specRgfreezeThaw h d g).Keeps := by
  refine rgWord_keeps fun rg c k w s hs => ?_
  dsimp only
  split
  · split <;> exact hs
  · split <;> exact hs

theorem specRgreadSave_keeps {h : Hdr} {d a : BitVec 5} {g : BitVec 6} : (specRgreadSave h d a g).Keeps := by
  refine ⟨fun _ _ _ _ hs => hs, fun c k w s hs => ?_⟩
  dsimp only [specRgreadSave]
  refine (rgWord_keeps fun rg c k w s hs => ?_).body _ _ _ _ hs
  have hw : ∀ w : QWord, ∀ n s, Canonical s → Canonical (writePieces c 10 w.va.toNat n s).2 := fun _ _ _ hs => writePieces_wf _ _ _ _ _ hs
  have hfinish : ∀ (w : QWord) (n : Nat) (f : List (Nat × Nat) → State → Die → Die) (s : State), Canonical s →
      Canonical (match writePieces c 10 w.va.toNat n s with
        | (.error e, s) => writeFails c e w s
        | (.ok l, s) => .done (s.modDie (coreDie c) (f l s)) 0 false).state := by
    intro w n f s hs
    have hw := hw w n s hs
    split
    · rename_i e
      rw [e] at hw
      exact writeFails_canonical hw
    · rename_i e
      rw [e] at hw
      exact hw
  split
  · split
    · exact hs
    · exact hfinish w _ _ s hs
  split
  · exact hs
  split
  · exact hs
  have hp := hw w (8 * chainChunks (s.region rg).img) s hs
  split
  · rename_i e
    rw [e] at hp
    exact writeFails_canonical hp
  · rename_i e
    rw [e] at hp
    split
    · exact hfinish w _ _ _ hp
    · exact hp

theorem specRgreadFetch_keeps {h : Hdr} {d a : BitVec 5} {x : BitVec 1} {g : BitVec 6} : (specRgreadFetch h d a x g).Keeps := by
  refine ⟨fun _ _ _ _ hs => hs, fun c k w s hs => ?_⟩
  dsimp only [specRgreadFetch]
  refine (rgWord_keeps fun rg c k w s hs => ?_).body _ _ _ _ hs
  split
  · exact hs
  split
  · exact hs
  split
  · exact hs
  exact fetchVirt_canonical (fun _ _ hs => hs) hs

theorem specRgreadRestore_keeps {h : Hdr} {d : BitVec 5} {x : BitVec 1} {g : BitVec 6} : (specRgreadRestore h d x g).Keeps := by
  refine rgWord_keeps fun rg c k w s hs => ?_
  dsimp only
  split
  · split <;> exact hs
  split
  · exact hs
  split
  · exact hs
  have he : Canonical (if x = 1 then exchange rg s else s) := canonical_ite hs hs
  exact run_ite_canonical hs (run_ite_canonical he he)

theorem specRgreadStatus_keeps {h : Hdr} {d : BitVec 5} {g : BitVec 6} : (specRgreadStatus h d g).Keeps :=
  rgWord_keeps fun _ _ _ _ _ hs => hs

theorem specRgclk_keeps {h : Hdr} {d : BitVec 5} {cc : BitVec 3} {g : BitVec 6} : (specRgclk h d cc g).Keeps := by
  refine rgWord_keeps fun rg c k w s hs => ?_
  dsimp only
  split <;> exact hs

theorem specWout_keeps {h : Hdr} {t : BitVec 2} {v : BitVec 5} {e : BitVec 1} {n : BitVec 2} : (specWout h t v e n).Keeps := by
  refine ⟨fun _ _ _ _ hs => hs, fun c k w s hs => ?_⟩
  dsimp only [specWout, wWord]
  exact onPort_canonical (fun _ => woutGo_canonical hs) hs

theorem specWin_keeps {h : Hdr} {t : BitVec 2} {v : BitVec 5} {q : BitVec 1} {n : BitVec 2} : (specWin h t v q n).Keeps := by
  refine ⟨fun _ _ _ _ hs => hs, fun c k w s hs => ?_⟩
  dsimp only [specWin, wWord]
  refine onPort_canonical (fun w => ?_) hs
  split
  · exact hs
  · exact winGo_canonical hs

theorem specWeos_keeps {h : Hdr} {t : BitVec 2} : (specWeos h t).Keeps :=
  wWord_keeps fun _ _ _ _ hs => onPort_canonical (fun _ => woutGo_canonical hs) hs

theorem specWstat_keeps {h : Hdr} {t : BitVec 2} {d : BitVec 5} {r q : BitVec 1} : (specWstat h t d r q).Keeps := by
  refine ⟨fun _ _ _ _ hs => hs, fun c k w s hs => ?_⟩
  dsimp only [specWstat, wWord]
  exact canonical_ite hs hs

theorem specWdrainIn_keeps {h : Hdr} {t : BitVec 2} : (specWdrainIn h t).Keeps :=
  wWord_keeps fun _ _ _ _ hs => onBound_canonical (fun _ => drainGo_canonical hs) hs

theorem specWdrainOut_keeps {h : Hdr} {t : BitVec 2} : (specWdrainOut h t).Keeps := by
  refine wWord_keeps fun c k w s hs => onBound_canonical (fun w => ?_) hs
  split <;> exact hs

end Sys2Proof.Machine
end

section
/-! PROOFS. The canonical form of memory: every instruction's specification, and the engines that run it. -/

namespace Sys2Proof.Machine

theorem specAmoCas_keeps {h : Hdr} {d a b : BitVec 5} {e o : BitVec 2} : (specAmoCas h d a b e o).Keeps := by
  refine ⟨fun _ _ _ _ hs => hs, fun c k w s hs => ?_⟩
  dsimp only [specAmoCas]
  exact amoWord_keeps.body _ _ _ _ hs

/-- Every instruction's specification keeps the canonical form: most words touch no memory at all, and each that reaches it does so by the
operations above. -/
theorem specOf_keeps (i : Instr) : (specOf i).Keeps := by
  cases i <;> dsimp only [specOf]
  case ldxD | ldxW => exact ldx_keeps
  case stxD | stxW => exact stx_keeps
  case csrr => exact specCsrr_keeps
  case csrw => exact specCsrw_keeps
  case csrx => exact specCsrx_keeps
  case div | divu | rem | remu => exact divide_keeps
  case vadd | vsub | vmul | vfma | vfms | vmin | vmax | vabs | vneg | vrcp | vrsq | vexp2 | vlog2 | vand | vor | vxor | vnot
       | vshl | vshr | vsra | vshli | vshri | vcmpEq | vcmpNe | vcmpLt | vcmpLe | vcmpUn | vcqAny | vcqAll | vsel | vmov | vbcast
       | vext | vins | viota | vcvt | vpack | vunpack | vperm | vshuf | vslide | vredSum | vredMin | vredMax | vscan | vcompress
       | vexpand | vprune | vquant | vscale | kand | kor | kxor | knot | kpopc | kfirst | kmov | vclamp | vdot =>
    exact ⟨fun _ _ _ _ hs => hs, fun _ _ _ _ hs => vRun_canonical hs⟩
  case vdefer => exact specVdefer_keeps
  case vdrain => exact specVdrain_keeps
  case mma => exact specMma_keeps
  case mrun => exact specMrun_keeps
  case mdrain => exact specMdrain_keeps
  case mdrainV => exact specMdrainV_keeps
  case mloada => exact specMloada_keeps
  case mcfg => exact specMcfg_keeps
  case mprobe => exact specMprobe_keeps
  case mprobeAcc => exact specMprobeAcc_keeps
  case vld => exact specVld_keeps
  case vldS => exact specVldS_keeps
  case vst => exact specVst_keeps
  case vstS => exact specVstS_keeps
  case mld => exact specMld_keeps
  case mldT => exact specMldT_keeps
  case mldU => exact specMldU_keeps
  case mst => exact specMst_keeps
  case vldBm => exact specVldBm_keeps
  case vstBm => exact specVstBm_keeps
  case cpyIn | cpyOut | cpyLoc => exact cpyWord_keeps
  case awf => exact specAwf_keeps
  case rls => exact specRls_keeps
  case agCfg => exact specAgCfg_keeps
  case fopen => exact specFopen_keeps
  case fadv => exact specFadv_keeps
  case fend => exact specFend_keeps
  case fclose => exact specFclose_keeps
  case ldg => exact specLdg_keeps
  case stg => exact specStg_keeps
  case lda => exact specLda_keeps
  case strl => exact specStrl_keeps
  case fence => exact specFence_keeps
  case amoAdd | amoAnd | amoOr | amoXor | amoMin | amoMax | amoMinu | amoMaxu | amoSwap | amoFadd => exact amoWord_keeps
  case amoCas => exact specAmoCas_keeps
  case verst | verld | verrcl => exact cellWord_keeps
  case barW => exact specBarW_keeps
  case barA => exact specBarA_keeps
  case barT => exact specBarT_keeps
  case bcast => exact specBcast_keeps
  case brecv => exact specBrecv_keeps
  case red => exact specRed_keeps
  case evt => exact specEvt_keeps
  case submit => exact specSubmit_keeps
  case mcast => exact specMcast_keeps
  case wbr | invr => exact wbWord_keeps
  case wbwait => exact specWbwait_keeps
  case lat => exact specLat_keeps
  case ldt => exact specLdt_keeps
  case lfold => exact specLfold_keeps
  case lfwait => exact specLfwait_keeps
  case lgen => exact specLgen_keeps
  case tkpush => exact specTkpush_keeps
  case trap => exact specTrap_keeps
  case tretResume | tretAbort => exact tretWord_keeps
  case yield => exact specYield_keeps
  case wfe => exact specWfe_keeps
  case wut => exact specWut_keeps
  case rdst => exact specRdst_keeps
  case wrst => exact specWrst_keeps
  case ctxSave => exact specCtxSave_keeps
  case ctxLoad => exact specCtxLoad_keeps
  case domsetInstall | domsetRemove => exact domsetWord_keeps
  case hmsetSwitch => exact specHmsetSwitch_keeps
  case rgload => exact specRgload_keeps
  case rgswapHot => exact specRgswapHot_keeps
  case rgswapNow => exact specRgswapNow_keeps
  case rgfreezeFreeze => exact specRgfreezeFreeze_keeps
  case rgfreezeThaw => exact specRgfreezeThaw_keeps
  case rgreadSave => exact specRgreadSave_keeps
  case rgreadFetch => exact specRgreadFetch_keeps
  case rgreadRestore => exact specRgreadRestore_keeps
  case rgreadStatus => exact specRgreadStatus_keeps
  case rgclk => exact specRgclk_keeps
  case wout => exact specWout_keeps
  case win => exact specWin_keeps
  case weos => exact specWeos_keeps
  case wstat => exact specWstat_keeps
  case wdrainIn => exact specWdrainIn_keeps
  case wdrainOut => exact specWdrainOut_keeps
  all_goals exact ⟨fun _ _ _ _ hs => hs, fun _ _ _ _ hs => hs⟩

theorem mendRun_canonical {c : Nat} {w : QWord} {r : Run} (h : Canonical r.state) : Canonical (mendRun c w r).state := by
  cases r <;> exact h

/-! ### Words that their engines run (01 R29, R31) -/

@[simp] theorem issueWord_wf (i : Instr) (s : State) (h : Memory.wf s.mem = true) : Memory.wf (issueWord i (specOf i) s).mem = true :=
  issueWord_canonical (specOf_keeps i).take (specOf_keeps i).body h

theorem serveRun_wf (c k : Nat) (i : Instr) (w : QWord) (s : State) (h : Memory.wf s.mem = true) :
    Memory.wf (serveRun c k (specOf i) w s).state.mem = true :=
  serveRun_canonical (specOf_keeps i).body h

@[simp] theorem domsetApply_wf (die : Nat) (s : State) (h : Memory.wf s.mem = true) : Memory.wf (domsetApply die s).mem = true :=
  applyDomsets_wf _ _ h

@[simp] theorem startWord_wf (c k : Nat) (e : Engine) (s : State) (h : Memory.wf s.mem = true) : Memory.wf (startWord c k e s).mem = true := by
  unfold startWord
  dsimp only
  split
  · exact h
  rename_i w _
  have hr := serveRun_wf c k w.i w s h
  split
  · exact h
  split
  · exact h
  split
  · rename_i e
    rw [e] at hr
    split
    · exact h
    · exact settleQueued_canonical hr
  · exact settleQueued_canonical hr

@[simp] theorem continueWord_wf (c k : Nat) (e : Engine) (s : State) (h : Memory.wf s.mem = true) :
    Memory.wf (continueWord c k e s).mem = true := by
  unfold continueWord
  dsimp only
  split
  · exact h
  split
  · exact settleQueued_canonical (serveRun_wf _ _ _ _ _ h)
  · exact h

@[simp] theorem engineStartEv_wf (c k : Nat) (e : Engine) (s : State) (h : Memory.wf s.mem = true) :
    Memory.wf (engineStartEv c k e s).mem = true := by
  unfold engineStartEv
  split
  · split <;> simp [h]
  · split <;> simp [h]

@[simp] theorem retireEv_wf (c k : Nat) (e : Engine) (s : State) (h : Memory.wf s.mem = true) : Memory.wf (retireEv c k e s).mem = true := by
  unfold retireEv
  dsimp only
  split
  · exact h
  rename_i w _ _
  split
  · exact h
  split
  · have hb : Canonical ((specOf w.i).body c k w s).state := (specOf_keeps w.i).body c k w s h
    split
    · rename_i e
      rw [e] at hb
      exact canonical_of_mem (s := _) hb (complete_mem ..)
    · rename_i e
      rw [e] at hb
      exact hb
    · rename_i e
      rw [e] at hb
      exact hb
    · rename_i e
      rw [e] at hb
      exact stopWord_canonical (fun _ _ => rfl) (fun _ => rfl) hb
  · exact h

@[simp] theorem deadlockEv_wf (c : Nat) (s : State) (h : Memory.wf s.mem = true) : Memory.wf (deadlockEv c s).mem = true := by
  unfold deadlockEv
  dsimp only
  split
  · split <;> simp [h]
  · exact h

@[simp] theorem failAll_wf (c : Nat) (s : State) (h : Memory.wf s.mem = true) : Memory.wf (failAll c s).mem = true :=
  foldl_wf (fun t (f : Nat × Nat × Trap) ht => failWord_wf c f.1 f.2.1 f.2.2 t ht) _ _ h

@[simp] theorem deliverHeld_wf (c : Nat) (s : State) (h : Memory.wf s.mem = true) : Memory.wf (deliverHeld c s).mem = true :=
  foldl_wf (fun t m ht => deliver_wf c m t ht) _ _ h

@[simp] theorem freezeEndEv_wf (c : Nat) (s : State) (h : Memory.wf s.mem = true) : Memory.wf (freezeEndEv c s).mem = true := by
  unfold freezeEndEv
  dsimp only
  split
  · exact h
  split
  · exact h
  split
  · exact h
  · split <;> simp [h]

@[simp] theorem refillEv_wf (c page : Nat) (mapped : Bool) (bad : BitVec 64) (s : State) (h : Memory.wf s.mem = true) :
    Memory.wf (refillEv c page mapped bad s).mem = true := by
  unfold refillEv
  dsimp only
  split
  · exact h
  split
  · exact h
  split
  · exact failWord_wf _ _ _ _ _ h
  · split
    · rw [failXfer_mem]
      exact h
    · exact h

@[simp] theorem writebackAccEv_wf (c : Nat) (s : State) (h : Memory.wf s.mem = true) : Memory.wf (writebackAccEv c s).mem = true := by
  unfold writebackAccEv
  dsimp only
  split
  · exact h
  split
  · exact h
  split
  · exact h
  · have hm : ∀ m w, Canonical (mulWrite c 1 m w s).state := fun m w => mulWrite_canonical h
    split
    · exact settleQueued_canonical (hm _ _)
    · exact settleQueued_canonical (mendRun_canonical (hm _ _))

end Sys2Proof.Machine
end

section
/-! PROOFS. The canonical form of memory: transfers, slices, folds, the loader and packets. -/

namespace Sys2Proof.Machine

/-! ### Transfers (08 R191 to R197) -/

theorem outPieces_wf (c : Nat) (va : Word) (n : Nat) (s : State) (h : Memory.wf s.mem = true) :
    Memory.wf (outPieces c va n s).2.mem = true := by
  induction n generalizing va s with
  | zero => exact h
  | succ n ih =>
    unfold outPieces
    dsimp only
    split
    · exact h
    have hx := coreXlat_mem s c { coreAccess s c with write := true } va.toNat
    split
    · rename_i e
      rw [e] at hx
      exact hx ▸ h
    rename_i t e
    rw [e] at hx
    have ht : Memory.wf t.mem = true := hx ▸ h
    split
    · exact ht
    split
    · exact ht
    · exact ht
    rename_i u e
    have hr := ih (va + 32) u (shadowWrite_wf e ht)
    split
    · rename_i e
      rw [e] at hr
      exact hr
    · exact hr

@[simp] theorem sendPieces_wf (c : Nat) (t : Xfer) (s : State) (l : List (Nat × List Byte)) (h : Memory.wf s.mem = true) :
    Memory.wf (sendPieces c t s l).mem = true := by
  induction l generalizing s with
  | nil => exact h
  | cons p l ih =>
    unfold sendPieces
    split
    · exact ih _ h
    · exact ih _ h
    · exact ih _ (writeBytes_wf _ _ _ h)

@[simp] theorem outChunk_wf (c : Nat) (t : Xfer) (n : Nat) (s : State) (h : Memory.wf s.mem = true) : Memory.wf (outChunk c t n s).mem = true := by
  have hp := outPieces_wf c (t.far t.dst t.pos) (n / 32) s h
  unfold outChunk
  dsimp only
  split
  · rename_i e
    rw [e] at hp
    simpa using hp
  · rename_i e
    rw [e] at hp
    split
    · simpa using hp
    split
    · simpa using hp
    split
    · exact hp
    · exact sendPieces_wf _ _ _ _ hp

@[simp] theorem transferChunkEv_wf (c hoop slot : Nat) (s : State) (h : Memory.wf s.mem = true) :
    Memory.wf (transferChunkEv c hoop slot s).mem = true := by
  unfold transferChunkEv
  extract_lets x
  split
  · exact h
  split
  · exact h
  extract_lets n near ps
  clear_value ps
  split
  · exact h
  split <;> simp [h]

/-! ### The home slices' events (10 R222 to R233) -/

@[simp] theorem performLay_wf (q : Req) (s : State) (h : Memory.wf s.mem = true) : Memory.wf (performLay q s).mem = true := by
  unfold performLay
  dsimp only
  split
  · rename_i w _
    exact settleQueued_canonical (runBody_canonical (specOf_keeps w.i).body h)
  · exact h

@[simp] theorem performReq_wf (q : Req) (s : State) (h : Memory.wf s.mem = true) : Memory.wf (performReq q s).mem = true := by
  unfold performReq
  split
  · exact performLay_wf _ _ h
  split
  · rename_i e
    have ht := serve_wf e h
    dsimp only
    split
    · exact answerCell_wf _ _ _ ht
    · exact ht
  · exact failWord_wf _ _ _ _ _ h
  · exact h

@[simp] theorem sliceEv_wf (d n : Nat) (s : State) (h : Memory.wf s.mem = true) : Memory.wf (sliceEv d n s).mem = true := by
  unfold sliceEv
  dsimp only
  split
  · exact h
  split
  · exact h
  split
  · exact h
  · exact performReq_wf _ _ h

@[simp] theorem verstTimeoutEv_wf (id : Nat) (s : State) (h : Memory.wf s.mem = true) : Memory.wf (verstTimeoutEv id s).mem = true := by
  unfold verstTimeoutEv
  split
  · exact h
  split
  · split
    · exact failWord_wf _ _ _ _ _ h
    · exact h
  · exact h

/-! ### Writes of a virtual range (10 R226, 16 R302) -/

@[simp] theorem writeFor_wf (q : Access) (pa : Nat) (bs : List Byte) (s : State) (h : Memory.wf s.mem = true) :
    Memory.wf (writeFor q pa bs s).mem = true := by
  unfold writeFor
  split
  · exact writeOut_wf _ _ _ _ h
  split
  · exact h
  · exact h
  · exact writeOut_wf _ _ _ _ h

/-- A step that may fail, taken apart: it goes on with what the step before it gave. -/
theorem bind_ok {ε α β : Type} {x : Except ε α} {f : α → Except ε β} {b : β} (e : (x >>= f) = .ok b) :
    ∃ a, x = .ok a ∧ f a = .ok b := by
  cases x with
  | error e' => cases e
  | ok a => exact ⟨a, rfl, e⟩

theorem virtWrite_wf {s t : State} {q : Access} {va : Nat} {bs : List Byte} (e : virtWrite s q va bs = .ok t)
    (h : Memory.wf s.mem = true) : Memory.wf t.mem = true := by
  obtain ⟨ps, -, e⟩ := bind_ok e
  cases e
  exact foldl_fst_wf (fun t p ht => writeFor_wf _ _ _ _ ht) ps s bs h

/-! ### Folds (19 R373) -/

@[simp] theorem foldTileEv_wf (pa : Nat) (s : State) (h : Memory.wf s.mem = true) : Memory.wf (foldTileEv pa s).mem = true := by
  unfold foldTileEv
  extract_lets f hd q t r
  have hr : ∀ u, r = .ok u → Memory.wf u.mem = true := by
    intro u e
    obtain ⟨b, -, e⟩ := bind_ok e
    exact virtWrite_wf e h
  clear_value r
  split
  · exact h
  split
  · exact h
  · exact h
  · rename_i u
    exact hr u rfl

@[simp] theorem foldSwapEv_wf (pa : Nat) (s : State) (h : Memory.wf s.mem = true) : Memory.wf (foldSwapEv pa s).mem = true := by
  unfold foldSwapEv
  extract_lets f g hd ended
  split
  · exact h
  split
  · exact h
  split
  · exact h
  · exact putHandle_wf _ _ _ h

/-! ### The loader (16 R311 to R316) -/

theorem putStamp_wf {d v : Nat} {s t : State} (e : putStamp d v s = .ok t) (h : Memory.wf s.mem = true) : Memory.wf t.mem = true :=
  virtWrite_wf e h

@[simp] theorem loadGoEv_wf (d : Nat) (s : State) (h : Memory.wf s.mem = true) : Memory.wf (loadGoEv d s).mem = true := by
  unfold loadGoEv
  dsimp only
  split
  · exact h
  split
  · simpa using h
  · simpa using h
  split
  · simpa using h
  split
  · exact h
  · simpa using h
  · rename_i e
    have ht := putStamp_wf e h
    simpa using ht

@[simp] theorem failLoad_wf (d reason : Nat) (note : Bool) (off : Nat) (s : State) (h : Memory.wf s.mem = true) :
    Memory.wf (failLoad d reason note off s).mem = true := by
  unfold failLoad
  split
  · rename_i e
    have ht := putStamp_wf e h
    simpa using ht
  · simpa using h

theorem applyRelocs_wf {object : Nat} {l : List Reloc} {s t : State} (e : applyRelocs object l s = .ok t) (h : Memory.wf s.mem = true) :
    Memory.wf t.mem = true := by
  unfold applyRelocs at e
  induction l generalizing s with
  | nil =>
    cases e
    exact h
  | cons r l ih =>
    rw [List.foldlM_cons] at e
    obtain ⟨u, hu, e⟩ := bind_ok e
    exact ih e (virtWrite_wf hu h)

@[simp] theorem loadCompleteEv_wf (d : Nat) (s : State) (h : Memory.wf s.mem = true) : Memory.wf (loadCompleteEv d s).mem = true := by
  unfold loadCompleteEv
  dsimp only
  split
  · exact h
  split
  · simpa using h
  · exact failLoad_wf _ _ _ _ _ h
  split
  · simpa using h
  · exact failLoad_wf _ _ _ _ _ h
  split
  · simpa using h
  · exact failLoad_wf _ _ _ _ _ h
  split
  · exact h
  · exact failLoad_wf _ _ _ _ _ h
  rename_i v hv
  split
  · exact h
  · exact failLoad_wf _ _ _ _ _ h
  · rename_i e
    have ht := putStamp_wf e (applyRelocs_wf hv h)
    simpa using ht

/-! ### Packets and their copies (16 R302 to R310) -/

@[simp] theorem acceptEv_wf (d e : Nat) (s : State) (h : Memory.wf s.mem = true) : Memory.wf (acceptEv d e s).mem = true := by
  have hp := startPackets_wf d s h
  unfold acceptEv
  dsimp only
  generalize startPackets d s = s at hp
  split
  · exact hp
  split
  · exact hp
  split
  · exact hp
  split
  · simpa using hp
  · simpa using hp
  split
  · simpa using hp
  split
  · exact hp
  split
  · exact hp
  · rename_i e
    exact startPackets_wf _ _ (writeBytes_wf _ _ _ (virtWrite_wf e (by simpa using hp)))

@[simp] theorem mergeCopy_wf (x : ScatterCopy) (s : State) (h : Memory.wf s.mem = true) : Memory.wf (mergeCopy x s).mem = true :=
  foldl_wf (fun t (r : Nat × List Byte) ht => writeBytes_wf t r.1 _ ht) _ s h

@[simp] theorem mergeHost_wf (d : Nat) (ctx : BitVec 16) (s : State) (h : Memory.wf s.mem = true) : Memory.wf (mergeHost d ctx s).mem = true :=
  foldl_wf (fun t x ht => mergeCopy_wf x t ht) _ s h

@[simp] theorem endCopy_wf (d : Nat) (p : Packet) (code : BitVec 8) (bad : Bool) (s : State) (h : Memory.wf s.mem = true) :
    Memory.wf (endCopy d p code bad s).mem = true := by
  have he : Memory.wf (endPacket d p.id code bad (dropAsks (p.own d) s)).mem = true := by simpa using h
  have hm : Memory.wf (if p.kind = 4 && p.issuer = 0xFFFF then mergeHost d p.ctx (endPacket d p.id code bad (dropAsks (p.own d) s))
      else endPacket d p.id code bad (dropAsks (p.own d) s)).mem = true := canonical_ite (mergeHost_wf _ _ _ he) he
  unfold endCopy
  dsimp only
  exact canonical_ite hm hm

end Sys2Proof.Machine
end

section
/-! PROOFS. The canonical form of memory: copies, completion records, text and placement. -/

namespace Sys2Proof.Machine

/-- A copy's row writes the row's target, and where it scatters, adds to the issuer's copy beside memory. -/
theorem moveRow_wf {d : Nat} {p : Packet} {s t : State} (e : moveRow d p s = .ok t) (h : Memory.wf s.mem = true) : Memory.wf t.mem = true := by
  unfold moveRow at e
  extract_lets q n j va done far at e
  have hdone : ∀ u, Memory.wf u.mem = true → Memory.wf (done u).mem = true := fun u hu => by simpa [done] using hu
  clear_value done far
  split at e
  · obtain ⟨-, -, e⟩ := bind_ok e
    obtain ⟨-, -, e⟩ := bind_ok e
    obtain ⟨b, -, e⟩ := bind_ok e
    obtain ⟨u, hu, e⟩ := bind_ok e
    cases e
    exact hdone _ (virtWrite_wf hu h)
  · obtain ⟨-, -, e⟩ := bind_ok e
    obtain ⟨ix, -, e⟩ := bind_ok e
    extract_lets i row at e
    split at e
    · cases e
      exact hdone _ h
    split at e
    · split at e
      · cases e
      split at e
      · obtain ⟨-, -, e⟩ := bind_ok e
        obtain ⟨u, hu, e⟩ := bind_ok e
        cases e
        exact hdone _ (virtWrite_wf hu h)
      · cases e
        exact hdone _ h
    obtain ⟨-, -, e⟩ := bind_ok e
    obtain ⟨-, -, e⟩ := bind_ok e
    split at e
    · obtain ⟨b, -, e⟩ := bind_ok e
      obtain ⟨u, hu, e⟩ := bind_ok e
      cases e
      exact hdone _ (virtWrite_wf hu h)
    obtain ⟨b, -, e⟩ := bind_ok e
    obtain ⟨ps, -, e⟩ := bind_ok e
    split at e
    · cases e
      refine hdone _ (foldl_fst_wf (fun u x hu => ?_) ps s b h)
      exact hu
    · split at e
      · obtain ⟨u, hu, e⟩ := bind_ok e
        cases e
        exact hdone _ (virtWrite_wf hu h)
      · cases e
        exact hdone _ h

@[simp] theorem copyRowEv_wf (d k : Nat) (s : State) (h : Memory.wf s.mem = true) : Memory.wf (copyRowEv d k s).mem = true := by
  unfold copyRowEv
  split
  · exact h
  split
  · exact startPackets_wf _ _ (endCopy_wf _ _ _ _ _ h)
  split
  · simpa using h
  · exact startPackets_wf _ _ (endCopy_wf _ _ _ _ _ h)
  · rename_i e
    have ht := moveRow_wf e h
    split
    · exact ht
    split
    · exact startPackets_wf _ _ (endCopy_wf _ _ _ _ _ ht)
    · exact ht

@[simp] theorem recordEv_wf (d e : Nat) (s : State) (h : Memory.wf s.mem = true) : Memory.wf (recordEv d e s).mem = true := by
  unfold recordEv
  dsimp only
  split
  · exact h
  split
  · exact h
  split
  · refine foldl_wf (fun t o ht => ?_) _ s h
    exact canonical_ite ht (by simpa [Canonical] using ht)
  split
  · exact h
  · exact wake_wf _ _ (startPackets_wf _ _ h)
  · rename_i e
    have ht := virtWrite_wf e h
    exact wake_wf _ _ (startPackets_wf _ _ (canonical_ite ht ht))

/-! ### Nodes: text, placement, dispatch and preemption (15 R296 to R300) -/

@[simp] theorem textRewriteEv_wf (r : NodeRef) (s : State) (h : Memory.wf s.mem = true) : Memory.wf (textRewriteEv r s).mem = true := by
  unfold textRewriteEv
  split
  · rename_i n l _ _
    split
    · exact h
    dsimp only
    split
    · exact abortLaunch_wf _ _ _ _ _ h
    split
    · simpa using h
    · exact abortNode_wf _ _ _ (by simpa using h)
    · refine foldl_wf (fun t x ht => ?_) _ _ (by simpa using h)
      rw [modNode_mem]
      exact foldl_wf (fun _ _ hu => by simpa using hu) _ _ ht
  · exact h

theorem liveUnit_mem {l : Launch} {u : List (NodeRef × Node)} {s t : State} {w : Option NodeRef} (e : liveUnit l u s = (.ok t, w)) :
    t.mem = s.mem := by
  induction u generalizing s with
  | nil =>
    cases e
    rfl
  | cons x u ih =>
    unfold liveUnit at e
    split at e
    · exact ih e
    · split at e
      · cases e
      · exact (ih e).trans (foldl_field State.mem (fun _ _ => modRegion_mem ..) _ _)

@[simp] theorem nodePlaceEv_wf (d : Nat) (s : State) (h : Memory.wf s.mem = true) : Memory.wf (nodePlaceEv d s).mem = true := by
  unfold nodePlaceEv
  split
  · exact h
  rename_i r l _ _
  dsimp only
  split
  · split
    · simpa using h
    · exact h
  · exact abortNode_wf _ _ _ (by simpa using h)
  · rename_i e
    have ht : Memory.wf (_ : State).mem = true := liveUnit_mem e ▸ h
    exact bindPorts_wf _ (foldl_wf (fun _ _ hu => by simpa using hu) _ _ (by simpa using ht))

end Sys2Proof.Machine
end

section
/-! PROOFS. The canonical form of memory: dispatch to completion, the sync trees, the weave fabric, the host and the links. -/

namespace Sys2Proof.Machine

@[simp] theorem dispatchEv_wf (r : NodeRef) (s : State) (h : Memory.wf s.mem = true) : Memory.wf (dispatchEv r s).mem = true := by
  unfold dispatchEv
  split
  · rename_i n l _ _
    have ht : Memory.wf (dropAsks l.reads.own s).mem = true := by simpa using h
    split
    · exact h
    dsimp only
    split
    · simpa using h
    split
    · exact abortNode_wf _ _ _ ht
    split
    · exact abortLaunch_wf _ _ _ _ _ ht
    split
    · exact abortLaunch_wf _ _ _ _ _ ht
    split
    · exact abortNode_wf _ _ _ ht
    · exact abortNode_wf _ _ _ ht
    · refine wake_wf _ _ (bindPorts_wf _ (foldl_wf (fun t x hu => ?_) _ _ ht))
      rw [modNode_mem]
      refine foldl_wf (fun u c hu => ?_) _ _ hu
      exact hu
  · exact h

@[simp] theorem contextSavedEv_wf (r : NodeRef) (s : State) (h : Memory.wf s.mem = true) : Memory.wf (contextSavedEv r s).mem = true := by
  unfold contextSavedEv
  split
  · exact h
  split
  · exact h
  extract_lets u cs t
  have ht : Memory.wf t.mem = true := by
    refine foldl_wf (fun v c hv => ?_) _ s h
    exact canonical_ite (by simpa [Canonical] using hv) hv
  clear_value t
  split
  · exact ht
  · refine bindPorts_wf _ ?_
    rw [sweepTables_mem]
    refine foldl_wf (fun v x hv => ?_) _ t ht
    exact canonical_ite (by simpa [Canonical] using hv) hv

@[simp] theorem wakeCore_wf (c : Nat) (s : State) (h : Memory.wf s.mem = true) : Memory.wf (wakeCore c s).mem = true := by
  unfold wakeCore
  dsimp only
  exact canonical_ite h (deliverHeld_wf _ _ h)

@[simp] theorem resumeStrands_wf (u : List (NodeRef × Node)) (s : State) (h : Memory.wf s.mem = true) :
    Memory.wf (resumeStrands u s).mem = true := by
  have ha : Memory.wf ((u.flatMap (fun x => x.2.cores_)).foldl (fun s c => askAgain c s) s).mem = true :=
    foldl_wf (fun t c ht => by simpa using ht) _ s h
  unfold resumeStrands
  dsimp only
  refine canonical_ite ha (bindPorts_wf _ (foldl_wf (fun t c ht => wakeCore_wf c t ht) _ _ (foldl_wf (fun t x ht => ?_) _ _ ha)))
  exact ht

@[simp] theorem nodeResumeEv_wf (r : NodeRef) (s : State) (h : Memory.wf s.mem = true) : Memory.wf (nodeResumeEv r s).mem = true := by
  unfold nodeResumeEv
  split
  · rename_i n l _ _
    dsimp only
    split
    · exact resumeStrands_wf _ _ h
    split
    · exact h
    split
    · simpa using h
    · exact abortNode_wf _ _ _ (by simpa using h)
    · refine resumeStrands_wf _ _ (foldl_wf (fun t x ht => ?_) _ _ (by simpa using h))
      rw [setNode_mem]
      exact foldl_wf (fun v c hv => by simpa using hv) _ _ (by simpa using ht)
  · exact h

/-- A completed node's shadow pages are stored to the pages that they stand for. -/
@[simp] theorem commitFrames_wf (r : NodeRef) (s : State) (h : Memory.wf s.mem = true) : Memory.wf (commitFrames r s).mem = true := by
  unfold commitFrames
  split
  · exact h
  · exact foldl_wf (fun t (f : Nat × Nat) ht => memStore_wf _ _ ht) _ s h

@[simp] theorem completeNode_wf (r : NodeRef) (s : State) (h : Memory.wf s.mem = true) : Memory.wf (completeNode r s).mem = true := by
  unfold completeNode
  split
  · rename_i n l _ _
    have hw := writeDone_wf l n.done (word (1 + n.code.toNat * 256)) _ (commitFrames_wf r s h)
    dsimp only
    split
    · rename_i e
      rw [e] at hw
      exact abortNode_wf _ _ _ hw
    · rename_i t e
      rw [e] at hw
      have hf : Memory.wf (freeCores r n (setNode r .done t)).mem = true := by simpa using hw
      exact wake_wf _ _ (finishLaunch_wf _ _ _ (settle_wf _ _ _ (bindPorts_wf _ (by simp [finishWeave_wf r _ hf]))))
  · exact h

@[simp] theorem haltTreeEv_wf (r : NodeRef) (s : State) (h : Memory.wf s.mem = true) : Memory.wf (haltTreeEv r s).mem = true := by
  unfold haltTreeEv
  split
  · exact h
  split
  · split
    · exact abortNode_wf _ _ _ h
    · exact h
  · refine canonical_ite (canonical_ite (completeNode_wf _ _ h) (foldl_wf (fun t c ht => ?_) _ s h)) h
    simpa using ht

/-! ### Synchronization trees (12 R247 to R256) -/

@[simp] theorem deliverAll_wf (root n : Nat) (m : Delivery) (s : State) (h : Memory.wf s.mem = true) : Memory.wf (deliverAll root n m s).mem = true :=
  foldl_wf (fun t c ht => deliverTo_wf _ _ _ c t ht) _ s h

@[simp] theorem downAct_wf (root n : Nat) (s : State) (m : SyncDown) (h : Memory.wf s.mem = true) : Memory.wf (downAct root n s m).mem = true := by
  unfold downAct
  dsimp only
  split
  · exact deliverAll_wf _ _ _ _ h
  · exact deliverAll_wf _ _ _ _ h
  · exact deliverAll_wf _ _ _ _ h
  · exact foldl_wf (fun t c ht => canonical_ite ht (deliverTo_wf _ _ _ c t ht)) _ s h
  · exact deliverAll_wf _ _ _ _ h
  · exact deliverAll_wf _ _ _ _ h

@[simp] theorem downEv_wf (root n : Nat) (p : SyncDown → Bool) (s : State) (h : Memory.wf s.mem = true) :
    Memory.wf (downEv root n p s).mem = true :=
  foldl_wf (fun t m ht => downAct_wf root n t m ht) _ _ (by simpa using h)

@[simp] theorem mergeCopies_wf (p : ScatterCopy → Bool) (s : State) (h : Memory.wf s.mem = true) : Memory.wf (mergeCopies p s).mem = true :=
  foldl_wf (fun t _ ht => foldl_wf (fun u x hu => mergeCopy_wf x u hu) _ t ht) _ s h

@[simp] theorem barrierReleaseEv_wf (root n : Nat) (s : State) (h : Memory.wf s.mem = true) : Memory.wf (barrierReleaseEv root n s).mem = true :=
  canonical_ite (downEv_wf _ _ _ _ (mergeCopies_wf _ _ h)) h

/-! ### The weave fabric (13 R268 to R274, 14 R285 to R290) -/

@[simp] theorem sampleEdge_wf (rg : Nat) (s : State) (h : Memory.wf s.mem = true) : Memory.wf (sampleEdge rg s).mem = true := by
  unfold sampleEdge
  extract_lets r x hold u ws ins eg lanes t v
  refine canonical_ite h (foldl_wf (fun t p ht => ?_) _ _ h)
  split
  · exact latchCause_wf _ _ _ _ ht
  · exact ht

@[simp] theorem beatEv_wf (rg k : Nat) (out : Bool) (s : State) (h : Memory.wf s.mem = true) : Memory.wf (beatEv rg k out s).mem = true := by
  have hs := sampleEdge_wf rg s h
  unfold beatEv
  dsimp only
  split
  · split <;> exact hs
  · exact hs

@[simp] theorem withyEv_wf (rg w : Nat) (s : State) (h : Memory.wf s.mem = true) : Memory.wf (withyEv rg w s).mem = true := by
  have hs := sampleEdge_wf rg s h
  unfold withyEv
  dsimp only
  split
  · split <;> exact hs
  · exact hs

@[simp] theorem clockEdgeEv_wf (rg : Nat) (s : State) (h : Memory.wf s.mem = true) : Memory.wf (clockEdgeEv rg s).mem = true := by
  have hs := sampleEdge_wf rg s h
  unfold clockEdgeEv
  dsimp only
  split
  · split <;> exact hs
  · exact hs

@[simp] theorem ramErrorEv_wf (rg : Nat) (fatal : Bool) (s : State) (h : Memory.wf s.mem = true) : Memory.wf (ramErrorEv rg fatal s).mem = true := by
  unfold ramErrorEv
  dsimp only
  split
  · exact h
  split
  · exact foldl_wf (fun t k ht => latchCause_wf _ _ _ _ (latchCause_wf _ _ _ _ ht)) _ _ (by simpa using h)
  · exact h

@[simp] theorem writebackEv_wf (d : Nat) (s : State) (h : Memory.wf s.mem = true) : Memory.wf (writebackEv d s).mem = true := by
  unfold writebackEv
  split
  · exact h
  split
  · exact h
  · exact foldl_fst_wf (fun t p ht => writeAny_wf _ _ _ _ ht) _ s _ h

/-! ### The host and the links (20, 22) -/

@[simp] theorem hostWriteEv_wf (port fn addr : Nat) (data : List Byte) (bad : Bool) (s : State) (h : Memory.wf s.mem = true) :
    Memory.wf (hostWriteEv port fn addr data bad s).mem = true := by
  unfold hostWriteEv
  split
  · exact h
  split
  · exact h
  split
  · exact writeBytes_wf _ _ _ h
  · exact h

@[simp] theorem hostAtomicEv_wf (port fn addr size : Nat) (op : HostOp) (x cmp : Word) (s : State) (h : Memory.wf s.mem = true) :
    Memory.wf (hostAtomicEv port fn addr size op x cmp s).mem = true := by
  unfold hostAtomicEv
  split
  · exact h
  split
  · exact h
  split
  · rename_i e
    have ht := serveAmo_wf e h
    exact ht
  · exact h

@[simp] theorem peerWrite_wf (link pa : Nat) (data : List Byte) (s : State) (h : Memory.wf s.mem = true) :
    Memory.wf (peerWrite link pa data s).mem = true := by
  unfold peerWrite
  dsimp only
  rw [reply_mem]
  exact canonical_ite (writeBytes_wf _ _ _ h) h

@[simp] theorem peerAtomic_wf (link pa size op : Nat) (x cmp : Word) (s : State) (h : Memory.wf s.mem = true) :
    Memory.wf (peerAtomic link pa size op x cmp s).mem = true := by
  unfold peerAtomic
  split
  · split
    · rename_i e
      have ht := serveAmo_wf e h
      exact ht
    · exact h
  · exact h

@[simp] theorem answerWord_wf (q : Req) (ok ended : Bool) (data : List Byte) (s : State) (h : Memory.wf s.mem = true) :
    Memory.wf (answerWord q ok ended data s).mem = true := by
  unfold answerWord
  extract_lets t
  split
  · exact h
  split
  · exact h
  · exact failWord_wf _ _ _ _ _ h

@[simp] theorem answerReq_wf (id : Nat) (ok ended : Bool) (data : List Byte) (s : State) (h : Memory.wf s.mem = true) :
    Memory.wf (answerReq id ok ended data s).mem = true := by
  unfold answerReq
  split
  · exact answerWord_wf _ _ _ _ _ h
  split
  · split <;> exact h
  split
  · exact h
  · split <;> exact h

@[simp] theorem linkBeatEv_wf (link ch : Nat) (late : Bool) (m : LinkItem) (s : State) (h : Memory.wf s.mem = true) :
    Memory.wf (linkBeatEv link ch late m s).mem = true := by
  unfold linkBeatEv
  extract_lets wait tardy t
  have ht : Memory.wf t.mem = true := by simpa [t] using h
  clear_value t wait
  split
  · exact h
  split
  · exact ht
  · exact ht
  · exact ht
  · simpa using ht
  · exact peerWrite_wf _ _ _ _ ht
  · simpa using ht
  · exact peerAtomic_wf _ _ _ _ _ _ _ ht
  · exact answerReq_wf _ _ _ _ _ ht
  · exact ht

@[simp] theorem linkResetEv_wf (link : Nat) (f : BitVec 11) (s : State) (h : Memory.wf s.mem = true) :
    Memory.wf (linkResetEv link f s).mem = true := by
  unfold linkResetEv
  rw [linkPackets_mem]
  exact foldl_wf recoverNode_wf _ _ h

@[simp] theorem completionEv_wf (id : Nat) (ok : Bool) (data : List Byte) (s : State) (h : Memory.wf s.mem = true) :
    Memory.wf (completionEv id ok data s).mem = true := by
  unfold completionEv
  split
  · exact h
  split
  · exact h
  · exact answerReq_wf _ _ _ _ _ (by simpa using h)

@[simp] theorem completionTimeoutEv_wf (id : Nat) (s : State) (h : Memory.wf s.mem = true) :
    Memory.wf (completionTimeoutEv id s).mem = true := by
  unfold completionTimeoutEv
  split
  · exact h
  split
  · exact h
  · exact answerReq_wf _ _ _ _ _ (by simpa using h)

/-! ### Resets: memory is empty -/

theorem shutdownEv_wf (s : State) : Memory.wf (shutdownEv s).mem = true := rfl

theorem packageResetEv_wf (b : Boot) (s : State) : Memory.wf (packageResetEv b s).mem = true := by
  unfold packageResetEv
  dsimp only
  split <;> rfl

end Sys2Proof.Machine
end

section
/-! PROOFS. The canonical form of memory: every step, and the statement `StepsKeepMemoryCanonical`. -/

namespace Sys2Proof.Machine

/-! ### Every step -/

/-- An event of the table makes its step, and keeps the canonical form. -/
theorem exec_event_wf {i : Instr} (hi : i.isWord = false) (s : State) (h : Memory.wf s.mem = true) :
    ∃ t, exec i s = .next t ∧ Memory.wf t.mem = true := by
  cases i <;> try cases hi
  case engineWordStart => exact ⟨_, rfl, engineStartEv_wf _ _ _ _ h⟩
  case wordRetire => exact ⟨_, rfl, retireEv_wf _ _ _ _ h⟩
  case deadlockDetect => exact ⟨_, rfl, deadlockEv_wf _ _ h⟩
  case correctableError => exact ⟨_, rfl, canonical_of_mem h (correctableEv_mem ..)⟩
  case freezeBegin => exact ⟨_, rfl, canonical_of_mem h (freezeBeginEv_mem ..)⟩
  case freezeEnd => exact ⟨_, rfl, freezeEndEv_wf _ _ h⟩
  case pageRefillComplete => exact ⟨_, rfl, refillEv_wf _ _ _ _ _ h⟩
  case pauseEnd => exact ⟨_, rfl, canonical_of_mem h (pauseEndEv_mem ..)⟩
  case accumulatorWriteback => exact ⟨_, rfl, writebackAccEv_wf _ _ h⟩
  case permitDecision => exact ⟨_, rfl, canonical_of_mem h (permitDecisionEv_mem ..)⟩
  case transferStart => exact ⟨_, rfl, canonical_of_mem h (transferStartEv_mem ..)⟩
  case transferChunk => exact ⟨_, rfl, transferChunkEv_wf _ _ _ _ h⟩
  case slotFill => exact ⟨_, rfl, canonical_of_mem h (slotFillEv_mem ..)⟩
  case wutCrossing => exact ⟨_, rfl, canonical_of_mem h (wutCrossingEv_mem ..)⟩
  case loadGo => exact ⟨_, rfl, loadGoEv_wf _ _ h⟩
  case loadComplete => exact ⟨_, rfl, loadCompleteEv_wf _ _ h⟩
  case queueTableWrite => exact ⟨_, rfl, booted_canonical (canonical_ite (canonical_of_mem h (queueTableSet_mem ..)) h) h⟩
  case packetAccept => exact ⟨_, rfl, acceptEv_wf _ _ _ h⟩
  case copyPacketRow => exact ⟨_, rfl, copyRowEv_wf _ _ _ h⟩
  case completionRecordWrite => exact ⟨_, rfl, recordEv_wf _ _ _ h⟩
  case operandWordPoll => exact ⟨_, rfl, wake_wf _ _ h⟩
  case priorityAging => exact ⟨_, rfl, canonical_of_mem h (agingEv_mem ..)⟩
  case textRewrite => exact ⟨_, rfl, textRewriteEv_wf _ _ h⟩
  case nodePlace => exact ⟨_, rfl, nodePlaceEv_wf _ _ h⟩
  case dispatch => exact ⟨_, rfl, dispatchEv_wf _ _ h⟩
  case preemptDecision => exact ⟨_, rfl, canonical_of_mem h (preemptDecisionEv_mem ..)⟩
  case preemptSignal => exact ⟨_, rfl, canonical_of_mem h (preemptSignalEv_mem ..)⟩
  case contextSaved => exact ⟨_, rfl, contextSavedEv_wf _ _ h⟩
  case nodeResume => exact ⟨_, rfl, nodeResumeEv_wf _ _ h⟩
  case haltTreeFire => exact ⟨_, rfl, haltTreeEv_wf _ _ h⟩
  case devIdWrite => exact ⟨_, rfl, booted_canonical (canonical_of_mem h (devIdSet_mem ..)) h⟩
  case registerWrite => exact ⟨_, rfl, booted_canonical (hostRegister_wf _ _ _ _ h) h⟩
  case hostRead => exact ⟨_, rfl, booted_canonical (canonical_of_mem h (hostReadEv_mem ..)) h⟩
  case hostAtomicop => exact ⟨_, rfl, booted_canonical (hostAtomicEv_wf _ _ _ _ _ _ _ _ h) h⟩
  case linkBeatArrival => exact ⟨_, rfl, booted_canonical (linkBeatEv_wf _ _ _ _ _ h) h⟩
  case treeTokenForward => exact ⟨_, rfl, canonical_of_mem h (tokenForwardEv_mem ..)⟩
  case ptpMessage => exact ⟨_, rfl, booted_canonical (canonical_of_mem h (ptpMessageEv_mem ..)) h⟩
  case syncInterval => exact ⟨_, rfl, canonical_of_mem h (syncIntervalEv_mem ..)⟩
  case governorCapUpdate => exact ⟨_, rfl, canonical_of_mem h (capUpdateEv_mem ..)⟩
  case thermalHold => exact ⟨_, rfl, canonical_of_mem h (thermalHoldEv_mem ..)⟩
  case thermalShutdown => exact ⟨_, rfl, shutdownEv_wf _⟩
  case packageReset => exact ⟨_, rfl, packageResetEv_wf _ _⟩
  case dieReset => exact ⟨_, rfl, dieResetEv_wf _ _ h⟩
  case stackReset => exact ⟨_, rfl, canonical_of_mem h (stackResetEv_mem ..)⟩
  case linkReset => exact ⟨_, rfl, linkResetEv_wf _ _ _ h⟩
  case reportRequest => exact ⟨_, rfl, booted_canonical (canonical_of_mem h (reportRequestEv_mem ..)) h⟩
  case reportReady => exact ⟨_, rfl, canonical_of_mem h (reportReadyEv_mem ..)⟩
  case hostCompletionTimeout => exact ⟨_, rfl, completionTimeoutEv_wf _ _ h⟩
  case msixVectorUnmask => exact ⟨_, rfl, booted_canonical (canonical_of_mem h (unmaskEv_mem ..)) h⟩
  case timeStRead => exact ⟨_, rfl, booted_canonical (canonical_of_mem h (hostTimeEv_mem ..)) h⟩
  case ptpParentLoss => exact ⟨_, rfl, canonical_of_mem h (parentLossEv_mem ..)⟩
  case flitInject => exact ⟨_, rfl, canonical_of_mem h (injectEv_mem ..)⟩
  case flitOffer => exact ⟨_, rfl, canonical_of_mem h (offerEv_mem ..)⟩
  case sliceAccess => exact ⟨_, rfl, sliceEv_wf _ _ _ h⟩
  case rehomeResend => exact ⟨_, rfl, canonical_of_mem h (resendEv_mem ..)⟩
  case sliceMissFill => exact ⟨_, rfl, canonical_of_mem h (missFillEv_mem ..)⟩
  case translationWalkDone => exact ⟨_, rfl, canonical_of_mem h (walkDoneEv_mem ..)⟩
  case wbrInvrFinish => exact ⟨_, rfl, canonical_of_mem h (wbFinishEv_mem ..)⟩
  case verstStallTimeout => exact ⟨_, rfl, verstTimeoutEv_wf _ _ h⟩
  case foldTile => exact ⟨_, rfl, foldTileEv_wf _ _ h⟩
  case foldSwap => exact ⟨_, rfl, foldSwapEv_wf _ _ h⟩
  case invalidationRequest => exact ⟨_, rfl, booted_canonical (canonical_of_mem h (invalidateEv_mem ..)) h⟩
  case invalidationDone => exact ⟨_, rfl, canonical_of_mem h (invalidateDoneEv_mem ..)⟩
  case carveWrite => exact ⟨_, rfl, booted_canonical (carveSet_wf _ _ _ _ h) h⟩
  case patrolScrub => exact ⟨_, rfl, canonical_of_mem h (scrubEv_mem ..)⟩
  case syncArrival => exact ⟨_, rfl, canonical_of_mem h (syncArrivalEv_mem ..)⟩
  case barrierRelease => exact ⟨_, rfl, barrierReleaseEv_wf _ _ _ h⟩
  case reductionResult | broadcastDelivery | eventDelivery => exact ⟨_, rfl, downEv_wf _ _ _ _ h⟩
  case broadcastCreditReturn => exact ⟨_, rfl, canonical_of_mem h (creditReturnEv_mem ..)⟩
  case syncFaultSignal => exact ⟨_, rfl, canonical_of_mem h (faultSignalEv_mem ..)⟩
  case brokenVerdict => exact ⟨_, rfl, canonical_ite h (downEv_wf _ _ _ _ h)⟩
  case beatTransfer => exact ⟨_, rfl, beatEv_wf _ _ _ _ h⟩
  case fifoCrossing => exact ⟨_, rfl, canonical_of_mem h (crossingEv_mem ..)⟩
  case withyTransfer => exact ⟨_, rfl, withyEv_wf _ _ _ h⟩
  case regionRamError => exact ⟨_, rfl, ramErrorEv_wf _ _ _ h⟩
  case swapBoundary => exact ⟨_, rfl, canonical_of_mem h (swapBoundaryEv_mem ..)⟩
  case planeExchange => exact ⟨_, rfl, canonical_of_mem h (planeExchangeEv_mem ..)⟩
  case saveWritebackDone => exact ⟨_, rfl, writebackEv_wf _ _ h⟩
  case regionClockEdge => exact ⟨_, rfl, clockEdgeEv_wf _ _ h⟩
  case hostCompletion => exact ⟨_, rfl, completionEv_wf _ _ _ _ h⟩
  case hostWrite => exact ⟨_, rfl, booted_canonical (hostWriteEv_wf _ _ _ _ _ _ h) h⟩

theorem exec_wf {i : Instr} {s t : State} (e : exec i s = .next t) (h : Memory.wf s.mem = true) : Memory.wf t.mem = true := by
  cases hi : i.isWord with
  | true =>
    rw [exec_word hi, Host.Outcome.next.injEq] at e
    exact e ▸ issueWord_wf i s h
  | false =>
    obtain ⟨u, hu, hw⟩ := exec_event_wf hi s h
    rw [hu, Host.Outcome.next.injEq] at e
    exact e ▸ hw

theorem rejected_wf {c k : Nat} {w : BitVec 32} {r : Reject} {s t : State} (e : rejected c k w r s = .rest t)
    (h : Memory.wf s.mem = true) : Memory.wf t.mem = true := by
  unfold rejected at e
  dsimp only at e
  split at e
  · cases e
  · cases e
    exact takeFault_wf _ _ _ _ _ _ _ h
  · cases e
    exact takeFault_wf _ _ _ _ _ _ _ h
  · split at e
    · cases e
      exact takeFault_wf _ _ _ _ _ _ _ h
    · split at e <;> cases e
      · exact h
      · exact takeFault_wf _ _ _ _ _ _ _ h

theorem fetch_wf {c k : Nat} {s t : State} (e : fetch c k s = .rest t) (h : Memory.wf s.mem = true) : Memory.wf t.mem = true := by
  unfold fetch at e
  dsimp only at e
  split at e
  · cases e
    exact h
  split at e
  · cases e
    exact h
  split at e
  · split at e <;> cases e
    · exact h
    · exact takeFault_wf _ _ _ _ _ _ _ h
  split at e
  · cases e
    exact takeFault_wf _ _ _ _ _ _ _ h
  split at e
  · cases e
  · exact rejected_wf e h

@[simp] theorem settleCore_wf (c : Nat) (s : State) (h : Memory.wf s.mem = true) : Memory.wf (settleCore c s).mem = true := by
  unfold settleCore
  exact canonical_ite h (canonical_ite (canonical_of_mem h (flushCore_mem ..)) (settleStop_wf _ _ h))

@[simp] theorem tick_wf (s : State) (h : Memory.wf s.mem = true) : Memory.wf (tick s).mem = true := by
  refine canonical_ite h (foldl_wf (fun t x ht => settleCore_wf x.1 t ht) _ _ ?_)
  simpa using h

theorem move_wf {turn : Turn} {s t : State} (e : move turn s = .next t) (h : Memory.wf s.mem = true) : Memory.wf t.mem = true := by
  unfold move at e
  split at e
  · cases e
    exact tick_wf s h
  · cases e
    exact strike_wf _ s h
  · cases e
    exact h
  · cases e
    exact booted_canonical (controlEv_wf _ _ _ s h) h
  · cases e
    exact booted_canonical h h
  · split at e
    · cases e
      exact h
    · exact exec_wf e h
  · split at e
    · rename_i hf
      cases e
      exact fetch_wf hf h
    · exact exec_wf e h

/-- Settles O39: every turn of the agenda changes memory by stores and by zeroing a carve-out, which keep its canonical form, or empties
it. -/
theorem stepsKeepMemoryCanonical : Obligations.StepsKeepMemoryCanonical := by
  unfold Obligations.StepsKeepMemoryCanonical
  intro s t h e
  unfold step at e
  split at e
  · exact move_wf e ((takeTurn_mem s).symm ▸ h)
  · cases e

end Sys2Proof.Machine
end

section
/-! PROOFS. The sync roots and the deliveries to their members (12 R248 to R256): what a root does with the one signal that has reached it,
how the one signal from a root reaches a sole member, and the statement `SyncEventsAct`. -/

namespace Sys2Proof.Machine

/-! ### A root below the tree of packages (12 R248, R250, R254) -/

section Root

variable {root n c t : Nat} {s : State}

/-- A domain within the package has no child packages. -/
theorem kidsOf_of_level (hlevel : (s.slot root n).level < 3) : (if root = 8 then kidsOf s n else []) = [] := by
  split
  · subst root
    exact if_neg (by omega)
  · rfl

/-- A domain whose members have all arrived is not crossed (12 R255). -/
theorem crossed_of_arrived (hlevel : (s.slot root n).level < 3) (hall : ∀ m ∈ (s.slot root n).members, m ∈ (s.slot root n).arrived) :
    crossed s root n = false := by
  have hnone : (s.slot root n).members.any (fun m => !(s.slot root n).arrived.contains m) = false := by simpa using hall
  simp only [crossed, kidsOf_of_level hlevel, hnone, List.any_nil, Bool.or_false, Bool.and_false, Bool.false_and]

/-- Nor is one of which a member has neither arrived nor contributed. -/
theorem crossed_of_absent {m : Nat} (hm : m ∈ (s.slot root n).members) (habsent : m ∉ (s.slot root n).arrived)
    (hcontribs : (s.slot root n).contribs = []) : crossed s root n = false := by
  have hfree : (inBar s (s.slot root n) n m || inRed (s.slot root n) m) = false := by simp [inBar, inRed, habsent, hcontribs]
  have hwait : (s.slot root n).members.all (fun k => inBar s (s.slot root n) n k || inRed (s.slot root n) k) = false :=
    List.all_eq_false.2 ⟨m, hm, by simp [hfree]⟩
  simp only [crossed, allWait, hwait, Bool.and_false, Bool.false_and]

theorem breakCrossed_of_uncrossed (hlevel : (s.slot root n).level < 3) (hcrossed : crossed s root n = false) :
    breakCrossed root n s = s := by
  have hne : (s.slot root n).level ≠ 3 := by omega
  simp [breakCrossed, hne, hcrossed]

theorem allArrived_iff {x : SyncSlot} : allArrived x = true ↔ ∀ m ∈ x.members, m ∈ x.arrived := by
  simp [allArrived]

theorem tryBarrier_of_arrived (hlevel : (s.slot root n).level < 3)
    (hall : ∀ m ∈ (s.slot root n).members, m ∈ (s.slot root n).arrived) : tryBarrier root n s = releaseSlot root n s := by
  simp only [tryBarrier, allArrived_iff.2 hall, Bool.not_true, Bool.false_eq_true, if_false, if_pos hlevel]

theorem tryBarrier_of_absent {m : Nat} (hm : m ∈ (s.slot root n).members) (habsent : m ∉ (s.slot root n).arrived) :
    tryBarrier root n s = s :=
  if_pos (by simpa [allArrived] using ⟨m, hm, habsent⟩)

theorem tryReduce_of_none (hred : (s.slot root n).redOp = none) : tryReduce root n s = s := by
  simp only [tryReduce, hred]

theorem tryBcast_of_none (hwaiting : (s.slot root n).waiting = []) (f : Nat) : tryBcast root n f s = s := by
  cases f with
  | zero => rfl
  | succ f => simp only [tryBcast, hwaiting]

/-- A slot whose one signal from below has been taken in. -/
def SyncSlot.heard (x : SyncSlot) : SyncSlot := { x with up := [] }

/-- Where the one signal is one of those that an event takes, none is left. -/
theorem heard_of_sole {m : Nat × SyncUp} {p : Nat × SyncUp → Bool} (hup : (s.slot root n).up = [m]) (hp : p m = true) :
    s.modSlot root n (fun x => { x with up := x.up.filter (fun m => !p m) }) = s.modSlot root n .heard :=
  modSlot_congr (by simp [hup, hp, SyncSlot.heard])

/-- A slot that has taken in a member's arrival. -/
def SyncSlot.counted (c : Nat) (x : SyncSlot) : SyncSlot := { x.heard with arrived := x.arrived ++ [c] }

@[simp] theorem slot_releaseSlot : (releaseSlot root n s).slot root n = { s.slot root n with
    arrived := [], epoch := (s.slot root n).epoch + 1
    down := (s.slot root n).down ++ [(s.cycle + downLat root, .release ((s.slot root n).epoch + 1).toNat false)] } := by
  simp [releaseSlot, sendDown]

@[simp] theorem releaseSlot_cores : (releaseSlot root n s).cores = s.cores := rfl

/-- The one signal at a live root is an arrival: it is counted, and the root looks whether the domain is crossed, and then what is
complete (12 R248, R255). -/
theorem syncArrivalEv_of_arrive (hlive : (s.slot root n).installed = true) (hwhole : (s.slot root n).broken = false) (ht : t ≤ s.cycle)
    (hup : (s.slot root n).up = [(t, .arrive c)]) (hlevel : (s.slot root n).level < 3)
    (hcrossed : crossed (s.modSlot root n (.counted c)) root n = false) :
    syncArrivalEv root n s = tryBcast root n 8 (tryReduce root n (tryBarrier root n (s.modSlot root n (.counted c)))) := by
  have hheard : s.modSlot root n (fun x => { x with up := x.up.filter (fun m => !(decide (m.1 ≤ s.cycle) && arrivalKind m.2)) })
      = s.modSlot root n .heard := heard_of_sole hup (by simp [ht, arrivalKind])
  have hcount : countUp root n (.arrive c) (s.modSlot root n .heard) = s.modSlot root n (.counted c) := by
    simp only [countUp, slot_modSlot, SyncSlot.heard, hwhole, Bool.false_eq_true, if_false, modSlot_modSlot]
    rfl
  have hcounted : (s.modSlot root n (.counted c)).slot root n = (s.slot root n).counted c := slot_modSlot ..
  have hbreak : breakCrossed root n (s.modSlot root n (.counted c)) = s.modSlot root n (.counted c) :=
    breakCrossed_of_uncrossed (hcounted ▸ hlevel) hcrossed
  have hstill : ((s.modSlot root n (.counted c)).slot root n).broken = false := hcounted ▸ hwhole
  have hnow : (s.slot root n).up.filter (fun m => decide (m.1 ≤ s.cycle) && arrivalKind m.2) = [(t, .arrive c)] := by
    simp [hup, ht, arrivalKind]
  simp only [syncArrivalEv, hlive, hnow, hheard, List.foldl_cons, List.foldl_nil, insertUp, hcount, hbreak, hstill, List.isEmpty_cons,
    Bool.not_true, Bool.false_and, Bool.false_eq_true, if_false]

/-- The last arrival of a barrier releases it (12 R248). -/
theorem syncArrivalEv_of_last (hlive : (s.slot root n).installed = true) (hwhole : (s.slot root n).broken = false) (ht : t ≤ s.cycle)
    (hup : (s.slot root n).up = [(t, .arrive c)]) (hlevel : (s.slot root n).level < 3) (hred : (s.slot root n).redOp = none)
    (hwaiting : (s.slot root n).waiting = []) (hall : ∀ m ∈ (s.slot root n).members, m ∈ (s.slot root n).arrived ++ [c]) :
    syncArrivalEv root n s = releaseSlot root n (s.modSlot root n (.counted c)) := by
  have hcounted : (s.modSlot root n (.counted c)).slot root n = (s.slot root n).counted c := slot_modSlot ..
  have hlevel' : ((s.modSlot root n (.counted c)).slot root n).level < 3 := hcounted ▸ hlevel
  have hall' : ∀ m ∈ ((s.modSlot root n (.counted c)).slot root n).members, m ∈ ((s.modSlot root n (.counted c)).slot root n).arrived :=
    hcounted ▸ hall
  rw [syncArrivalEv_of_arrive hlive hwhole ht hup hlevel (crossed_of_arrived hlevel' hall'), tryBarrier_of_arrived hlevel' hall',
    tryReduce_of_none (by rw [slot_releaseSlot, hcounted]; exact hred),
    tryBcast_of_none (by rw [slot_releaseSlot, hcounted]; exact hwaiting)]

/-- An arrival after which a member is still missing is counted, and nothing else happens (12 R248). -/
theorem syncArrivalEv_of_missing (hlive : (s.slot root n).installed = true) (hwhole : (s.slot root n).broken = false) (ht : t ≤ s.cycle)
    (hup : (s.slot root n).up = [(t, .arrive c)]) (hlevel : (s.slot root n).level < 3) (hred : (s.slot root n).redOp = none)
    (hwaiting : (s.slot root n).waiting = []) {m : Nat} (hm : m ∈ (s.slot root n).members) (habsent : m ∉ (s.slot root n).arrived ++ [c])
    (hcontribs : (s.slot root n).contribs = []) : syncArrivalEv root n s = s.modSlot root n (.counted c) := by
  have hcounted : (s.modSlot root n (.counted c)).slot root n = (s.slot root n).counted c := slot_modSlot ..
  have hm' : m ∈ ((s.modSlot root n (.counted c)).slot root n).members := hcounted ▸ hm
  have habsent' : m ∉ ((s.modSlot root n (.counted c)).slot root n).arrived := hcounted ▸ habsent
  rw [syncArrivalEv_of_arrive hlive hwhole ht hup hlevel (crossed_of_absent hm' habsent' (hcounted ▸ hcontribs)),
    tryBarrier_of_absent hm' habsent', tryReduce_of_none (hcounted ▸ hred), tryBcast_of_none (hcounted ▸ hwaiting)]

/-- A slot at which a member has one entry fewer taken. -/
def SyncSlot.freed (c : Nat) (x : SyncSlot) : SyncSlot := { x with used := tput x.used c (tget 0 x.used c - 1) }

theorem giveCredit_of_none (hlevel : (s.slot root n).level < 3) (hwaiting : (s.slot root n).waiting = []) :
    giveCredit root n [c] s = s.modSlot root n (.freed c) := by
  have hne : (s.slot root n).level ≠ 3 := by omega
  have hnone : tryBcast root n 8 (s.modSlot root n (.freed c)) = s.modSlot root n (.freed c) :=
    tryBcast_of_none (by rw [slot_modSlot]; exact hwaiting) 8
  unfold giveCredit
  extract_lets x ts used freed
  have hfreed : freed = s.modSlot root n (.freed c) := modSlot_congr rfl
  rw [hfreed, hnone]
  simp [x, hne]

/-- A credit frees an entry of its member, and where no broadcast waits nothing else happens (12 R250). -/
theorem creditReturnEv_of_credit (ht : t ≤ s.cycle) (hup : (s.slot root n).up = [(t, .credit c)]) (hlevel : (s.slot root n).level < 3)
    (hwaiting : (s.slot root n).waiting = []) :
    creditReturnEv root n s = (s.modSlot root n .heard).modSlot root n (.freed c) := by
  unfold creditReturnEv
  extract_lets x isCredit back
  have hback : back = [c] := by simp [back, isCredit, x, hup, ht]
  rw [hback, heard_of_sole hup (by simp [isCredit, ht] : isCredit (t, .credit c) = true)]
  exact giveCredit_of_none (by rw [slot_modSlot]; exact hlevel) (by rw [slot_modSlot]; exact hwaiting)

/-- A domain within the package that breaks tells its members, and where no reduction is left incomplete no more (12 R256). -/
theorem breakSlot_of_level (hwhole : (s.slot root n).broken = false) (hlevel : (s.slot root n).level < 3) :
    breakSlot root n s = sendDown root n .broken (s.modSlot root n (fun x => { x with broken := true })) := by
  have hne : (s.slot root n).level ≠ 3 := by omega
  simp [breakSlot, breakWith, hwhole, hne]

/-- A member's fault, with no reduction in progress, breaks the domain and lacks no contribution (12 R254). -/
theorem faultSignalEv_of_fault (hlive : (s.slot root n).installed = true) (ht : t ≤ s.cycle) (hup : (s.slot root n).up = [(t, .fault c)])
    (hlevel : (s.slot root n).level < 3) (hred : (s.slot root n).redOp = none) :
    faultSignalEv root n s = breakSlot root n (s.modSlot root n .heard) := by
  have hne : (s.slot root n).level ≠ 3 := by omega
  have hidle : reducing (s.modSlot root n .heard) root n = false := by simp [reducing, SyncSlot.heard, hred, hne]
  have hsame : (s.modSlot root n .heard).modSlot root n (fun x => { x with incomplete := x.incomplete ++ [] }) = s.modSlot root n .heard := by
    rw [modSlot_modSlot]
    exact modSlot_congr (by simp [SyncSlot.heard])
  unfold faultSignalEv
  extract_lets x isFault bad heard lack
  have hbad : bad = [c] := by simp [bad, isFault, x, hup, ht]
  have hheard : heard = s.modSlot root n .heard := heard_of_sole hup (by simp [isFault, ht] : isFault (t, .fault c) = true)
  have hlack : lack = [] := by simp [lack, x, hheard, hidle, hne]
  simp only [hbad, hlack, hheard, x, hlive, hidle, hsame, List.isEmpty_cons, List.isEmpty_nil, Bool.not_true, Bool.false_and,
    Bool.false_eq_true, if_false, if_true]
  rfl

end Root

/-! ### A signal at the sole member of a domain (12 R248, R250, R251, R253, R256) -/

section Member

variable {root n c t : Nat} {s : State} {m : SyncDown} {w : QWord}

/-- A slot whose one signal to the members has been delivered. -/
def SyncSlot.told (x : SyncSlot) : SyncSlot := { x with down := [] }

/-- A delivery acts at a member that is neither frozen nor pre-empted. -/
theorem deliverTo_of_member {level : Nat} {d : Delivery} (hmember : memberOf (s.core c) level n = true) (hheld : coreHeld s c = false) :
    deliverTo level n d c s = deliver c d s := by
  simp [deliverTo, hmember, hheld]

/-- What a signal from a root of a level is to a member. -/
def SyncDown.delivery (level : Nat) : SyncDown → Delivery
  | .release e bad => .release level e bad
  | .result v => .result level v
  | .bcast v => .bcast level v
  | .event _ => .event
  | .broken => .broken level
  | .incomplete k => .incomplete level k

/-- A signal acts at the sole member, which an event does not where that core has sent it (12 R253). -/
theorem downAct_of_sole (hsole : (s.slot root n).members = [c]) (hmember : memberOf (s.core c) (s.slot root n).level n = true)
    (hheld : coreHeld s c = false) (hother : m ≠ .event c) : downAct root n s m = deliver c (m.delivery (s.slot root n).level) s := by
  have hall (d : Delivery) : deliverAll root n d s = deliver c d s := by
    simp only [deliverAll, hsole, List.foldl_cons, List.foldl_nil, deliverTo_of_member hmember hheld]
  cases m with
  | event src =>
    have hsrc : c ≠ src := fun h => hother (h ▸ rfl)
    simp only [downAct, hsole, List.foldl_cons, List.foldl_nil, if_neg hsrc, deliverTo_of_member hmember hheld, SyncDown.delivery]
  | _ => exact hall _

/-- The one signal under way to the members, due and of a kind that the event takes, is delivered to the sole member. -/
theorem downEv_of_sole {p : SyncDown → Bool} (hsole : (s.slot root n).members = [c])
    (hmember : memberOf (s.core c) (s.slot root n).level n = true) (hheld : coreHeld s c = false) (ht : t ≤ s.cycle)
    (hdown : (s.slot root n).down = [(t, m)]) (hp : p m = true) (hother : m ≠ .event c) :
    downEv root n p s = deliver c (m.delivery (s.slot root n).level) (s.modSlot root n .told) := by
  have htold : (s.modSlot root n .told).slot root n = (s.slot root n).told := slot_modSlot ..
  have htake : takeDown root n p s = ([m], s.modSlot root n .told) := Prod.ext (by simp [takeDown, hdown, ht, hp])
    (modSlot_congr (by simp [hdown, ht, hp, SyncSlot.told]))
  have hact : downAct root n (s.modSlot root n .told) m = deliver c (m.delivery (s.slot root n).level) (s.modSlot root n .told) := by
    rw [downAct_of_sole (s := s.modSlot root n .told) (htold ▸ hsole) (htold ▸ hmember) hheld hother, htold]
    rfl
  simp only [downEv, htake, List.foldl_cons, List.foldl_nil, hact]

theorem barrierReleaseEv_of_release {e : Nat} {bad : Bool} (ht : t ≤ s.cycle) (hdown : (s.slot root n).down = [(t, .release e bad)]) :
    barrierReleaseEv root n s = downEv root n isRelease
      (mergeCopies (fun y => y.level = (s.slot root n).level && (s.slot root n).members.any (fun c => c % 2048 = y.issuer)) s) :=
  if_pos (by simp [hdown, ht, isRelease])

/-- No verdict is due before a break that stands alone. -/
theorem verdictsDue_of_broken (hdown : (s.slot root n).down = [(t, .broken)]) : verdictsDue s root n = false := by
  simp [verdictsDue, hdown]

/-! ### What a delivery does -/

theorem deliver_release {level e : Nat} (hw : waitingWord (s.core c) (barWaiting level) = some w) :
    deliver c (.release level e false) s = finishWord c 3 w.seq 0 (s.modCore c (fun y => { y with
      pend := y.pend &&& ~~~(1#4 <<< level)
      csr := { y.csr with dom := tmod {} y.csr.dom level (fun d => { d with epoch := BitVec.ofNat 16 e }) } })) := by
  simp only [deliver, hw, Bool.false_eq_true, if_false]

theorem deliver_result {level : Nat} {v : Word} (hw : waitingWord (s.core c) (redWaiting level) = some w) :
    deliver c (.result level v) s = finishWord c 3 w.seq v s := by
  simp only [deliver, hw]

theorem deliver_event_merges (hmark : ((s.core c).markAt s.cycle).wfe = true) : deliver c .event s = s := if_pos hmark

theorem deliver_event_finishes (hmark : ((s.core c).markAt s.cycle).wfe = false) (hw : waitingWord (s.core c) wfeWaiting = some w) :
    deliver c .event s = finishWord c 3 w.seq 0 (s.modCore c (·.tookEvent s.cycle)) := by
  simp only [deliver, hmark, hw, Bool.false_eq_true, if_false]

theorem deliver_event_latches (hmark : ((s.core c).markAt s.cycle).wfe = false) (hw : waitingWord (s.core c) wfeWaiting = none) :
    deliver c .event s = s.modCore c (fun y => { y with evt := true }) := by
  simp only [deliver, hmark, hw, Bool.false_eq_true, if_false]

theorem deliver_broken {level : Nat} (hw : waitingWord (s.core c) (syncWaiting level) = some w) :
    deliver c (.broken level) s = failWord c 3 w.seq (waitTrap 0x15) s := by
  simp only [deliver, hw]

end Member

/-- Settles O33: at a root, the one signal is taken in and the root's slot alone changes; at the members, the one signal reaches the sole
member, where it is delivered. -/
theorem syncEventsAct : Obligations.SyncEventsAct := by
  unfold Obligations.SyncEventsAct
  refine ⟨?root, ?member⟩
  case root =>
    intro root n c t s x hlive hwhole hlevel ht
    refine ⟨fun hup hred hwaiting hall => ?last, fun hup hred hwaiting hmissing hcontribs => ?missing, fun hup hwaiting => ?credit,
      fun hup hred => ?fault⟩
    case last =>
      refine ⟨_, congrArg Host.Outcome.next (syncArrivalEv_of_last hlive hwhole ht hup hlevel hred hwaiting hall), ?_⟩
      simp [SyncSlot.counted, SyncSlot.heard, x]
    case missing =>
      obtain ⟨m, hm, habsent⟩ := hmissing
      refine ⟨_, congrArg Host.Outcome.next (syncArrivalEv_of_missing hlive hwhole ht hup hlevel hred hwaiting hm habsent hcontribs), ?_⟩
      simp [SyncSlot.counted, SyncSlot.heard, x]
    case credit =>
      refine ⟨_, congrArg Host.Outcome.next (creditReturnEv_of_credit ht hup hlevel hwaiting), ?_⟩
      simp [SyncSlot.freed, SyncSlot.heard, x]
    case fault =>
      refine ⟨_, congrArg Host.Outcome.next (faultSignalEv_of_fault hlive ht hup hlevel hred), ?_⟩
      rw [breakSlot_of_level (by rw [slot_modSlot]; exact hwhole) (by rw [slot_modSlot]; exact hlevel)]
      simp [sendDown, SyncSlot.heard, x]
  case member =>
    intro root n c t s w x u y hsole ht hmember hheld
    have hreach {p : SyncDown → Bool} {m : SyncDown} (hdown : x.down = [(t, m)]) (hp : p m = true) (hother : m ≠ .event c) :
        downEv root n p s = deliver c (m.delivery x.level) u := downEv_of_sole hsole hmember hheld ht hdown hp hother
    have hevent {src : Nat} (hdown : x.down = [(t, .event src)]) (hsrc : c ≠ src) : downEv root n isEvent s = deliver c .event u :=
      hreach hdown rfl fun h => hsrc (SyncDown.event.inj h).symm
    refine ⟨fun e m hdown hmerge hcores hsync hcycle hw => ?release,
      fun v hdown hw => congrArg Host.Outcome.next ((hreach hdown rfl SyncDown.noConfusion).trans (deliver_result hw)),
      fun v hdown => congrArg Host.Outcome.next (hreach hdown rfl SyncDown.noConfusion),
      fun src hdown hsrc hmark hw => congrArg Host.Outcome.next ((hevent hdown hsrc).trans (deliver_event_finishes hmark hw)),
      fun src hdown hsrc hmark hw => congrArg Host.Outcome.next ((hevent hdown hsrc).trans (deliver_event_latches hmark hw)),
      fun src hdown hsrc hmark => congrArg Host.Outcome.next ((hevent hdown hsrc).trans (deliver_event_merges hmark)),
      fun hdown hw => congrArg Host.Outcome.next ((if_neg (Bool.eq_false_iff.1 (verdictsDue_of_broken hdown))).trans
        ((hreach hdown rfl SyncDown.noConfusion).trans (deliver_broken hw)))⟩
    case release =>
      have hslot : m.slot root n = x := congrArg (tget ({} : SyncSlot) · (root * 64 + n)) hsync
      have hcore : m.core c = y := congrArg (tget ({} : Core) · c) hcores
      have hm : coreHeld m c = false := by
        unfold coreHeld
        rw [hcore, hcycle]
        exact hheld
      have hwait : waitingWord (m.core c) (barWaiting x.level) = some w := hcore ▸ hw
      refine congrArg Host.Outcome.next ?_
      rw [barrierReleaseEv_of_release ht hdown, hmerge, downEv_of_sole (hslot ▸ hsole) (by rw [hslot, hcore]; exact hmember) hm
        (hcycle ▸ ht) (hslot ▸ hdown) rfl SyncDown.noConfusion, hslot]
      exact deliver_release hwait

end Sys2Proof.Machine
end

section
/-! PROOFS. W words (13 R267 to R272): how a tile port's view changes as a beat enters or leaves it, what WOUT, WIN and WDRAIN do with their
beats, and the statement `PortWordsComplete`. -/

namespace Sys2Proof.Machine

/-! ### A tile port as a beat enters or leaves it (13 R267) -/

/-- The writer sees its own beat at once. -/
@[simp] theorem occ_put (p : Port) (n t : Nat) (b : Beat) : (p.put n b).occ t = p.occ t + 1 := by
  simp only [Port.occ, Port.put, List.length_append, List.length_singleton]
  omega

/-- Where the reader sees some beats first, it takes the first of them, and then sees the others first. -/
theorem pop_of_visible {p : Port} {n t : Nat} {b : Beat} {r : List Beat} (h : b :: r <+: p.visible t) :
    (p.visible t).head? = some b ∧ p.fifo = b :: (p.pop n).fifo ∧ r <+: (p.pop n).visible t := by
  refine ⟨by obtain ⟨l, hl⟩ := h; rw [← hl, List.cons_append, List.head?_cons], ?_⟩
  unfold Port.visible at h
  unfold Port.pop Port.visible
  cases hfifo : p.fifo with
  | nil => simp [hfifo] at h
  | cons a l =>
    rw [hfifo, List.length_cons] at h
    generalize hk : (p.enter.filter (fun e => decide (t < e + 2))).length = k at h
    have hlt : k ≤ l.length := by
      by_contra hlt
      simp [show l.length + 1 - k = 0 by omega] at h
    rw [Nat.succ_sub hlt, List.take_succ_cons, List.cons_prefix_cons] at h
    obtain ⟨rfl, hr⟩ := h
    exact ⟨rfl, hk ▸ hr⟩

/-! ### WOUT and WEOS: beats enter the out-port (13 R268, R270) -/

/-- A beat enters a port at a cycle. -/
def State.enterBeat (c pk n : Nat) (s : State) (b : Beat) : State :=
  s.modData c (fun x => x.setPort pk ((x.port pk).put n b))

/-- Beats for which there is room all enter, and the word has run. -/
theorem woutGo_of_room {c pk : Nat} {beats bs : List Beat} {f : Nat} {w : QWord} {t : State} (hrest : beats.drop w.idx = bs)
    (hfuel : bs.length < f) (hroom : ((t.core c).d.port pk).occ t.cycle + bs.length ≤ 16) :
    woutGo c pk beats f w t = .done (bs.foldl (State.enterBeat c pk t.cycle) t) 0 false := by
  induction bs generalizing f w t with
  | nil =>
    obtain ⟨f, rfl⟩ := Nat.exists_eq_succ_of_ne_zero (Nat.ne_zero_of_lt hfuel)
    have hnone : beats[w.idx]? = none := by rw [← List.head?_drop, hrest, List.head?_nil]
    simp only [woutGo, hnone, List.foldl_nil]
  | cons b r ih =>
    obtain ⟨f, rfl⟩ := Nat.exists_eq_succ_of_ne_zero (Nat.ne_zero_of_lt hfuel)
    rw [List.length_cons] at hfuel hroom
    have hsome : beats[w.idx]? = some b := by rw [← List.head?_drop, hrest, List.head?_cons]
    have hnext : beats.drop (w.idx + 1) = r := by rw [← List.tail_drop, hrest, List.tail_cons]
    have hentered : ((((t.enterBeat c pk t.cycle b).core c).d.port pk).occ t.cycle) + r.length ≤ 16 := by
      simp only [State.enterBeat, core_modData, port_setPort, occ_put]
      omega
    simp only [woutGo, hsome]
    refine (if_neg (by omega)).trans ?_
    exact ih (w := { w with idx := w.idx + 1 }) (t := t.enterBeat c pk t.cycle b) hnext (by omega) hentered

/-! ### WIN and WDRAIN: beats leave the in-port (13 R269, R271) -/

/-- A beat leaves a port. -/
def State.popBeat (c pk : Nat) (s : State) : State := s.modData c (·.setPort pk (((s.core c).d.port pk).pop s.cycle))

@[simp] theorem port_popBeat (c pk : Nat) (s : State) :
    ((s.popBeat c pk).core c).d.port pk = ((s.core c).d.port pk).pop s.cycle := by
  simp [State.popBeat]

/-- Who is ahead on an in-port is a matter of the strands' words and of the cycle's mark. -/
theorem inAhead_modData (s : State) (c tl due : Nat) (drain : Bool) (f : CoreData → CoreData) :
    inAhead (s.modData c f) c tl drain due = inAhead s c tl drain due := by
  unfold inAhead
  rw [core_modData]
  rfl

/-- A WDRAIN does not ask what drains have taken in the cycle. -/
theorem inAhead_drain_setMark (s : State) (c tl due : Nat) (f : CycleMark → CycleMark) :
    inAhead (s.modCore c (·.setMark s.cycle f)) c tl true due = inAhead s c tl true due := by
  unfold inAhead
  rw [core_modCore]
  rfl

/-- A WIN that has taken one more beat. -/
def QWord.withBeat (b : Beat) (w : QWord) : QWord := { w with idx := w.idx + 1, buf := w.buf ++ leBytes 64 b.data.toNat }

/-- WIN takes the first visible beat; a flagged one is its last. -/
theorem winGo_step {c tl nb v f : Nat} {b : Beat} {r : List Beat} {w : QWord} {t : State}
    (hvisible : b :: r <+: ((t.core c).d.port (inPort tl)).visible t.cycle) (hwants : w.idx < nb)
    (hahead : inAhead t c tl false w.due = false) : winGo c tl nb v (f + 1) w t = if b.flag
      then .done ((t.popBeat c (inPort tl)).modData c (·.setV v (vOf (w.withBeat b).buf))) 0 true
      else winGo c tl nb v f (w.withBeat b) (t.popBeat c (inPort tl)) := by
  obtain ⟨hhead, -⟩ := pop_of_visible (n := t.cycle) hvisible
  rw [winGo, if_neg (Nat.not_le.2 hwants), if_neg (ne_true_of_eq_false hahead)]
  simp only [hhead]
  rfl

/-- WIN on beats that are visible, of which only the last may be flagged: it takes them, and gives its register their bytes. `b₀` is the
beat before them, which is not flagged. -/
theorem winGo_of_visible {c tl nb v f : Nat} {bs : List Beat} {b₀ : Beat} {w : QWord} {t : State} (hplain₀ : b₀.flag = false)
    (hvisible : bs <+: ((t.core c).d.port (inPort tl)).visible t.cycle) (hplain : ∀ b ∈ bs.dropLast, b.flag = false)
    (hmost : w.idx + bs.length ≤ nb) (hlast : w.idx + bs.length = nb ∨ (bs.getLastD b₀).flag = true) (hfuel : bs.length < f)
    (hahead : inAhead t c tl false w.due = false) :
    ∃ u, winGo c tl nb v f w t = .done u 0 (bs.getLastD b₀).flag ∧
      (u.core c).d.getV v = vOf (w.buf ++ bs.flatMap (fun b => leBytes 64 b.data.toNat)) ∧
      ((u.core c).d.port (inPort tl)).fifo = ((t.core c).d.port (inPort tl)).fifo.drop bs.length ∧ u.mem = t.mem := by
  induction bs generalizing f b₀ w t with
  | nil =>
    obtain ⟨f, rfl⟩ := Nat.exists_eq_succ_of_ne_zero (Nat.ne_zero_of_lt hfuel)
    have hfull : w.idx = nb := by simpa [hplain₀] using hlast
    refine ⟨t.modData c (·.setV v (vOf w.buf)), ?run, ?register, ?fifo, rfl⟩
    case run =>
      simp only [winGo, if_pos (Nat.le_of_eq hfull.symm), List.getLastD_nil, hplain₀]
    case register => simp
    case fifo =>
      rw [core_modData]
      rfl
  | cons b r ih =>
    obtain ⟨f, rfl⟩ := Nat.exists_eq_succ_of_ne_zero (Nat.ne_zero_of_lt hfuel)
    rw [List.length_cons] at hmost hlast hfuel
    obtain ⟨-, hfifo, hrest⟩ := pop_of_visible (n := t.cycle) hvisible
    rw [winGo_step hvisible (by omega) hahead, hfifo, List.getLastD_cons]
    cases hflag : b.flag with
    | true =>
      obtain rfl : r = [] := by
        cases r with
        | nil => rfl
        | cons a r => simp [hplain b (by simp)] at hflag
      refine ⟨(t.popBeat c (inPort tl)).modData c (·.setV v (vOf (w.withBeat b).buf)), ?run, ?register, ?fifo, rfl⟩
      case run => rw [if_pos rfl, List.getLastD_nil, hflag]
      case register => simp [QWord.withBeat]
      case fifo =>
        rw [core_modData]
        exact congrArg Port.fifo (port_popBeat ..)
    | false =>
      have hplain' : ∀ a ∈ r.dropLast, a.flag = false := fun a ha => by
        cases r with
        | nil => simp at ha
        | cons => exact hplain a (by simp [ha])
      obtain ⟨u, hrun, hv, hf, hmem⟩ := ih (w := w.withBeat b) (t := t.popBeat c (inPort tl)) hflag
        (by rw [port_popBeat]; exact hrest) hplain' (by simp only [QWord.withBeat]; omega)
        (hlast.imp (fun h => by simp only [QWord.withBeat]; omega) (fun h => by rwa [List.getLastD_cons] at h)) (Nat.lt_of_succ_lt_succ hfuel)
        ((inAhead_modData ..).trans hahead)
      refine ⟨u, hrun, ?register, ?fifo, hmem⟩
      case register => simpa [QWord.withBeat] using hv
      case fifo => rw [hf, port_popBeat, List.length_cons, List.drop_succ_cons]

/-- A WDRAIN takes a beat in the cycle of its start. -/
def State.drainBeat (c tl : Nat) (s : State) : State :=
  (s.popBeat c (inPort tl)).modCore c (·.setMark s.cycle (fun m => { m with drained := tl :: m.drained }))

@[simp] theorem port_drainBeat (c tl : Nat) (s : State) :
    ((s.drainBeat c tl).core c).d.port (inPort tl) = ((s.core c).d.port (inPort tl)).pop s.cycle := by
  unfold State.drainBeat
  rw [core_modCore]
  exact port_popBeat ..

/-- WDRAIN, in the cycle of its start, discards the first visible beat; a flagged one is its last. -/
theorem drainGo_step {c tl f : Nat} {b : Beat} {r : List Beat} {w : QWord} {t : State}
    (hvisible : b :: r <+: ((t.core c).d.port (inPort tl)).visible t.cycle) (hdue : w.due = t.cycle)
    (hahead : inAhead t c tl true w.due = false) : drainGo c tl (f + 1) w t
      = if b.flag then .done (clearCause c (inPort tl) (t.drainBeat c tl)) 0 false else drainGo c tl f w (t.drainBeat c tl) := by
  obtain ⟨hhead, -⟩ := pop_of_visible (n := t.cycle) hvisible
  have hmark : w.due = (t.modData c (·.setPort (inPort tl) (((t.core c).d.port (inPort tl)).pop t.cycle))).cycle := hdue
  rw [drainGo]
  simp only [if_neg (ne_true_of_eq_false hahead), hhead, if_pos hmark]
  rfl

/-- WDRAIN, in the cycle of its start, on visible beats up to a flagged one: it discards them and clears the cause. -/
theorem drainGo_of_visible {c tl f : Nat} {bs : List Beat} {b : Beat} {w : QWord} {t : State}
    (hvisible : bs ++ [b] <+: ((t.core c).d.port (inPort tl)).visible t.cycle) (hplain : ∀ a ∈ bs, a.flag = false) (hflag : b.flag = true)
    (hfuel : bs.length < f) (hdue : w.due = t.cycle) (hahead : inAhead t c tl true w.due = false) :
    ∃ u, drainGo c tl f w t = .done u 0 false ∧
      ((u.core c).d.port (inPort tl)).fifo = ((t.core c).d.port (inPort tl)).fifo.drop (bs.length + 1) ∧
      ((u.core c).d.port (inPort tl)).cause = 0 ∧ u.mem = t.mem := by
  induction bs generalizing f t with
  | nil =>
    obtain ⟨f, rfl⟩ := Nat.exists_eq_succ_of_ne_zero (Nat.ne_zero_of_lt hfuel)
    obtain ⟨-, hfifo, -⟩ := pop_of_visible (n := t.cycle) hvisible
    refine ⟨_, (drainGo_step hvisible hdue hahead).trans (if_pos hflag), ?fifo, ?cause, rfl⟩
    case fifo =>
      rw [hfifo, clearCause, core_modData, port_setPort, port_drainBeat]
      rfl
    case cause => rw [clearCause, core_modData, port_setPort]
  | cons a r ih =>
    obtain ⟨f, rfl⟩ := Nat.exists_eq_succ_of_ne_zero (Nat.ne_zero_of_lt hfuel)
    obtain ⟨-, hfifo, hrest⟩ := pop_of_visible (n := t.cycle) hvisible
    obtain ⟨hplain₁, hplain'⟩ := List.forall_mem_cons.1 hplain
    obtain ⟨u, hrun, hf, hcause, hmem⟩ := ih (t := t.drainBeat c tl) (by rw [port_drainBeat]; exact hrest) hplain'
      (Nat.lt_of_succ_lt_succ hfuel) hdue
      ((inAhead_drain_setMark (t.popBeat c (inPort tl)) ..).trans ((inAhead_modData ..).trans hahead))
    refine ⟨u, ((drainGo_step hvisible hdue hahead).trans (if_neg (ne_true_of_eq_false hplain₁))).trans hrun, ?_, hcause, hmem⟩
    rw [hf, hfifo, port_drainBeat, List.length_cons, List.drop_succ_cons]

/-! ### The checks before a word's beats move (13 R270, R271) -/

section Checks

variable {c pk : Nat} {w : QWord} {t : State}

theorem onPort_of_bound {go : QWord → Run} (hbound : ((t.core c).d.port pk).bound = true) (hcause : ((t.core c).d.port pk).cause = 0) :
    onPort c pk w t go = go w := if_neg (by simp [hbound, hcause])

/-- A drain that starts on a bound port is due in the cycle of its start. -/
theorem onBound_of_bound {go : QWord → Run} (hbound : ((t.core c).d.port pk).bound = true) (hphase : w.phase = .queued) :
    onBound c pk w t go = go { w with due := t.cycle } :=
  (if_neg (by simp [hbound])).trans (congrArg go (if_pos hphase))

/-- A WIN that is behind no drain in this cycle finds that none has taken a beat in it. -/
theorem not_drained_of_ahead {tl : Nat} (h : inAhead t c tl false t.cycle = false) :
    ((t.core c).markAt t.cycle).drained.contains tl = false := by
  simp only [inAhead, Bool.or_eq_false_iff, Bool.not_false, Bool.true_and, decide_true] at h
  exact h.2

end Checks

/-! ### The bodies of the words -/

section Bodies

variable {h : Hdr} {tile n : BitVec 2} {v : BitVec 5} {e q : BitVec 1} {c k : Nat} {w : QWord} {t : State}

/-- WOUT on a port with room enters its beats, in order (13 R268). -/
theorem wout_body (hfirst : w.idx = 0) (hbuf : w.buf = []) (hbound : ((t.core c).d.port (outPort tile.toNat)).bound = true)
    (hcause : ((t.core c).d.port (outPort tile.toNat)).cause = 0)
    (hroom : ((t.core c).d.port (outPort tile.toNat)).occ t.cycle + n.toNat + 1 ≤ 16) :
    (specWout h tile v e n).body c k w t = .done ((woutBeats (vBytes ((t.core c).d.getV v.toNat)) (n.toNat + 1) (e = 1)).foldl
      (State.enterBeat c (outPort tile.toNat) t.cycle) t) 0 false := by
  have hlen : (woutBeats (vBytes ((t.core c).d.getV v.toNat)) (n.toNat + 1) (e = 1)).length = n.toNat + 1 := by simp [woutBeats]
  simp only [specWout, wWord, onPort_of_bound hbound hcause, hbuf, List.isEmpty_nil, if_true]
  exact woutGo_of_room (by rw [hfirst, List.drop_zero]) (by omega) (by omega)

theorem weos_body (hfirst : w.idx = 0) (hbound : ((t.core c).d.port (outPort tile.toNat)).bound = true)
    (hcause : ((t.core c).d.port (outPort tile.toNat)).cause = 0) (hroom : ((t.core c).d.port (outPort tile.toNat)).occ t.cycle < 16) :
    (specWeos h tile).body c k w t = .done ([⟨0, true⟩].foldl (State.enterBeat c (outPort tile.toNat) t.cycle) t) 0 false := by
  simp only [specWeos, wWord, onPort_of_bound hbound hcause]
  exact woutGo_of_room (by rw [hfirst, List.drop_zero]) (by simp) hroom

/-- A WIN that is behind no drain in the cycle of its start takes its beats (13 R269, R271). -/
theorem win_body (hphase : w.phase = .queued) (hbound : ((t.core c).d.port (inPort tile.toNat)).bound = true)
    (hcause : ((t.core c).d.port (inPort tile.toNat)).cause = 0) (hahead : inAhead t c tile.toNat false t.cycle = false) :
    (specWin h tile v q n).body c k w t = winGo c tile.toNat (n.toNat + 1) v.toNat 6 { w with due := t.cycle } t := by
  simp only [specWin, wWord, onPort_of_bound hbound hcause, not_drained_of_ahead hahead, Bool.and_false, Bool.false_eq_true, if_false,
    if_pos hphase]

theorem wdrainIn_body (hphase : w.phase = .queued) (hbound : ((t.core c).d.port (inPort tile.toNat)).bound = true) :
    (specWdrainIn h tile).body c k w t = drainGo c tile.toNat 17 { w with due := t.cycle } t := by
  simp only [specWdrainIn, wWord, onBound_of_bound hbound hphase]

/-- WDRAIN of an out-port that its region has emptied clears the cause. -/
theorem wdrainOut_body (hphase : w.phase = .queued) (hbound : ((t.core c).d.port (outPort tile.toNat)).bound = true)
    (hempty : ((t.core c).d.port (outPort tile.toNat)).occ t.cycle = 0) :
    (specWdrainOut h tile).body c k w t = .done (clearCause c (outPort tile.toNat) t) 0 false := by
  simp only [specWdrainOut, wWord, onBound_of_bound hbound hphase, if_pos hempty]

end Bodies

/-- Settles O20: the word's port passes its check; then its beats move one by one, or its answer is computed. -/
theorem portWordsComplete : Obligations.PortWordsComplete := by
  intro h tile n v dst num e q r s w t c k pin pout beats entered cleared
  refine ⟨fun hr hbound hcause hroom => ?out,
    fun hr hbound hcause hroom => runs_done (exec_word rfl s) hr (weos_body (runsNow_idx hr) hbound hcause hroom),
    ?win, fun hr => runs_done (exec_word rfl s) hr rfl, fun hr => runs_done (exec_word rfl s) hr rfl,
    fun hr => runs_done (exec_word rfl s) hr rfl, fun m b hm hr hbound hahead hb hflag hplain => ?drain,
    fun hr hbound hempty => runs_done (exec_word rfl s) hr (wdrainOut_body (runsNow_phase hr) hbound hempty)⟩
  case out =>
    obtain ⟨-, hbuf, -⟩ := runsNow_unread hr rfl
    exact runs_done (exec_word rfl s) hr (wout_body (runsNow_idx hr) hbuf hbound hcause hroom)
  case win =>
    intro m hm hr hbound hcause hahead bs last hlen hplain hlast
    obtain ⟨-, hbuf, -⟩ := runsNow_unread hr rfl
    have hidx : w.idx = 0 := runsNow_idx hr
    obtain ⟨u, hrun, hv, hfifo, hmem⟩ := winGo_of_visible (nb := n.toNat + 1) (v := v.toNat) (f := 6) (b₀ := ⟨0, false⟩)
      (bs := bs) (w := { w with due := t.cycle }) rfl (List.take_prefix ..) hplain (by dsimp only; omega)
      (hlast.imp_left fun h => by dsimp only; omega) (by omega) hahead
    refine ⟨u, runs_done (exec_word rfl s) hr ((win_body (runsNow_phase hr) hbound hcause hahead).trans hrun), ?_, hlen ▸ hfifo, hmem⟩
    rw [hv, hbuf]
    rfl
  case drain =>
    obtain ⟨hlt, rfl⟩ := List.getElem?_eq_some_iff.1 hb
    have hvisible : (pin.visible t.cycle).take m ++ [(pin.visible t.cycle)[m]] <+: pin.visible t.cycle := by
      rw [List.take_append_getElem]
      exact List.take_prefix ..
    have hlen : ((pin.visible t.cycle).take m).length = m := List.length_take_of_le hlt.le
    obtain ⟨u, hrun, hfifo, hcause, hmem⟩ := drainGo_of_visible (f := 17) (w := { w with due := t.cycle }) hvisible hplain hflag
      (by omega) rfl hahead
    exact ⟨u, runs_done (exec_word rfl s) hr ((wdrainIn_body (runsNow_phase hr) hbound).trans hrun), hlen ▸ hfifo, hcause, hmem⟩

end Sys2Proof.Machine
end

section
/-! PROOFS. Regions (13 R260 to R267, 14 R285, R287): what an edge samples, how its updates are made one by one, what happens between edges,
and the statement `RegionEventsAct`. -/

namespace Sys2Proof.Machine

/-! ### The updates of a sampled edge (13 R260, R264, R265) -/

section Edge

variable {rg : Nat} {s : State} {e : Edge}

theorem clockEdgeEv_of_edge (hedge : ((sampleEdge rg s).region rg).edge = some e) (hat : e.at_ = (sampleEdge rg s).cycle)
    (hclock : e.clock = true) : clockEdgeEv rg s = (sampleEdge rg s).modRegion rg (fun r => { r with
      flops := e.flops.foldl (fun t p => tput t p.1 p.2) r.flops, ram := e.ram, ramOut := e.ramOut, edge := some { e with clock := false } }) := by
  simp only [clockEdgeEv, hedge]
  exact if_pos (by simp [hat, hclock])

theorem withyEv_of_op {w : Nat} {o : WithyOp} (hedge : ((sampleEdge rg s).region rg).edge = some e) (hat : e.at_ = (sampleEdge rg s).cycle)
    (hop : e.withies.find? (fun o => o.w = w) = some o) : withyEv rg w s = (sampleEdge rg s).modRegion rg (fun r => { r with
      withies := tmod {} r.withies w (fun x => { entries := (if o.take then x.entries.drop 1 else x.entries) ++ o.put.toList })
      edge := some { e with withies := e.withies.filter (fun p => p.w ≠ w) } }) := by
  simp only [withyEv, hedge, if_pos hat, hop]

/-- The region after the transfer of one beat of an edge on a lane. -/
def Region.transferred (k : Nat) (out : Bool) (e : Edge) (b : Beat) (r : Region) : Region := { r with
  lanes := tmod {} r.lanes k (fun l => if out then { l with lastOut := some b.flag } else { l with lastIn := some b.flag })
  edge := some { e with lanes := e.lanes.filter (fun p => !(p.k = k && p.egress = out)) } }

theorem beatEv_of_op {k : Nat} {out : Bool} {o : LaneOp} (hedge : ((sampleEdge rg s).region rg).edge = some e)
    (hat : e.at_ = (sampleEdge rg s).cycle) (hop : e.lanes.find? (fun o => o.k = k && o.egress = out) = some o) :
    beatEv rg k out s = ((sampleEdge rg s).modRegion rg (·.transferred k out e o.beat)).modData (laneTile rg k).1 (fun d =>
      if out then d.setPort (outPort (laneTile rg k).2) ((d.port (outPort (laneTile rg k).2)).pop (sampleEdge rg s).cycle)
      else d.setPort (inPort (laneTile rg k).2) ((d.port (inPort (laneTile rg k).2)).put (sampleEdge rg s).cycle o.beat)) := by
  simp only [beatEv, hedge, if_pos hat, hop]
  rfl

end Edge

/-! ### The sample of an edge (13 R260) -/

/-- An edge that is due and not yet sampled, and whose lanes latch no cause: the region gets its updates, computed from the state before
it, and the clock's are still to be made. -/
theorem sampleEdge_of_due {rg : Nat} {s : State} (hdue : edgeDue s (s.region rg) = true) (hnone : (s.region rg).edge = none)
    (hhold : swapHold s (s.region rg) = false)
    (hquiet : ∀ k < 8, (laneIn (tget {} (s.region rg).lanes k) (laneOffer (regionEnv s rg) k) ((regionEnv s rg).ready k)).2.1 = none) :
    ∃ e, ((sampleEdge rg s).region rg).edge = some e ∧ e.at_ = s.cycle ∧ e.clock = true ∧
      e.flops = (clockUpdates (regionEnv s rg) (s.freeVal.getLsbD 0)).1 := by
  unfold sampleEdge
  simp only [hdue, hnone, hhold, Bool.not_true, Bool.or_false, Bool.false_eq_true, if_false]
  rw [foldl_id _ _ _ ?quiet, region_takeFree, region_modRegion]
  · exact ⟨_, rfl, rfl, rfl, rfl⟩
  case quiet =>
    intro p hp
    obtain ⟨k, hk, rfl⟩ := List.mem_map.1 hp
    simp only [hquiet k (List.mem_range.1 hk)]

/-! ### Between a region's edges (13 R262, 14 R285, R287) -/

section Between

variable {rg : Nat} {s : State}

theorem boundaryDue_of_boundary (hlive : (s.region rg).live = .pending) (hswap : (s.region rg).swapAt = none)
    (hclock : s.cycle % divider (s.region rg).clk.toNat = 0) (hmade : edgePending s rg = false) (hat : atBoundary (s.region rg) = true) :
    boundaryDue s rg = true := by
  simp [boundaryDue, hlive, hswap, hclock, hmade, hat]

theorem exchangeDue_of_held {r : Region} {e : Nat} (hlive : r.live = .pending) (hswap : r.swapAt = some e) (hheld : e + 64 < s.cycle)
    (hclock : s.cycle % divider (r.stby.hdr 7 1) = 0) : exchangeDue s r = true := by
  simp [exchangeDue, hlive, hswap, hheld, hclock]

/-- What a RAM error does at an edge (13 R262). -/
theorem ramErrorEv_of_made {fatal : Bool} (hmade : edgeMade s (s.region rg) rg = true) : ramErrorEv rg fatal s = if fatal
    then (List.range 8).foldl (fun s k => latchCause (laneTile rg k).1 (outPort (laneTile rg k).2) 5
      (latchCause (laneTile rg k).1 (inPort (laneTile rg k).2) 5 s))
        ((cancelSwap rg s).modRegion rg (fun r => { r with live := .frozen, err := true }))
    else s.modRegion rg (fun r => { r with ecount := Nat.min (r.ecount + 1) 0xFFFF }) :=
  if_neg (by simp [hmade])

/-- The chunks of a save whose one piece is ready reach memory. -/
theorem writebackEv_of_ready {die : Nat} {ctx : BitVec 16} {a n : Nat} (hpages : (s.die die).wbPages = some (ctx, [(a, n)]))
    (hready : rangeReady s a n = true) : writebackEv die s
      = (writeAny ctx a ((chainBytes (s.die die).outBuf).take n) s).modDie die (fun x => { x with wbPages := none }) := by
  simp only [writebackEv, hpages]
  exact if_neg (by simp [hready])

end Between

/-- Settles O30: each update of a sampled edge is made by its own event, the sample itself latches nothing where no lane breaks a rule, and
what happens between edges is where its condition holds. -/
theorem regionEventsAct : Obligations.RegionEventsAct := by
  unfold Obligations.RegionEventsAct
  refine ⟨?edge, ?between⟩
  case edge =>
    intro rg s u x
    refine ⟨fun e hedge hat => ?updates, sampleEdge_of_due, fun c p => rfl⟩
    refine ⟨fun hclock => congrArg Host.Outcome.next (clockEdgeEv_of_edge hedge hat hclock),
      fun w o hop => congrArg Host.Outcome.next (withyEv_of_op hedge hat hop),
      fun k o hop => ⟨_, congrArg Host.Outcome.next (beatEv_of_op hedge hat hop), rfl, ?ingress, ?lastIn⟩,
      fun k o hop => ⟨_, congrArg Host.Outcome.next (beatEv_of_op hedge hat hop), rfl, ?egress, ?lastOut⟩⟩
    case ingress => exact (congrArg (CoreData.port · _) (data_modData ..)).trans (port_setPort ..)
    case egress => exact (congrArg (CoreData.port · _) (data_modData ..)).trans (port_setPort ..)
    case lastIn => simp [Region.transferred, tget_tmod]
    case lastOut => simp [Region.transferred, tget_tmod]
  case between =>
    intro rg die s r
    exact ⟨fun hlive hswap hclock hmade hat => congrArg Host.Outcome.next (if_pos (boundaryDue_of_boundary hlive hswap hclock hmade hat)),
      fun e hlive hswap hheld hclock => congrArg Host.Outcome.next (if_pos (exchangeDue_of_held hlive hswap hheld hclock)),
      fun hmade => congrArg Host.Outcome.next (ramErrorEv_of_made hmade),
      fun hmade => congrArg Host.Outcome.next (ramErrorEv_of_made hmade),
      fun ctx a n hpages hready => congrArg Host.Outcome.next (writebackEv_of_ready hpages hready)⟩

end Sys2Proof.Machine
end

section
/-! PROOFS. What package reset leaves (26 R443, 03 R84, 10 R225): the statements `ResetValues` and `ResetMemoryCanonical`. -/

namespace Sys2Proof.Machine

/-- A die after package reset has only its default interleave domains (10 R225). -/
theorem die_reset (d : Nat) : State.reset.die d = {} ∨ State.reset.die d = { il := defaultDomains } := by
  rcases tget_mem ({} : Die) State.reset.dies d with h | ⟨k, h⟩
  · exact .inl h
  · obtain ⟨n, -, hn⟩ := List.mem_map.1 h
    exact .inr (Prod.mk.inj hn).2.symm

/-- Every queue-table entry is inactive after package reset. -/
theorem qtab_reset (d : Nat) : (State.reset.die d).qtab = [] := by
  rcases die_reset d with h | h <;> rw [h]

/-- Each of the eight dies has the default domains. -/
theorem il_reset {d : Nat} (h : d < 8) : (State.reset.die d).il = defaultDomains := by
  interval_cases d <;> rfl

/-- Settles O37: no table of the reset state but the dies' lists a key, so every read of it gives its type's default. -/
theorem resetValues : Obligations.ResetValues := by
  unfold Obligations.ResetValues
  refine ⟨fun a => rfl, fun c k => ⟨rfl, fun n => ite_self _, rfl, rfl, rfl, rfl, rfl⟩, fun c a => ⟨rfl, rfl⟩, fun c n => ⟨rfl, rfl⟩,
    fun c => ⟨(by decide : wbits 0x0300000000000000#64 57 56 = 3), rfl, rfl, rfl, rfl, rfl⟩, fun d q => ?queues, rfl, fun d hd n hn => ?domains⟩
  case queues =>
    simp [qtab_reset]
  case domains =>
    rw [il_reset hd]
    interval_cases n <;> rfl

/-- Settles O38: nothing has been written. -/
theorem resetMemoryCanonical : Obligations.ResetMemoryCanonical := rfl

end Sys2Proof.Machine
end

section
/-! PROOFS. The layered-tensor words on a handle that checks (19 R368 to R371): the statement `LayeredWordsComplete`. -/

namespace Sys2Proof.Machine

@[simp] theorem touch_now (s : State) (pa : Nat) (write : Bool) : (s.touch pa write).now = s.now := by
  obtain ⟨p, b, l, e⟩ := touch_state s pa write
  rw [e]

@[simp] theorem readBytes_now (s : State) (pa n : Nat) : (readBytes s pa n).2.1.now = s.now := by
  unfold readBytes
  dsimp only
  split
  · rfl
  · split
    · rfl
    · exact foldl_field State.now (fun _ _ => touch_now ..) _ _

/-- A handle that checks has been translated and read (19 R368). -/
theorem handleCheck_state {c : Nat} {write : Bool} {va : Word} {s u : State} {pa : Nat} {hd : Handle}
    (h : handleCheck c write va s = (.ok (pa, hd), u)) : ∃ q, u = (readBytes (coreXlat s c q va.toNat).2 pa 64).2.1 := by
  unfold handleCheck at h
  extract_lets bad at h
  have hbad : ∀ e s, bad e s ≠ (.ok (pa, hd), u) := fun e s he => by simp [bad] at he
  clear_value bad
  split at h
  · exact absurd h (hbad _ _)
  split at h
  · exact absurd h (hbad _ _)
  split at h
  · exact absurd h (hbad _ _)
  split at h
  · exact absurd h (hbad _ _)
  next pa' leaf n v hx =>
    obtain ⟨-, h⟩ | ⟨-, h⟩ := ite_eq_iff.1 h
    · exact absurd h (hbad _ _)
    split at h
    · exact absurd h (hbad _ _)
    next v' b hb =>
      obtain ⟨-, h⟩ | ⟨-, h⟩ := ite_eq_iff.1 h
      · exact absurd h (hbad _ _)
      obtain ⟨⟨rfl, -⟩, rfl⟩ : (pa' = pa ∧ Handle.parse b = hd) ∧ v' = u := by simpa using h
      exact ⟨_, by rw [hx, hb]⟩

theorem handleCheck_now {c : Nat} {write : Bool} {va : Word} {s u : State} {pa : Nat} {hd : Handle}
    (h : handleCheck c write va s = (.ok (pa, hd), u)) : u.now = s.now := by
  obtain ⟨q, rfl⟩ := handleCheck_state h
  rw [readBytes_now, coreXlat_now]

/-- A layered-tensor word that starts on a handle that checks, in no fold that it would wait for and with its release's waits over, acts on
the handle as it is then (11 R236, 19 R368). -/
theorem layWord_body {write fold rel : Bool} {issue : QWord → Handle → Option (BitVec 8)} {act : Nat → QWord → Nat → Handle → State → Run}
    {h : Hdr} {d a : BitVec 5} {c k pa : Nat} {w : QWord} {t u : State} {hd : Handle} (hph : w.phase = .queued) (hdue : w.due = 0)
    (hnow : t.now = true) (hcheck : handleCheck c write w.va t = (.ok (pa, hd), u)) (hready : rangeReady u pa 64 = true)
    (hissue : issue w hd = none) (hfold : fold = true → (tget {} u.folds pa).active = false)
    (hrel : rel = true → released c k false w u) :
    (layWord write issue fold rel act h d a).body c k w t = act c { w with idx := pa, due := 0 } pa (handleAt u pa) u := by
  have hbegins : ¬ w.phase = .started := by rw [hph]; decide
  have hfree : ¬ (fold && (tget {} u.folds pa).active) = true := by
    intro h
    obtain ⟨h1, h2⟩ := Bool.and_eq_true_iff.1 h
    exact Bool.false_ne_true ((hfold h1).symm.trans h2)
  have hhome : (w.due = 1 || (u.now && rangeReady u pa 64)) = true := by
    rw [handleCheck_now hcheck, hnow, hready]
    simp
  unfold layWord
  simp only [hbegins, if_false, hcheck, hissue]
  refine (if_neg hfree).trans ?_
  cases rel with
  | true =>
    refine (if_pos (by simp [hdue])).trans ((onRelease_of_released (w := { w with idx := pa }) (hrel rfl)).trans ?_)
    exact if_pos hhome
  | false => exact (if_neg Bool.false_ne_true).trans (if_pos hhome)

/-- Settles O17: each word's action on a handle that checks. -/
theorem layeredWordsComplete : Obligations.LayeredWordsComplete := by
  unfold Obligations.LayeredWordsComplete
  have fresh {i : Instr} {s t : State} {w : QWord} (hr : runsNow i s = some (w, t)) (he : (specOf i).engine = .q)
      (hcq : (specOf i).cqPop = false) : w.phase = .queued ∧ w.due = 0 ∧ t.now = true :=
    ⟨runsNow_phase hr, (runsNow_unread hr hcq).2.2, runsNow_now hr he nofun⟩
  constructor
  · intro h d a b s w t pa hd u c k cur still hcheck hready
    refine ⟨fun hr haligned hrel hroom => runs_done (exec_word rfl s) hr ?lat,
      fun hr hstill hrel hlayer => runs_done (exec_word rfl s) hr ?ldt,
      fun hr hstill hrel hissue hnow => runs_done (exec_word rfl s) hr ?lfold⟩
    case lat =>
      obtain ⟨hph, hdue, hnow⟩ := fresh hr rfl rfl
      dsimp only [specOf, specLat]
      refine (layWord_body hph hdue hnow hcheck hready (if_neg (not_not.2 haligned)) (by simp) (fun _ => hrel)).trans ?_
      exact if_neg hroom
    case ldt =>
      obtain ⟨hph, hdue, hnow⟩ := fresh hr rfl rfl
      dsimp only [specOf, specLdt]
      refine (layWord_body hph hdue hnow hcheck hready rfl (fun _ => hstill) (fun _ => hrel)).trans ?_
      exact if_neg (Nat.not_le.2 hlayer)
    case lfold =>
      obtain ⟨hph, hdue, hnow'⟩ := fresh hr rfl rfl
      dsimp only [specOf, specLfold]
      refine (layWord_body hph hdue hnow' hcheck hready hissue (fun _ => hstill) (fun _ => hrel)).trans ?_
      have hfolds : foldCheck { w with idx := pa, due := 0 } (handleAt u pa) = none := hnow
      simp only [hfolds]
      rfl
  · intro h d a s w t pa hd u c k hcheck hready
    refine ⟨fun hr hstill => runs_done (exec_word rfl s) hr ?lfwait, fun hr => runs_done (exec_word rfl s) hr ?lgen⟩
    case lfwait =>
      obtain ⟨hph, hdue, hnow⟩ := fresh hr rfl rfl
      dsimp only [specOf, specLfwait]
      exact layWord_body hph hdue hnow hcheck hready (by rfl) (fun _ => hstill) (by simp)
    case lgen =>
      obtain ⟨hph, hdue, hnow⟩ := fresh hr rfl rfl
      dsimp only [specOf, specLgen]
      exact layWord_body hph hdue hnow hcheck hready (by rfl) (by simp) (by simp)

end Sys2Proof.Machine
end

section
/-! PROOFS. SUBMIT (16 R302) where descriptor and slot lie in device memory: the statement `SubmitCompletes`. -/

namespace Sys2Proof.Machine

/-- The address of a descriptor in device memory (18 R337): HBM4 or a carve-out. -/
theorem target_device {pa : Nat} (h : bits pa 47 46 = 0 ∨ ∃ die sl off, target pa = .carve die sl off) :
    bits pa 47 46 < 2 ∧ homed pa := by
  rcases h with h | ⟨die, sl, off, h⟩
  · refine ⟨by omega, fun d o => ?_⟩
    simp [target, h]
  · refine ⟨?_, fun d o => by simp [h]⟩
    by_contra hge
    obtain ⟨n, hn⟩ : ∃ n, bits pa 47 46 = n + 2 := ⟨bits pa 47 46 - 2, by omega⟩
    unfold target at h
    rw [hn] at h
    cases n <;> simp at h

/-- A packet that goes to device memory is written there (16 R302). -/
theorem submitPut_of_homed {c pa : Nat} {b : List Byte} {s : State} (h : homed pa) : submitPut c pa b s = writeBytes s pa b := by
  unfold submitPut
  split
  · exact absurd ‹_› (h 0 _).2.1
  · exact absurd ‹_› (h _ _).2.2
  · exact absurd ‹_› (h _ _).1
  · rfl

section Submit

variable {c k : Nat} {w : QWord}

/-- SUBMIT with room for its index publishes its packet at the slot (16 R302). -/
theorem submitPublish_of_room {x y : State} {pa2 sz2 : Nat} {lf2 : Word}
    (hroom : (w.res - word (x.memNat (w.due + 16) 8)).toNat < queueSize (x.memNat (w.due + 40) 1))
    (hslot : coreXlat x c { coreAccess x c with write := true }
      (x.memNat w.due 8 % 2 ^ 48 + 64 * (w.res.toNat % queueSize (x.memNat (w.due + 40) 1))) = (.ok pa2 lf2 sz2, y))
    (hhome : homed pa2) (hready : rangeReady y pa2 64 = true) :
    submitPublish c w x = .done (writeBytes y pa2 (submitBytes c (w.buf.take 64) w.res)) w.res false := by
  unfold submitPublish
  refine (if_neg (Nat.not_le.2 hroom)).trans ?_
  simp only [submitSlot, hslot, hready, submitPut_of_homed hhome, Bool.not_true, Bool.false_eq_true, if_false]

variable {t u v : State} {pa sz : Nat} {lf : Word} {r : Run}

/-- SUBMIT whose packet and descriptor check, with its ring's pages there and its release's waits over, claims its index and goes on to
publish (16 R302). -/
theorem submitBody_of_claimed (hph : w.phase = .queued) (hidx : w.idx = 0) (hva : w.va.toNat % 64 = 0) (hva48 : w.va.toNat < 2 ^ 48)
    (hvb : w.vb.toNat % 64 = 0) (hvbEnd : w.vb.toNat + 64 ≤ 0x80000) (hscr : ScratchOk c w.vb.toNat 64 t)
    (hpacket : packetOk (memReadN (t.core c).d.scratch w.vb.toNat 64) = true)
    (hmember : bits (leNat ((memReadN (t.core c).d.scratch w.vb.toNat 64).take 8)) 55 48 = 4 →
      (tget {} (t.core c).csr.dom (leNat (((memReadN (t.core c).d.scratch w.vb.toNat 64).drop 45).take 1) % 4)).member = true)
    (hreplay : replayNode t c = false)
    (hdesc : coreXlat t c { coreAccess t c with write := true } w.va.toNat = (.ok pa lf sz, u))
    (hdevice : bits pa 47 46 = 0 ∨ ∃ die sl off, target pa = .carve die sl off) (hready : rangeReady u pa 64 = true)
    (hpoison : u.poisoned pa 64 = false)
    (hring : ringCheck c (u.memNat pa 8 % 2 ^ 48) ((u.memNat pa 8 % 2 ^ 48 + 64 * queueSize (u.memNat (pa + 40) 1) - 1) / 65536
      - u.memNat pa 8 % 2 ^ 48 / 65536 + 1) 0 u = (none, v))
    (hrel : released c k true w v) {x : State} {n : Word} (hclaim : serveAmo v 0x05 (pa + 8) 8 1 0 = .ok x n) :
    submitBody c k w t = submitPublish c { w with due := pa, buf := memReadN (t.core c).d.scratch w.vb.toNat 64, idx := 2, res := n } x := by
  obtain ⟨hlow, hhome⟩ := target_device hdevice
  have hbegins : ¬ w.phase = .started := by rw [hph]; decide
  have hhigh : wbits w.va 63 48 = 0 := by
    simp only [wbits, bits]
    omega
  have hcheck : scrCheck 2 w.vb 64 64 = none := by simp [scrCheck, hvb, Nat.not_lt.2 hvbEnd]
  have himg : (t.core c).d.scrRead w.vb.toNat 64 = memReadN (t.core c).d.scratch w.vb.toNat 64 := rfl
  unfold submitBody
  extract_lets claim bad
  have hgo : claim { w with due := pa, buf := memReadN (t.core c).d.scratch w.vb.toNat 64 } v
      = submitPublish c { w with due := pa, buf := memReadN (t.core c).d.scratch w.vb.toNat 64, idx := 2, res := n } x := by
    refine (if_neg (Nat.not_le.2 hlow)).trans ((if_neg (by simp [hidx])).trans ?_)
    refine (onRelease_of_released (w := { w with due := pa, buf := memReadN (t.core c).d.scratch w.vb.toNat 64 }) hrel).trans ?_
    simp only [hclaim]
  clear_value claim bad
  rw [if_neg hbegins, if_neg (not_not.2 hva), hcheck]
  refine (onScratch_read hscr).trans ?_
  rw [himg]
  refine (if_neg (by simp [hpacket])).trans ((if_neg ?member).trans ((if_neg (by simp [hreplay])).trans
    ((if_neg (not_not.2 hhigh)).trans ?_)))
  case member =>
    simpa using hmember
  simp only [hdesc]
  split
  · exact absurd ‹_› (hhome _ _).1
  · exact absurd ‹_› (hhome 0 _).2.1
  · exact absurd ‹_› (hhome _ _).2.2
  · simp only [hready, hpoison, hring, hgo, Bool.not_true, Bool.false_eq_true, if_false]

end Submit

/-- Settles O18: SUBMIT's checks pass, its claim gives the index, and its slot is written. -/
theorem submitCompletes : Obligations.SubmitCompletes := by
  unfold Obligations.SubmitCompletes
  intro h d a b s w t pa pa2 lf lf2 n sz sz2 u v x y c img base len size hr hva hva48 hvb hvbEnd hscr hpacket hmember hreplay hdesc hdevice
    hready hpoison hring hrel hclaim hroom hslot hhome hready2 _
  have hclaimed := submitBody_of_claimed (runsNow_phase hr) (runsNow_idx hr) hva hva48 hvb hvbEnd hscr hpacket hmember hreplay hdesc hdevice
    hready hpoison hring hrel hclaim
  have himg : img.take 64 = img := List.take_of_length_le (memReadN_length ..).le
  have hput := submitPublish_of_room (w := { w with due := pa, buf := img, idx := 2, res := n }) hroom hslot hhome hready2
  rw [himg] at hput
  exact runs_done (exec_word rfl s) hr (hclaimed.trans hput)

end Sys2Proof.Machine
end

section
/-! PROOFS. The words of another core's context (17 R335): the statement `ContextWordsComplete`. -/

namespace Sys2Proof.Machine

section Words

variable {h : Hdr} {d a : BitVec 5} {n : BitVec 8} {c k : Nat} {w : QWord} {t : State}

theorem rdst_body_check (hi : w.va.toNat = checkWord) : (specRdst h d a n).body c k w t = .done { t with free := t.free + 32768 }
    (imageCheck (imageWords t (targetCore c n) (t.core (targetCore c n)) t.free)) false :=
  if_pos hi

theorem rdst_body_placed {v : Word} (hi : w.va.toNat ≠ checkWord)
    (hv : imageWord t (targetCore c n) (t.core (targetCore c n)) w.va.toNat = some v) : (specRdst h d a n).body c k w t = .done t v false := by
  refine (if_neg hi).trans ?_
  simp only [hv]

theorem rdst_body_unplaced (hi : w.va.toNat ≠ checkWord)
    (hv : imageWord t (targetCore c n) (t.core (targetCore c n)) w.va.toNat = none) :
    (specRdst h d a n).body c k w t = .done t.takeFree t.freeVal false := by
  refine (if_neg hi).trans ?_
  simp only [hv]

/-- WRST writes another core that stands still. -/
theorem wrst_body_other (hc : targetCore c n ≠ c) (hx : (coreIdle (t.core (targetCore c n)) || coreStopped (t.core (targetCore c n))
      || corePreempted (t.core (targetCore c n))) = true) :
    (specWrst h d a n).body c k w t = .done (modTarget (targetCore c n) (setImageWord false t.cycle w.va.toNat w.vd) t) 0 false := by
  refine if_neg ?_
  simp only [hc, if_false, hx]
  decide

/-- WRST writes its own core in a handler, outside the live block of X. -/
theorem wrst_body_own (hc : targetCore c n = c) (hx : (t.core (targetCore c n)).csr.hnd = true) (hi : w.va.toNat < 384 ∨ 512 ≤ w.va.toNat) :
    (specWrst h d a n).body c k w t = .done (modTarget (targetCore c n) (setImageWord false t.cycle w.va.toNat w.vd) t) 0 false := by
  refine if_neg ?_
  have hout : (decide (384 ≤ w.va.toNat) && decide (w.va.toNat < 512)) = false := by
    rcases hi with hi | hi
    · simp [Nat.not_le.2 hi]
    · simp [Nat.not_lt.2 hi]
  rw [if_pos hc, hx, hout]
  decide

variable (hstands : (coreStopped (t.core (targetCore c n)) || corePreempted (t.core (targetCore c n))) = true)

theorem ctxSave_body_moving (hx : (coreStopped (t.core (targetCore c n)) || corePreempted (t.core (targetCore c n))) = false) :
    (specCtxSave h d a n).body c k w t = .done t 1 false :=
  if_pos (by rw [hx]; rfl)

theorem ctxLoad_body_moving (hx : (coreStopped (t.core (targetCore c n)) || corePreempted (t.core (targetCore c n))) = false) :
    (specCtxLoad h d a n).body c k w t = .done t 1 false :=
  if_pos (by rw [hx]; rfl)

include hstands

/-- CTX.SAVE writes the image on pages that are there. -/
theorem ctxSave_body_written {ps : List (Nat × Nat)} {u : State} (hps : writePieces c 10 w.va.toNat 262144 t = (.ok ps, u))
    (hready : ∀ p ∈ ps, rangeReady u p.1 p.2 = true) (hrel : released c k false w u) :
    (specCtxSave h d a n).body c k w t = .done { (writeAll (u.core c).csr.partition ps
      ((imageOf u (targetCore c n) (t.core (targetCore c n)) u.free).flatMap (fun v => leBytes 8 v.toNat)) u) with
        free := u.free + 32768, images := u.images ++ [(u.free, t.core (targetCore c n))] } 0 false := by
  refine (if_neg (by simp [hstands])).trans ?_
  have hall : ¬ (ps.any fun p => !rangeReady u p.1 p.2) = true := by
    rw [List.any_eq_true]
    rintro ⟨p, hp, hnot⟩
    simp [hready p hp] at hnot
  simp only [hps]
  exact (if_neg hall).trans (onRelease_of_released hrel)

/-- CTX.LOAD goes on with the image that it has read. -/
theorem ctxLoad_body : (specCtxLoad h d a n).body c k w t = fetchVirt c k w.va 262144 0 (fun w s =>
      if (wordsOf w.buf).getD 7680 0 ≠ 0x58464354 || (wordsOf w.buf).getD checkWord 0 ≠ imageCheck (wordsOf w.buf) then .done s 2 false
      else .done (modTarget (targetCore c n) (installImage s (targetCore c n) (wordsOf w.buf)) s) 0 false) 40000 w t :=
  if_neg (by simp [hstands])

end Words

/-- Settles O23: each end of a word's body. -/
theorem contextWordsComplete : Obligations.ContextWordsComplete := by
  unfold Obligations.ContextWordsComplete
  intro h d a n s w t c k tg i x
  refine ⟨fun v hr hi hv => runs_done (exec_word rfl s) hr (rdst_body_placed hi hv),
    fun hr hi hv => runs_done (exec_word rfl s) hr (rdst_body_unplaced hi hv),
    fun hr hi => runs_done (exec_word rfl s) hr (rdst_body_check hi),
    fun hr hc hx => runs_done (exec_word rfl s) hr (wrst_body_other hc hx),
    fun hr hc hx hi => runs_done (exec_word rfl s) hr (wrst_body_own hc hx hi),
    fun hr hx => runs_done (exec_word rfl s) hr (ctxSave_body_moving hx),
    fun hr hx => runs_done (exec_word rfl s) hr (ctxLoad_body_moving hx),
    fun ps u hr hx hps hready hrel => runs_done (exec_word rfl s) hr (ctxSave_body_written hx hps hready hrel),
    fun w' u hr hx hread => ⟨fun hbad => runs_done (exec_word rfl s) hr ?bad, fun hgood => runs_done (exec_word rfl s) hr ?good⟩,
    fun hbuf hx => ?resumed⟩
  case bad => exact (ctxLoad_body hx).trans ((hread _).trans (if_pos (by simpa using hbad)))
  case good => exact (ctxLoad_body hx).trans ((hread _).trans (if_neg (by simpa using hgood)))
  case resumed =>
    refine (ctxLoad_body hx).trans ((fetchVirt_full hbuf).trans ?_)
    simp only [Bool.or_eq_true, decide_eq_true_eq]
    rfl

end Sys2Proof.Machine
end

section
/-! PROOFS. Region words (14 R283 to R291): how one waits, starts and runs on, what each of them does, and the statement
`RegionWordsComplete`. -/

namespace Sys2Proof.Machine

/-! ### The region words' common form (14 R283, R289) -/

/-- A region word of region `g`: a word of Y with no effect at its issue and no register of the shared files, which bears the cycle of its
issue, waits as `rgWord` does, and then runs `run`. -/
structure RgSpec (i : Instr) (g : BitVec 6) (alone chain : Bool) (run : Nat → Nat → Nat → QWord → State → Run) : Prop where
  isWord : i.isWord = true
  hint : (specOf i).hint = false
  engine : (specOf i).engine = .y
  late : (specOf i).late = false
  rd : (specOf i).rd = []
  rdw : ∀ w, (specOf i).rdw w = []
  take : ∀ c k w s, (specOf i).take c k w s = s
  pre : ∀ c k s, (specOf i).pre c k s = word s.cycle
  body : ∃ h d, (specOf i).body = (rgWord h d g alone chain run).body

theorem rgSpec_of_rgWord {i : Instr} {h : Hdr} {d : BitVec 5} {g : BitVec 6} {alone chain : Bool}
    {run : Nat → Nat → Nat → QWord → State → Run} (hi : i.isWord = true) (hs : specOf i = rgWord h d g alone chain run) :
    RgSpec i g alone chain run where
  isWord := hi
  hint := by rw [hs]; rfl
  engine := by rw [hs]; rfl
  late := by rw [hs]; rfl
  rd := by rw [hs]; rfl
  rdw _ := by rw [hs]; rfl
  take _ _ _ _ := by rw [hs]; rfl
  pre _ _ _ := by rw [hs]; rfl
  body := ⟨h, d, by rw [hs]⟩

/-- What stands in no region word's way once it may start: it is queued, no longer early, and nothing stops its core. -/
theorem rgReady_open {s : State} {c rg : Nat} {w : QWord} (h : rgReady s c = some (w, rg)) : w.phase = .queued ∧ rgEarly s c w = false ∧
    (s.core c).frozen s.cycle = false ∧ preempting s c = false ∧ (s.core c).faultAbove s.cycle 3 = false := by
  unfold rgReady at h
  dsimp only at h
  split at h
  · split at h
    · split at h
      next hopen =>
        cases h
        simp only [Bool.and_eq_true, Bool.not_eq_true', decide_eq_true_eq] at hopen
        obtain ⟨⟨⟨⟨⟨⟨hph, hearly⟩, -⟩, hfrozen⟩, hpre⟩, hfault⟩, -⟩ := hopen
        exact ⟨hph, hearly, hfrozen, hpre, hfault⟩
      · cases h
    · cases h
  · cases h

section Rg

variable {i : Instr} {g : BitVec 6} {alone chain : Bool} {run : Nat → Nat → Nat → QWord → State → Run} {c : Nat} {s t u : State} {w w' : QWord}
  {v : Word} {r : Run}

/-- In the cycle of its issue a region word is early, so it joins its queue. -/
theorem RgSpec.joins (hs : RgSpec i g alone chain run) : Joins i := by
  intro s w y hg hcyc
  obtain ⟨hi, -, -, hph, -, -, -, -, -, hres, -⟩ := goes_fields hg hs.hint
  have hreads : readsOf w = [] := by simp [readsOf, hi, hs.rd, hs.rdw]
  have hcycle : (issued i w y s).cycle = s.cycle := issued_cycle fun _ => hs.take ..
  have hearly : rgEarly (issued i w y s) s.cur.1 w = true := by
    have : w.res.toNat = s.cycle := by rw [hres, hs.pre, word_toNat hcyc]
    simp [rgEarly, hph, hcycle, this]
  obtain ⟨h, d, hb⟩ := hs.body
  rw [exec_word hs.isWord, issueWord_joins hg hs.hint (by simp [hs.engine]) hreads]
  rw [hb]
  exact if_pos (by simp [hph, hearly])

/-- One that may start waits for none of the words of other cores (14 R289). -/
theorem RgMay.waits_not (hm : RgMay i c g w s) : (w.phase = .queued && (rgEarly s c w || lowerArrives s c (rgOf c g))) = false := by
  obtain ⟨-, -, -, -, -, hready, -, -, hlower⟩ := hm
  obtain ⟨-, hearly, -⟩ := rgReady_open hready
  simp [hearly, hlower]

/-- The engine's start of a region word that may start settles what its body comes to, not a wait here. -/
theorem RgSpec.exec_start (hs : RgSpec i g alone chain run) (hm : RgMay i c g w s) (hr : (specOf i).body c 3 w s = r)
    (hnw : ∀ w' t, r ≠ .wait w' t) : exec (.engineWordStart c 3 .y) s = .next (settleQueued c 3 .y w r) := by
  obtain ⟨rfl, -, -, -, hq, hready, hstart, hbad, -⟩ := hm
  obtain ⟨hph, -, hfrozen, hpre, hfault⟩ := rgReady_open hready
  exact exec_engineWordStart_alone hq hph hs.engine (by decide) hs.late hstart hbad hpre hfrozen hfault hr hnw

/-- First in its region's line, and for a word of the readout chain with no other under way, it runs (14 R287, R289). -/
theorem RgSpec.body_starts (hs : RgSpec i g false chain run) (hm : RgStarts i c g w s t)
    (hc : chain = true → chainBusy t c w.seq = false) :
    (specOf i).body c 3 w s = settleRg (rgOf c g) c w.seq g (run (rgOf c g) c 3 w t) := by
  obtain ⟨h, d, hb⟩ := hs.body
  obtain ⟨hmay, rfl, hfirst⟩ := hm
  have hwait := hmay.waits_not
  obtain ⟨-, -, -, -, -, hready, -⟩ := hmay
  obtain ⟨hph, -⟩ := rgReady_open hready
  have hbegins : ¬ (w.phase = .started || false) = true := by simp [hph]
  have hgo : ¬ (!firstInLine (joinLine (rgOf c g) c w.seq s) (rgOf c g) c w
      || (chain && chainBusy (joinLine (rgOf c g) c w.seq s) c w.seq)) = true := by
    cases chain with
    | true => simp [hfirst, hc rfl]
    | false => simp [hfirst]
  rw [hb]
  exact (if_neg (Bool.eq_false_iff.1 hwait)).trans ((if_neg hbegins).trans (if_neg hgo))

/-- An RGLOAD runs beside the others (14 R283). -/
theorem RgSpec.body_alone (hs : RgSpec i g true chain run) (hm : RgMay i c g w s) :
    (specOf i).body c 3 w s = settleRg (rgOf c g) c w.seq g (run (rgOf c g) c 3 w s) := by
  obtain ⟨h, d, hb⟩ := hs.body
  rw [hb]
  exact (if_neg (Bool.eq_false_iff.1 hm.waits_not)).trans (if_pos (Bool.or_true _))

/-- Once begun it runs on. -/
theorem RgSpec.body_started (hs : RgSpec i g alone chain run) (hph : w.phase = .started) :
    (specOf i).body c 3 w s = settleRg (rgOf c g) c w.seq g (run (rgOf c g) c 3 w s) := by
  obtain ⟨h, d, hb⟩ := hs.body
  rw [hb]
  exact (if_neg (by simp [hph])).trans (if_pos (by simp [hph]))

theorem RgSpec.ends (hs : RgSpec i g false chain run) (hm : RgStarts i c g w s t) (hc : chain = true → chainBusy t c w.seq = false)
    (hr : run (rgOf c g) c 3 w t = .done u v false) : RgEnds c g w s v u :=
  hs.exec_start (r := .done (leaveLine (rgOf c g) c w.seq u) v false) hm.1 ((hs.body_starts hm hc).trans (by rw [hr]; rfl))
    fun _ _ => Run.noConfusion

theorem RgSpec.begins (hs : RgSpec i g false chain run) (hm : RgStarts i c g w s t) (hc : chain = true → chainBusy t c w.seq = false)
    (hr : run (rgOf c g) c 3 w t = .begun w' u) : RgBegins c w' s u :=
  hs.exec_start (r := .begun w' u) hm.1 ((hs.body_starts hm hc).trans (by rw [hr]; rfl)) fun _ _ => Run.noConfusion

/-- A begun one that comes to its end, with an effect that brings no word of a new number into a queue, leaves its region's line. -/
theorem RgSpec.runs_on (hs : RgSpec i g alone chain run) (hph : w.phase = .started) (hr : run (rgOf c g) c 3 w t = .done u v false)
    (hu : SeqsFrom t u) : RgRunsOn i c g w t v u := fun hb =>
  hb.ends_of_seqs (by simp [hs.engine]) ((hs.body_started hph).trans (by rw [hr]; rfl)) (hu.trans (.of_cores rfl))

end Rg

/-! ### The planes (14 R285, R286) -/

@[simp] theorem region_finishRg (o : Option (Nat × Nat)) (v : Word) (s : State) (rg : Nat) : (finishRg o v s).region rg = s.region rg := by
  unfold finishRg
  split <;> rfl

/-- Whatever a plane holds, an RGSWAP's exchange makes the staged image live, in its initial state (14 R285). -/
theorem region_exchange (rg : Nat) (s : State) : ((exchange rg s).region rg).live = .frozen ∧
    ((exchange rg s).region rg).img = (s.region rg).stby ∧
    ((exchange rg s).region rg).standby = (if (s.region rg).live = .blank then .empty else .staged) ∧
    ((exchange rg s).region rg).stby = (if (s.region rg).live = .blank then {} else (s.region rg).img) := by
  unfold exchange
  rw [region_modRegion]
  exact ⟨rfl, rfl, rfl, rfl⟩

/-! ### The tests on a region's planes -/

section Tests

variable {p q : Prop} [Decidable p] [Decidable q]

theorem either_of_or (h : p ∨ q) : (decide p || decide q) = true := by simpa [or_iff_not_imp_left] using h

theorem not_either_of_not (hp : ¬ p) (hq : ¬ q) : ¬ (decide p || decide q) = true := by simp [hp, hq]

theorem neither_of_not (h : ¬ (p ∨ q)) : (!(decide p || decide q)) = true := by simpa using h

theorem not_neither_of_or (h : p ∨ q) : ¬ (!(decide p || decide q)) = true := by simp [either_of_or h]

end Tests

/-- Settles O24: a region word is early in the cycle of its issue, so it joins its queue; as it starts, or runs on, it is one run past
`rgWord`'s waits, whose branch the clause's premises decide. -/
theorem regionWordsComplete : Obligations.RegionWordsComplete := by
  unfold Obligations.RegionWordsComplete
  intro h d cc g
  have swapNow : RgSpec (.rgswapNow h d g) g false false _ := rgSpec_of_rgWord rfl (show specRgswapNow h d g = _ from rfl)
  have swapHot : RgSpec (.rgswapHot h d g) g false false _ := rgSpec_of_rgWord rfl (show specRgswapHot h d g = _ from rfl)
  have freeze : RgSpec (.rgfreezeFreeze h d g) g false false _ := rgSpec_of_rgWord rfl (show specRgfreezeFreeze h d g = _ from rfl)
  have thaw : RgSpec (.rgfreezeThaw h d g) g false false _ := rgSpec_of_rgWord rfl (show specRgfreezeThaw h d g = _ from rfl)
  have status : RgSpec (.rgreadStatus h d g) g false false _ := rgSpec_of_rgWord rfl (show specRgreadStatus h d g = _ from rfl)
  have clk : RgSpec (.rgclk h d cc g) g false false _ := rgSpec_of_rgWord rfl (show specRgclk h d cc g = _ from rfl)
  refine ⟨swapNow.joins, swapHot.joins, freeze.joins, thaw.joins, status.joins, clk.joins, ?_⟩
  intro c w s t rg r quiet starts
  have unbegun {i : Instr} (hm : starts i) : w.idx ≠ 1 := by
    obtain ⟨⟨-, hidx, -⟩, -⟩ := hm
    simp [hidx]
  refine ⟨fun hm hq => swapNow.ends hm nofun (if_pos (neither_of_not hq)),
    fun hm hq hst => swapNow.ends hm nofun ((if_neg (not_neither_of_or hq)).trans (if_pos hst)),
    fun hm hq hst => ⟨exchange rg t, swapNow.ends hm nofun ((if_neg (not_neither_of_or hq)).trans (if_neg (not_not.2 hst))), ?exchanged⟩,
    fun hm hno => swapHot.ends hm nofun ((if_neg (unbegun hm)).trans (if_pos (either_of_or hno))),
    fun hm hl hsw hst => swapHot.ends hm nofun ((if_neg (unbegun hm)).trans ((if_neg (not_either_of_not (not_not.2 hl) hsw)).trans (if_pos hst))),
    fun hm hl hsw hst hdig => ⟨_, swapHot.begins hm nofun ((if_neg (unbegun hm)).trans ((if_neg (not_either_of_not (not_not.2 hl) hsw)).trans
      ((if_neg (not_not.2 hst)).trans (if_neg (not_not.2 hdig))))), ?pending⟩,
    fun hm h1 h2 => freeze.ends hm nofun ((if_neg (unbegun hm)).trans (if_pos (neither_of_not (not_or.2 ⟨h1, h2⟩)))),
    fun hm hl => ⟨_, freeze.begins hm nofun ((if_neg (unbegun hm)).trans (if_neg (not_neither_of_or hl))), ?frozen⟩,
    fun hph hidx hdue => freeze.runs_on hph ((if_pos hidx).trans (if_neg (Nat.not_lt.2 hdue))) (.of_cores rfl),
    fun hm hno => thaw.ends hm nofun ((if_neg (unbegun hm)).trans (if_pos ?unthawed)),
    fun hm hl he => thaw.begins hm nofun ((if_neg (unbegun hm)).trans (if_neg ?thawed)),
    fun hph hidx hdue => thaw.runs_on hph ((if_pos hidx).trans (if_neg (Nat.not_lt.2 hdue))) (.of_cores rfl),
    fun hm => status.ends hm nofun rfl,
    fun hm hq => clk.ends hm nofun (if_pos (neither_of_not hq)),
    fun hm hq => clk.ends hm nofun (if_neg (not_neither_of_or hq))⟩
  case unthawed => simpa using hno
  case thawed =>
    have hr : r.live = .frozen ∧ r.err = false := ⟨hl, he⟩
    simpa using hr
  case exchanged =>
    obtain ⟨hlive, himg, hstandby, hstby⟩ := region_exchange rg t
    exact ⟨hlive, himg, hstandby, hstby, rfl⟩
  case pending =>
    rw [region_modRegion]
    exact ⟨rfl, rfl, rfl, rfl⟩
  case frozen =>
    rw [region_modRegion]
    exact ⟨rfl, rfl, cancelSwap_mem ..⟩

end Sys2Proof.Machine
end

section
/-! PROOFS. The readout chain's words and RGLOAD (14 R283, R284, R287, R288): the statement `ChainWordsComplete`. -/

namespace Sys2Proof.Machine

/-! ### A Y word's reads (10 R226) -/

@[simp] theorem readBytes_clock (s : State) (pa n : Nat) : clock (readBytes s pa n).2.1 = clock s := by
  unfold readBytes
  dsimp only
  split
  · rfl
  · split
    · rfl
    · exact foldl_field clock (fun _ _ => touch_clock ..) _ _

section Read

variable {c n : Nat} {va : Word} {s u : State} {b : List Byte}

/-- A read takes no time. -/
theorem ReadAtOnce.cycle (h : ReadAtOnce c va n s u b) : u.cycle = s.cycle := by
  obtain ⟨-, pa, lf, sz, v, hx, -, -, hb⟩ := h
  have hv : clock v = clock s := by rw [← coreXlat_clock s c (coreAccess s c) va.toNat, hx]
  have hu : clock u = clock v := by rw [← readBytes_clock v pa n, hb]
  exact (clock_eq_iff.1 (hu.trans hv)).1

theorem ReadAtOnce.length (h : ReadAtOnce c va n s u b) : b.length = n := by
  obtain ⟨-, _, _, _, _, -, -, -, hb⟩ := h
  exact readBytes_length hb

/-- The last bytes of a Y word's read, in one page that a home slice holds, are taken in one go, and the word goes on. -/
theorem fetchVirt_rest {k f total : Nat} {x0 base : Word} {go : QWord → State → Run} {w : QWord} (hbit : w.bit = false)
    (hlen : w.buf.length + n = total) (hn : n ≠ 0) (hva : base + word w.buf.length = va) (hfit : va.toNat % 65536 + n ≤ 65536)
    (hr : ReadAtOnce c va n s u b) : fetchVirt c k base total x0 go (f + 2) w s = go { w with buf := w.buf ++ b } u := by
  have hend : total ≤ (w.buf ++ b).length := by simp [hr.length, hlen]
  obtain ⟨hv, pa, lf, sz, v, hx, hh, hq, hb⟩ := hr
  have hmin : Nat.min (total - w.buf.length) (65536 - va.toNat % 65536) = n := by
    rw [← hlen, Nat.add_sub_cancel_left]
    exact Nat.min_eq_left (by omega)
  have hshort : ¬ w.buf.length ≥ total := by omega
  have hlow : ¬ va.toNat ≥ 2 ^ 48 := by omega
  have hstep : fetchVirt c k base total x0 go (f + 2) w s = fetchVirt c k base total x0 go (f + 1) { w with buf := w.buf ++ b } u := by
    rw [fetchVirt]
    simp only [hva, hmin, hbit, hshort, hlow, hx, Bool.false_eq_true, if_false]
    cases ht : target pa with
    | crown d o => exact absurd ht (hh d o).1
    | host o => exact absurd ht (hh 0 o).2.1
    | peer d o => exact absurd ht (hh d o).2.2
    | hbm d o => simp only [hq, hb, Bool.not_true, Bool.false_eq_true, if_false]
    | carve d o p => simp only [hq, hb, Bool.not_true, Bool.false_eq_true, if_false]
  rw [hstep, fetchVirt_full hend]

end Read

/-! ### What a core's stop leaves to start (01 R33, 17 R325) -/

/-- A stop that settles leaves a strand as it is, or has put its words aside for a handler. -/
theorem settleStop_strand (c k : Nat) (s : State) : ((settleStop c s).core c).strand k = (s.core c).strand k ∨
    (((settleStop c s).core c).strand k).queues = [] := by
  have hfailed (e : BitVec 8) (t : State) : ((settleStop.failed c e t).core c).strand k = (t.core c).strand k := by
    unfold settleStop.failed
    rw [core_modCore]
    rfl
  unfold settleStop
  dsimp only
  split
  · exact .inl rfl
  · next b _ =>
    have hx := coreXlat_strands s c { coreAccess s c with write := true } (s.core c).csr.faultPtr.toNat c
    split
    · next pa leaf n u hu =>
      replace hx : (u.core c).strand k = (s.core c).strand k := by
        rw [hu] at hx
        exact congrArg (fun t => tget ({} : Strand) t k) hx
      rw [← hx]
      let kept : State → Prop := fun t => (t.core c).strand k = (u.core c).strand k ∨ ((t.core c).strand k).queues = []
      refine iteInduction (motive := kept) (fun _ => Or.inl (hfailed _ u)) (fun _ => iteInduction (motive := kept)
        (fun _ => Or.inl (hfailed _ u)) (fun _ => iteInduction (motive := kept) (fun _ => Or.inl rfl) (fun _ => ?_)))
      dsimp only [kept]
      have hcore : (writeOut (coreAccess s c).ctx pa b u).core c = u.core c :=
        congrArg (fun t => tget ({} : Core) t c) (writeOut_cores _ pa b u)
      rw [core_modCore, hcore]
      split
      · by_cases hk : k = 3
        · subst hk
          exact .inr (congrArg Strand.queues (strand_setStrand { u.core c with record := none, entering := false } 3 _))
        · exact .inl (strand_setStrand_ne { u.core c with record := none, entering := false } _ hk)
      · exact .inl rfl
    · next e u hu =>
      replace hx : (u.core c).strand k = (s.core c).strand k := by
        rw [hu] at hx
        exact congrArg (fun t => tget ({} : Strand) t k) hx
      split
      · exact .inl hx
      · exact .inl ((hfailed e u).trans hx)

/-- The strand whose word has stopped withholds that word and those behind it, or has put its words aside for a handler. -/
theorem takeFault_withholds (c k : Nat) (t : Trap) (w pc : BitVec 32) (n : Nat) (s : State) :
    (((takeFault c k t w pc (some n) s).core c).strand k).queues = [] ∨
      ∃ m ≤ n, (((takeFault c k t w pc (some n) s).core c).strand k).stopSeq = some m := by
  by_cases h : ((s.core c).strand k).st = .faulted
  · unfold takeFault
    rw [if_pos h, core_modStrand, strand_coreModStrand]
    cases hstop : ((s.core c).strand k).stopSeq with
    | none => exact .inr ⟨n, le_rfl, rfl⟩
    | some m => exact .inr ⟨Nat.min m n, Nat.min_le_right m n, rfl⟩
  · unfold takeFault
    rw [if_neg h]
    extract_lets m handler record s1 s2
    have hcore : s2.core c = s1.core c := congrArg (fun t => tget ({} : Core) t c) (faultSignals_cores s1 c)
    have hstop : ((s2.core c).strand k).stopSeq = some n := by
      rw [hcore]
      dsimp only [s1]
      rw [core_modCore, strand_coreModStrand]
    clear_value s2
    split
    · obtain hkept | hgone := settleStop_strand c k s2
      · exact .inr ⟨n, le_rfl, (congrArg Strand.stopSeq hkept).trans hstop⟩
      · exact .inl hgone
    · exact .inr ⟨n, le_rfl, hstop⟩

/-- An engine starts no word that its core's stop withholds. -/
theorem startWord_of_withheld {c k : Nat} {e : Engine} {s : State}
    (h : ∀ z ∈ ((s.core c).strand k).queue e, heldByStop ((s.core c).strand k) z = true) : startWord c k e s = s := by
  unfold startWord
  dsimp only
  split
  · rfl
  · next w hw =>
    have hheld := h w (List.mem_of_find?_eq_some hw)
    rw [if_pos (by simp [startReady, hheld])]

/-- After the stop of a word whose queue holds no earlier one, its engine starts nothing. -/
theorem startWord_takeFault {c k n : Nat} {e : Engine} {t : Trap} {w pc : BitVec 32} {s : State}
    (h : ∀ z ∈ ((s.core c).strand k).queue e, n ≤ z.seq) :
    startWord c k e (takeFault c k t w pc (some n) s) = takeFault c k t w pc (some n) s := by
  refine startWord_of_withheld fun z hz => ?_
  obtain hgone | ⟨m, hm, hstop⟩ := takeFault_withholds c k t w pc n s
  · unfold Strand.queue at hz
    rw [hgone] at hz
    cases hz
  · obtain ⟨y, hy, hyz⟩ := takeFault_seqs c k t w pc (some n) s c k e z hz
    have := h y hy
    simp only [heldByStop, hstop, decide_eq_true_eq]
    omega

/-- A begun Y word, alone in its queue, that stops as it runs on stays there, and its fault is taken (17 R323). -/
theorem Begun.traps {i : Instr} {c k : Nat} {w z : QWord} {s u : State} {t : Trap} (hb : Begun i c k .y w s)
    (he : (specOf i).engine ≠ .l) (hr : (specOf i).body c k w s = .trap t z u) (h5 : t.cls ≠ 5) (h4 : t.cls ≠ 4) (hseq : z.seq = w.seq)
    (hu : u.core c = s.core c) : exec (.engineWordStart c k .y) s
      = .next (takeFault c k t (encode z.i) z.pc (some z.seq) (putWord c k .y { z with phase := .queued, req := 0 } u)) := by
  obtain ⟨rfl, hq, hph, hreq, hbad, hfrozen, hfault⟩ := hb
  have hgo : (((s.core c).strand k).queue .y).find? (fun q => q.phase = .started && q.req = 0) = some w := by simp [hq, hph, hreq]
  have hrun : serveRun c k (specOf w.i) w s = .trap t z u := by rw [serveRun_of_ne_l he, runBody_of_intact hbad, hr]
  have hsettled : settleQueued c k .y w (.trap t z u)
      = takeFault c k t (encode z.i) z.pc (some z.seq) (putWord c k .y { z with phase := .queued, req := 0 } u) := by
    simp only [settleQueued, stopWord, if_neg h5, if_neg h4]
  rw [exec_engineWordStart hfrozen hfault, continueWord_some (.inr (.inr rfl)) nofun hgo, hrun, hsettled, startWord_takeFault ?alone]
  case alone =>
    intro y hy
    simp only [queue_putWord, hu, hq, hseq, List.map_cons, List.map_nil, if_true, List.mem_singleton] at hy
    rw [hy, hseq]

/-! ### The words' common form, with an address (14 R287) -/

theorem rgSpec_of_addressed {i : Instr} {h : Hdr} {d : BitVec 5} {g : BitVec 6} {alone chain : Bool}
    {run : Nat → Nat → Nat → QWord → State → Run} {a : Option (BitVec 5)} {check : Nat → Nat → QWord → State → Option Trap}
    (hi : i.isWord = true) (hs : specOf i = { rgWord h d g alone chain run with a := a, check := check }) : RgSpec i g alone chain run where
  isWord := hi
  hint := by rw [hs]; rfl
  engine := by rw [hs]; rfl
  late := by rw [hs]; rfl
  rd := by rw [hs]; rfl
  rdw _ := by rw [hs]; rfl
  take _ _ _ _ := by rw [hs]; rfl
  pre _ _ _ := by rw [hs]; rfl
  body := ⟨h, d, by rw [hs]⟩

section Alone

variable {i : Instr} {g : BitVec 6} {chain : Bool} {run : Nat → Nat → Nat → QWord → State → Run} {c : Nat} {s u : State} {w w' : QWord}
  {v : Word}

/-- An RGLOAD that may start ends beside the others. -/
theorem RgSpec.ends_alone (hs : RgSpec i g true chain run) (hm : RgMay i c g w s) (hr : run (rgOf c g) c 3 w s = .done u v false) :
    RgEnds c g w s v u :=
  hs.exec_start (r := .done (leaveLine (rgOf c g) c w.seq u) v false) hm ((hs.body_alone hm).trans (by rw [hr]; rfl))
    fun _ _ => Run.noConfusion

theorem RgSpec.begins_alone (hs : RgSpec i g true chain run) (hm : RgMay i c g w s) (hr : run (rgOf c g) c 3 w s = .begun w' u) :
    RgBegins c w' s u :=
  hs.exec_start (r := .begun w' u) hm ((hs.body_alone hm).trans (by rw [hr]; rfl)) fun _ _ => Run.noConfusion

end Alone

/-- Translating a range for writing leaves every core's strands (10 R226). -/
theorem writePieces_strands (c f va n : Nat) (s : State) (j : Nat) : ((writePieces c f va n s).2.core j).strands = (s.core j).strands := by
  induction f generalizing va n s with
  | zero => rfl
  | succ f ih =>
    unfold writePieces
    split
    · rfl
    split
    · rfl
    dsimp only
    have hx := coreXlat_strands s c { coreAccess s c with write := true } va j
    split
    · next e t he =>
      rw [he] at hx
      exact hx
    next pa leaf sz t he =>
    rw [he] at hx
    split
    · exact hx
    next pa' u hu =>
    have hframe : (u.core j).strands = (t.core j).strands := by
      obtain rfl | ⟨a, bs, r, f, rfl⟩ := shadowWrite_state hu <;> rfl
    have hrest := ih (va + Nat.min n (65536 - va % 65536)) (n - Nat.min n (65536 - va % 65536)) u
    split
    · next he =>
      rw [he] at hrest
      exact hrest.trans (hframe.trans hx)
    · next he =>
      rw [he] at hrest
      exact hrest.trans (hframe.trans hx)

/-! ### RGLOAD's end (14 R284) -/

section Load

variable {rg : Nat} {w : QWord} {s : State}

/-- The image that an RGLOAD has read, with its signature block. -/
def loadedImage (w : QWord) : Image × List Byte := parseImage (w.buf.take 256 ++ w.buf.drop 1792 ++ (w.buf.drop 256).take 1536)

theorem loadImage_eq : loadImage rg w s =
    if !authentic s (loadedImage w).1 (loadedImage w).2 then .trap (runTrap 0x13) w (setStandby rg .empty {} s)
    else if !structureOk (loadedImage w).1 then .done (setStandby rg .empty {} s) 6 false
    else .done (setStandby rg .staged (loadedImage w).1 s) 0 false := rfl

theorem loadImage_of_authentic (h : authentic s (loadedImage w).1 (loadedImage w).2 = true) : loadImage rg w s =
    .done (setStandby rg (if structureOk (loadedImage w).1 then .staged else .empty) (if structureOk (loadedImage w).1 then (loadedImage w).1
      else {}) s) (if structureOk (loadedImage w).1 then 0 else 6) false := by
  rw [loadImage_eq, h]
  cases structureOk (loadedImage w).1 <;> rfl

theorem loadImage_of_forged (h : authentic s (loadedImage w).1 (loadedImage w).2 = false) :
    loadImage rg w s = .trap (runTrap 0x13) w (setStandby rg .empty {} s) := by
  rw [loadImage_eq, h]
  rfl

end Load

/-- Settles O25: a chain word is one run past `rgWord`'s waits, whose branch the clause's premises decide; an RGLOAD runs beside the others,
and each of its reads takes its bytes in one go. -/
theorem chainWordsComplete : Obligations.ChainWordsComplete := by
  unfold Obligations.ChainWordsComplete
  intro h d a x g
  have save : RgSpec (.rgreadSave h d a g) g false true _ := rgSpec_of_addressed rfl (show specRgreadSave h d a g = _ from rfl)
  have fetch : RgSpec (.rgreadFetch h d a x g) g false true _ := rgSpec_of_addressed rfl (show specRgreadFetch h d a x g = _ from rfl)
  have restore : RgSpec (.rgreadRestore h d x g) g false true _ := rgSpec_of_rgWord rfl (show specRgreadRestore h d x g = _ from rfl)
  have load : RgSpec (.rgload h d a g) g true false _ := rgSpec_of_addressed rfl (show specRgload h d a g = _ from rfl)
  refine ⟨save.joins, fetch.joins, restore.joins, load.joins, ?chain, ?load⟩
  case chain =>
    intro c w s t die rg r n nx there inBuf chain quiet ready starts
    have fresh {i : Instr} (hm : starts i) : w.idx = 0 ∧ w.buf = [] ∧ w.bit = false := by
      obtain ⟨⟨⟨-, hidx, hbuf, hbit, -⟩, -⟩, -⟩ := hm
      exact ⟨hidx, hbuf, hbit⟩
    have unbegun {i : Instr} (hm : starts i) : ¬ w.idx = 1 := by simp [fresh hm]
    have idle (h : (t.die die).wbPages = none) : ¬ (t.die die).wbPages.isSome = true := by simp [h]
    have clear (h : (t.die die).wbPages = none) : ¬ (decide (w.idx = 0) && (t.die die).wbPages.isSome) = true := by rw [h]; simp
    have imaged (h : x = 0 → r.live ≠ .blank) : ¬ (decide (w.idx = 0) && decide (x = 0) && decide (r.live = .blank)) = true := by
      simpa using fun _ => h
    have loaded (h : x = 1 → r.standby = .staged) : ¬ (decide (w.idx = 0) && decide (x = 1) && decide (r.standby ≠ .staged)) = true := by
      simpa using fun _ => h
    have unquiet : (!(decide (r.live = .frozen) || decide (r.live = .blank) && decide (x = 1))) = true ↔ ¬ quiet := by
      simp [quiet, imp_iff_not_or]
    have quieted (h : quiet) := mt unquiet.1 (not_not.2 h)
    have unstaged (h : x = 1 → r.standby = .staged) : ¬ (decide (x = 1) && decide (r.standby ≠ .staged)) = true := by simpa using h
    refine ⟨?saveMoving, ?saveBegins, ?saveEnds, ?saveRunsOn, ?fetchBlank, ?fetchUnstaged, ?fetchNothing, ?fetchReads, ?restoreMoving,
      ?restoreUnstaged, ?restoreOther, ?restoreEnds, ?restoreBegins, ?restoreRunsOn⟩
    case saveMoving =>
      intro hm hwb hl
      exact save.ends hm.1 (fun _ => hm.2) ((if_neg (unbegun hm)).trans ((if_neg (idle hwb)).trans (if_pos hl)))
    case saveBegins =>
      intro ps u hm hwb hl hn hps
      refine save.begins hm.1 (fun _ => hm.2) ((if_neg (unbegun hm)).trans ((if_neg (idle hwb)).trans ((if_neg (not_not.2 hl)).trans ?_)))
      simp only [show writePieces c 10 w.va.toNat (8 * chainChunks (t.region (rgOf c g)).img) t = _ from hps]
      exact if_neg (Nat.not_le.2 hn)
    case saveEnds =>
      intro ps qs u v hm hwb hl hn hps hqs
      refine save.ends hm.1 (fun _ => hm.2) ((if_neg (unbegun hm)).trans ((if_neg (idle hwb)).trans ((if_neg (not_not.2 hl)).trans ?_)))
      simp only [show writePieces c 10 w.va.toNat (8 * chainChunks (t.region (rgOf c g)).img) t = _ from hps]
      refine (if_pos hn).trans ?_
      simp only [show writePieces c 10 w.va.toNat (8 * chainChunks (t.region (rgOf c g)).img) u = _ from hqs]
      rfl
    case saveRunsOn =>
      intro qs v hph hidx hdue hqs
      refine save.runs_on hph ((if_pos hidx).trans ((if_neg (Nat.not_lt.2 hdue)).trans ?_)) ?_
      · simp only [show writePieces c 10 w.va.toNat (8 * chainChunks (t.region (rgOf c g)).img) t = _ from hqs]
        rfl
      · refine SeqsFrom.of_strands fun j => ?_
        have := writePieces_strands c 10 w.va.toNat (8 * n) t j
        rw [hqs] at this
        exact this
    case fetchBlank =>
      intro hm hwb hx hl
      exact fetch.ends hm.1 (fun _ => hm.2) ((if_neg (clear hwb)).trans (if_pos (by
        simp [fresh hm, hx, show (t.region (rgOf c g)).live = .blank from hl])))
    case fetchUnstaged =>
      intro hm hwb hx hst
      exact fetch.ends hm.1 (fun _ => hm.2) ((if_neg (clear hwb)).trans ((if_neg (by simp [hx])).trans
        (if_pos (by simp [fresh hm, hx, show (t.region (rgOf c g)).standby ≠ .staged from hst]))))
    case fetchNothing =>
      intro hm hwb hthere hn
      obtain ⟨hlive, hstaged⟩ := hthere
      refine fetch.ends hm.1 (fun _ => hm.2) ((if_neg (clear hwb)).trans ((if_neg (imaged hlive)).trans ((if_neg (loaded hstaged)).trans ?_)))
      rw [show chainChunks (if x = 1 then (t.region (rgOf c g)).stby else (t.region (rgOf c g)).img) = 0 from hn, fetchVirt_full (Nat.zero_le _)]
      obtain ⟨-, hbuf, -⟩ := fresh hm
      simp only [hbuf]
      rfl
    case fetchReads =>
      intro u b hm hwb hthere hn hfit hr
      obtain ⟨hlive, hstaged⟩ := hthere
      refine fetch.ends hm.1 (fun _ => hm.2) ((if_neg (clear hwb)).trans ((if_neg (imaged hlive)).trans ((if_neg (loaded hstaged)).trans ?_)))
      obtain ⟨-, hbuf, hbit⟩ := fresh hm
      refine (fetchVirt_rest (w := { w with idx := 1 }) (f := 79998) (base := w.va) hbit
        (by simp only [hbuf]; exact Nat.zero_add _) (Nat.mul_ne_zero (by decide) hn) (by simp [hbuf, word]) hfit hr).trans ?_
      simp only [hbuf, List.nil_append]
      rfl
    case restoreMoving =>
      intro hm hq
      exact restore.ends hm.1 (fun _ => hm.2) ((if_neg (unbegun hm)).trans (if_pos (unquiet.2 hq)))
    case restoreUnstaged =>
      intro hm hq hx hst
      exact restore.ends hm.1 (fun _ => hm.2) ((if_neg (unbegun hm)).trans ((if_neg (quieted hq)).trans (if_pos (by
        simp [hx, show (t.region (rgOf c g)).standby ≠ .staged from hst]))))
    case restoreOther =>
      intro hm hq hst hlen
      exact restore.ends hm.1 (fun _ => hm.2) ((if_neg (unbegun hm)).trans ((if_neg (quieted hq)).trans ((if_neg (unstaged hst)).trans
        (if_pos hlen))))
    case restoreEnds =>
      intro hm hq hst hlen hn
      exact restore.ends hm.1 (fun _ => hm.2) ((if_neg (unbegun hm)).trans ((if_neg (quieted hq)).trans ((if_neg (unstaged hst)).trans
        ((if_neg (not_not.2 hlen)).trans (if_pos (hlen.trans_le hn))))))
    case restoreBegins =>
      intro hm hq hst hlen hn
      refine restore.begins hm.1 (fun _ => hm.2) ((if_neg (unbegun hm)).trans ((if_neg (quieted hq)).trans ((if_neg (unstaged hst)).trans
        ((if_neg (not_not.2 hlen)).trans ((if_neg (Nat.not_le.2 (hlen.symm ▸ hn))).trans ?_)))))
      have hcycle : (if x = 1 then exchange (rgOf c g) t else t).cycle = t.cycle := by split <;> rfl
      rw [hcycle, show (t.die (coreDie c)).inBuf.length = nx from hlen]
    case restoreRunsOn =>
      intro hph hidx hdue
      exact restore.runs_on hph ((if_pos hidx).trans (if_neg (Nat.not_lt.2 hdue))) (.of_cores rfl)
  case load =>
    intro c w s u v b e rg r p good
    refine ⟨?busy, ?begins, ?fields, ?whole⟩
    case busy =>
      intro hm hno
      obtain ⟨-, hidx, -⟩ := id hm
      exact load.ends_alone hm (if_pos (by simpa [hidx] using hno))
    case begins =>
      intro hm hstandby hlive hhead hsig hreadHead hreadSig hgood
      obtain ⟨-, hidx, hbuf, hbit, -⟩ := id hm
      have hcycle : v.cycle = s.cycle := hreadSig.cycle.trans hreadHead.cycle
      have bad : (!good b e) = true := by rw [hgood]; rfl
      have readsHead (go : QWord → State → Run) : fetchVirt c 3 w.va 256 0 go 80000 { w with idx := 1, due := s.cycle + 2500 }
          (setStandby rg .loading {} s) = go { w with idx := 1, due := s.cycle + 2500, buf := b } u := by
        refine (fetchVirt_rest (w := { w with idx := 1, due := s.cycle + 2500 }) (f := 79998) hbit (by simp only [hbuf]; rfl) (by decide)
          (by simp only [hbuf]; exact BitVec.add_zero w.va) hhead hreadHead).trans ?_
        simp only [hbuf, List.nil_append]
      have readsSig (go : QWord → State → Run) : fetchVirt c 3 (w.va + 622144) 1792 0 go 80000
          { w with idx := 1, due := s.cycle + 2500, buf := b } u = go { w with idx := 1, due := s.cycle + 2500, buf := b ++ e } v := by
        have hva : w.va + 622144 + word b.length = w.va + 622400 := by rw [hreadHead.length, BitVec.add_assoc]; rfl
        have hplace : (w.va + 622400).toNat % 65536 = (w.va.toNat + 622400) % 65536 := by
          rw [BitVec.toNat_add, Nat.mod_mod_of_dvd _ (by decide)]
          simp
        exact fetchVirt_rest (w := { w with idx := 1, due := s.cycle + 2500, buf := b }) (f := 79998) hbit (by simp [hreadHead.length]) (by decide)
          hva (by rw [hplace]; exact hsig) hreadSig
      refine load.begins_alone hm ((if_neg (by simpa [hidx] using ⟨hstandby, hlive⟩)).trans ?_)
      simp only [hidx, if_true]
      rw [readsHead, readsSig]
      simp only [List.take_left' hreadHead.length, List.drop_left' hreadHead.length, List.take_of_length_le hreadSig.length.le]
      exact congrArg (emptyOnTrap _) ((if_pos bad).trans (if_pos (by omega)))
    case fields =>
      intro hph hidx hdue hlen hgood
      have bad : (!good (w.buf.take 256) ((w.buf.drop 256).take 1536)) = true := by rw [hgood]; rfl
      refine load.runs_on hph ((if_neg (by simp [hidx])).trans ?_) (.of_cores rfl)
      simp only [hidx, Nat.one_ne_zero, if_false]
      rw [fetchVirt_full (by omega), fetchVirt_full hlen]
      exact congrArg (emptyOnTrap _) ((if_pos bad).trans (if_neg (Nat.not_lt.2 hdue)))
    case whole =>
      intro hph hidx hdue hlen hgood
      have fine : ¬ (!good (w.buf.take 256) ((w.buf.drop 256).take 1536)) = true := by rw [hgood]; simp
      have body : (specOf (.rgload h d a g)).body c 3 w s
          = settleRg (rgOf c g) c w.seq g (emptyOnTrap (rgOf c g) (loadImage (rgOf c g) w s)) := by
        refine (load.body_started hph).trans (congrArg (settleRg _ c w.seq g) ((if_neg (by simp [hidx])).trans ?_))
        simp only [hidx, Nat.one_ne_zero, if_false]
        rw [fetchVirt_full (le_trans (by decide) hlen), fetchVirt_full (le_trans (by decide) hlen)]
        refine congrArg (emptyOnTrap _) ((if_neg fine).trans ?_)
        rw [fetchVirt_full hlen]
        exact if_neg (Nat.not_lt.2 hdue)
      refine ⟨fun ha hb => ?authentic, fun ha hb => ?forged⟩
      case authentic =>
        refine hb.ends_of_seqs (by simp [load.engine]) (body.trans ?_) (.of_cores rfl)
        rw [loadImage_of_authentic ha]
        rfl
      case forged =>
        have stops : (specOf (.rgload h d a g)).body c 3 w s = .trap { runTrap 0x13 with x0 := zext g } { w with idx := 0, due := 0, buf := [] }
            (leaveLine (rgOf c g) c w.seq (setStandby (rgOf c g) .empty {} (setStandby (rgOf c g) .empty {} s))) := by
          rw [body, loadImage_of_forged ha]
          rfl
        have taken := hb.traps (by simp [load.engine]) stops (by simp [runTrap]) (by simp [runTrap]) rfl rfl
        exact taken

end Sys2Proof.Machine
end

section
/-! PROOFS. Package time, permits, heat, attestation and the resets (22 R416, R417; 26 R443 to R452; 18 R350): the statement
`PackageEventsAct`. -/

namespace Sys2Proof.Machine

/-! ### Package time (22 R417) -/

/-- Before lock an interval steps the count; after it, it does not. -/
theorem servo_fields (o : BitVec 32) (step : BitVec 96) (rate : BitVec 32) (t : TimeState) :
    (servo o step rate t).count = (if t.lock then t.count else t.count + step) ∧
    (servo o step rate t).rate = (if rateOk rate then rate else t.rate) ∧ (servo o step rate t).offset = o ∧
    (t.lock = false → (servo o step rate t).lock = (offsetGood o && decide (16 ≤ t.good + 1))) := by
  unfold servo
  cases hlock : t.lock with
  | true => exact ⟨rfl, rfl, rfl, nofun⟩
  | false =>
    refine ⟨rfl, rfl, rfl, fun _ => ?_⟩
    cases offsetGood o <;> simp

/-- An interval comes once the clock is enabled and a whole one has passed since the last. -/
theorem syncIntervalEv_due {s : State} (o : BitVec 32) (step : BitVec 96) (rate : BitVec 32) (hen : s.time.en = true)
    (hdue : ∀ t, s.time.sync = some t → t + 112500000 ≤ s.cycle) :
    syncIntervalEv o step rate s = { s with time := { servo o step rate s.time with sync := some s.cycle } } := by
  refine if_pos ?_
  rw [hen, Bool.true_and]
  split
  · next t ht => exact decide_eq_true (hdue t ht)
  · rfl

theorem syncIntervalEv_early {s : State} {t : Nat} (o : BitVec 32) (step : BitVec 96) (rate : BitVec 32) (ht : s.time.sync = some t)
    (hearly : s.cycle < t + 112500000) : syncIntervalEv o step rate s = s := by
  refine if_neg ?_
  rw [ht]
  simp [syncInterval, Nat.not_le.2 hearly]

/-! ### Heat (26 R449) -/

/-- Setting the caps of some clusters to 0 leaves what their permits hold. -/
theorem tget_foldl_cap (l : List Nat) (t : Table Gov) (c : Nat) :
    (tget {} (l.foldl (fun t c => tmod {} t c (fun g => { g with cap := 0 })) t) c).held = (tget {} t c).held ∧
    (c ∈ l ∨ (tget {} t c).cap = 0 → (tget {} (l.foldl (fun t c => tmod {} t c (fun g => { g with cap := 0 })) t) c).cap = 0) := by
  induction l generalizing t with
  | nil => exact ⟨rfl, by simp⟩
  | cons a l ih =>
    obtain ⟨hheld, hcap⟩ := ih (tmod {} t a (fun g => { g with cap := 0 }))
    refine ⟨hheld.trans ?_, fun h => hcap ?_⟩
    · rw [tget_tmod]
      split
      · next h => rw [h]
      · rfl
    · by_cases hca : c = a
      · exact .inr (by rw [tget_tmod, if_pos hca])
      · rw [tget_tmod, if_neg hca]
        simpa [hca] using h

/-- A hold puts the caps of the die's twelve clusters at 0. -/
theorem gov_thermalHoldEv (die : Nat) (s : State) : ((thermalHoldEv die s).die die).gov
    = (List.range 12).foldl (fun t c => tmod {} t c (fun g => { g with cap := 0 })) (s.die die).gov := by
  unfold thermalHoldEv
  rw [die_modDie]

/-! ### The resets (26 R443, R444, R452) -/

section Boot

variable {b : Boot} {fused : BitVec 32} {m : List Byte}

/-- An accepted image has the layout, the root key of the fuses' digest and no older security version than they. -/
theorem bootOk_checks (h : bootOk m fused = true) : fused.toNat ≤ (bootSvn m).toNat ∧ bootLayout m = true ∧
    shake256 ((m.drop 64).take keyBytes) 64 = Config.rootDigest := by
  unfold bootOk at h
  split at h
  · cases h
  · simp only [Bool.and_eq_true, decide_eq_true_eq, beq_iff_eq] at h
    obtain ⟨⟨⟨⟨⟨hlayout, hroot⟩, -⟩, -⟩, -⟩, hsvn⟩ := h
    exact ⟨hsvn, hlayout, hroot⟩

/-- The image that runs is an accepted copy. -/
theorem bootOk_of_bootImage (h : bootImage b fused = some m) : bootOk b.image fused = true ∨ bootOk b.second fused = true := by
  unfold bootImage at h
  split at h
  · next hi => exact .inl hi
  · split at h
    · next hi => exact .inr hi
    · cases h

/-- A boot sequence that ends has an image, and every other die has verified its copy. -/
theorem bootHalt_zero (h : bootHalt b fused = 0) :
    (∃ m, bootImage b fused = some m) ∧ ∀ i < 7, bootOk (b.copies.getD i []) fused = true := by
  unfold bootHalt at h
  split at h
  · next hf =>
    rw [h] at hf
    simp at hf
  · split at h
    · cases h
    · next himg =>
      split at h
      · cases h
      · next hcopies =>
        simp only [Bool.or_eq_true, decide_eq_true_eq, Bool.not_eq_true', not_or, Bool.not_eq_false, List.all_eq_true,
          List.mem_range] at hcopies
        exact ⟨by simpa [Option.isNone_iff_eq_none, Option.ne_none_iff_exists'] using himg, hcopies.2⟩

/-- A package reset leaves the reset state but for the dies of a boot that halts, the links, and what the package keeps. -/
theorem packageResetEv_fields (s : State) :
    let fused := if b.rollback.toNat < s.pkg.rollback.toNat then s.pkg.rollback else b.rollback
    let t := packageResetEv b s
    t.pkg.bootCode = bootHalt b fused ∧ t.pkg.rollback = fused ∧ t.cores = [] ∧ t.mem = [] ∧ t.pkg.devId = 0 ∧ t.time = {} := by
  intro fused t
  unfold t packageResetEv
  dsimp only
  split
  · next hcode _ => exact ⟨hcode.symm, rfl, rfl, rfl, rfl, rfl⟩
  · exact ⟨rfl, rfl, rfl, rfl, rfl, rfl⟩

/-- Where its boot sequence ends, the image's keys, version and digest stand, and the links are trained. -/
theorem packageResetEv_booted {s : State} (hf : fused = if b.rollback.toNat < s.pkg.rollback.toNat then s.pkg.rollback else b.rollback)
    (hcode : bootHalt b fused = 0) (himg : bootImage b fused = some m) :
    (packageResetEv b s).pkg = { keys := bootKeys m, svn := bootSvn m, rollback := fused, digest := bootDigest m } ∧
    (packageResetEv b s).links = (List.range 32).map (fun l => (l, { f := trainedDelay b.linkDelay })) := by
  unfold packageResetEv
  rw [← hf]
  dsimp only
  rw [hcode, himg]
  exact ⟨rfl, rfl⟩

end Boot

section Reset

variable {s : State} {die : Nat}

/-- With no node in a die's cores there is no context to keep. -/
theorem keepContexts_of_idle (h : ∀ c ∈ dieCores die, (s.core c).node = none) : keepContexts die s = s :=
  foldl_id _ _ _ fun c hc => by rw [h c hc]

/-- With none of its slots installed no domain breaks. -/
theorem breakDomains_of_free (told : List Nat) (h : ∀ n < 64, (s.slot die n).installed = false) : breakDomains die told s = s :=
  foldl_id _ _ _ fun n hn => by simp [h n (List.mem_range.1 hn)]

/-- With no packet accepted there is none to recover. -/
theorem recoverPackets_of_none (touched : Packet → Bool) (h : (s.die die).packets = []) : recoverPackets die s touched = s := by
  unfold recoverPackets
  rw [h, List.foldl_nil]

/-- A reset of a die on which nothing runs counts. -/
theorem dieResetEv_of_idle (hcores : ∀ c ∈ dieCores die, (s.core c).node = none) (hslots : ∀ n < 64, (s.slot die n).installed = false)
    (hnodes : allNodes s = []) (hpackets : (s.die die).packets = []) :
    dieResetEv die s = s.modDie die (fun x => { x with resets := x.resets + 1 }) := by
  have htold : (dieCores die).filter (fun c => (s.core c).node.isSome && !(s.core c).preempt && (s.core c).ending.isNone) = [] :=
    List.filter_eq_nil_iff.2 fun c hc => by simp [hcores c hc]
  unfold dieResetEv
  simp only [keepContexts_of_idle hcores, htold, List.foldl_nil, breakDomains_of_free _ hslots, hnodes, List.filter_nil, List.map_nil,
    recoverPackets_of_none _ hpackets]
  unfold startPackets
  rw [die_modDie, hpackets, List.foldl_nil]

/-- The restored, or the lost, stack of a die with no packet: its misses go on. -/
theorem recoverPackets_stack (p : StackState) (h : (s.die die).packets = []) :
    recoverPackets die (s.modDie die (fun x => { x with stack := p })) = s.modDie die (fun x => { x with stack := p }) :=
  recoverPackets_of_none _ (by rw [die_modDie]; exact h)

end Reset

/-- Settles O36: each event is one branch of its meaning; a package reset's boot code and fused counter are those that the reset computes. -/
theorem packageEventsAct : Obligations.PackageEventsAct := by
  unfold Obligations.PackageEventsAct
  refine ⟨fun die cl s hboot => ⟨fun link o hen => ?message, fun o step rate hen hdue hlock => ?interval, fun o step rate t ht hearly => ?early,
    fun o step rate hen hdue hlock => ?locked, ?loss, ?read, fun cap hcycle hcap => ?cap, ?hold, ?shutdown, fun nonce hgo => ?request,
    fun hgo => ?report⟩, ?_⟩
  case message =>
    refine congrArg Host.Outcome.next ((booted_of_booted _ hboot).trans (if_pos ?_))
    simp [hen]
  case interval =>
    obtain ⟨hcount, hrate, hoffset, hlocks⟩ := servo_fields o step rate s.time
    exact ⟨_, congrArg Host.Outcome.next (syncIntervalEv_due o step rate hen hdue), by rw [hcount, hlock]; rfl, hrate, hoffset, rfl,
      hlocks hlock, rfl, rfl⟩
  case early => exact congrArg Host.Outcome.next (syncIntervalEv_early o step rate ht hearly)
  case locked =>
    obtain ⟨hcount, hrate, -, -⟩ := servo_fields o step rate s.time
    exact ⟨_, congrArg Host.Outcome.next (syncIntervalEv_due o step rate hen hdue), by rw [hcount, hlock]; rfl, hrate, rfl, rfl⟩
  case loss => exact ⟨parentLossEv s, rfl, rfl, rfl, rfl, rfl⟩
  case read => exact ⟨hostTimeEv s, congrArg Host.Outcome.next (booted_of_booted _ hboot), rfl, rfl, rfl, rfl⟩
  case cap =>
    exact congrArg Host.Outcome.next (if_pos (Bool.and_eq_true _ _ ▸ ⟨decide_eq_true hcycle, decide_eq_true hcap⟩))
  case hold =>
    refine ⟨thermalHoldEv die s, rfl, rfl, rfl, fun c hc => ?_⟩
    obtain ⟨hheld, hcap⟩ := tget_foldl_cap (List.range 12) (s.die die).gov c
    rw [gov_thermalHoldEv]
    exact ⟨hcap (.inl (List.mem_range.2 hc)), hheld⟩
  case shutdown => exact ⟨shutdownEv s, rfl, rfl, rfl, rfl, rfl⟩
  case request => exact congrArg Host.Outcome.next ((booted_of_booted _ hboot).trans (if_neg (by simp [hgo])))
  case report => exact congrArg Host.Outcome.next (if_pos hgo)
  intro die b s fused code
  refine ⟨?reset, fun m hm => bootOk_checks hm, fun hcode => ?ended, fun hcores hslots hnodes hpackets => ?idle, fun hok => ?start,
    fun hresetting hpackets => ⟨?restored, ?lost⟩⟩
  case reset =>
    obtain ⟨hcode, hfused, hcores, hmem, hid, htime⟩ := packageResetEv_fields (b := b) s
    refine ⟨packageResetEv b s, rfl, hcode, hfused, ?_, hcores, hmem, hid, htime, fun m hzero himg => ?_⟩
    · rw [hfused]
      split
      · exact le_rfl
      · next h => exact Nat.not_lt.1 h
    · obtain ⟨hpkg, hlinks⟩ := packageResetEv_booted rfl hzero himg
      rw [hpkg, hlinks]
      exact ⟨rfl, rfl, rfl, rfl⟩
  case ended =>
    obtain ⟨⟨m, himg⟩, hcopies⟩ := bootHalt_zero hcode
    exact ⟨bootOk_of_bootImage himg, hcopies⟩
  case idle => exact congrArg Host.Outcome.next (dieResetEv_of_idle hcores hslots hnodes hpackets)
  case start =>
    refine congrArg Host.Outcome.next ?_
    unfold stackResetEv
    rw [hok]
  case restored =>
    refine congrArg Host.Outcome.next ?_
    unfold stackResetEv
    rw [hresetting]
    exact recoverPackets_stack .ok hpackets
  case lost =>
    refine congrArg Host.Outcome.next ?_
    unfold stackResetEv
    rw [hresetting]
    exact recoverPackets_stack .lost hpackets

end Sys2Proof.Machine
end

section
/-! PROOFS. The control window's registers and the host (18 R346, R352; 22 R404 to R408; 26 R443): the statement `HostEventsAct`. -/

namespace Sys2Proof.Machine

/-! ### The control window's registers (22 R405) -/

section Registers

variable {s : State} {d n off : Nat} {x : Word}

/-- An invalidation drops every core's and every slice's translations that its range meets. -/
theorem invalidateEv_drops (h : (s.die d).crown.tibRun = false) :
    (invalidateEv d s).mem = s.mem ∧ ((invalidateEv d s).die d).crown.tibGo = true ∧
    (∀ c, ((invalidateEv d s).core c).tlb = (s.core c).tlb.filter (fun e => !e.meets (s.die d).crown)) ∧
    ∀ e k, ((invalidateEv d s).slice e k).walks = (s.slice e k).walks.filter (fun e => !e.meets (s.die d).crown) := by
  have hrun : ¬ (s.die d).crown.tibRun = true := by simp [h]
  unfold invalidateEv
  dsimp only
  rw [if_neg hrun]
  refine ⟨rfl, ?_, fun c => ?_, fun e k => ?_⟩
  · dsimp only [State.die, State.modDie, tmod]
    rw [tget_tput_self]
  · exact congrArg Core.tlb (tget_map ({} : Core) (fun y => { y with tlb := y.tlb.filter (fun e => !e.meets (s.die d).crown) }) s.cores c)
  · exact congrArg Slice.walks
      (tget_map ({} : Slice) (fun y => { y with walks := y.walks.filter (fun e => !e.meets (s.die d).crown) }) s.slices _)

theorem invalidateDoneEv_of_unused (h : (s.die d).crown.tibRun = true) (hno : ∀ c ∈ s.cores, usesOld s (s.die d).crown c.1 c.2 = false) :
    invalidateDoneEv d s = s.modDie d (fun y => { y with crown := { y.crown with tibGo := false, tibRun := false } }) := by
  refine if_neg ?_
  simpa [h] using fun c y hc => hno (c, y) hc

/-- A free carve-out takes the size that is written, and the memory that it gains or loses reads zero. -/
theorem carveSet_of_free (hx : wbits x 3 0 ≤ 7) (hfree : carveFree s d n = true) :
    ((carveSet d n x s).slice d n).carve.toNat = wbits x 3 0 ∧ ((carveSet d n x s).slice d n).carveErr = false ∧
    (carveSet d n x s).cores = s.cores ∧ (carveSet d n x s).mem = (zeroRange (carveBase d n + Nat.min (s.slice d n).carve.toNat (wbits x 3 0) * 2 ^ 20)
      (carveBase d n + Nat.max (s.slice d n).carve.toNat (wbits x 3 0) * 2 ^ 20) s).mem := by
  have htaken : ¬ (decide (wbits x 3 0 > 7) || !carveFree s d n) = true := by simp [hfree, hx]
  have hsize : (BitVec.ofNat 3 (wbits x 3 0)).toNat = wbits x 3 0 := by
    rw [BitVec.toNat_ofNat]
    exact Nat.mod_eq_of_lt (by omega)
  unfold carveSet
  dsimp only
  rw [if_neg htaken]
  split
  · refine ⟨?_, ?_, rfl, rfl⟩
    · dsimp only [State.slice, State.modSlice, State.takeFree, tmod]
      rw [tget_tput_self]
      exact hsize
    · dsimp only [State.slice, State.modSlice, State.takeFree, tmod]
      rw [tget_tput_self]
  · refine ⟨?_, ?_, rfl, rfl⟩
    · dsimp only [State.slice, State.modSlice, State.takeFree, tmod]
      rw [tget_tput_self]
      exact hsize
    · dsimp only [State.slice, State.modSlice, State.takeFree, tmod]
      rw [tget_tput_self]

/-- A size that is too large, or one while a domain uses the slice, is refused. -/
theorem carveSet_of_refused (h : 7 < wbits x 3 0 ∨ carveFree s d n = false) :
    carveSet d n x s = s.modSlice d n (fun y => { y with carveErr := true }) := by
  refine if_pos (Bool.or_eq_true_iff.2 (h.imp decide_eq_true fun hno => ?_))
  rw [hno]
  rfl

theorem hostRegister_of_ne (h : off ≠ 0x3080) : hostRegister d off x s = crownWrite d off x true s := if_neg h

/-- An entry of the tree table (22 R414). -/
theorem crownWrite_tree (hn : n < 64) (pf : Bool) :
    crownWrite d (0x1000 + 8 * n) x pf s = { s with pkg := { s.pkg with tree := tput s.pkg.tree n x } } := by
  have hindex : (0x1000 + 8 * n - 0x1000) / 8 = n := by omega
  unfold crownWrite
  rw [if_neg (by omega), if_neg (by omega), if_neg (by omega), if_neg (by omega), if_pos (by omega), hindex]

/-- An entry of the peer table (22 R412). -/
theorem crownWrite_peer (hn : n < 192) (pf : Bool) :
    crownWrite d (0x2000 + 8 * n) x pf s = { s with pkg := { s.pkg with peer := tput s.pkg.peer n x } } := by
  have hindex : (0x2000 + 8 * n - 0x2000) / 8 = n := by omega
  unfold crownWrite
  rw [if_neg (by omega), if_neg (by omega), if_neg (by omega), if_neg (by omega), if_neg (by omega), if_pos (by omega), hindex]

end Registers

/-! ### The host (22 R404 to R408) -/

section Host

variable {s : State} {addr n : Nat}

/-- The physical function reaches every byte of the window. -/
theorem hostPa_of_inside (h : addr + n ≤ 2 ^ 39) (write : Bool) : hostPa s 0 addr n write = some addr := if_pos h

theorem hostWriteEv_of_ready {data : List Byte} (port : Nat) (hin : addr + data.length ≤ 2 ^ 39) (hready : rangeReady s addr data.length = true)
    (hlost : rangeLost s addr data.length = false) : hostWriteEv port 0 addr data false s = writeBytes s addr data := by
  unfold hostWriteEv
  rw [if_neg nofun, hostPa_of_inside hin]
  exact if_pos (by simp [hready, hlost])

theorem hostReadEv_of_ready (port : Nat) (hin : addr + n ≤ 2 ^ 39) (hready : rangeReady s addr n = true) :
    hostReadEv port 0 addr n s = (readBytes s addr n).2.1.answered
      (if (readBytes s addr n).1.isSome then memReadN s.mem addr n else (readBytes s addr n).2.2) (readBytes s addr n).1.isSome := by
  unfold hostReadEv
  rw [hostPa_of_inside hin]
  exact if_neg (by simp [hready])

theorem hostAtomicEv_of_served {size : Nat} {op : HostOp} {x cmp v : Word} {u : State} (port : Nat) (hsize : size = 4 ∨ size = 8)
    (haligned : addr % size = 0) (hin : addr + size ≤ 2 ^ 39)
    (hserved : serveAmo s (hostOpCode op) addr size x (word (cmp.toNat % 2 ^ (8 * size))) = .ok u v) :
    hostAtomicEv port 0 addr size op x cmp s = u.answered (leBytes size v.toNat) false := by
  unfold hostAtomicEv
  rw [if_neg (by simpa [haligned] using fun h => hsize.resolve_left h), hostPa_of_inside hin]
  dsimp only
  rw [hserved]

/-! ### Answers to the package's own requests (22 R407) -/

section Answer

variable {id : Nat} {r : HostReq} {q : Req} {data : List Byte}

/-- A read of some bytes covers no write. -/
theorem coverWrites_of_sized (h : 0 < r.size) (s : State) : coverWrites r s = s := if_pos (by simp [h.ne'])

/-- The answer to a word that is not one of Y's and does not store finishes it. -/
theorem answerWord_ok (hk : q.kind ≠ .store) (hy : (((s.core q.core).strand q.strand).queue .y).any (fun w => w.seq = q.seq) = false)
    (ended : Bool) : answerWord q true ended data s
      = finishWord q.core q.strand q.seq (word (leNat (data.take q.size))) (s.dropReq q.id) := by
  unfold answerWord
  dsimp only
  rw [if_neg (by rw [show (s.dropReq q.id).core = s.core from rfl, hy]; simp), if_pos (by simp), if_neg hk]

/-- The answer that does not come stops it with 0x08. -/
theorem answerWord_timeout (hk : q.kind ≠ .store) (hy : (((s.core q.core).strand q.strand).queue .y).any (fun w => w.seq = q.seq) = false) :
    answerWord q false false data s
      = failWord q.core q.strand q.seq (reqTrap q.kind 0x08 (reqAddr (s.dropReq q.id) q)) (s.dropReq q.id) := by
  unfold answerWord
  dsimp only
  rw [if_neg (by rw [show (s.dropReq q.id).core = s.core from rfl, hy]; simp), if_neg (by simpa using hk)]
  split
  · next h => cases h
  · rfl

theorem answerReq_of_found (h : s.findReq id = some q) (ok ended : Bool) : answerReq id ok ended data s = answerWord q ok ended data s := by
  unfold answerReq
  rw [h]

theorem completionEv_of_found (hr : s.pkg.hostReqs.find? (fun r => r.id = id && !r.write) = some r) (hsize : 0 < r.size)
    (hlen : data.length = r.size) (hq : s.findReq id = some q) :
    completionEv id true data s = answerWord q true true data (dropHost id s) := by
  unfold completionEv
  rw [hr]
  dsimp only
  rw [if_neg (by simp [hlen]), coverWrites_of_sized hsize, answerReq_of_found (s := dropHost id s) hq]

theorem completionTimeoutEv_of_found (hr : s.pkg.hostReqs.find? (fun r => r.id = id && !r.write) = some r) (hsize : 0 < r.size)
    (hdue : r.at_ + 90000000 ≤ s.cycle) (hq : s.findReq id = some q) :
    completionTimeoutEv id s = answerWord q false false [] (dropHost id s) := by
  unfold completionTimeoutEv
  rw [hr]
  dsimp only
  rw [if_neg (show ¬ s.cycle < r.at_ + hostTimeout from Nat.not_lt.2 hdue), coverWrites_of_sized hsize, answerReq_of_found (s := dropHost id s) hq]

end Answer

end Host

/-- Settles O34: a register's write and a host's access are one branch of their events; an answer's request is found and taken off its list. -/
theorem hostEventsAct : Obligations.HostEventsAct := by
  unfold Obligations.HostEventsAct
  refine ⟨fun die n off x s hboot => ?registers, fun port addr data s hboot => ?host⟩
  case registers =>
    intro r
    have boots (f : State → State) : Host.Outcome.next (booted f s) = (.next (f s) : Host.Outcome State Fault Refusal) :=
      congrArg Host.Outcome.next (booted_of_booted f hboot)
    refine ⟨fun hrun => ?invalidate, fun hrun hno => congrArg Host.Outcome.next (invalidateDoneEv_of_unused hrun hno), fun hx hfree => ?carve,
      fun hno => (boots _).trans (congrArg Host.Outcome.next (carveSet_of_refused hno)), fun hopen => (boots _).trans ?unlocked,
      fun hlocked => (boots _).trans ?locked, fun hoff => (boots _).trans (congrArg Host.Outcome.next (hostRegister_of_ne hoff)),
      fun hn => (boots _).trans ?tree, fun hn => (boots _).trans ?peer⟩
    case invalidate =>
      obtain ⟨hmem, hgo, htlb, hwalks⟩ := invalidateEv_drops hrun
      exact ⟨_, boots _, hmem, hgo, htlb, hwalks⟩
    case carve =>
      obtain ⟨hcarve, herr, hcores, hmem⟩ := carveSet_of_free hx hfree
      exact ⟨_, boots _, hcarve, herr, hcores, fun a => by rw [hmem]; exact memRead_zeroRange _ _ s a⟩
    case unlocked => exact congrArg Host.Outcome.next (if_neg (by simp [hopen]))
    case locked => exact congrArg Host.Outcome.next (if_pos hlocked)
    case tree => exact congrArg Host.Outcome.next ((hostRegister_of_ne (by omega)).trans (crownWrite_tree hn true))
    case peer => exact congrArg Host.Outcome.next ((hostRegister_of_ne (by omega)).trans (crownWrite_peer hn true))
  case host =>
    have boots (f : State → State) : Host.Outcome.next (booted f s) = (.next (f s) : Host.Outcome State Fault Refusal) :=
      congrArg Host.Outcome.next (booted_of_booted f hboot)
    refine ⟨fun hin hready hlost => (boots _).trans (congrArg Host.Outcome.next (hostWriteEv_of_ready port hin hready hlost)),
      fun fn => ⟨_, boots _, rfl, rfl, tget_tput_self _ _ _ _⟩,
      fun n hin hready => (boots _).trans (congrArg Host.Outcome.next (hostReadEv_of_ready port hin hready)),
      fun size op x cmp u v hsize haligned hin hserved =>
        (boots _).trans (congrArg Host.Outcome.next (hostAtomicEv_of_served port hsize haligned hin hserved)),
      fun fn vec => ⟨_, boots _, ?opened, ?sent, rfl, rfl⟩,
      fun id r q hr hsize hlen hq hk hy => congrArg Host.Outcome.next ?_, fun id r q hr hsize hdue hq hk hy => congrArg Host.Outcome.next ?_⟩
    case opened =>
      show _ ∈ (if _ then _ else _)
      split
      · next h => exact List.contains_iff_mem.1 h
      · exact List.mem_append_right _ (List.mem_singleton_self _)
    case sent =>
      intro h
      simpa using (List.mem_filter.1 h).2
    · exact (completionEv_of_found hr hsize hlen hq).trans (answerWord_ok (s := dropHost id s) hk hy true)
    · exact (completionTimeoutEv_of_found hr hsize hdue hq).trans (answerWord_timeout (s := dropHost id s) hk hy)

end Sys2Proof.Machine
end

section
/-! PROOFS. Work queues and the load block (16 R297 to R311; 23 R427, R428): the statement `PacketEventsAct`. -/

namespace Sys2Proof.Machine

/-! ### Work queues (16 R297, R300, R301) -/

theorem queueTableSet_fields (d e : Nat) (x : Word) (s : State) : (queueTableSet d e x s).mem = s.mem ∧
    ((queueTableSet d e x s).die d).qtab = tput (s.die d).qtab e (x &&& 0xFFFFFFFFFFFFFFC3#64) ∧
    (queueTableSet d e x s).pkg.devLock = (s.pkg.devLock || x.getLsbD 0) := by
  unfold queueTableSet
  dsimp only
  have htab := congrArg Die.qtab (die_modDie s d (fun y => { y with qtab := tput y.qtab e (x &&& 0xFFFFFFFFFFFFFFC3#64) }))
  split
  · next h => exact ⟨rfl, htab, by rw [h, Bool.or_true]⟩
  · next h => exact ⟨rfl, htab, by rw [Bool.eq_false_iff.2 h, Bool.or_false]; rfl⟩

theorem booted_of_halted {s : State} (f : State → State) (h : s.pkg.bootCode ≠ 0) : booted f s = s := if_neg h

/-- The eight bytes of a number give back its low 64 bits. -/
theorem word_leNat_leBytes_nat (n : Nat) : word (leNat (leBytes 8 n)) = word n := by
  rw [leNat_leBytes]
  exact BitVec.eq_of_toNat_eq (by simp [word])

section Accept

variable {d e : Nat} {s u v : State} {tab : Word} {pa : Nat} {q : QueueDesc} {b : List Byte}

/-- A claimed slot, with room for its packet's record, is the next. -/
theorem nextSlot_of_claimed (hclaimed : q.stamp < q.wi) (hroom : (q.stamp + 2 ^ 64 - q.cri) % 2 ^ 64 < q.size) :
    nextSlot q = some (q.ring + 64 * (q.stamp % q.size)) := by
  refine if_neg ?_
  rw [Bool.or_eq_true, decide_eq_true_eq, decide_eq_true_eq, not_or]
  exact ⟨Nat.not_le.2 hclaimed, Nat.not_le.2 hroom⟩

/-- It is the turn of an entry below which none can accept. -/
theorem scanTurn_of_first (h : ∀ k < e, canAccept s d k = false) : scanTurn s d e = true := by
  have hnone : (List.range e).any (canAccept s d) = false := List.any_eq_false.2 fun k hk => by simp [h k (List.mem_range.1 hk)]
  unfold scanTurn
  simp only [hnone, Bool.not_false, Bool.true_or]

/-- What follows once an accepted slot's valid bit is cleared: the queue moves on by one, and the packet joins its die's. -/
def acceptSlot (d e : Nat) (tab : Word) (q : QueueDesc) (b : List Byte) (v : State) : State :=
  let t := writeBytes v (descAddr tab + 16) (leBytes 8 (q.stamp + 1))
  let p : Packet := {
    id := (t.die d).packetNext, tab := tab, entry := e, n := word q.stamp, header := word (leNat (unpublished b)), body := b.drop 8
    accepted := t.cycle, issuer := BitVec.ofNat 16 (leNat ((b.drop 46).take 2)), ctx := q.ctx }
  startPackets d (t.modDie d (fun x => { x with
    packets := x.packets ++ [p], packetNext := x.packetNext + 1, acceptNext := t.cycle + 1, scanAt := (e + 1) % 64 }))

/-- The accepted packet's header is the slot's, its valid bit 0. -/
theorem header_unpublished (b : List Byte) : word (leNat (unpublished b)) = word (wbits (word (leNat (b.take 8))) 62 0) :=
  word_leNat_leBytes_nat _

/-- The crown looks at an active entry past the cycle of the last acceptance, whose descriptor can be read. -/
theorem accept_open (hon : tab.getLsbD 0 = true) (hturn : (u.die d).acceptNext ≤ u.cycle) (hready : rangeReady u pa 64 = true) :
    ¬ (!tab.getLsbD 0 || decide (u.cycle < (u.die d).acceptNext) || !rangeReady u pa 64) = true := by
  rw [hon, hready]
  simp [Nat.not_lt.2 hturn]

/-- The acceptance itself: the published packet of an entry whose turn it is loses its valid bit, and its queue moves on. -/
theorem acceptEv_of_published (htab : tget 0 (s.die d).qtab e = tab) (hu : startPackets d s = u) (hon : tab.getLsbD 0 = true)
    (hturn : (u.die d).acceptNext ≤ u.cycle) (hready : rangeReady u (descAddr tab) 64 = true) (hdesc : descOk u (descAddr tab) = true)
    (hq : readDesc u (descAddr tab) = q) (hslot : nextSlot q = some pa) (hread : objRead u (q.reads d e) pa 64 = .ok b)
    (hpub : published q b = true) (hscan : scanTurn u d e = true)
    (hwrite : virtWrite (dropAsks (q.reads d e).own u) q.access pa (unpublished b) = .ok v) :
    acceptEv d e s = acceptSlot d e tab q b v := by
  unfold acceptEv
  simp only [htab, hu]
  rw [if_neg (accept_open hon hturn hready), if_neg (by rw [hdesc]; simp), hq, hslot]
  dsimp only
  rw [hread]
  dsimp only
  rw [if_neg (by rw [hpub]; simp), if_neg (by rw [hscan]; simp), hwrite]
  rfl

/-- An invalid descriptor makes its entry inactive (16 R297). -/
theorem acceptEv_of_invalid (htab : tget 0 (s.die d).qtab e = tab) (hu : startPackets d s = u) (hon : tab.getLsbD 0 = true)
    (hturn : (u.die d).acceptNext ≤ u.cycle) (hready : rangeReady u (descAddr tab) 64 = true) (hdesc : descOk u (descAddr tab) = false) :
    acceptEv d e s = u.modDie d (fun x => { x with qtab := tput x.qtab e (tab &&& ~~~1#64), qcode := tput x.qcode e 0x02 }) := by
  unfold acceptEv
  simp only [htab, hu]
  rw [if_neg (accept_open hon hturn hready), if_pos (by rw [hdesc]; rfl)]

end Accept

/-! ### The central copy engine and completion records (16 R301, R304) -/

section Copy

variable {d k e : Nat} {p r : Packet} {s v : State} {c : BitVec 8}

theorem copyRowEv_of_moved (hp : (runningCopies (s.die d))[k]? = some p) (h : p.rows ≤ p.row) :
    copyRowEv d k s = startPackets d (endCopy d p 0 false s) := by
  unfold copyRowEv
  rw [hp]
  exact if_pos h

/-- A row that is not the last has moved. -/
theorem copyRowEv_of_row (hp : (runningCopies (s.die d))[k]? = some p) (hrow : p.row + 1 < p.rows) (hm : moveRow d p s = .ok v) :
    copyRowEv d k s = v := by
  unfold copyRowEv
  rw [hp]
  dsimp only
  rw [if_neg (by omega), hm]
  exact if_pos hrow

/-- The last row ends the packet. -/
theorem copyRowEv_of_last (hp : (runningCopies (s.die d))[k]? = some p) (hrow : p.row + 1 = p.rows) (hm : moveRow d p s = .ok v)
    (hr : (v.die d).packets.find? (fun r => r.id = p.id) = some r) : copyRowEv d k s = startPackets d (endCopy d r 0 false v) := by
  unfold copyRowEv
  rw [hp]
  dsimp only
  rw [if_neg (by omega), hm]
  dsimp only
  rw [if_neg (by omega), hr]

theorem copyRowEv_of_failed (hp : (runningCopies (s.die d))[k]? = some p) (hrow : p.row < p.rows)
    (hm : moveRow d p s = .error (some c)) : copyRowEv d k s = startPackets d (endCopy d p c true s) := by
  unfold copyRowEv
  rw [hp]
  dsimp only
  rw [if_neg (Nat.not_le.2 hrow), hm]

/-- The record of the next packet, all of whose writes are acknowledged. -/
theorem recordEv_of_written (hp : nextRecord (s.die d) e = some p) (hown : ∀ o ∈ packetOwns d p, peersDone s o = true ∧ hostDone s o = true)
    (hwrite : virtWrite s { (readDesc s p.queue).access with ctx := p.ctx }
      ((readDesc s p.queue).comp + 16 * (p.n.toNat % (readDesc s p.queue).size)) (recordBytes p s.cycle) = .ok v) :
    recordEv d e s = wake d (startPackets d
      (if p.irq then sendMsix (packetVector (v.die d) d p) (dropPacket d p v) else dropPacket d p v)) := by
  have hpeers : (packetOwns d p).all (peersDone s) = true := List.all_eq_true.2 fun o ho => (hown o ho).1
  have hhost : (packetOwns d p).all (hostDone s) = true := List.all_eq_true.2 fun o ho => (hown o ho).2
  unfold recordEv
  rw [hp]
  dsimp only
  rw [if_neg (by simp [hpeers]), if_neg (by simp [hhost]), hwrite]

end Copy

/-! ### The load block (23 R427, R428) -/

section Load

variable {d reason : Nat} {note : Bool} {off : Nat} {s : State}

theorem endLoad_fields : (endLoad d reason note off s).mem = s.mem ∧
    ((endLoad d reason note off s).die d).crown.ldReason = BitVec.ofNat 8 reason ∧ ((endLoad d reason note off s).die d).crown.ldGo = false := by
  unfold endLoad
  rw [die_modDie]
  exact ⟨dropAsks_mem _ s, rfl, rfl⟩

section Go

variable {b : List Byte} {g v : State} (hg : s.modDie d (fun y => { y with crown := { y.crown with ldGo := true } }) = g)
  (hidle : (s.die d).crown.ldRun = false) (hread : objRead g (loaderOf d) ((s.die d).crown.ldObj.toNat + 56) 8 = .ok b)
include hg hidle

/-- Setting go leaves the rest of the load block. -/
theorem ldGo_fields : ¬ (g.die d).crown.ldRun = true ∧ (g.die d).crown.ldObj = (s.die d).crown.ldObj := by
  rw [← hg, die_modDie]
  exact ⟨by simp [hidle], rfl⟩

include hread

/-- A stamp that is not 0 ends the load with reason 11. -/
theorem loadGoEv_of_stamped (hne : leNat b ≠ 0) : loadGoEv d s = endLoad d 11 false 0 g := by
  obtain ⟨hrun, hobj⟩ := ldGo_fields hg hidle
  unfold loadGoEv
  rw [hg]
  dsimp only
  rw [if_neg hrun, hobj, hread]
  exact if_pos hne

/-- A stamp of 0 becomes 2, and the load runs. -/
theorem loadGoEv_of_fresh (hzero : leNat b = 0) (hstamp : putStamp d 2 g = .ok v) :
    loadGoEv d s = (dropAsks (loaderOf d).own v).modDie d (fun y => { y with crown := { y.crown with ldRun := true } }) := by
  obtain ⟨hrun, hobj⟩ := ldGo_fields hg hidle
  unfold loadGoEv
  rw [hg]
  dsimp only
  rw [if_neg hrun, hobj, hread]
  dsimp only
  rw [if_neg (not_not.2 hzero), hstamp]

end Go

section Complete

variable {a : Nat} {b b' : List Byte} {r o : Nat} {l : List Reloc} {v t : State} (ha : (s.die d).crown.ldObj.toNat = a)
  (hrun : (s.die d).crown.ldRun = true)
include ha hrun

/-- A check of the object's head that fails: no note has been read. -/
theorem loadCompleteEv_of_head_failed (hhead : loadHead s (loaderOf d) a = .error (some (r, o))) :
    loadCompleteEv d s = failLoad d r false o s := by
  unfold loadCompleteEv
  simp only [ha, hrun, hhead, Bool.not_true, Bool.false_eq_true, if_false]

variable (hhead : loadHead s (loaderOf d) a = .ok b) (hnotes : loadRead s (loaderOf d) a [(objHeader b).notes] b = .ok b')
include hhead hnotes

theorem loadCompleteEv_of_tail_failed (htail : loadTail s (loaderOf d) a b' = .error (some (r, o))) :
    loadCompleteEv d s = failLoad d r (objNote b') o s := by
  unfold loadCompleteEv
  simp only [ha, hrun, hhead, hnotes, htail, Bool.not_true, Bool.false_eq_true, if_false]

theorem loadCompleteEv_of_loaded (htail : loadTail s (loaderOf d) a b' = .ok l) (hrelocs : applyRelocs a l s = .ok v)
    (hstamp : putStamp d 1 v = .ok t) :
    loadCompleteEv d s = forgetText (objTag s (loaderOf d) a) (endLoad d 0 (objNote b') 0 t) := by
  unfold loadCompleteEv
  simp only [ha, hrun, hhead, hnotes, htail, hrelocs, hstamp, Bool.not_true, Bool.false_eq_true, if_false]

end Complete

end Load

/-! ### A launch of one waiting leaf (16 R311) -/

section Leaf

variable {l : Launch} {n : Node} {d : Nat} {s : State}

theorem dropAsks_of_none (own : List Nat) (h : s.asks = []) : dropAsks own s = s := if_neg (by simp [h])

/-- The one launch of its die, whose one node is a leaf that waits. -/
structure LoneLeaf (s : State) (d : Nat) (l : Launch) (n : Node) : Prop where
  launches : (s.die d).launches = [l]
  nodes : l.nodes = [n]
  abort : l.abort = none
  leaf : n.kind.leaf = true
  waiting : n.st = .waiting

variable (h : LoneLeaf s d l n)
include h

theorem LoneLeaf.find : (s.die d).launches.find? (fun x => x.stamp.toNat = l.stamp.toNat) = some l := by simp [h.launches]

theorem LoneLeaf.node : l.node 0 = n := by simp [Launch.node, h.nodes]

theorem LoneLeaf.not_done : l.isDone l.depth 0 = false := by
  unfold Launch.depth Launch.isDone
  have hleaf := h.leaf
  rw [h.node]
  dsimp only
  cases hk : n.kind <;> simp [hk, NodeKind.leaf, h.waiting] at hleaf ⊢

/-- It holds no region. -/
theorem LoneLeaf.finishWeave : finishWeave ⟨d, l.stamp.toNat, 0⟩ s = s := by
  unfold Sys2Proof.Machine.finishWeave launchOf
  rw [h.find]
  refine foldl_id _ _ _ fun i hi => ?_
  obtain rfl : i = 0 := by simpa [h.nodes] using hi
  dsimp only
  split
  · exact if_neg (by simp [h.node, h.waiting, NodeState.occupies])
  · rfl

/-- No controller completes. -/
theorem LoneLeaf.settle : settle d l.stamp.toNat s = s := by
  unfold Sys2Proof.Machine.settle
  rw [h.find]
  simp [h.abort, h.nodes, h.leaf]

/-- The launch goes on. -/
theorem LoneLeaf.finishLaunch : finishLaunch d l.stamp.toNat s = s := by
  unfold Sys2Proof.Machine.finishLaunch
  rw [h.find]
  simp [h.abort, h.not_done]

/-- If it may start and its operand word is met, it becomes ready. -/
theorem LoneLeaf.wake (hasks : s.asks = []) (hmay : l.leafMayStart 0 = true) (hmet : operandMet s l n = .ok true) :
    wake d s = s.modNode ⟨d, l.stamp.toNat, 0⟩ (fun n => { n with st := .ready, readyAt := s.cycle, ageFrom := s.cycle }) := by
  have hsettled : settleDie d s = s := by
    unfold settleDie
    rw [h.launches]
    simp only [List.map_cons, List.map_nil, List.foldl_cons, List.foldl_nil, h.finishWeave, h.settle, h.finishLaunch]
  unfold Sys2Proof.Machine.wake wakeLeaves
  rw [hsettled, h.launches]
  simp only [List.map_cons, List.map_nil, List.foldl_cons, List.foldl_nil, h.find]
  simp [h.nodes, h.find, h.abort, h.leaf, h.waiting, hmay, hmet, dropAsks_of_none _ hasks]

end Leaf

/-- Settles O31: each event is one path through its meaning, whose guards the clause's premises decide. -/
theorem packetEventsAct : Obligations.PacketEventsAct := by
  unfold Obligations.PacketEventsAct
  refine ⟨fun die e x s => ?queues, fun die s => ?loader⟩
  case queues =>
    intro tab pa u q slot own
    refine ⟨fun he hboot => ?entry, fun hhalt => congrArg Host.Outcome.next (booted_of_halted _ hhalt), fun b v hon hturn hready hdesc
      hclaimed hroom hread hfirst => ?accept, fun hon hturn hready hdesc => congrArg Host.Outcome.next
        (acceptEv_of_invalid rfl rfl hon hturn hready hdesc), fun k p hp => ?copy, fun p v hp hown => ?record⟩
    case entry =>
      obtain ⟨hmem, hqtab, hlock⟩ := queueTableSet_fields die e x s
      exact ⟨_, congrArg Host.Outcome.next ((booted_of_booted _ hboot).trans (if_pos he)), hmem, hqtab, hlock⟩
    case accept =>
      intro hd hvalid hnumber hwrite t
      have hpub : published q b = true := by
        unfold published
        dsimp only
        rw [hvalid, hnumber]
        simp
      refine congrArg Host.Outcome.next ((acceptEv_of_published rfl rfl hon hturn hready hdesc rfl (nextSlot_of_claimed hclaimed hroom) hread
        hpub (scanTurn_of_first hfirst) hwrite).trans ?_)
      unfold acceptSlot
      rw [header_unpublished]
    case copy =>
      exact ⟨fun hrow => congrArg Host.Outcome.next (copyRowEv_of_moved hp hrow), fun v hrow hm => congrArg Host.Outcome.next
        (copyRowEv_of_row hp hrow hm), fun v r hrow hm hfind => congrArg Host.Outcome.next (copyRowEv_of_last hp hrow hm hfind),
        fun c hrow hm => congrArg Host.Outcome.next (copyRowEv_of_failed hp hrow hm)⟩
    case record =>
      intro d hwrite g
      exact congrArg Host.Outcome.next (recordEv_of_written hp hown hwrite)
  case loader =>
    intro a q g
    refine ⟨fun b v hidle hread hzero hstamp => congrArg Host.Outcome.next (loadGoEv_of_fresh rfl hidle hread hzero hstamp), fun b hidle hread hne => ?refused,
      fun b b' l v t hrun hhead hnotes htail hrelocs hstamp =>
        congrArg Host.Outcome.next (loadCompleteEv_of_loaded rfl hrun hhead hnotes htail hrelocs hstamp),
      fun r o hrun hhead => congrArg Host.Outcome.next (loadCompleteEv_of_head_failed rfl hrun hhead),
      fun b b' r o hrun hhead hnotes htail => congrArg Host.Outcome.next (loadCompleteEv_of_tail_failed rfl hrun hhead hnotes htail),
      fun l n hlaunches hasks hnodes habort hleaf hwaiting hmay hmet => congrArg Host.Outcome.next
        (LoneLeaf.wake ⟨hlaunches, hnodes, habort, hleaf, hwaiting⟩ hasks hmay hmet)⟩
    case refused =>
      obtain ⟨hmem, hreason, hgo⟩ := endLoad_fields (d := die) (reason := 11) (note := false) (off := 0) (s := g)
      exact ⟨_, congrArg Host.Outcome.next (loadGoEv_of_stamped rfl hidle hread hne), hreason, hgo, hmem⟩

end Sys2Proof.Machine
end
